-- ==== Sys2Proof/Word.lean ====
section
/-!
DEFINITION. The words of the S9 and the sparse maps its state is written in.

Register words are 32 bits (R37), device addresses 48 bits (R27), a cache line 128 bytes (R203). A location of the
package is named by the index types below, whose bounds are Table 0.3's.
-/

namespace Sys2Proof

abbrev Word := BitVec 32
abbrev Byte := BitVec 8
/-- The 1,024 bits of one 128-byte line, byte 0 lowest (R6, R203). -/
abbrev LineData := BitVec 1024

abbrev Die := Fin 8
abbrev Quad := Fin 4
abbrev Chan := Fin 4
abbrev Slot := Fin 8
abbrev Stn := Fin 5
abbrev Stack := Fin 20
abbrev Port := Fin 16
/-- Agent numbers of Table 9.1: 0-7 Galleys, 8-11 Cases, 12 the H-die host agent. -/
abbrev Agent := Fin 13

/-- A sparse map: keys strictly rising (the canonical form), an unlisted key has the map's default value. -/
abbrev NMap (β : Type) := List (Nat × β)

/-- Bits hi..lo of a number. -/
def bitsOf (n hi lo : Nat) : Nat := (n >>> lo) % 2 ^ (hi + 1 - lo)

/-- `n` with bits hi..lo replaced by `v`. -/
def setBits (n hi lo v : Nat) : Nat :=
  n - (bitsOf n hi lo) * 2 ^ lo + (v % 2 ^ (hi + 1 - lo)) * 2 ^ lo

end Sys2Proof
end

