-- ==== Sys2Proof/Syntax.lean ====
section
/-!
DEFINITION. The commands of the S9: one constructor of `Instr` for each row of spec/opcode_table.json, in the table's
order, with the operands that name where the step happens and what arrives with it from outside. An operand with a
default says what an array check finds, or an instruction's hints, and its default is that there is nothing of the kind.
-/

namespace Sys2Proof

/-- A physical core d:r:c (Table 0.3). -/
structure CoreId where
  die : Die
  row : Fin 24
  col : Fin 25
deriving DecidableEq, Repr

/-- Queue q of the Imposer of a C-die (R179). -/
structure QId where
  die : Die
  q : Fin 64
deriving DecidableEq, Repr

/-- The register pages of Tables 2.3 to 2.5 and the DMA pages. -/
inductive Page where
  | hst | boot | dctl | errcDev | pwr | clk
  | hstCh (c : Chan) | errcCh (c : Chan) | dmaCh (c : Chan)
  | qctl (q : Quad) | errcQ (q : Quad)
  | case (q : Quad) (n : Fin 16) | dir (q : Quad) (n : Fin 16)
  | mc (q : Quad) (n : Fin 40) | stk (q : Quad) (n : Fin 5)
  | xl (q : Quad) (n : Fin 4) | brg (q : Quad) (n : Fin 4)
  | core (c : CoreId) | imp (d : Die) | gal (d : Die)
deriving DecidableEq, Repr

/-- The path a register access takes: BAR0 of physical function f (R45, R46), the engine window of VF v (R340, R363), or the
sideband (R47). -/
inductive Via where
  | pf (f : Chan)
  | vf (v : Fin 64)
  | sb
deriving DecidableEq, Repr

/-- How an answer from outside the block ends: with data, poisoned, or refused (R30, R343). -/
inductive Answer where
  | ok | poison | err
deriving DecidableEq, Repr

/-- How the fetch of a DMA descriptor from host memory ends (R342, R343, R353, R496). -/
inductive FetchAnswer where
  | ok | poison | err
  /-- the translation was denied -/
  | denied
  /-- the completion timeout expired -/
  | timeout
deriving DecidableEq, Repr

/-- What a stack read finds when its check bits are examined (R258): clean, one symbol corrected, two symbols
detected, or three and more symbols, of which the S9 makes no claim whether it is detected. -/
inductive Ecc where
  | clean
  | corrected (symbol : Fin 72)
  | uncorrectable
  | beyond
deriving DecidableEq, Repr

/-- Faults of the cache arrays met by a request (R223). -/
inductive ArrayEcc where
  | clean | ce | ueClean | ueDirty | tagUe
deriving DecidableEq, Repr

/-- What the accesses of a command find: in the Stone (R54), or in the cache arrays where they look up their first line (R223). -/
inductive StoneEcc where
  | clean
  | corrected (granule : Fin 256)
  | uncorrectable (granule : Fin 256)
  | array (e : ArrayEcc)
deriving DecidableEq, Repr

/-- What the lookup finds. -/
def StoneEcc.arr : StoneEcc → ArrayEcc
  | .array e => e
  | _ => .clean

/-- Element access modes of TLD and TST (R134). -/
inductive TileMode where
  | raw | value | scaleByte | mapNibble
deriving DecidableEq, Repr

/-- The arithmetic of a thread instruction (Table 5.4, R135). Encodings are published with the Yilter toolkit and
are not in the spec, so the operation arrives decoded. -/
inductive InkOp where
  | fadd | fsub | fmul | ffma | fmin | fmax | fcmpLt | fcmpLe | fcmpEq | fdiv | fsqrt
  | dadd | dsub | dmul | dfma | dcmpLt | dcmpLe | dcmpEq | ddiv | dsqrt
  | iadd | isub | imul | iand | ior | ixor | shl | shr | sar
  | smin | smax | umin | umax | icmpEq | scmpLt | ucmpLt | sdiv | udiv | srem | urem
  | i2f | u2f | f2i | f2u | f2d | d2f | i2d | d2i | mov
  | rdLane | rdGroup | rdBlock | rdNgrp | rdNblk | rdArgLo | rdArgHi
  | rdDesc (t : Fin 4) (word : Fin 8)
deriving DecidableEq, Repr

/-- A decoded arithmetic instruction: destination, three sources with their reuse hints (R127), rounding mode 0-3. -/
structure InkInstr where
  op : InkOp
  dst : Fin 256
  srcA : Fin 256
  srcB : Fin 256
  srcC : Fin 256
  hints : BitVec 3
  rnd : Fin 4
deriving DecidableEq, Repr

/-- Scopes of Table 3.5: 0 CORE, 1 DIE, 2 DEVICE, 3 SYSTEM. -/
abbrev Scope := Fin 4

/-- The ordering part of an ATOM (Table 6.2). -/
inductive AtomOrd where
  | none | acq | rel | ar
deriving DecidableEq, Repr

/-- A decoded ATOM: destination, address register pair, operand registers, width code 0-2 (32, 64, 128 bits). -/
structure AtomInstr where
  dst : Fin 256
  addr : Fin 256
  op1 : Fin 256
  op2 : Fin 256
  width : Fin 3
  scope : Scope
  ord : AtomOrd
  loc : Bool
  /-- reuse hints of the source operands (R127), and what its access finds in the Stone or in the cache arrays (R54, R223) -/
  hints : BitVec 3
  ecc : StoneEcc
deriving DecidableEq, Repr

/-- What a request finds when the home looks it up: its Case arrays (R223) and its directory entry (R233, R236). -/
structure HomeEcc where
  arr : ArrayEcc
  dirCe : Bool
  dirUe : Bool
deriving DecidableEq, Repr

/-- Requests to the home (Table 9.4). `req` names the request of the model that carries a HomeOp's payload. -/
structure HomeMsg where
  agent : Agent
  line : BitVec 41
  part : Fin 64
  req : Nat
  full : Bool
  data : LineData
  psn : Bool
deriving DecidableEq, Repr

/-- A snoop on its way to an agent: the line, and the requester that is to receive data. -/
structure SnoopMsg where
  agent : Agent
  line : BitVec 41
  rcv : Agent
  full : Bool
  ecc : ArrayEcc
deriving DecidableEq, Repr

/-- A header flit and its payload (Table 12.2): the fields as carried, the payload as bytes of the data flits. -/
structure Packet where
  kind : BitVec 4
  len : BitVec 4
  tc : Fin 4
  dl : Bool
  rpl : Bool
  late : Bool
  psn1 : Bool
  psn0 : Bool
  budget : BitVec 12
  dst : BitVec 16
  src : BitVec 16
  addr : BitVec 48
  cnt : BitVec 8
  opx : BitVec 8
  ctr : BitVec 16
  group : BitVec 16
  tag : BitVec 16
  gen : BitVec 8
  colo : Bool
  arg : BitVec 32
  data : List Byte
deriving DecidableEq, Repr

/-- A link-control flit (Table 12.4). -/
structure CtlFlit where
  ackseq : BitVec 16
  nak : Bool
  replay : Bool
  rtrn : Bool
  fence : Bool
  nakid : BitVec 4
  probe : BitVec 8
  cred : List Byte
  /-- the CHECK of the flit holds: CRC-32 in clear, the GCM tag when encrypted -/
  checked : Bool
deriving DecidableEq, Repr

/-- Why a receiver loses flits (R304). -/
inductive FlitLoss where
  | fecCorrected (lane : Fin 8)
  | fec | crc | tag | control
deriving DecidableEq, Repr

/-- What step 5 to step 8 of port training bring from the peer (Table 12.7, R318, R455). -/
structure PeerInfo where
  dev : BitVec 16
  port : Fin 16
  dim : Fin 4
  dir : Bool
  rail : Bool
  coord : Bool
  enc : Bool
  gen : BitVec 8
  fseq : BitVec 16
  shares : List (BitVec 16)
  occupancy : List (BitVec 16)
  roundTrip : Nat
  epoch : BitVec 32
  devuid : BitVec 128
  epk : BitVec 256
  chainOk : Bool
deriving DecidableEq, Repr

/-- A mailbox message (Table 13.3). -/
structure MboxMsg where
  lane : Fin 257
  seq : BitVec 32
  src : BitVec 16
  ver : Byte
  len : BitVec 16
  payload : List Byte
deriving DecidableEq, Repr

/-- What a configuration request changes in a function (R339, R342, R344, R349, R354). -/
inductive CfgWrite where
  | busMaster (on : Bool)
  | msixEnable (on : Bool)
  | msixMaskAll (on : Bool)
  | msixMask (vec : Fin 512) (on : Bool)
  | msixEntry (vec : Fin 512) (addr : BitVec 64) (data : Word)
  | bar (n : Fin 6) (value : BitVec 64)
  | pasidCtl (on : Bool)
  | atsCtl (on : Bool)
  | atomicEnable (on : Bool)
  | vfEnable (on : Bool) (numVfs : Fin 64)
  | other
deriving DecidableEq, Repr

/-- What a clock crossing meets (R319, R475, Table 16.9): a port, a bridge link or a pair of dies that times out, or a pulse
crossing of one of them that overruns. -/
inductive Crossing where
  | xlRx (p : Port)
  | xlTx (p : Port)
  | brgRx (q : Quad) (n : Fin 4)
  | brgTx (q : Quad) (n : Fin 4)
  | die (live : Fin 16) (xid : Fin 5) (stopped : Fin 16)
  | xlOvr (p : Port)
  | brgOvr (q : Quad) (n : Fin 4)
  | dieOvr (live : Fin 16) (xid : Fin 5)
deriving DecidableEq, Repr

/-- The 22 PLLs of CLK_LOCK, by their bit (Table 20.6, CLK_LOCK). -/
abbrev Pll := Fin 22

/-- Where a maintenance operation runs (Table 8.4). -/
inductive MntUnit where
  | qctl (q : Quad)
  | slice (q : Quad) (n : Fin 16)
  | galley (d : Die)
deriving DecidableEq, Repr

/-- The domains of Table 17.1. -/
inductive Dom where
  | core (c : CoreId)
  | cluster (d : Die) (r : Fin 24)
  | quad (q : Quad)
  | device
deriving DecidableEq, Repr

/-- A die of the package: C-dies 0-7, B-dies 8-11, the H-die 15 (Table 2.8). -/
inductive DieRef where
  | cdie (d : Die)
  | bdie (q : Quad)
  | hdie
deriving DecidableEq, Repr

/-- The input faults of R460. -/
inductive InputFault where
  | under54 | under58 | over70 | pwrgdLow
deriving DecidableEq, Repr

/-- The external flash as Pyruno finds it at INIT (R442): its bytes from offset 0, and the items of Table 19.3 that fail to read. -/
structure Flash where
  bytes : List Byte
  unread : List Nat
deriving DecidableEq, Repr

/-- The sideband straps and bus mode sampled at the rise of PWRGD (R485). -/
structure Straps where
  i3c : Bool
  addr : Fin 4
deriving DecidableEq, Repr

/-- SPDM requests carry the asking function; the session secrets are the standard's (R449). -/
structure SpdmReq where
  fn : Fin 64
  slot : Fin 8
  index : Byte
  nonce : BitVec 256
deriving DecidableEq, Repr

/-- The commands, one constructor for each row of spec/opcode_table.json (R37 to R496). -/
inductive Instr where
  /-- REGISTER_WRITE (R37): A register write without a row of its own is performed, or discarded and recorded as BADACC or LKV,
  under the access, reset and seal rules. -/
  | registerWrite (via : Via) (off : BitVec 27) (word : Bool) (val : Word)
  /-- REG64_LO_READ (R39): A read of the LO half of a 64-bit quantity returns bits 31:0 and latches bits 63:32 in a shadow. -/
  | reg64LoRead (via : Via) (off : BitVec 27)
  /-- REG64_LO_WRITE (R39): A write of the LO half of a 64-bit quantity stores it in a shadow. -/
  | reg64LoWrite (via : Via) (off : BitVec 27) (val : Word)
  /-- REG64_HI_WRITE (R39): A write of the HI half of a 64-bit quantity writes both halves in one indivisible update. -/
  | reg64HiWrite (via : Via) (off : BitVec 27) (val : Word)
  /-- ERR_STAT_WRITE (R41): A W1C write to ERR_STAT clears source bits, clears ERR_FIRST.VALID when no unmasked bit remains set,
  and lowers the error pin. -/
  | errStatWrite (via : Via) (p : Page) (val : Word)
  /-- BLK_CTL_BRST (R397): A write of BLK_CTL.BRST starts a reset of the block's smallest reset domain. -/
  | blkCtlBrst (via : Via) (p : Page)
  /-- BLK_CTL_QREQ (R369): A write of BLK_CTL.QREQ makes the block stop admitting new work and quiesce to its boundary. -/
  | blkCtlQreq (via : Via) (p : Page) (on : Bool)
  /-- SEAL (R43): A write of DCTL_SEAL.SEAL seals the configuration until a device reset. -/
  | seal (via : Via)
  /-- WTAB_LOAD (R31): QCTL_WTAB_CMD.LOAD copies peer-window entry IDX of this quadrant's table into the staging registers. -/
  | wtabLoad (via : Via) (q : Quad)
  /-- WTAB_COMMIT (R31): QCTL_WTAB_CMD.COMMIT writes the staged entry into every quadrant's copy of the channel's table as one
  update, or refuses it with ILL. -/
  | wtabCommit (via : Via) (q : Quad)
  /-- BRG_LINK_TRAIN (R16): A carrying bridge or H-die link trains without software action once both ends are out of reset. -/
  | brgLinkTrain (q : Quad) (n : Fin 4)
  /-- BRG_LINK_DOWN (R16): A carrying bridge or H-die link leaves UP for a cause other than a reset of an end and raises DOWN. -/
  | brgLinkDown (q : Quad) (n : Fin 4)
  /-- DOORBELL_WRITE (R181): A write of IMP_QWP sets the queue's write pointer, or is discarded with OVERRUN if it would
  overfill the ring. -/
  | doorbellWrite (via : Via) (k : QId) (val : Word)
  /-- RUN_FETCH (R185): The Imposer starts fetching the next ring entry and run image once the limits on pointers and run-buffer
  room allow. -/
  | runFetch (k : QId)
  /-- RUN_IMAGE_ARRIVAL (R61): A fetched ring entry and run image arrive and are checked, or end the run with FETCH or QENTRY.
  The queue is number n of C-die 2 * quad + half. -/
  | runImageArrival (quad : Quad) (half : Fin 2) (n : Fin 64)
  /-- RUN_BIND (R186): A checked run is bound to its queue's slot on its core once that slot holds no run, and begins its head wait. -/
  | runBind (k : QId)
  /-- FLAG_POLL_DUE (R77): A memory-flag head wait's poll interval expires and a flag read is issued, unless a read is outstanding. -/
  | flagPollDue (c : CoreId) (sl : Slot)
  /-- FLAG_POLL_REPLY (R77): A flag poll returns and is compared, satisfying the wait, or ending the run with POISON or ADDR. -/
  | flagPollReply (c : CoreId) (sl : Slot)
  /-- HEAD_WAIT_TIMEOUT (R77): A head wait is still unsatisfied 2^WAIT_TMO press cycles after it began and the run ends with
  HEADTMO, not started. -/
  | headWaitTimeout (c : CoreId) (sl : Slot)
  /-- RUN_BEGIN (R51): A run whose head wait is satisfied reserves its tokens and places its buffers once tokens and Stone space
  exist and earlier runs have begun or retired. -/
  | runBegin (c : CoreId) (ecc : StoneEcc)
  /-- COMMAND_PLACE (R188): The Imposer places a begun run's next command into a station queue as soon as an entry is free to it. -/
  | commandPlace (c : CoreId) (sl : Slot) (stn : Stn)
  /-- LOAD (R65): The Feeder issues a LOAD that reads a tile's data region from memory into the Stone. -/
  | load (c : CoreId) (sl : Slot) (ecc : StoneEcc)
  /-- LOADAUX (R65): The Feeder issues a LOADAUX that reads a scale vector or sparsity map into the Stone. -/
  | loadaux (c : CoreId) (sl : Slot) (ecc : StoneEcc)
  /-- ZERO (R65): The Feeder issues a ZERO that writes zeros to a tile's data region and sets its written bits. -/
  | zero (c : CoreId) (sl : Slot) (ecc : StoneEcc)
  /-- PREFETCH (R65): The Feeder issues a PREFETCH that sends line requests into the Galley and completes when they have issued. -/
  | prefetch (c : CoreId) (sl : Slot) (arr : ArrayEcc := .clean)
  /-- FEEDER_LINE_RETURN (R66): A line requested by a LOAD or LOADAUX returns and is written into the Stone, or ends the run
  with POISON. -/
  | feederLineReturn (c : CoreId) (rq : Nat)
  /-- MMA (R67): The Platen issues an MMA computing C = A × B or C + A × B with the arithmetic of the Platen classes. -/
  | mma (c : CoreId) (sl : Slot) (ecc : StoneEcc)
  /-- LAUNCH (R68): The Inker issues a LAUNCH, invalidates its instruction cache and reads the kernel header. -/
  | launch (c : CoreId) (sl : Slot)
  /-- KERNEL_HEADER_ARRIVAL (R122): The kernel header arrives and is checked, or the run ends with CMDARG, POISON or ADDR. -/
  | kernelHeaderArrival (c : CoreId) (sl : Slot)
  /-- BLOCK_ADMIT (R121): The Inker admits the next block of a chosen LAUNCH once every resource it needs is free, and clears
  its registers and area. -/
  | blockAdmit (c : CoreId) (sl : Slot)
  /-- BLOCK_END (R120): A block whose threads have all exited and whose Stone writes are performed ends and frees its resources. -/
  | blockEnd (c : CoreId) (b : Fin 8)
  /-- TRANSPOSE (R112): The Folder issues a TRANSPOSE that moves element encodings into the transposed destination. -/
  | transpose (c : CoreId) (sl : Slot) (ecc : StoneEcc)
  /-- RELAYOUT (R112): The Folder issues a RELAYOUT that moves element encodings into another layout. -/
  | relayout (c : CoreId) (sl : Slot) (ecc : StoneEcc)
  /-- CONVERT (R113): The Folder issues a CONVERT that rounds each source value once into the destination format. -/
  | convert (c : CoreId) (sl : Slot) (ecc : StoneEcc)
  /-- REDUCE (R115): The Folder issues a REDUCE that writes the sum, maximum or minimum of each row or column. -/
  | reduce (c : CoreId) (sl : Slot) (ecc : StoneEcc)
  /-- SPARSIFY (R116): The Folder issues a SPARSIFY that keeps the two largest elements of each group of four. -/
  | sparsify (c : CoreId) (sl : Slot) (ecc : StoneEcc)
  /-- DENSIFY (R112): The Folder issues a DENSIFY that expands a 2:4 tile, writing zeros at dropped positions. -/
  | densify (c : CoreId) (sl : Slot) (ecc : StoneEcc)
  /-- STORE (R70): The Delivery issues a STORE that writes a tile's data region to memory, as an ordinary or accumulate-write. -/
  | store (c : CoreId) (sl : Slot) (ecc : StoneEcc)
  /-- STOREAUX (R70): The Delivery issues a STOREAUX that writes a scale vector or map contiguously. -/
  | storeaux (c : CoreId) (sl : Slot) (ecc : StoneEcc)
  /-- FLAG (R70): The Delivery issues a FLAG that writes a 32- or 64-bit value, possibly as a colophon write. -/
  | flag (c : CoreId) (sl : Slot) (arr : ArrayEcc := .clean)
  /-- SIGNAL (R72): The Delivery issues a SIGNAL that releases at DEVICE scope and adds INC to a head token of a target core's slot. -/
  | signal (c : CoreId) (sl : Slot)
  /-- SIGNAL_ARRIVAL (R72): A SIGNAL reaches its target core and raises the head token, saturates with TOKOVF, or is refused
  with SIGREF. -/
  | signalArrival (k : Nat)
  /-- COMMAND_COMPLETE (R73): A station command completes and signals its token, and the station may choose its next command. -/
  | commandComplete (c : CoreId) (stn : Stn) (sl : Slot)
  /-- ARB_AGE_PROMOTE (R189): A level-3 slot that has waited 2^20 press cycles competes at level 2 for one command. -/
  | arbAgePromote (c : CoreId) (stn : Stn) (sl : Slot)
  /-- STATION_WATCHDOG_EXPIRE (R81): A station watchdog reaches 2^EXP press cycles, raises WDOG and ends the run. -/
  | stationWatchdogExpire (c : CoreId) (stn : Stn) (sl : Slot)
  /-- RUN_END (R63): A run whose commands have all completed checks its tokens, writes its journal entry as a release and frees
  its Stone and tokens. -/
  | runEnd (c : CoreId) (sl : Slot)
  /-- ONSET_GRANT (R190): At each pace interval the Imposer grants onset to the next requesting physical row. -/
  | onsetGrant (d : Die)
  /-- INK_ARITH (R135): A group issues an FP32, FP64, integer, division or conversion instruction. -/
  | inkArith (c : CoreId) (g : Fin 16) (i : InkInstr)
  /-- TLD (R134): A group issues TLD, reading a tile element in raw or value mode. -/
  | tld (c : CoreId) (g : Fin 16) (dst : Fin 256) (t : Fin 4) (ri : Fin 256) (rj : Fin 256) (mode : TileMode)
      (hints : BitVec 3 := 0) (ecc : StoneEcc := .clean)
  /-- TST (R134): A group issues TST, writing a tile element in raw or value mode. -/
  | tst (c : CoreId) (g : Fin 16) (src : Fin 256) (t : Fin 4) (ri : Fin 256) (rj : Fin 256) (mode : TileMode) (rnd : Fin 4)
      (hints : BitVec 3 := 0) (ecc : StoneEcc := .clean)
  /-- LLD (R130): A group issues a block-local load. -/
  | lld (c : CoreId) (g : Fin 16) (dst : Fin 256) (ro : Fin 256) (size : Fin 5) (hints : BitVec 3 := 0) (ecc : StoneEcc := .clean)
  /-- LST (R130): A group issues a block-local store. -/
  | lst (c : CoreId) (g : Fin 16) (src : Fin 256) (ro : Fin 256) (size : Fin 5) (hints : BitVec 3 := 0) (ecc : StoneEcc := .clean)
  /-- LD (R145): A group issues an LD to device memory, served by the data cache or the Galley. -/
  | ld (c : CoreId) (g : Fin 16) (dst : Fin 256) (ra : Fin 256) (size : Fin 5) (nocache : Bool) (parity : Bool)
      (hints : BitVec 3 := 0) (arr : ArrayEcc := .clean)
  /-- LD_ACQ (R158): A group issues LD.ACQ, a load followed by an acquire at its scope. -/
  | ldAcq (c : CoreId) (g : Fin 16) (dst : Fin 256) (ra : Fin 256) (size : Fin 5) (scope : Scope)
      (parity : Bool := false) (hints : BitVec 3 := 0) (arr : ArrayEcc := .clean)
  /-- ST (R145): A group issues an ST, written through the data cache to the Galley. -/
  | st (c : CoreId) (g : Fin 16) (src : Fin 256) (ra : Fin 256) (size : Fin 5) (hints : BitVec 3 := 0) (arr : ArrayEcc := .clean)
  /-- ST_REL (R157): A group issues ST.REL, a store that waits for its release set to be performed. -/
  | stRel (c : CoreId) (g : Fin 16) (src : Fin 256) (ra : Fin 256) (size : Fin 5) (scope : Scope)
      (hints : BitVec 3 := 0) (arr : ArrayEcc := .clean)
  /-- INKER_LOAD_REPLY (R148): Data for an LD returns, is delivered to its lanes and is installed unless an invalidation intervened. -/
  | inkerLoadReply (c : CoreId) (rq : Nat)
  /-- INSTRUCTION_FETCH_REPLY (R124): An instruction line fetched through the Galley returns to the instruction cache. -/
  | instructionFetchReply (c : CoreId) (g : Fin 16)
  /-- ATOM_ADD (R143): A group issues ATOM ADD, combining same-address lanes in lane order. -/
  | atomAdd (c : CoreId) (g : Fin 16) (i : AtomInstr)
  /-- ATOM_FADD (R143): A group issues ATOM FADD with each intermediate rounding in lane order. -/
  | atomFadd (c : CoreId) (g : Fin 16) (i : AtomInstr)
  /-- ATOM_SMIN (R142): A group issues ATOM SMIN. -/
  | atomSmin (c : CoreId) (g : Fin 16) (i : AtomInstr)
  /-- ATOM_SMAX (R142): A group issues ATOM SMAX. -/
  | atomSmax (c : CoreId) (g : Fin 16) (i : AtomInstr)
  /-- ATOM_UMIN (R142): A group issues ATOM UMIN. -/
  | atomUmin (c : CoreId) (g : Fin 16) (i : AtomInstr)
  /-- ATOM_UMAX (R142): A group issues ATOM UMAX. -/
  | atomUmax (c : CoreId) (g : Fin 16) (i : AtomInstr)
  /-- ATOM_AND (R142): A group issues ATOM AND. -/
  | atomAnd (c : CoreId) (g : Fin 16) (i : AtomInstr)
  /-- ATOM_OR (R142): A group issues ATOM OR. -/
  | atomOr (c : CoreId) (g : Fin 16) (i : AtomInstr)
  /-- ATOM_XOR (R142): A group issues ATOM XOR. -/
  | atomXor (c : CoreId) (g : Fin 16) (i : AtomInstr)
  /-- ATOM_EXCH (R143): A group issues ATOM EXCH, serialising same-address lanes. -/
  | atomExch (c : CoreId) (g : Fin 16) (i : AtomInstr)
  /-- ATOM_CAS (R143): A group issues ATOM CAS, serialising same-address lanes. -/
  | atomCas (c : CoreId) (g : Fin 16) (i : AtomInstr)
  /-- ATOM_REPLY (R144): An atomic's returned value arrives and is written to the lane's register. -/
  | atomReply (c : CoreId) (rq : Nat)
  /-- BAR (R136): A thread executes BAR, releasing and waiting at the block's barrier. -/
  | bar (c : CoreId) (g : Fin 16)
  /-- BRA (R139): A group issues a branch, which may split its path and record a reconvergence address. -/
  | bra (c : CoreId) (g : Fin 16) (rc : Fin 256) (target : BitVec 48) (reconv : BitVec 48)
      (hints : BitVec 3 := 0)
  /-- EXIT (R136): A thread executes EXIT and leaves the barrier's count. -/
  | exit (c : CoreId) (g : Fin 16)
  /-- FENCE_REL (R157): A thread executes FENCE.REL, a release without an access. -/
  | fenceRel (c : CoreId) (g : Fin 16) (scope : Scope)
  /-- FENCE_ACQ (R158): A thread executes FENCE.ACQ, an acquire without an access. -/
  | fenceAcq (c : CoreId) (g : Fin 16) (scope : Scope)
  /-- FENCE_AR (R158): A thread executes FENCE.AR, a release and acquire without an access. -/
  | fenceAr (c : CoreId) (g : Fin 16) (scope : Scope)
  /-- PATH_SWITCH (R141): A current path that has issued 64 instructions while another is runnable yields to the longest-waiting
  runnable path. -/
  | pathSwitch (c : CoreId) (g : Fin 16)
  /-- COLOPHON_WRITE_ARRIVAL (R172): A colophon write reaches its home B-die and is performed at once, held, or discarded as a
  duplicate. -/
  | colophonWriteArrival (q : Quad) (rq : Nat)
  /-- COLOPHON_HOLD_TIMEOUT (R174): A colophon write held 2^EXP net cycles is discarded and COLO_TMO raised. -/
  | colophonHoldTimeout (q : Quad) (g : Fin 4096)
  /-- GRP_CLEAR (R174): QCTL_GRP_CMD.CLEAR zeroes entry IDX's tally and discards its held write. -/
  | grpClear (via : Via) (q : Quad)
  /-- ENABLE (R183): IMP_QCMD ENABLE binds a job slot on every core of the target set and starts the queue, or is refused with ERR. -/
  | enable (via : Via) (d : Die)
  /-- ENABLE_RESTORE (R194): ENABLE with RESTORE also loads each slot's head tokens from the save area. -/
  | enableRestore (via : Via) (d : Die) (host : List Byte) (ans : Answer)
  /-- HOLD (R191): HOLD stops runs from beginning and withdraws every run after RP. -/
  | hold (via : Via) (d : Die)
  /-- HOLD_URGENT (R192): HOLD with URGENT also withdraws the begun runs that have made no outbound write. -/
  | holdUrgent (via : Via) (d : Die)
  /-- UNHOLD (R191): UNHOLD returns the queue to RUN, and withdrawn runs are fetched again from RP. -/
  | unhold (via : Via) (d : Die)
  /-- PREEMPT (R193): PREEMPT holds the queue and, once HELD, writes the save area. -/
  | preempt (via : Via) (d : Die)
  /-- PREEMPT_URGENT (R193): PREEMPT with URGENT holds with URGENT before saving. -/
  | preemptUrgent (via : Via) (d : Die)
  /-- DISABLE (R193): DISABLE holds the queue and releases its bindings without saving. -/
  | disable (via : Via) (d : Die)
  /-- DISABLE_URGENT (R193): DISABLE with URGENT holds with URGENT and releases the bindings without saving. -/
  | disableUrgent (via : Via) (d : Die)
  /-- SAVE_AREA_DONE (R193): When the save-area writes are performed at SYSTEM scope, the queue's bindings are released and the
  queue reads OFF with SAVED = 1. -/
  | saveAreaDone (k : QId)
  /-- DRAIN (R209): CASE_MNT DRAIN takes the slice out of placement and writes back and invalidates its lines. -/
  | drain (via : Via) (q : Quad) (n : Fin 16)
  /-- REOPEN (R209): CASE_MNT REOPEN returns a drained slice to placement. -/
  | reopen (via : Via) (q : Quad) (n : Fin 16)
  /-- CASE_PART_WRITE (R209): A write of CASE_PART.PART is accepted only when the slices concerned are drained, otherwise it is
  refused with ILL. -/
  | casePartWrite (via : Via) (q : Quad) (n : Fin 16) (val : Word)
  /-- HMAP_WRITE (R210): A write to QCTL_HMAP changing a unit's owner holds the unit's requests and flushes it. -/
  | hmapWrite (via : Via) (q : Quad) (val : Word)
  /-- HMAP_CHANGE_DONE (R210): Once the unit's flush has completed, the owner changes and held requests are released. -/
  | hmapChangeDone (q : Quad)
  /-- PCFG_WRITE (R213): A QCTL_PCFG write sets quotas, starting a demotion walk if PQUOTA is lowered, or is refused with ILL. -/
  | pcfgWrite (via : Via) (q : Quad) (val : Word)
  /-- PWIN_CTL_WRITE (R213): A QCTL_PWIN_CTL write sets a window, starting a walk if WQUOTA is lowered, or is refused with ILL. -/
  | pwinCtlWrite (via : Via) (q : Quad) (val : Word)
  /-- QUOTA_WALK_DONE (R213): A demotion walk over the partition's slices ends and BUSY clears. -/
  | quotaWalkDone (q : Quad) (p : Fin 64)
  /-- FLUSH (R222): QCTL_MNT_CMD FLUSH writes back and invalidates a range in every cache of the device. -/
  | flush (via : Via) (q : Quad)
  /-- CLEAN (R222): QCTL_MNT_CMD CLEAN writes back a range and keeps clean copies. -/
  | clean (via : Via) (q : Quad)
  /-- RCINV (R216): QCTL_MNT_CMD RCINV invalidates every peer line of the B-die. -/
  | rcinv (via : Via) (q : Quad)
  /-- FLUSHP (R222): GAL_MNT FLUSHP flushes the lines of one partition from the Galley. -/
  | flushp (via : Via) (d : Die) (p : Fin 64)
  /-- FLUSHALL (R222): GAL_MNT FLUSHALL flushes every line of the Galley. -/
  | flushall (via : Via) (d : Die)
  /-- MAINTENANCE_DONE (R222): A maintenance operation completes when its written-back lines are accepted, and its BUSY clears. -/
  | maintenanceDone (u : MntUnit)
  /-- SR_OPEN (R217): QCTL_SR_CMD OPEN checks a stereo entry and moves it to OPEN, or refuses it with ILL. -/
  | srOpen (via : Via) (q : Quad) (men : Bool)
  /-- SR_CHECK (R219): QCTL_SR_CMD CHECK starts computing the region digest, writing the mirror if enabled. -/
  | srCheck (via : Via) (q : Quad)
  /-- SR_CHECK_DONE (R219): The digest result makes the entry ACTIVE or FAILED. -/
  | srCheckDone (q : Quad) (e : Fin 2)
  /-- SR_CLOSE (R218): QCTL_SR_CMD CLOSE starts invalidating every cached copy of the region. -/
  | srClose (via : Via) (q : Quad)
  /-- SR_CLOSE_DONE (R218): When every copy is invalidated the stereo entry reads OFF. -/
  | srCloseDone (q : Quad) (e : Fin 2)
  /-- RDS (R238): The home receives RdS and supplies the line or snoops its owner, giving S or E. -/
  | rds (m : HomeMsg) (ecc : HomeEcc)
  /-- RDX (R238): The home receives RdX and invalidates or snoops the other copies, giving M. -/
  | rdx (m : HomeMsg) (ecc : HomeEcc)
  /-- RDCUR (R238): The home receives RdCur and supplies current data without installing a copy. -/
  | rdcur (m : HomeMsg) (ecc : HomeEcc)
  /-- HOMEOP (R238): The home receives HomeOp, takes every copy and performs the write, reduction or atomic on its copy. -/
  | homeop (m : HomeMsg) (ecc : HomeEcc)
  /-- WB (R238): The home receives a WB, takes its data and updates or removes the entry, or acknowledges it as stale. -/
  | wb (m : HomeMsg)
  /-- EVE (R238): The home receives EvE and removes the entry, or acknowledges it as stale. -/
  | eve (m : HomeMsg)
  /-- ADDS (R241): The home receives AddS and adds the Galley as a sharer. -/
  | adds (m : HomeMsg)
  /-- XFER (R242): The home receives Xfer and makes the Case the owner. -/
  | xfer (m : HomeMsg)
  /-- SNPSHR (R239): An agent receives SnpShr and supplies data while keeping or sharing the line. -/
  | snpshr (m : SnoopMsg)
  /-- SNPOWN (R239): An agent receives SnpOwn and gives up its copy with data or an acknowledgement. -/
  | snpown (m : SnoopMsg)
  /-- SNPINV (R239): An agent receives SnpInv and drops an S copy. -/
  | snpinv (m : SnoopMsg)
  /-- SNPCUR (R239): An agent receives SnpCur and supplies data keeping its state. -/
  | snpcur (m : SnoopMsg)
  /-- SNOOP_ANSWER (R240): The home receives a snoop answer, and the line's transaction ends when every answer is in. -/
  | snoopAnswer (a : Agent) (l : BitVec 41)
  /-- DATA_REPLY (R231): A requester receives line data or grant from the home or an owner and installs the line in its state. -/
  | dataReply (a : Agent) (l : BitVec 41)
  /-- WB_ACK (R241): An evicting agent receives the home's acknowledgement and frees the reserved way. -/
  | wbAck (a : Agent) (l : BitVec 41)
  /-- HOME_QUEUE_DISPATCH (R240): The home starts the next waiting request for a line once the line's transaction ends. -/
  | homeQueueDispatch (l : BitVec 41)
  /-- REDUCTION_PERFORM (R249): A slice reduces a queued accumulate-write block or line in arrival order into held Case lines. -/
  | reductionPerform (q : Quad) (n : Fin 16)
  /-- MC_REDUCTION (R250): A block without a Case victim is reduced at the memory controller as one read-modify-write. -/
  | mcReduction (q : Quad) (n : Fin 16)
  /-- RB_OPEN (R254): QCTL_RB_CMD OPEN opens a reduction buffer entry, or refuses it with ILL. -/
  | rbOpen (via : Via) (q : Quad)
  /-- RB_OPEN_CLEAR (R254): OPEN with CLEAR invalidates the range in every cache and zeroes it, in CLEARING. -/
  | rbOpenClear (via : Via) (q : Quad)
  /-- RB_CLEAR_DONE (R254): Zeroing ends, the entry reads OPEN and waiting requests are checked. -/
  | rbClearDone (q : Quad) (e : Fin 64)
  /-- RB_CLOSE (R254): QCTL_RB_CMD CLOSE moves an OPEN entry to CLOSING. -/
  | rbClose (via : Via) (q : Quad)
  /-- RB_CLOSE_DONE (R254): When every accepted reduction is complete the entry reads CLOSED. -/
  | rbCloseDone (q : Quad) (e : Fin 64)
  /-- DIR_LOOKUP (R232): DIR_LKCMD GO looks up the directory entry of ADDR into DIR_LKRES, or sets ILL. -/
  | dirLookup (via : Via) (q : Quad) (n : Fin 16)
  /-- MC_ISSUE (R269): A channel issues the oldest request whose bank is ready, in read or write batches. -/
  | mcIssue (q : Quad) (n : Fin 40) (caErrs : Fin 6)
  /-- MC_READ_RETURN (R260): A demand read returns, corrected with write-back, or poisoned with the poison pattern. -/
  | mcReadReturn (q : Quad) (n : Fin 40) (ecc : Ecc) (mir : Ecc := .clean)
  /-- PATROL_SCRUB (R261): The patrol scrub reads the next line of the stack at its pace. -/
  | patrolScrub (t : Stack)
  /-- SCRUB_READ_DONE (R261): A scrub read returns, and a corrected line is written back or an uncorrectable one poisoned. -/
  | scrubReadDone (t : Stack) (ch : Fin 8) (ecc : Ecc) (mir : Ecc := .clean)
  /-- REFRESH_DUE (R266): A per-bank refresh falls due and is issued or postponed within REFPOST. -/
  | refreshDue (q : Quad) (n : Fin 40)
  /-- STACK_TEMP_HIGH (R267): A stack reports it is above 85 °C, halving t_REFIpb and limiting data cycles. -/
  | stackTempHigh (t : Stack)
  /-- STACK_TEMP_NORMAL (R267): A stack reports it has cooled to 80 °C, restoring normal refresh and data cycles. -/
  | stackTempNormal (t : Stack)
  /-- STK_TRAIN (R272): STK_CMD.TRAIN starts training an UNTRAINED stack. -/
  | stkTrain (via : Via) (t : Stack)
  /-- STK_TRAIN_DONE (R272): Training ends with READY and releases the waiting requests, or with FAILED and TRAIN_FAIL. -/
  | stkTrainDone (t : Stack) (ok : Bool) (mask : Byte)
  /-- RETRAIN (R271): STK_CMD.RETRAIN stops traffic to a READY stack and retrains it in self-refresh. -/
  | retrain (via : Via) (t : Stack)
  /-- RETRAIN_DONE (R271): Retraining ends, the stack reads READY and waiting requests are released in order, or it fails. -/
  | retrainDone (t : Stack) (ok : Bool) (mask : Byte)
  /-- ZEROU (R264): STK_CMD.ZEROU flushes a home unit and zeroes it under its current key, or is refused with ILL. -/
  | zerou (via : Via) (t : Stack)
  /-- ZEROU_DONE (R264): Zeroing ends, ZBUSY clears and held requests proceed. -/
  | zerouDone (t : Stack)
  /-- BUDGET_EXPIRE (R278): A request's BUDGET reaches 0 and it becomes late. -/
  | budgetExpire (rq : Nat)
  /-- LEVEL_BROADCAST (R282): Every 64 net cycles a B-die sends its stacks' queue levels to its C-dies and channel's B-dies. -/
  | levelBroadcast (q : Quad)
  /-- METER_WINDOW_RESTART (R287): At each metered window boundary the masters' byte counts restart. -/
  | meterWindowRestart (q : Quad)
  /-- PEER_REQUEST_ISSUE (R307): A peer request takes a tag-table entry once one is free and leaves on its rail's first-hop port. -/
  | peerRequestIssue (q : Quad) (rq : Nat)
  /-- PACKET_SEND (R299): A port sends a waiting packet once it holds credits for all its flits in the share, subtracting XL_CHARGE. -/
  | packetSend (p : Port)
  /-- WR (R310): A WR packet arrives and is performed, refused, or forwarded in transit. -/
  | wr (p : Port) (k : Packet)
  /-- ACCW (R310): An ACCW packet arrives and is reduced at the home Case, refused or forwarded. -/
  | accw (p : Port) (k : Packet)
  /-- FLAG_PACKET (R310): A FLAG packet arrives and is performed or held as a colophon write, refused or forwarded. -/
  | flagPacket (p : Port) (k : Packet)
  /-- RD (R310): An RD packet arrives and is read, refused or forwarded. -/
  | rd (p : Port) (k : Packet)
  /-- ATOM_PACKET (R310): An ATOM packet arrives and is performed at the home Case, refused or forwarded. -/
  | atomPacket (p : Port) (k : Packet)
  /-- RDATA (R312): An RDATA reply arrives, frees its tag and delivers data, or is dropped as stale. -/
  | rdata (p : Port) (k : Packet)
  /-- ATOMR (R312): An ATOMR reply arrives and delivers the atomic's old value, or is dropped as stale. -/
  | atomr (p : Port) (k : Packet)
  /-- LANDED (R308): A LANDED arrives and frees the named tag entries, giving SYSTEM-scope performance. -/
  | landed (p : Port) (k : Packet)
  /-- REFUSE (R311): A REFUSE arrives and completes its request as an address error, raising PEER_REF. -/
  | refuse (p : Port) (k : Packet)
  /-- ILLEGAL_PACKET (R298): A header flit with an illegal KIND, LEN or CNT is discarded and raises PROTO. -/
  | illegalPacket (p : Port) (k : Packet)
  /-- REQUEST_SHARE_ACCEPT (R302): A request is taken from its share once the reply store can hold its reply. -/
  | requestShareAccept (p : Port) (sh : Fin 16)
  /-- LANDED_FLUSH (R308): Acknowledgements combined for one source quadrant are sent as one LANDED. -/
  | landedFlush (p : Port)
  /-- PEER_REQUEST_TIMEOUT (R313): A tag entry outstanding 2^XL_PTMO.EXP net cycles raises PTMO and completes its request with
  poison or abandonment. -/
  | peerRequestTimeout (q : Quad) (e : Fin 16384)
  /-- LINK_CONTROL_FLIT (R301): A link-control flit arrives, returning credits and carrying ACKSEQ, NAK, REPLAY, FENCE and RTRN. -/
  | linkControlFlit (p : Port) (f : CtlFlit)
  /-- FEC_UNCORRECTABLE (R304): An uncorrectable codeword or CRC failure makes the receiver discard flits and NAK. -/
  | fecUncorrectable (p : Port) (w : FlitLoss)
  /-- ENCRYPTED_BLOCK_CHECK (R314): An encrypted block's GCM tag is checked before its flits are released, failing with TAG and,
  after three, DOWN. -/
  | encryptedBlockCheck (p : Port) (ok : Bool)
  /-- XL_TRAIN (R317): XL_CMD.TRAIN starts full training from DOWN or WAITCOORD. -/
  | xlTrain (via : Via) (p : Port)
  /-- XL_RETRAIN (R317): XL_CMD.RETRAIN starts fast retraining from UP. -/
  | xlRetrain (via : Via) (p : Port)
  /-- XL_DOWN (R320): XL_CMD.DOWN takes the port DOWN with no automatic training. -/
  | xlDown (via : Via) (p : Port)
  /-- XL_TRAIN_COMPLETE (R317): Port training reaches UP after resynchronisation, credit audit, key exchange and probes. -/
  | xlTrainComplete (p : Port) (i : PeerInfo) (trng : Fin 3)
  /-- XL_TRAIN_FAIL (R320): Port training fails with a CAUSE, raising TRAIN_FAIL, and the port retries or enters WAITCOORD. -/
  | xlTrainFail (p : Port) (cause : Fin 7)
  /-- XL_AUTO_TRAIN (R320): With COORD = 0 a DOWN port starts full training every 10 ms. -/
  | xlAutoTrain (p : Port)
  /-- CDC_TIMEOUT (R475): A clock crossing times out after 4,096 live-side cycles, raises CDC_TMO and puts its link or domain down. -/
  | cdcTimeout (x : Crossing)
  /-- ACK (R332): A mailbox ACK message arrives and answers a sequence number. -/
  | ack (m : MboxMsg)
  /-- FW_CHUNK (R333): A FW_CHUNK message announces a chunk, which is relayed on RELAY = 1 and acknowledged. -/
  | fwChunk (m : MboxMsg)
  /-- LINK_PREP (R334): A LINK_PREP message makes an end check its port and peer and ACK. -/
  | linkPrep (m : MboxMsg)
  /-- LINK_GO (R334): A LINK_GO message makes an end write XL_CMD.TRAIN. -/
  | linkGo (m : MboxMsg)
  /-- FAULT_NOTICE (R335): A FAULT_NOTICE message reaches a coordinator or manager and is collected. -/
  | faultNotice (m : MboxMsg)
  /-- FAULT_RECORD (R335): A FAULT_RECORD message informs a member of a failed device. -/
  | faultRecord (m : MboxMsg)
  /-- PLAN (R332): A PLAN message is passed to host software unread. -/
  | plan (m : MboxMsg)
  /-- MAILBOX_UNKNOWN_KIND (R332): A message of another KIND is refused by ACK with status 1. -/
  | mailboxUnknownKind (m : MboxMsg) (kind : Byte)
  /-- COORD_COLLECT_EXPIRE (R334): The coordinator's 10 ms collection window ends and it sends LINK_PREP. -/
  | coordCollectExpire (k : Nat)
  /-- COORD_ACK_TIMEOUT (R334): The 50 ms ACK wait ends with an ACK missing, and the coordinator stops and records the silent end. -/
  | coordAckTimeout (k : Nat)
  /-- MEMBER_ACK_TIMEOUT (R335): A member fails to ACK within 50 ms and the manager records it as failed. -/
  | memberAckTimeout (k : Nat)
  /-- DCTL_CHAPEL_WRITE (R331): A write of DCTL_CHAPEL naming a manager outside the chapel is refused with ILL. -/
  | dctlChapelWrite (via : Via) (val : Word)
  /-- VF_DOORBELL_WRITE (R340): A VF doorbell write acts as a write of the mapped IMP_QWP, or is discarded. -/
  | vfDoorbellWrite (v : Fin 64) (k : Fin 16) (val : Word)
  /-- PCIE_CONFIG_WRITE (R339): A configuration request to a function changes its PCIe state and may move its TDI to ERROR. -/
  | pcieConfigWrite (f : Fin 64) (w : CfgWrite)
  /-- FUNCTION_LEVEL_RESET (R370): An FLR of a VF or sealed PF quiesces and disables its partitions and resets its engines and
  MSI-X. -/
  | functionLevelReset (f : Fin 64)
  /-- VF_ENABLE_CLEAR (R370): Clearing VF Enable acts on every partition of the VFs by the FLR steps. -/
  | vfEnableClear
  /-- FLR_ABANDON (R370): 50 ms after FLR began, remaining tag entries and host requests of its partitions are marked abandoned. -/
  | flrAbandon (f : Fin 64)
  /-- HOST_COMPLETION (R343): A PCIe completion for a host read or AtomicOp arrives and is delivered, poisoned or an address error. -/
  | hostCompletion (rq : Nat) (ans : Answer) (data : List Byte)
  /-- CPL_TIMEOUT (R343): A host request's completion timeout expires and it completes with poison, raising CPL_TMO. -/
  | cplTimeout (rq : Nat)
  /-- ATS_TRANSLATION_COMPLETION (R342): A translation completion arrives and the request proceeds or is an address error with
  ATS_FAIL. -/
  | atsTranslationCompletion (rq : Nat) (granted : Bool) (page : BitVec 52)
  /-- ATS_INVALIDATION_REQUEST (R342): An Invalidation Request stops use of the affected translation entries. -/
  | atsInvalidationRequest (f : Fin 64) (pasid : BitVec 20) (page : BitVec 52) (tag : Fin 32)
  /-- ATS_INVALIDATION_COMPLETE (R342): Once requests under the entries have completed, the Invalidation Completion is sent. -/
  | atsInvalidationComplete (tag : Fin 32)
  /-- HOST_LINK_DOWN (R496): The host link leaves L0, holding non-posted requests and discarding posted writes. -/
  | hostLinkDown
  /-- HOST_LINK_UP (R496): The host link returns to L0 and held requests and pending MSI-X messages are sent. -/
  | hostLinkUp (rate : Fin 8) (width : Fin 4) (flit : Bool)
  /-- MSIX_SEND (R349): A pending MSI-X vector is sent once its function and vector are unmasked. -/
  | msixSend (f : Fin 64) (vec : Fin 512)
  /-- HST_PTAG_WRITE (R341): A write to HST_PTAG sets a partition's requester identity, or is refused with ILL. -/
  | hstPtagWrite (via : Via) (c : Chan) (val : Word)
  /-- HST_QIRQ_WRITE (R350): A write to HST_QIRQ maps a queue's journal interrupt, or is refused with ILL. -/
  | hstQirqWrite (via : Via) (c : Chan) (val : Word)
  /-- DMA_WP_WRITE (R351): A write of DMA_WP makes an engine process descriptors up to WP. -/
  | dmaWpWrite (via : Via) (c : Chan) (e : Fin 32) (val : Word)
  /-- DMA_DESCRIPTOR_ARRIVAL (R351): A fetched descriptor arrives and starts, or halts the engine if illegal. -/
  | dmaDescriptorArrival (c : Chan) (e : Fin 32) (host : List Byte) (ans : FetchAnswer)
  /-- DMA_DESCRIPTOR_COMPLETE (R352): A descriptor completes in ring order, advances RP, writes CPL as a release and sends the
  vector. -/
  | dmaDescriptorComplete (c : Chan) (e : Fin 32)
  /-- DMA_RESUME (R353): DMA_STAT.RESUME restarts a halted engine at RP. -/
  | dmaResume (via : Via) (c : Chan) (e : Fin 32)
  /-- LOCK_INTERFACE_REQUEST (R354): A TDISP LOCK_INTERFACE_REQUEST locks the TDI, or is refused unless sealed. -/
  | lockInterfaceRequest (f : Fin 64)
  /-- INTERFACE_REPORT (R354): A TDISP interface report request returns the function's BAR ranges and MSI-X size. -/
  | interfaceReport (f : Fin 64)
  /-- TDI_UNLOCK (R354): The host returns the TDI to CONFIG_UNLOCKED, ending the ERROR treatment. -/
  | tdiUnlock (f : Fin 64)
  /-- DCTL_ARRANGE_WRITE (R356): A write of DCTL_ARRANGE sets arrangement and tenant mode only while every QCTL reads READY = 0,
  else ILL. -/
  | dctlArrangeWrite (via : Via) (val : Word)
  /-- IMP_QPART_WRITE (R357): A write of IMP_QPART sets the queue's partition, or is discarded with ERR set. -/
  | impQpartWrite (via : Via) (d : Die) (val : Word)
  /-- IMP_CMAP_WRITE (R364): A write of IMP_CMAP sets a core's slice partition, or is refused with ILL. -/
  | impCmapWrite (via : Via) (d : Die) (val : Word)
  /-- CTRMAP_WRITE (R360): A write of QCTL_CTRMAP assigns a counter block, zeroing its counters and clearing its groups. -/
  | ctrmapWrite (via : Via) (q : Quad) (val : Word)
  /-- QUIESCE (R366): HST_PQCMD QUIESCE holds the partition's queues and engines and counts its outstanding requests. -/
  | quiesce (via : Via) (c : Chan) (p : Fin 64)
  /-- QUIESCE_URGENT (R367): QUIESCE with URGENT holds with URGENT and halts the partition's engines at once. -/
  | quiesceUrgent (via : Via) (c : Chan) (p : Fin 64)
  /-- QUIESCE_INFENCE (R368): QUIESCE with INFENCE also refuses Exwin arrivals to the partition's units. -/
  | quiesceInfence (via : Via) (c : Chan) (p : Fin 64) (urgent : Bool)
  /-- PQ_RESUME (R366): HST_PQCMD RESUME returns the partition to RUN and ends INFENCE. -/
  | pqResume (via : Via) (c : Chan) (p : Fin 64)
  /-- EVENT_MESSAGE (R384): An event message reaches a collector, sets its status bit, and opens or merges an episode taking its
  reactions. -/
  | eventMessage (k : Fin 9) (good : Bool)
  /-- ERRC_STAT_WRITE (R386): A write to ERRC_STAT clears status bits and closes the episode when its MERGED mask is clear. -/
  | errcStatWrite (via : Via) (k : Fin 9) (val : BitVec 64)
  /-- ERRC_FENCE (R390): A write of ERRC_FENCE.FENCE fences the channel in sealed operation. -/
  | errcFence (via : Via) (c : Chan)
  /-- EPIN_CLR (R396): A write of ERRC_EPIN.CLR releases the external error output unless an EPIN episode is open. -/
  | epinClr (via : Via)
  /-- CORE_RESET (R404): A core reset abandons commands, ends begun runs, drains and clears the core. -/
  | coreReset (c : CoreId)
  /-- CLUSTER_RESET (R404): IMP_CRST GO resets one physical row of cores and its network port. -/
  | clusterReset (via : Via) (d : Die) (r : Fin 24)
  /-- PARTITION_RESET (R405): A partition reset absorbs traffic, ends runs with PARTRST, writes back and drains its domain. -/
  | partitionReset (q : Quad) (cause : Fin 7)
  /-- DEVICE_RESET (R406): A device reset drains every quadrant and the H-die and restarts bring-up from staging. -/
  | deviceReset (cause : Fin 7)
  /-- RESET_DRAIN_DONE (R401): A domain's drain finishes and the blocks are reset and reconfigured. -/
  | resetDrainDone (dom : Dom)
  /-- DOMAIN_LEAVE_RESET (R400): A domain leaves reset with GEN increased by one, once no request of the reused generation is
  outstanding. -/
  | domainLeaveReset (dom : Dom)
  /-- DRAIN_ESCALATE (R403): A drain budget expires and the reset escalates to the next domain, or a device drain is forced. -/
  | drainEscalate (dom : Dom)
  /-- CONTROLLER_WATCHDOG_EXPIRE (R407): A quadrant or device controller watchdog expires and starts a partition or device reset
  with CAUSE 5. -/
  | controllerWatchdogExpire (q : Option Quad)
  /-- REPAIR (R414): IMP_RPR REPAIR resets a row and moves its logical columns onto the spare. -/
  | repair (via : Via) (d : Die) (r : Fin 24) (col : Fin 25)
  /-- RETIRE (R415): IMP_RPR RETIRE makes a failed position defective and renumbers the row. -/
  | retire (via : Via) (d : Die) (r : Fin 24) (col : Fin 25)
  /-- PWRGD_RISE (R417): Power-good rises, the H-die locks its PLLs and Pyruno starts from ROM. -/
  | pwrgdRise (straps : Straps)
  /-- PYRUNO_INIT_DONE (R438): Pyruno has read flash, derived the identity and loaded the manifest, and STATE reads READY. -/
  | pyrunoInitDone (fl : Flash) (raw : BitVec 4096)
  /-- SELFTEST (R420): BOOT_CMD SELFTEST starts the quadrants' clocks and runs self-test. -/
  | selftest (via : Via)
  /-- SELFTEST_DONE (R420): Self-test ends in FLOORPLAN with defects recorded, or FAILED with BISTFAIL. -/
  | selftestDone (defects : List CoreId) (fail : Option (DieRef × Byte)) (nfail : Byte)
  /-- MARK (R422): BOOT_FP_MARK.MARK marks a physical position defective. -/
  | mark (via : Via) (col : Fin 32)
  /-- FPCOMMIT (R421): FPCOMMIT numbers every row from its defect mask and loads every CORE_LID. -/
  | fpcommit (via : Via)
  /-- STAGE (R425): BOOT_CMD STAGE reads an image into the boot buffer. -/
  | stage (via : Via)
  /-- STAGE_COMPLETE (R425): The staged image is checked and accepted and measured, or refused with a CODE and IMGREF. -/
  | stageComplete (data : List Byte) (ans : Answer)
  /-- LICENCE (R430): BOOT_CMD LICENCE reads a licence token. -/
  | licence (via : Via)
  /-- LICENCE_COMPLETE (R430): The token is checked and applied as manager role or override, or refused. -/
  | licenceComplete (data : List Byte) (ans : Answer)
  /-- START (R431): BOOT_CMD START starts the firmware and releases the B-dies and C-dies, or is refused with MISSING. -/
  | start (via : Via)
  /-- START_COMPLETE (R431): Started firmware is running, STATE reads RUNNING and every QCTL page reads READY. -/
  | startComplete
  /-- REPORT (R448): HST_ATT_CMD REPORT snapshots and signs an attestation report to the host address. -/
  | report (via : Via) (c : Chan)
  /-- CERT (R440): HST_ATT_CMD CERT writes the CA and device certificates at ADDR. -/
  | cert (via : Via) (c : Chan)
  /-- EXTEND (R444): HST_ATT_CMD EXTEND reads 64 bytes and extends MR12 + MRIDX. -/
  | extend (via : Via) (c : Chan) (mr : Fin 4)
  /-- ATT_COMMAND_COMPLETE (R448): An attestation command's host read or write finishes and HST_ATT_STAT is set. -/
  | attCommandComplete (c : Chan) (data : List Byte) (ans : Answer)
  /-- KEY_LOAD (R453): HST_KEY_CMD LOAD generates key k if absent and loads it into slot k of each B-die of the channel. -/
  | keyLoad (via : Via) (c : Chan) (trng : Fin 3)
  /-- KEY_RENEW (R453): HST_KEY_CMD RENEW replaces key k with a fresh one, or is refused with INUSE. -/
  | keyRenew (via : Via) (c : Chan) (trng : Fin 3)
  /-- GET_VERSION (R449): An SPDM GET_VERSION request is answered. -/
  | getVersion (r : SpdmReq)
  /-- GET_CAPABILITIES (R449): An SPDM GET_CAPABILITIES request is answered. -/
  | getCapabilities (r : SpdmReq)
  /-- NEGOTIATE_ALGORITHMS (R449): An SPDM NEGOTIATE_ALGORITHMS request selects the algorithms of Table 19.1. -/
  | negotiateAlgorithms (r : SpdmReq)
  /-- GET_DIGESTS (R449): An SPDM GET_DIGESTS request is answered for slot 0. -/
  | getDigests (r : SpdmReq)
  /-- GET_CERTIFICATE (R449): An SPDM GET_CERTIFICATE request returns the chain of slot 0. -/
  | getCertificate (r : SpdmReq)
  /-- CHALLENGE (R449): An SPDM CHALLENGE request is answered with a signature by the device key. -/
  | challenge (r : SpdmReq)
  /-- GET_MEASUREMENTS (R449): An SPDM GET_MEASUREMENTS request returns the channel report or a measurement register. -/
  | getMeasurements (r : SpdmReq)
  /-- KEY_EXCHANGE (R449): An SPDM KEY_EXCHANGE request establishes a session. -/
  | keyExchange (r : SpdmReq)
  /-- FINISH (R449): An SPDM FINISH request completes session establishment. -/
  | finish (r : SpdmReq)
  /-- END_SESSION (R449): An SPDM END_SESSION request ends the session. -/
  | endSession (r : SpdmReq)
  /-- IDE_KM (R456): An IDE_KM vendor-defined message inside a session programs IDE keys. -/
  | ideKm (r : SpdmReq) (stream : Fin 5) (on : Bool)
  /-- INPUT_RISE (R459): The input rises above 54 V and soft start charges C_in. -/
  | inputRise
  /-- SOFT_START_DONE (R459): Soft start completes and the first conversion stage runs. -/
  | softStartDone
  /-- INPUT_FAULT (R460): An input fault opens the soft-start switch, stops all logic and discharges the package. -/
  | inputFault (why : InputFault)
  /-- PWR_CAP_WRITE (R463): A write of PWR_CAP sets the cap, or is refused with ILL. -/
  | pwrCapWrite (via : Via) (val : Word)
  /-- PWR_MODE_WRITE (R468): A write of PWR_MODE enters or leaves fixed-frequency mode, or is refused with ILL. -/
  | pwrModeWrite (via : Via) (val : Word)
  /-- FPL_ASSERT (R463): FPL# asserts and the cap in force becomes the smaller of PWR_CAP and PWR_FPL within 50 µs. -/
  | fplAssert
  /-- FPL_RELEASE (R463): FPL# is released and PWR_CAP is back in force within 10 ms. -/
  | fplRelease
  /-- CAP_CONTROLLER_SAMPLE (R464): Every 10 µs the cap controller samples activity and sets press clocks and issue limits. -/
  | capControllerSample (q : Quad)
  /-- DROOP_DETECT (R471): A droop detector sees the core supply below threshold and the die stretches its press clock. -/
  | droopDetect (d : Die)
  /-- UNDERVOLTAGE (R472): A supply below its undervoltage limit for over 100 ns raises VTRIP and resets its domain. -/
  | undervoltage (w : DieRef)
  /-- JTRIP (R473): A die reaches its trip temperature, raises JTRIP and resets its domain. -/
  | jtrip (w : DieRef)
  /-- THERM (R473): A stack reaches its trip temperature, raises THERM and resets its domain. -/
  | therm (t : Stack)
  /-- TRIP_REARM (R473): Once every die and stack of a tripped domain is below its re-arm temperature, the reset proceeds. -/
  | tripRearm (dom : Dom)
  /-- PLL_LOCK_LOSS (R475): A PLL loses lock or fails to lock and raises PLL_LOCK. -/
  | pllLockLoss (p : Pll)
  /-- PERST_ASSERT (R484): A qualifying low of PERST# holds the host link down and resets the device with CAUSE 6. -/
  | perstAssert
  /-- PERST_RELEASE (R484): The release of PERST# starts host link training. -/
  | perstRelease
  /-- SB_REGISTER_WRITE (R486): Sideband command 0xA1 writes a device-wide H-die register. -/
  | sbRegisterWrite (off : Word) (val : Word) (pec : Bool)
  /-- SB_SET_READ_OFFSET (R486): Sideband command 0xA2 sets the read offset. -/
  | sbSetReadOffset (off : Word) (pec : Bool)
  /-- SB_REGISTER_READ (R486): Sideband command 0xA3 returns the register at the read offset with a STATUS. -/
  | sbRegisterRead
  /-- SB_UNKNOWN_COMMAND (R486): Another sideband command code is NACKed. -/
  | sbUnknownCommand (code : Byte)
  /-- SB_ALERT_RESPONSE (R488): A read of the SMBus Alert Response Address returns the S9's address and releases SB_ALERT#. -/
  | sbAlertResponse (again : Bool)
  /-- SETDASA (R485): An I3C SETDASA assigns the dynamic address from the static address. -/
  | setdasa (addr : BitVec 7)
  /-- ENTDAA (R485): An I3C ENTDAA takes part in dynamic address assignment. -/
  | entdaa (addr : BitVec 7)
  /-- BYPASS (R491): The TAP loads BYPASS. -/
  | bypass
  /-- IDCODE (R491): The TAP loads IDCODE, selecting 0x1539_A6B7. -/
  | idcode
  /-- SAMPLE_PRELOAD (R491): The TAP loads SAMPLE/PRELOAD. -/
  | samplePreload
  /-- EXTEST (R491): The TAP loads EXTEST, effective only in INIT or READY. -/
  | extest
  /-- CLAMP (R491): The TAP loads CLAMP, effective only in INIT or READY. -/
  | clamp
  /-- HIGHZ (R491): The TAP loads HIGHZ, effective only in INIT or READY. -/
  | highz
  /-- EXTEST_PULSE (R491): The TAP loads EXTEST_PULSE, effective only in INIT or READY. -/
  | extestPulse
  /-- EXTEST_TRAIN (R491): The TAP loads EXTEST_TRAIN, effective only in INIT or READY. -/
  | extestTrain
  /-- TRST (R491): TRST# low resets the test access port asynchronously. -/
  | trst
  /-- CONTROL_SLOT (R294): At every slot k with k mod 21 = 20 a port's transmitter sends a link-control flit carrying cumulative
  credits, ACKSEQ, NAK, REPLAY and FENCE, closing an encrypted block. -/
  | controlSlot (p : Port)
  /-- ISSUE_SLOT_WINDOW (R284): At each boundary of 16 net cycles a master's issue slots per class and stack are renewed, and
  requests held by regulation issue. -/
  | issueSlotWindow (q : Quad)
  /-- PLL_RELOCK (R475): A PLL that lost lock locks again once its reference returns, letting the domain held in reset proceed. -/
  | pllRelock (p : Pll)
  /-- KEY_COMMAND_DONE (R453): A LOAD or RENEW of a key slot finishes writing the B-dies' slots, sets QCTL_MKEY and clears
  HST_KEY_STAT.BUSY. -/
  | keyCommandDone (c : Chan)
  /-- START_INTERFACE_REQUEST (R354): A TDISP request moves a locked TDI from CONFIG_LOCKED to RUN. -/
  | startInterfaceRequest (f : Fin 64)
  /-- BRIDGE_RETRY (R395): A flit on a quadrant bridge or H-die link fails its check and is resent, counted in BRG_RETRY and
  raising RETRY. -/
  | bridgeRetry (q : Quad) (n : Fin 4)
deriving DecidableEq, Repr

end Sys2Proof
end

