-- ==== Sys2Proof/Decode.lean ====
section
/-!
DEFINITION. The command a table word spells. spec/opcode_table.json gives no row any bits: a command of this block
reaches it as a register access, an event or a message, never as an instruction word, so no word spells a command.
-/

namespace Sys2Proof

/-- The command whose table bits are `w`: none, as no row of the table has bits (log entry 5). -/
def decodeTableWord (_nbits _w : Nat) : Option Instr := none

end Sys2Proof
end

