-- ==== Sys2Proof/Config.lean ====
section
/-!
DEFINITION. What the spec leaves to the implementation or to documents outside it: the free values. Each is a constant
without a body, so no proof can see what it is.
-/

namespace Sys2Proof

/-- The n-th unstated value of a run, as wide as asked (log entry 2). -/
opaque Config.freeValue : Nat → Nat

/-- How far a clock advances at an idle step, by the number of the step and of the clock (log entry 3). -/
opaque Config.freeTick : Nat → Nat → Nat

/-- The fuzzy extractor of R438: raw response and helper data give the 256-bit root, or nothing (log entry 4). -/
opaque Config.pufExtract : BitVec 4096 → List Byte → Option (BitVec 256)

/-- Bytes a line delivers when it is decrypted under a key that did not write it (R262): line number, tag of the writing
key, tag of the reading key, the line as it was written (log entry 9). -/
opaque Config.wrongKey : Nat → Nat → Nat → Nat → Nat

/-- Memory-controller cycles a per-bank refresh keeps its bank from serving; the spec gives no figure (R266; log entry 132). -/
opaque Config.refreshCycles : Nat

/-- The bytes of poisoned data where nothing else is there: line number (R30, R260, R263; log entry 10). -/
opaque Config.poisonData : Nat → Nat

/-- The code of a message kind in the syndrome of PROTO (R255); the spec does not number the kinds (log entry 8). -/
opaque Config.protoKind : Nat → Nat

/-- Krynar's and the licensing public keys held in the boot ROM; their values are not in the spec (log entry 4). -/
opaque Config.romKey : Nat → List Byte

/-- Whether a chain of a device-CA certificate and a device certificate verifies under Krynar's root, and the device's key (R440);
X.509 is not in the spec (log entry 4). -/
opaque Config.chainKey : List Byte → List Byte → Option (List Byte)

/-- The Pyruno ROM's bytes, version and interface epoch, fixed in the part (Table 18.4, R444; log entry 23). -/
opaque Config.romImage : List Byte
opaque Config.romVersion : Nat
opaque Config.romEpoch : Nat

/-- The body of an SPDM response: its code, the request's fields and what the spec says it conveys (R449). DSP0274's layouts,
transcripts and DHE are not in the spec (log entry 4). -/
opaque Config.spdmBody : Nat → List Byte → List Byte

end Sys2Proof
end

