-- ==== Sys2Proof/Machine/RegMap.lean ====
section
/-!
DEFINITION. The register maps of the S9: every field of every register table of the spec, with its offset, bits,
access type and Reset column. A field with `count` > 1 stands at off + stride*i. Resets the tables give per block,
per index or per register number are completed by `fieldReset`.
-/

namespace Sys2Proof.Machine

open Sys2Proof

/-- Table 0.5. -/
inductive Acc where
  | ro | rw | w1c | w1s | wo | rwl
deriving DecidableEq, Repr

/-- One field of a register map (R7). -/
structure FieldDef where
  off : Nat
  hi : Nat
  lo : Nat
  acc : Acc
  reset : Nat
  count : Nat
  stride : Nat
deriving DecidableEq, Repr

/-- The field of the i-th register of its kind. -/
def FieldDef.at (f : FieldDef) (i : Nat) : FieldDef := { f with off := f.off + f.stride * i, count := 1 }

/-- Whether the field stands in the register at `off`. -/
def FieldDef.stands (f : FieldDef) (off : Nat) : Bool :=
  decide (f.off ≤ off) && (off - f.off) % f.stride == 0 && decide ((off - f.off) / f.stride < f.count)

/-- The kinds of register page (Tables 2.3 to 2.5). -/
inductive Kind where
  | hst | hstCh | boot | dctl | errcDev | errcCh | errcQ | pwr | clk | dma | qctl | case | dir | mc | stk | xl | brg
  | imp | gal | core
deriving DecidableEq, Repr

-- 0x000 BLK_ID: Block identity (R40)
def fBLK_ID_TYPE : FieldDef := ⟨0x000, 31, 24, .ro, 0, 1, 4⟩
def fBLK_ID_INST : FieldDef := ⟨0x000, 23, 16, .ro, 0, 1, 4⟩
def fBLK_ID_LOC : FieldDef := ⟨0x000, 15, 0, .ro, 0, 1, 4⟩
-- 0x004 BLK_VER: Block version (R40)
def fBLK_VER_STEP : FieldDef := ⟨0x004, 31, 24, .ro, 0x41, 1, 4⟩
def fBLK_VER_MAJOR : FieldDef := ⟨0x004, 23, 16, .ro, 1, 1, 4⟩
def fBLK_VER_MINOR : FieldDef := ⟨0x004, 15, 0, .ro, 0, 1, 4⟩
-- 0x008 BLK_CAP0: Capabilities 0 (R40)
def fBLK_CAP0_NSRC : FieldDef := ⟨0x008, 31, 27, .ro, 0, 1, 4⟩
def fBLK_CAP0_BLK : FieldDef := ⟨0x008, 26, 0, .ro, 0, 1, 4⟩
-- 0x00C BLK_CAP1: Capabilities 1 (R40)
def fBLK_CAP1_BLK : FieldDef := ⟨0x00C, 31, 0, .ro, 0, 1, 4⟩
-- 0x010 BLK_CTL: Control (R40)
def fBLK_CTL_BRST : FieldDef := ⟨0x010, 31, 31, .w1s, 0, 1, 4⟩
def fBLK_CTL_QREQ : FieldDef := ⟨0x010, 1, 1, .rw, 0, 1, 4⟩
-- 0x014 BLK_STAT: Status (R40)
def fBLK_STAT_SEALED : FieldDef := ⟨0x014, 31, 31, .ro, 0, 1, 4⟩
def fBLK_STAT_BADACC : FieldDef := ⟨0x014, 9, 9, .w1c, 0, 1, 4⟩
def fBLK_STAT_LKV : FieldDef := ⟨0x014, 8, 8, .w1c, 0, 1, 4⟩
def fBLK_STAT_QDONE : FieldDef := ⟨0x014, 2, 2, .ro, 0, 1, 4⟩
def fBLK_STAT_INRST : FieldDef := ⟨0x014, 1, 1, .ro, 1, 1, 4⟩
def fBLK_STAT_READY : FieldDef := ⟨0x014, 0, 0, .ro, 0, 1, 4⟩
-- 0x018 BLK_GEN: Generation tag (R40)
def fBLK_GEN_DOM : FieldDef := ⟨0x018, 9, 8, .ro, 0, 1, 4⟩
def fBLK_GEN_GEN : FieldDef := ⟨0x018, 7, 0, .ro, 0, 1, 4⟩
-- 0x020 ERR_STAT: Error status (R40)
def fERR_STAT_SRC : FieldDef := ⟨0x020, 15, 0, .w1c, 0, 1, 4⟩
-- 0x024 ERR_MASK: Error mask (R40)
def fERR_MASK_MASK : FieldDef := ⟨0x024, 15, 0, .rw, 0, 1, 4⟩
-- 0x028 ERR_SEV: Error severity (R40)
def fERR_SEV_SEV : FieldDef := ⟨0x028, 31, 0, .rwl, 0, 1, 4⟩
-- 0x02C ERR_ACT: Error reaction (R40)
def fERR_ACT_ACT : FieldDef := ⟨0x02C, 31, 0, .rwl, 0, 1, 4⟩
-- 0x030 ERR_FIRST: First error (R40)
def fERR_FIRST_VALID : FieldDef := ⟨0x030, 31, 31, .ro, 0, 1, 4⟩
def fERR_FIRST_SRC : FieldDef := ⟨0x030, 19, 16, .ro, 0, 1, 4⟩
def fERR_FIRST_SYND : FieldDef := ⟨0x030, 15, 0, .ro, 0, 1, 4⟩
/-- Every field of the hdr map. -/
def fieldsHdr : List FieldDef :=
  [fBLK_ID_TYPE, fBLK_ID_INST, fBLK_ID_LOC, fBLK_VER_STEP, fBLK_VER_MAJOR, fBLK_VER_MINOR, fBLK_CAP0_NSRC,
   fBLK_CAP0_BLK, fBLK_CAP1_BLK, fBLK_CTL_BRST, fBLK_CTL_QREQ, fBLK_STAT_SEALED, fBLK_STAT_BADACC, fBLK_STAT_LKV,
   fBLK_STAT_QDONE, fBLK_STAT_INRST, fBLK_STAT_READY, fBLK_GEN_DOM, fBLK_GEN_GEN, fERR_STAT_SRC, fERR_MASK_MASK,
   fERR_SEV_SEV, fERR_ACT_ACT, fERR_FIRST_VALID, fERR_FIRST_SRC, fERR_FIRST_SYND]

-- 0x100 HST_LINK: Link status (device HST page) (R354)
def fHST_LINK_UP : FieldDef := ⟨0x100, 31, 31, .ro, 0, 1, 4⟩
def fHST_LINK_FLIT : FieldDef := ⟨0x100, 12, 12, .ro, 0, 1, 4⟩
def fHST_LINK_WIDTH : FieldDef := ⟨0x100, 11, 8, .ro, 0, 1, 4⟩
def fHST_LINK_RATE : FieldDef := ⟨0x100, 3, 0, .ro, 0, 1, 4⟩
-- 0x104 HST_CTL: Port control (device HST page) (R354)
def fHST_CTL_RO : FieldDef := ⟨0x104, 0, 0, .rwl, 0, 1, 4⟩
/-- Every field of the hst map. -/
def fieldsHst : List FieldDef :=
  [fHST_LINK_UP, fHST_LINK_FLIT, fHST_LINK_WIDTH, fHST_LINK_RATE, fHST_CTL_RO]

-- 0x100 HST_HWIN_HI: Host window high address bits (channel HST page) (R33)
def fHST_HWIN_HI_BASE : FieldDef := ⟨0x100, 16, 0, .rw, 0, 1, 4⟩
-- 0x104 HST_PTAG_IDX: Partition index (R354)
def fHST_PTAG_IDX_PART : FieldDef := ⟨0x104, 5, 0, .rw, 0, 1, 4⟩
-- 0x108 HST_PTAG: Requester identity (R354)
def fHST_PTAG_VALID : FieldDef := ⟨0x108, 31, 31, .rw, 0, 1, 4⟩
def fHST_PTAG_ILL : FieldDef := ⟨0x108, 30, 30, .w1c, 0, 1, 4⟩
def fHST_PTAG_ATS : FieldDef := ⟨0x108, 9, 9, .rw, 0, 1, 4⟩
def fHST_PTAG_PASIDEN : FieldDef := ⟨0x108, 8, 8, .rw, 0, 1, 4⟩
def fHST_PTAG_FN : FieldDef := ⟨0x108, 5, 0, .rw, 0, 1, 4⟩
-- 0x10C HST_PASID: Partition PASID (R354)
def fHST_PASID_PASID : FieldDef := ⟨0x10C, 19, 0, .rw, 0, 1, 4⟩
-- 0x110 HST_QIRQ_IDX: Queue interrupt index (R354)
def fHST_QIRQ_IDX_DIE : FieldDef := ⟨0x110, 8, 6, .rw, 0, 1, 4⟩
def fHST_QIRQ_IDX_Q : FieldDef := ⟨0x110, 5, 0, .rw, 0, 1, 4⟩
-- 0x114 HST_QIRQ: Queue interrupt (R354)
def fHST_QIRQ_EN : FieldDef := ⟨0x114, 31, 31, .rw, 0, 1, 4⟩
def fHST_QIRQ_ILL : FieldDef := ⟨0x114, 30, 30, .w1c, 0, 1, 4⟩
def fHST_QIRQ_MODE : FieldDef := ⟨0x114, 29, 29, .rw, 0, 1, 4⟩
def fHST_QIRQ_FN : FieldDef := ⟨0x114, 21, 16, .rw, 0, 1, 4⟩
def fHST_QIRQ_VEC : FieldDef := ⟨0x114, 8, 0, .rw, 0, 1, 4⟩
-- 0x118 HST_DBMAP_IDX: Doorbell map index (channel 0 page only) (R354)
def fHST_DBMAP_IDX_ENT : FieldDef := ⟨0x118, 9, 0, .rw, 0, 1, 4⟩
-- 0x11C HST_DBMAP: Doorbell map (channel 0 page only) (R354)
def fHST_DBMAP_VALID : FieldDef := ⟨0x11C, 31, 31, .rw, 0, 1, 4⟩
def fHST_DBMAP_DIE : FieldDef := ⟨0x11C, 10, 8, .rw, 0, 1, 4⟩
def fHST_DBMAP_Q : FieldDef := ⟨0x11C, 5, 0, .rw, 0, 1, 4⟩
-- 0x140 HST_MISS: Late host-window completions, class *t* (R354)
def fHST_MISS_COUNT : FieldDef := ⟨0x140, 31, 0, .w1c, 0, 4, 4⟩
-- 0x150 HST_PQCMD: Partition quiesce command (channel HST page) (R374)
def fHST_PQCMD_RESUME : FieldDef := ⟨0x150, 11, 11, .wo, 0, 1, 4⟩
def fHST_PQCMD_INFENCE : FieldDef := ⟨0x150, 10, 10, .wo, 0, 1, 4⟩
def fHST_PQCMD_URGENT : FieldDef := ⟨0x150, 9, 9, .wo, 0, 1, 4⟩
def fHST_PQCMD_QUIESCE : FieldDef := ⟨0x150, 8, 8, .wo, 0, 1, 4⟩
def fHST_PQCMD_PART : FieldDef := ⟨0x150, 5, 0, .rw, 0, 1, 4⟩
-- 0x154 HST_PQSTAT: Partition quiesce status (channel HST page) (R374)
def fHST_PQSTAT_STATE : FieldDef := ⟨0x154, 31, 30, .ro, 0, 1, 4⟩
def fHST_PQSTAT_INFENCE : FieldDef := ⟨0x154, 29, 29, .ro, 0, 1, 4⟩
def fHST_PQSTAT_ILL : FieldDef := ⟨0x154, 28, 28, .w1c, 0, 1, 4⟩
def fHST_PQSTAT_OUTH : FieldDef := ⟨0x154, 27, 17, .ro, 0, 1, 4⟩
def fHST_PQSTAT_OUTX : FieldDef := ⟨0x154, 16, 0, .ro, 0, 1, 4⟩
-- 0x160 HST_SHJ_LO: Shadow journal base (R415)
def fHST_SHJ_LO_ADDR : FieldDef := ⟨0x160, 31, 12, .rw, 0, 1, 4⟩
-- 0x164 HST_SHJ_HI: Shadow journal base (R415)
def fHST_SHJ_HI_ADDR : FieldDef := ⟨0x164, 15, 0, .rw, 0, 1, 4⟩
-- 0x168 HST_SHJ_CFG: Shadow journal configuration (R415)
def fHST_SHJ_CFG_EN : FieldDef := ⟨0x168, 31, 31, .rw, 0, 1, 4⟩
def fHST_SHJ_CFG_LOGSZ : FieldDef := ⟨0x168, 28, 24, .rw, 0, 1, 4⟩
def fHST_SHJ_CFG_PART : FieldDef := ⟨0x168, 5, 0, .rw, 0, 1, 4⟩
-- 0x16C HST_SHJ_COUNT: Shadow records written (R415)
def fHST_SHJ_COUNT_OVF : FieldDef := ⟨0x16C, 31, 31, .w1c, 0, 1, 4⟩
def fHST_SHJ_COUNT_COUNT : FieldDef := ⟨0x16C, 30, 0, .ro, 0, 1, 4⟩
-- 0x170 HST_SHJ_RP: Shadow records consumed (R415)
def fHST_SHJ_RP_RP : FieldDef := ⟨0x170, 30, 0, .rw, 0, 1, 4⟩
-- 0x180 HST_ATT_NIDX: Nonce word index (R456)
def fHST_ATT_NIDX_WORD : FieldDef := ⟨0x180, 2, 0, .rw, 0, 1, 4⟩
-- 0x184 HST_ATT_NONCE: Nonce word (R456)
def fHST_ATT_NONCE_DATA : FieldDef := ⟨0x184, 31, 0, .rw, 0, 1, 4⟩
-- 0x188 HST_ATT_ADDR_LO: Host address (R456)
def fHST_ATT_ADDR_LO_ADDR : FieldDef := ⟨0x188, 31, 6, .rw, 0, 1, 4⟩
-- 0x18C HST_ATT_ADDR_HI: Host address (R456)
def fHST_ATT_ADDR_HI_ADDR : FieldDef := ⟨0x18C, 31, 0, .rw, 0, 1, 4⟩
-- 0x190 HST_ATT_CMD: Attestation command (R456)
def fHST_ATT_CMD_MRIDX : FieldDef := ⟨0x190, 9, 8, .rw, 0, 1, 4⟩
def fHST_ATT_CMD_EXTEND : FieldDef := ⟨0x190, 2, 2, .wo, 0, 1, 4⟩
def fHST_ATT_CMD_CERT : FieldDef := ⟨0x190, 1, 1, .wo, 0, 1, 4⟩
def fHST_ATT_CMD_REPORT : FieldDef := ⟨0x190, 0, 0, .wo, 0, 1, 4⟩
-- 0x194 HST_ATT_STAT: Attestation status (R456)
def fHST_ATT_STAT_BUSY : FieldDef := ⟨0x194, 31, 31, .ro, 0, 1, 4⟩
def fHST_ATT_STAT_ILL : FieldDef := ⟨0x194, 30, 30, .w1c, 0, 1, 4⟩
def fHST_ATT_STAT_CODE : FieldDef := ⟨0x194, 27, 24, .ro, 0, 1, 4⟩
def fHST_ATT_STAT_LEN : FieldDef := ⟨0x194, 11, 0, .ro, 0, 1, 4⟩
-- 0x1A0 HST_KEY_IDX: Key slot index (R456)
def fHST_KEY_IDX_SLOT : FieldDef := ⟨0x1A0, 5, 0, .rw, 0, 1, 4⟩
-- 0x1A4 HST_KEY_CMD: Key command (R456)
def fHST_KEY_CMD_RENEW : FieldDef := ⟨0x1A4, 1, 1, .wo, 0, 1, 4⟩
def fHST_KEY_CMD_LOAD : FieldDef := ⟨0x1A4, 0, 0, .wo, 0, 1, 4⟩
-- 0x1A8 HST_KEY_STAT: Key status (R456)
def fHST_KEY_STAT_BUSY : FieldDef := ⟨0x1A8, 31, 31, .ro, 0, 1, 4⟩
def fHST_KEY_STAT_ILL : FieldDef := ⟨0x1A8, 30, 30, .w1c, 0, 1, 4⟩
def fHST_KEY_STAT_CODE : FieldDef := ⟨0x1A8, 27, 24, .ro, 0, 1, 4⟩
/-- Every field of the hstCh map. -/
def fieldsHstCh : List FieldDef :=
  [fHST_HWIN_HI_BASE, fHST_PTAG_IDX_PART, fHST_PTAG_VALID, fHST_PTAG_ILL, fHST_PTAG_ATS, fHST_PTAG_PASIDEN,
   fHST_PTAG_FN, fHST_PASID_PASID, fHST_QIRQ_IDX_DIE, fHST_QIRQ_IDX_Q, fHST_QIRQ_EN, fHST_QIRQ_ILL, fHST_QIRQ_MODE,
   fHST_QIRQ_FN, fHST_QIRQ_VEC, fHST_DBMAP_IDX_ENT, fHST_DBMAP_VALID, fHST_DBMAP_DIE, fHST_DBMAP_Q,
   fHST_MISS_COUNT, fHST_PQCMD_RESUME, fHST_PQCMD_INFENCE, fHST_PQCMD_URGENT, fHST_PQCMD_QUIESCE, fHST_PQCMD_PART,
   fHST_PQSTAT_STATE, fHST_PQSTAT_INFENCE, fHST_PQSTAT_ILL, fHST_PQSTAT_OUTH, fHST_PQSTAT_OUTX, fHST_SHJ_LO_ADDR,
   fHST_SHJ_HI_ADDR, fHST_SHJ_CFG_EN, fHST_SHJ_CFG_LOGSZ, fHST_SHJ_CFG_PART, fHST_SHJ_COUNT_OVF,
   fHST_SHJ_COUNT_COUNT, fHST_SHJ_RP_RP, fHST_ATT_NIDX_WORD, fHST_ATT_NONCE_DATA] ++
  [fHST_ATT_ADDR_LO_ADDR, fHST_ATT_ADDR_HI_ADDR, fHST_ATT_CMD_MRIDX, fHST_ATT_CMD_EXTEND, fHST_ATT_CMD_CERT,
   fHST_ATT_CMD_REPORT, fHST_ATT_STAT_BUSY, fHST_ATT_STAT_ILL, fHST_ATT_STAT_CODE, fHST_ATT_STAT_LEN,
   fHST_KEY_IDX_SLOT, fHST_KEY_CMD_RENEW, fHST_KEY_CMD_LOAD, fHST_KEY_STAT_BUSY, fHST_KEY_STAT_ILL,
   fHST_KEY_STAT_CODE]

-- 0x100 BOOT_STAT: Boot status (R436)
def fBOOT_STAT_STATE : FieldDef := ⟨0x100, 31, 29, .ro, 0, 1, 4⟩
def fBOOT_STAT_BUSY : FieldDef := ⟨0x100, 28, 28, .ro, 0, 1, 4⟩
def fBOOT_STAT_ILL : FieldDef := ⟨0x100, 27, 27, .w1c, 0, 1, 4⟩
def fBOOT_STAT_NOID : FieldDef := ⟨0x100, 26, 26, .ro, 0, 1, 4⟩
def fBOOT_STAT_NOMAN : FieldDef := ⟨0x100, 25, 25, .ro, 0, 1, 4⟩
def fBOOT_STAT_WARM : FieldDef := ⟨0x100, 24, 24, .ro, 0, 1, 4⟩
def fBOOT_STAT_CODE : FieldDef := ⟨0x100, 7, 0, .ro, 0, 1, 4⟩
-- 0x104 BOOT_CMD: Boot command (R436)
def fBOOT_CMD_START : FieldDef := ⟨0x104, 4, 4, .wo, 0, 1, 4⟩
def fBOOT_CMD_LICENCE : FieldDef := ⟨0x104, 3, 3, .wo, 0, 1, 4⟩
def fBOOT_CMD_STAGE : FieldDef := ⟨0x104, 2, 2, .wo, 0, 1, 4⟩
def fBOOT_CMD_FPCOMMIT : FieldDef := ⟨0x104, 1, 1, .wo, 0, 1, 4⟩
def fBOOT_CMD_SELFTEST : FieldDef := ⟨0x104, 0, 0, .wo, 0, 1, 4⟩
-- 0x108 BOOT_SRC_LO: Source address (R436)
def fBOOT_SRC_LO_ADDR : FieldDef := ⟨0x108, 31, 12, .rw, 0, 1, 4⟩
-- 0x10C BOOT_SRC_HI: Source address (R436)
def fBOOT_SRC_HI_ADDR : FieldDef := ⟨0x10C, 31, 0, .rw, 0, 1, 4⟩
-- 0x110 BOOT_LEN: Source length (R436)
def fBOOT_LEN_LEN : FieldDef := ⟨0x110, 25, 0, .rw, 0, 1, 4⟩
-- 0x114 BOOT_COMP_IDX: Component index (R436)
def fBOOT_COMP_IDX_COMP : FieldDef := ⟨0x114, 3, 0, .rw, 0, 1, 4⟩
-- 0x118 BOOT_COMP: Component state (R436)
def fBOOT_COMP_LOADED : FieldDef := ⟨0x118, 31, 31, .ro, 0, 1, 4⟩
def fBOOT_COMP_STARTED : FieldDef := ⟨0x118, 30, 30, .ro, 0, 1, 4⟩
def fBOOT_COMP_OVR : FieldDef := ⟨0x118, 29, 29, .ro, 0, 1, 4⟩
def fBOOT_COMP_EPOCH : FieldDef := ⟨0x118, 23, 16, .ro, 0, 1, 4⟩
def fBOOT_COMP_VERSION : FieldDef := ⟨0x118, 15, 0, .ro, 0, 1, 4⟩
-- 0x11C BOOT_MAN: Manifest in force (R436)
def fBOOT_MAN_VALID : FieldDef := ⟨0x11C, 31, 31, .ro, 0, 1, 4⟩
def fBOOT_MAN_HOSTSRC : FieldDef := ⟨0x11C, 30, 30, .ro, 0, 1, 4⟩
def fBOOT_MAN_NCOMB : FieldDef := ⟨0x11C, 27, 16, .ro, 0, 1, 4⟩
def fBOOT_MAN_MVER : FieldDef := ⟨0x11C, 15, 0, .ro, 0, 1, 4⟩
-- 0x120 BOOT_FP_IDX: Floor-plan index (R436)
def fBOOT_FP_IDX_DIE : FieldDef := ⟨0x120, 10, 8, .rw, 0, 1, 4⟩
def fBOOT_FP_IDX_ROW : FieldDef := ⟨0x120, 4, 0, .rw, 0, 1, 4⟩
-- 0x124 BOOT_FP_ROW: Floor-plan row (R436)
def fBOOT_FP_ROW_SPARE : FieldDef := ⟨0x124, 30, 30, .ro, 0, 1, 4⟩
def fBOOT_FP_ROW_NLOG : FieldDef := ⟨0x124, 29, 25, .ro, 0, 1, 4⟩
def fBOOT_FP_ROW_DEF : FieldDef := ⟨0x124, 24, 0, .ro, 0, 1, 4⟩
-- 0x128 BOOT_FP_MARK: Floor-plan mark (R436)
def fBOOT_FP_MARK_PCOL : FieldDef := ⟨0x128, 20, 16, .wo, 0, 1, 4⟩
def fBOOT_FP_MARK_MARK : FieldDef := ⟨0x128, 0, 0, .wo, 0, 1, 4⟩
-- 0x12C BOOT_FP_SUM: Floor-plan totals (R436)
def fBOOT_FP_SUM_SPARES : FieldDef := ⟨0x12C, 23, 16, .ro, 0, 1, 4⟩
def fBOOT_FP_SUM_LOGICAL : FieldDef := ⟨0x12C, 12, 0, .ro, 0, 1, 4⟩
-- 0x130 BOOT_BIST_FAIL: Self-test failure (R436)
def fBOOT_BIST_FAIL_VALID : FieldDef := ⟨0x130, 31, 31, .ro, 0, 1, 4⟩
def fBOOT_BIST_FAIL_COUNT : FieldDef := ⟨0x130, 23, 16, .ro, 0, 1, 4⟩
def fBOOT_BIST_FAIL_DIE : FieldDef := ⟨0x130, 15, 12, .ro, 0, 1, 4⟩
def fBOOT_BIST_FAIL_TYPE : FieldDef := ⟨0x130, 7, 0, .ro, 0, 1, 4⟩
-- 0x134 BOOT_LIC: Licences applied (R436)
def fBOOT_LIC_NOVR : FieldDef := ⟨0x134, 15, 8, .ro, 0, 1, 4⟩
def fBOOT_LIC_MGR : FieldDef := ⟨0x134, 0, 0, .ro, 0, 1, 4⟩
/-- Every field of the boot map. -/
def fieldsBoot : List FieldDef :=
  [fBOOT_STAT_STATE, fBOOT_STAT_BUSY, fBOOT_STAT_ILL, fBOOT_STAT_NOID, fBOOT_STAT_NOMAN, fBOOT_STAT_WARM,
   fBOOT_STAT_CODE, fBOOT_CMD_START, fBOOT_CMD_LICENCE, fBOOT_CMD_STAGE, fBOOT_CMD_FPCOMMIT, fBOOT_CMD_SELFTEST,
   fBOOT_SRC_LO_ADDR, fBOOT_SRC_HI_ADDR, fBOOT_LEN_LEN, fBOOT_COMP_IDX_COMP, fBOOT_COMP_LOADED, fBOOT_COMP_STARTED,
   fBOOT_COMP_OVR, fBOOT_COMP_EPOCH, fBOOT_COMP_VERSION, fBOOT_MAN_VALID, fBOOT_MAN_HOSTSRC, fBOOT_MAN_NCOMB,
   fBOOT_MAN_MVER, fBOOT_FP_IDX_DIE, fBOOT_FP_IDX_ROW, fBOOT_FP_ROW_SPARE, fBOOT_FP_ROW_NLOG, fBOOT_FP_ROW_DEF,
   fBOOT_FP_MARK_PCOL, fBOOT_FP_MARK_MARK, fBOOT_FP_SUM_SPARES, fBOOT_FP_SUM_LOGICAL, fBOOT_BIST_FAIL_VALID,
   fBOOT_BIST_FAIL_COUNT, fBOOT_BIST_FAIL_DIE, fBOOT_BIST_FAIL_TYPE, fBOOT_LIC_NOVR, fBOOT_LIC_MGR]

-- 0x100 DCTL_SEAL: Configuration seal (DCTL page) (R43)
def fDCTL_SEAL_SEAL : FieldDef := ⟨0x100, 31, 31, .w1s, 0, 1, 4⟩
-- 0x120 DCTL_DEVID: Device identifier (R337)
def fDCTL_DEVID_DEV : FieldDef := ⟨0x120, 15, 0, .rwl, 0, 1, 4⟩
-- 0x124 DCTL_TORUS: Ring lengths (R337)
def fDCTL_TORUS_L3 : FieldDef := ⟨0x124, 15, 12, .rwl, 0xf, 1, 4⟩
def fDCTL_TORUS_L2 : FieldDef := ⟨0x124, 11, 8, .rwl, 0xf, 1, 4⟩
def fDCTL_TORUS_L1 : FieldDef := ⟨0x124, 7, 4, .rwl, 0xf, 1, 4⟩
def fDCTL_TORUS_L0 : FieldDef := ⟨0x124, 3, 0, .rwl, 0xf, 1, 4⟩
-- 0x128 DCTL_CHAPEL: Managers (R337)
def fDCTL_CHAPEL_TOP : FieldDef := ⟨0x128, 31, 16, .rwl, 0, 1, 4⟩
def fDCTL_CHAPEL_MGR : FieldDef := ⟨0x128, 15, 0, .rwl, 0, 1, 4⟩
-- 0x12C DCTL_ROLE: Role (R337)
def fDCTL_ROLE_ILL : FieldDef := ⟨0x12C, 31, 31, .w1c, 0, 1, 4⟩
def fDCTL_ROLE_ISTOP : FieldDef := ⟨0x12C, 2, 2, .ro, 0, 1, 4⟩
def fDCTL_ROLE_ISMGR : FieldDef := ⟨0x12C, 1, 1, .ro, 0, 1, 4⟩
def fDCTL_ROLE_LIC : FieldDef := ⟨0x12C, 0, 0, .ro, 0, 1, 4⟩
-- 0x130 DCTL_MBOX_LO: Mailbox (R337)
def fDCTL_MBOX_LO_ADDR : FieldDef := ⟨0x130, 31, 21, .rwl, 0, 1, 4⟩
-- 0x134 DCTL_MBOX_HI: Mailbox (R337)
def fDCTL_MBOX_HI_ADDR : FieldDef := ⟨0x134, 27, 0, .rwl, 0, 1, 4⟩
-- 0x138 DCTL_XR_PINIDX: Rail pin index (R337)
def fDCTL_XR_PINIDX_WORD : FieldDef := ⟨0x138, 3, 0, .rw, 0, 1, 4⟩
-- 0x13C DCTL_XR_PIN: Rail pins (R337)
def fDCTL_XR_PIN_PIN : FieldDef := ⟨0x13C, 31, 0, .rw, 0, 1, 4⟩
-- 0x140 DCTL_ARRANGE: Arrangement and tenant mode (DCTL page) (R374)
def fDCTL_ARRANGE_ILL : FieldDef := ⟨0x140, 31, 31, .w1c, 0, 1, 4⟩
def fDCTL_ARRANGE_ARR : FieldDef := ⟨0x140, 9, 8, .rwl, 0, 1, 4⟩
def fDCTL_ARRANGE_TMODE : FieldDef := ⟨0x140, 0, 0, .rwl, 0, 1, 4⟩
-- 0x200 DCTL_ID_STAT: Identity status (DCTL page) (R456)
def fDCTL_ID_STAT_NOID : FieldDef := ⟨0x200, 31, 31, .ro, 0, 1, 4⟩
def fDCTL_ID_STAT_NOCERT : FieldDef := ⟨0x200, 30, 30, .ro, 0, 1, 4⟩
def fDCTL_ID_STAT_ENTFAIL : FieldDef := ⟨0x200, 29, 29, .ro, 0, 1, 4⟩
def fDCTL_ID_STAT_CERTLEN : FieldDef := ⟨0x200, 11, 0, .ro, 0, 1, 4⟩
-- 0x204 DCTL_ID_IDX: Identity word index (DCTL page) (R456)
def fDCTL_ID_IDX_WORD : FieldDef := ⟨0x204, 3, 0, .rw, 0, 1, 4⟩
-- 0x208 DCTL_ID_WORD: Identity word (DCTL page) (R456)
def fDCTL_ID_WORD_DATA : FieldDef := ⟨0x208, 31, 0, .ro, 0, 1, 4⟩
/-- Every field of the dctl map. -/
def fieldsDctl : List FieldDef :=
  [fDCTL_SEAL_SEAL, fDCTL_DEVID_DEV, fDCTL_TORUS_L3, fDCTL_TORUS_L2, fDCTL_TORUS_L1, fDCTL_TORUS_L0,
   fDCTL_CHAPEL_TOP, fDCTL_CHAPEL_MGR, fDCTL_ROLE_ILL, fDCTL_ROLE_ISTOP, fDCTL_ROLE_ISMGR, fDCTL_ROLE_LIC,
   fDCTL_MBOX_LO_ADDR, fDCTL_MBOX_HI_ADDR, fDCTL_XR_PINIDX_WORD, fDCTL_XR_PIN_PIN, fDCTL_ARRANGE_ILL,
   fDCTL_ARRANGE_ARR, fDCTL_ARRANGE_TMODE, fDCTL_ID_STAT_NOID, fDCTL_ID_STAT_NOCERT, fDCTL_ID_STAT_ENTFAIL,
   fDCTL_ID_STAT_CERTLEN, fDCTL_ID_IDX_WORD, fDCTL_ID_WORD_DATA]

-- 0x100 ERRC_STAT_LO: Status word (R396)
def fERRC_STAT_LO_BITS : FieldDef := ⟨0x100, 31, 0, .w1c, 0, 1, 4⟩
-- 0x104 ERRC_STAT_HI: Status word (R396)
def fERRC_STAT_HI_BITS : FieldDef := ⟨0x104, 31, 0, .w1c, 0, 1, 4⟩
-- 0x108 ERRC_MASK_LO: Status mask (R396)
def fERRC_MASK_LO_MASK : FieldDef := ⟨0x108, 31, 0, .rw, 0, 1, 4⟩
-- 0x10C ERRC_MASK_HI: Status mask (R396)
def fERRC_MASK_HI_MASK : FieldDef := ⟨0x10C, 31, 0, .rw, 0, 1, 4⟩
-- 0x110 ERRC_FAULT: Fault state (R396)
def fERRC_FAULT_OPEN : FieldDef := ⟨0x110, 31, 31, .ro, 0, 1, 4⟩
def fERRC_FAULT_SEV : FieldDef := ⟨0x110, 27, 26, .ro, 0, 1, 4⟩
def fERRC_FAULT_ENT : FieldDef := ⟨0x110, 3, 0, .ro, 0, 1, 4⟩
-- 0x114 ERRC_NEXT: Next history entry (R396)
def fERRC_NEXT_SEQ : FieldDef := ⟨0x114, 31, 16, .ro, 0, 1, 4⟩
def fERRC_NEXT_ENT : FieldDef := ⟨0x114, 3, 0, .ro, 0, 1, 4⟩
-- 0x118 ERRC_NMIV: NMI vector (R396)
def fERRC_NMIV_VEC : FieldDef := ⟨0x118, 8, 0, .rwl, 0, 1, 4⟩
-- 0x120 ERRC_PROF0: Reaction profile *p* (R396)
def fERRC_PROF0_INT : FieldDef := ⟨0x120, 31, 31, .rwl, 1, 1, 4⟩
def fERRC_PROF0_NMI : FieldDef := ⟨0x120, 30, 30, .rwl, 0, 1, 4⟩
def fERRC_PROF0_BRST : FieldDef := ⟨0x120, 29, 29, .rwl, 0, 1, 4⟩
def fERRC_PROF0_DRST : FieldDef := ⟨0x120, 28, 28, .rwl, 0, 1, 4⟩
def fERRC_PROF0_EPIN : FieldDef := ⟨0x120, 27, 27, .rwl, 0, 1, 4⟩
def fERRC_PROF0_FENCE : FieldDef := ⟨0x120, 26, 26, .rwl, 0, 1, 4⟩
def fERRC_PROF0_DSCOPE : FieldDef := ⟨0x120, 24, 24, .rwl, 0, 1, 4⟩
def fERRC_PROF0_VEC : FieldDef := ⟨0x120, 8, 0, .rwl, 0, 1, 4⟩
-- 0x124 ERRC_PROF1: Reaction profile *p* (R396)
def fERRC_PROF1_INT : FieldDef := ⟨0x124, 31, 31, .rwl, 1, 1, 4⟩
def fERRC_PROF1_NMI : FieldDef := ⟨0x124, 30, 30, .rwl, 0, 1, 4⟩
def fERRC_PROF1_BRST : FieldDef := ⟨0x124, 29, 29, .rwl, 0, 1, 4⟩
def fERRC_PROF1_DRST : FieldDef := ⟨0x124, 28, 28, .rwl, 0, 1, 4⟩
def fERRC_PROF1_EPIN : FieldDef := ⟨0x124, 27, 27, .rwl, 0, 1, 4⟩
def fERRC_PROF1_FENCE : FieldDef := ⟨0x124, 26, 26, .rwl, 0, 1, 4⟩
def fERRC_PROF1_DSCOPE : FieldDef := ⟨0x124, 24, 24, .rwl, 0, 1, 4⟩
def fERRC_PROF1_VEC : FieldDef := ⟨0x124, 8, 0, .rwl, 0, 1, 4⟩
-- 0x128 ERRC_PROF2: Reaction profile *p* (R396)
def fERRC_PROF2_INT : FieldDef := ⟨0x128, 31, 31, .rwl, 1, 1, 4⟩
def fERRC_PROF2_NMI : FieldDef := ⟨0x128, 30, 30, .rwl, 0, 1, 4⟩
def fERRC_PROF2_BRST : FieldDef := ⟨0x128, 29, 29, .rwl, 1, 1, 4⟩
def fERRC_PROF2_DRST : FieldDef := ⟨0x128, 28, 28, .rwl, 0, 1, 4⟩
def fERRC_PROF2_EPIN : FieldDef := ⟨0x128, 27, 27, .rwl, 0, 1, 4⟩
def fERRC_PROF2_FENCE : FieldDef := ⟨0x128, 26, 26, .rwl, 0, 1, 4⟩
def fERRC_PROF2_DSCOPE : FieldDef := ⟨0x128, 24, 24, .rwl, 0, 1, 4⟩
def fERRC_PROF2_VEC : FieldDef := ⟨0x128, 8, 0, .rwl, 0, 1, 4⟩
-- 0x12C ERRC_PROF3: Reaction profile *p* (R396)
def fERRC_PROF3_INT : FieldDef := ⟨0x12C, 31, 31, .rwl, 1, 1, 4⟩
def fERRC_PROF3_NMI : FieldDef := ⟨0x12C, 30, 30, .rwl, 0, 1, 4⟩
def fERRC_PROF3_BRST : FieldDef := ⟨0x12C, 29, 29, .rwl, 0, 1, 4⟩
def fERRC_PROF3_DRST : FieldDef := ⟨0x12C, 28, 28, .rwl, 1, 1, 4⟩
def fERRC_PROF3_EPIN : FieldDef := ⟨0x12C, 27, 27, .rwl, 1, 1, 4⟩
def fERRC_PROF3_FENCE : FieldDef := ⟨0x12C, 26, 26, .rwl, 0, 1, 4⟩
def fERRC_PROF3_DSCOPE : FieldDef := ⟨0x12C, 24, 24, .rwl, 0, 1, 4⟩
def fERRC_PROF3_VEC : FieldDef := ⟨0x12C, 8, 0, .rwl, 0, 1, 4⟩
-- 0x130 ERRC_HIDX: History index (R396)
def fERRC_HIDX_ENT : FieldDef := ⟨0x130, 3, 0, .rw, 0, 1, 4⟩
-- 0x140 ERRC_HE0: History entry word 0 (R396)
def fERRC_HE0_VALID : FieldDef := ⟨0x140, 31, 31, .ro, 0, 1, 4⟩
def fERRC_HE0_OPEN : FieldDef := ⟨0x140, 30, 30, .ro, 0, 1, 4⟩
def fERRC_HE0_ACK : FieldDef := ⟨0x140, 29, 29, .w1s, 0, 1, 4⟩
def fERRC_HE0_SEV : FieldDef := ⟨0x140, 27, 26, .ro, 0, 1, 4⟩
def fERRC_HE0_CLK : FieldDef := ⟨0x140, 25, 23, .ro, 0, 1, 4⟩
def fERRC_HE0_BIT : FieldDef := ⟨0x140, 21, 16, .ro, 0, 1, 4⟩
def fERRC_HE0_MERGE : FieldDef := ⟨0x140, 15, 0, .ro, 0, 1, 4⟩
-- 0x144 ERRC_HE1: History entry word 1 (R396)
def fERRC_HE1_BLKID : FieldDef := ⟨0x144, 31, 0, .ro, 0, 1, 4⟩
-- 0x148 ERRC_HE2: History entry word 2 (R396)
def fERRC_HE2_REACT : FieldDef := ⟨0x148, 29, 24, .ro, 0, 1, 4⟩
def fERRC_HE2_SRC : FieldDef := ⟨0x148, 19, 16, .ro, 0, 1, 4⟩
def fERRC_HE2_SYND : FieldDef := ⟨0x148, 15, 0, .ro, 0, 1, 4⟩
-- 0x14C ERRC_HE3: History entry stamp and sequence (R396)
def fERRC_HE3_STAMP : FieldDef := ⟨0x14C, 31, 0, .ro, 0, 1, 4⟩
-- 0x150 ERRC_HE4: History entry stamp and sequence (R396)
def fERRC_HE4_STAMP : FieldDef := ⟨0x150, 31, 0, .ro, 0, 1, 4⟩
-- 0x154 ERRC_HE5: History entry merged mask (R396)
def fERRC_HE5_MERGED : FieldDef := ⟨0x154, 31, 0, .ro, 0, 1, 4⟩
-- 0x158 ERRC_HE6: History entry merged mask (R396)
def fERRC_HE6_MERGED : FieldDef := ⟨0x158, 31, 0, .ro, 0, 1, 4⟩
/-- Every field of the errc map. -/
def fieldsErrc : List FieldDef :=
  [fERRC_STAT_LO_BITS, fERRC_STAT_HI_BITS, fERRC_MASK_LO_MASK, fERRC_MASK_HI_MASK, fERRC_FAULT_OPEN,
   fERRC_FAULT_SEV, fERRC_FAULT_ENT, fERRC_NEXT_SEQ, fERRC_NEXT_ENT, fERRC_NMIV_VEC, fERRC_PROF0_INT,
   fERRC_PROF0_NMI, fERRC_PROF0_BRST, fERRC_PROF0_DRST, fERRC_PROF0_EPIN, fERRC_PROF0_FENCE, fERRC_PROF0_DSCOPE,
   fERRC_PROF0_VEC, fERRC_PROF1_INT, fERRC_PROF1_NMI, fERRC_PROF1_BRST, fERRC_PROF1_DRST, fERRC_PROF1_EPIN,
   fERRC_PROF1_FENCE, fERRC_PROF1_DSCOPE, fERRC_PROF1_VEC, fERRC_PROF2_INT, fERRC_PROF2_NMI, fERRC_PROF2_BRST,
   fERRC_PROF2_DRST, fERRC_PROF2_EPIN, fERRC_PROF2_FENCE, fERRC_PROF2_DSCOPE, fERRC_PROF2_VEC, fERRC_PROF3_INT,
   fERRC_PROF3_NMI, fERRC_PROF3_BRST, fERRC_PROF3_DRST, fERRC_PROF3_EPIN, fERRC_PROF3_FENCE] ++
  [fERRC_PROF3_DSCOPE, fERRC_PROF3_VEC, fERRC_HIDX_ENT, fERRC_HE0_VALID, fERRC_HE0_OPEN, fERRC_HE0_ACK,
   fERRC_HE0_SEV, fERRC_HE0_CLK, fERRC_HE0_BIT, fERRC_HE0_MERGE, fERRC_HE1_BLKID, fERRC_HE2_REACT, fERRC_HE2_SRC,
   fERRC_HE2_SYND, fERRC_HE3_STAMP, fERRC_HE4_STAMP, fERRC_HE5_MERGED, fERRC_HE6_MERGED]

-- 0x180 ERRC_EPIN: External error output (device ERRC page) (R396)
def fERRC_EPIN_ASSERTED : FieldDef := ⟨0x180, 31, 31, .ro, 0, 1, 4⟩
def fERRC_EPIN_CLR : FieldDef := ⟨0x180, 0, 0, .wo, 0, 1, 4⟩
/-- Every field of the errcDev map. -/
def fieldsErrcDev : List FieldDef :=
  [fERRC_EPIN_ASSERTED, fERRC_EPIN_CLR]

-- 0x180 ERRC_FENCE: Channel fence (channel ERRC pages) (R396)
def fERRC_FENCE_FENCED : FieldDef := ⟨0x180, 31, 31, .ro, 0, 1, 4⟩
def fERRC_FENCE_FENCE : FieldDef := ⟨0x180, 0, 0, .wo, 0, 1, 4⟩
/-- Every field of the errcCh map. -/
def fieldsErrcCh : List FieldDef :=
  [fERRC_FENCE_FENCED, fERRC_FENCE_FENCE]

-- 0x100 PWR_CAP: Power cap (R475)
def fPWR_CAP_ILL : FieldDef := ⟨0x100, 31, 31, .w1c, 0, 1, 4⟩
def fPWR_CAP_UNITS : FieldDef := ⟨0x100, 6, 0, .rw, 0x58, 1, 4⟩
-- 0x104 PWR_MODE: Clock mode (R475)
def fPWR_MODE_ILL : FieldDef := ⟨0x104, 31, 31, .w1c, 0, 1, 4⟩
def fPWR_MODE_FIXED : FieldDef := ⟨0x104, 8, 8, .rw, 0, 1, 4⟩
def fPWR_MODE_FREQ : FieldDef := ⟨0x104, 1, 0, .rw, 0, 1, 4⟩
-- 0x108 PWR_FPL: Fast power-limit level (R475)
def fPWR_FPL_ILL : FieldDef := ⟨0x108, 31, 31, .w1c, 0, 1, 4⟩
def fPWR_FPL_UNITS : FieldDef := ⟨0x108, 6, 0, .rw, 0x18, 1, 4⟩
/-- Every field of the pwr map. -/
def fieldsPwr : List FieldDef :=
  [fPWR_CAP_ILL, fPWR_CAP_UNITS, fPWR_MODE_ILL, fPWR_MODE_FIXED, fPWR_MODE_FREQ, fPWR_FPL_ILL, fPWR_FPL_UNITS]

-- 0x100 CLK_LOCK: PLL lock (CLK page) (R475)
def fCLK_LOCK_FAB : FieldDef := ⟨0x100, 21, 21, .ro, 0, 1, 4⟩
def fCLK_LOCK_MGMT : FieldDef := ⟨0x100, 20, 16, .ro, 0, 1, 4⟩
def fCLK_LOCK_MC : FieldDef := ⟨0x100, 15, 12, .ro, 0, 1, 4⟩
def fCLK_LOCK_NET : FieldDef := ⟨0x100, 11, 8, .ro, 0, 1, 4⟩
def fCLK_LOCK_PRESS : FieldDef := ⟨0x100, 7, 0, .ro, 0, 1, 4⟩
-- 0x104 CLK_CDC: Last crossing event (CLK page) (R475)
def fCLK_CDC_VALID : FieldDef := ⟨0x104, 31, 31, .ro, 0, 1, 4⟩
def fCLK_CDC_KIND : FieldDef := ⟨0x104, 24, 24, .ro, 0, 1, 4⟩
def fCLK_CDC_DIE : FieldDef := ⟨0x104, 15, 12, .ro, 0, 1, 4⟩
def fCLK_CDC_XID : FieldDef := ⟨0x104, 3, 0, .ro, 0, 1, 4⟩
/-- Every field of the clk map. -/
def fieldsClk : List FieldDef :=
  [fCLK_LOCK_FAB, fCLK_LOCK_MGMT, fCLK_LOCK_MC, fCLK_LOCK_NET, fCLK_LOCK_PRESS, fCLK_CDC_VALID, fCLK_CDC_KIND,
   fCLK_CDC_DIE, fCLK_CDC_XID]

-- 0x100 DMA_RING_LO: ring base (R354)
def fDMA_RING_LO_ADDR : FieldDef := ⟨0x100, 31, 12, .rw, 0, 32, 32⟩
-- 0x104 DMA_RING_HI: ring base (R354)
def fDMA_RING_HI_ADDR : FieldDef := ⟨0x104, 31, 0, .rw, 0, 32, 32⟩
-- 0x108 DMA_CFG: engine configuration (R354)
def fDMA_CFG_LOGSZ : FieldDef := ⟨0x108, 31, 28, .rw, 0, 32, 32⟩
def fDMA_CFG_TC : FieldDef := ⟨0x108, 27, 26, .rw, 0, 32, 32⟩
def fDMA_CFG_FN : FieldDef := ⟨0x108, 21, 16, .rw, 0, 32, 32⟩
def fDMA_CFG_PART : FieldDef := ⟨0x108, 13, 8, .rw, 0, 32, 32⟩
def fDMA_CFG_VEC : FieldDef := ⟨0x108, 7, 0, .rw, 0, 32, 32⟩
-- 0x10C DMA_WP: doorbell (R354)
def fDMA_WP_WP : FieldDef := ⟨0x10C, 31, 0, .rw, 0, 32, 32⟩
-- 0x110 DMA_RP: descriptors completed (R354)
def fDMA_RP_RP : FieldDef := ⟨0x110, 31, 0, .ro, 0, 32, 32⟩
-- 0x114 DMA_CPL_LO: completion address (R354)
def fDMA_CPL_LO_ADDR : FieldDef := ⟨0x114, 31, 2, .rw, 0, 32, 32⟩
-- 0x118 DMA_CPL_HI: completion address (R354)
def fDMA_CPL_HI_ADDR : FieldDef := ⟨0x118, 31, 0, .rw, 0, 32, 32⟩
-- 0x11C DMA_STAT: engine status (R354)
def fDMA_STAT_STATE : FieldDef := ⟨0x11C, 31, 29, .ro, 0, 32, 32⟩
def fDMA_STAT_RESUME : FieldDef := ⟨0x11C, 28, 28, .wo, 0, 32, 32⟩
def fDMA_STAT_CAUSE : FieldDef := ⟨0x11C, 27, 24, .ro, 0, 32, 32⟩
/-- Every field of the dma map. -/
def fieldsDma : List FieldDef :=
  [fDMA_RING_LO_ADDR, fDMA_RING_HI_ADDR, fDMA_CFG_LOGSZ, fDMA_CFG_TC, fDMA_CFG_FN, fDMA_CFG_PART, fDMA_CFG_VEC,
   fDMA_WP_WP, fDMA_RP_RP, fDMA_CPL_LO_ADDR, fDMA_CPL_HI_ADDR, fDMA_STAT_STATE, fDMA_STAT_RESUME, fDMA_STAT_CAUSE]

-- 0x100 QCTL_WTAB_IDX: Window table index (R32)
def fQCTL_WTAB_IDX_IDX : FieldDef := ⟨0x100, 7, 0, .rw, 0, 1, 4⟩
-- 0x104 QCTL_WTAB_W0: Window entry word 0 (staging) (R32)
def fQCTL_WTAB_W0_VALID : FieldDef := ⟨0x104, 31, 31, .rw, 0, 1, 4⟩
def fQCTL_WTAB_W0_TC : FieldDef := ⟨0x104, 30, 29, .rw, 0, 1, 4⟩
def fQCTL_WTAB_W0_RCACHE : FieldDef := ⟨0x104, 28, 28, .rw, 0, 1, 4⟩
def fQCTL_WTAB_W0_PARTEN : FieldDef := ⟨0x104, 27, 27, .rw, 0, 1, 4⟩
def fQCTL_WTAB_W0_PART : FieldDef := ⟨0x104, 21, 16, .rw, 0, 1, 4⟩
def fQCTL_WTAB_W0_DEV : FieldDef := ⟨0x104, 15, 0, .rw, 0, 1, 4⟩
-- 0x108 QCTL_WTAB_W1: Window entry word 1 (staging) (R32)
def fQCTL_WTAB_W1_SIZE_G : FieldDef := ⟨0x108, 6, 0, .rw, 0, 1, 4⟩
-- 0x10C QCTL_WTAB_W2: Window entry word 2 (staging) (R32)
def fQCTL_WTAB_W2_PBASE : FieldDef := ⟨0x10C, 17, 0, .rw, 0, 1, 4⟩
-- 0x110 QCTL_WTAB_CMD: Window table command (R32)
def fQCTL_WTAB_CMD_ILL : FieldDef := ⟨0x110, 31, 31, .w1c, 0, 1, 4⟩
def fQCTL_WTAB_CMD_LOAD : FieldDef := ⟨0x110, 1, 1, .wo, 0, 1, 4⟩
def fQCTL_WTAB_CMD_COMMIT : FieldDef := ⟨0x110, 0, 0, .wo, 0, 1, 4⟩
-- 0x180 QCTL_ARR_IDX: Arrival counter index (R178)
def fQCTL_ARR_IDX_IDX : FieldDef := ⟨0x180, 11, 0, .rw, 0, 1, 4⟩
-- 0x184 QCTL_ARR_LO: Arrival counter, low word (R178)
def fQCTL_ARR_LO_CNT : FieldDef := ⟨0x184, 31, 0, .rw, 0, 1, 4⟩
-- 0x188 QCTL_ARR_HI: Arrival counter, high word (R178)
def fQCTL_ARR_HI_CNT : FieldDef := ⟨0x188, 31, 0, .rw, 0, 1, 4⟩
-- 0x18C QCTL_ARR_STAT: Arrival counter status (R178)
def fQCTL_ARR_STAT_WRAP : FieldDef := ⟨0x18C, 31, 31, .w1c, 0, 1, 4⟩
def fQCTL_ARR_STAT_WIDX : FieldDef := ⟨0x18C, 11, 0, .ro, 0, 1, 4⟩
-- 0x190 QCTL_GRP_IDX: Colophon group index (R178)
def fQCTL_GRP_IDX_IDX : FieldDef := ⟨0x190, 11, 0, .rw, 0, 1, 4⟩
-- 0x194 QCTL_GRP_TALLY: Group tally (R178)
def fQCTL_GRP_TALLY_TALLY : FieldDef := ⟨0x194, 31, 0, .ro, 0, 1, 4⟩
-- 0x198 QCTL_GRP_STAT: Group status (R178)
def fQCTL_GRP_STAT_HELD : FieldDef := ⟨0x198, 31, 31, .ro, 0, 1, 4⟩
def fQCTL_GRP_STAT_TMO : FieldDef := ⟨0x198, 30, 30, .w1c, 0, 1, 4⟩
def fQCTL_GRP_STAT_DUP : FieldDef := ⟨0x198, 29, 29, .w1c, 0, 1, 4⟩
def fQCTL_GRP_STAT_SAT : FieldDef := ⟨0x198, 28, 28, .w1c, 0, 1, 4⟩
-- 0x19C QCTL_GRP_EXP: Expected bytes of the held colophon write (R178)
def fQCTL_GRP_EXP_EXPECT : FieldDef := ⟨0x19C, 31, 0, .ro, 0, 1, 4⟩
-- 0x1A0 QCTL_GRP_CMD: Group command (R178)
def fQCTL_GRP_CMD_CLEAR : FieldDef := ⟨0x1A0, 0, 0, .wo, 0, 1, 4⟩
-- 0x1A4 QCTL_COLO_TMO: Colophon hold limit (R178)
def fQCTL_COLO_TMO_EXP : FieldDef := ⟨0x1A4, 5, 0, .rwl, 0x1e, 1, 4⟩
-- 0x200 QCTL_HMAP_IDX: Home unit index (R223)
def fQCTL_HMAP_IDX_UNIT : FieldDef := ⟨0x200, 8, 0, .rw, 0, 1, 4⟩
-- 0x204 QCTL_HMAP: Home unit owner (R223)
def fQCTL_HMAP_BUSY : FieldDef := ⟨0x204, 31, 31, .ro, 0, 1, 4⟩
def fQCTL_HMAP_ILL : FieldDef := ⟨0x204, 30, 30, .w1c, 0, 1, 4⟩
def fQCTL_HMAP_PART : FieldDef := ⟨0x204, 5, 0, .rw, 0, 1, 4⟩
-- 0x208 QCTL_PCFG_IDX: Partition index (R223)
def fQCTL_PCFG_IDX_PART : FieldDef := ⟨0x208, 5, 0, .rw, 0, 1, 4⟩
-- 0x20C QCTL_PCFG: Partition configuration on this B-die (R223)
def fQCTL_PCFG_BUSY : FieldDef := ⟨0x20C, 31, 31, .ro, 0, 1, 4⟩
def fQCTL_PCFG_ILL : FieldDef := ⟨0x20C, 30, 30, .w1c, 0, 1, 4⟩
def fQCTL_PCFG_RCWAYS : FieldDef := ⟨0x20C, 11, 8, .rw, 0, 1, 4⟩
def fQCTL_PCFG_PQUOTA : FieldDef := ⟨0x20C, 3, 0, .rw, 0, 1, 4⟩
-- 0x210 QCTL_PWIN_IDX: Persistence window index (R223)
def fQCTL_PWIN_IDX_WIN : FieldDef := ⟨0x210, 3, 0, .rw, 0, 1, 4⟩
-- 0x214 QCTL_PWIN_BASE: Window base (R223)
def fQCTL_PWIN_BASE_BASE : FieldDef := ⟨0x214, 31, 0, .rw, 0, 1, 4⟩
-- 0x218 QCTL_PWIN_LIM: Window limit (R223)
def fQCTL_PWIN_LIM_LIM : FieldDef := ⟨0x218, 31, 0, .rw, 0, 1, 4⟩
-- 0x21C QCTL_PWIN_CTL: Window control (R223)
def fQCTL_PWIN_CTL_BUSY : FieldDef := ⟨0x21C, 31, 31, .ro, 0, 1, 4⟩
def fQCTL_PWIN_CTL_ILL : FieldDef := ⟨0x21C, 30, 30, .w1c, 0, 1, 4⟩
def fQCTL_PWIN_CTL_EN : FieldDef := ⟨0x21C, 16, 16, .rw, 0, 1, 4⟩
def fQCTL_PWIN_CTL_WQUOTA : FieldDef := ⟨0x21C, 11, 8, .rw, 0, 1, 4⟩
def fQCTL_PWIN_CTL_CLASS : FieldDef := ⟨0x21C, 1, 0, .rw, 0, 1, 4⟩
-- 0x220 QCTL_RCREACH: Remote-cache invalidation reach (R223)
def fQCTL_RCREACH_REACH : FieldDef := ⟨0x220, 0, 0, .rwl, 0, 1, 4⟩
-- 0x230 QCTL_MNT_START_LO: Maintenance range start (R223)
def fQCTL_MNT_START_LO_ADDR : FieldDef := ⟨0x230, 31, 12, .rw, 0, 1, 4⟩
-- 0x234 QCTL_MNT_START_HI: Maintenance range start (R223)
def fQCTL_MNT_START_HI_ADDR : FieldDef := ⟨0x234, 15, 0, .rw, 0, 1, 4⟩
-- 0x238 QCTL_MNT_LEN: Maintenance range length (R223)
def fQCTL_MNT_LEN_PAGES : FieldDef := ⟨0x238, 31, 0, .rw, 0, 1, 4⟩
-- 0x23C QCTL_MNT_CMD: Maintenance command (R223)
def fQCTL_MNT_CMD_BUSY : FieldDef := ⟨0x23C, 31, 31, .ro, 0, 1, 4⟩
def fQCTL_MNT_CMD_ILL : FieldDef := ⟨0x23C, 30, 30, .w1c, 0, 1, 4⟩
def fQCTL_MNT_CMD_RCINV : FieldDef := ⟨0x23C, 2, 2, .wo, 0, 1, 4⟩
def fQCTL_MNT_CMD_CLEAN : FieldDef := ⟨0x23C, 1, 1, .wo, 0, 1, 4⟩
def fQCTL_MNT_CMD_FLUSH : FieldDef := ⟨0x23C, 0, 0, .wo, 0, 1, 4⟩
-- 0x240 QCTL_SR_IDX: Stereo entry index (R223)
def fQCTL_SR_IDX_ENT : FieldDef := ⟨0x240, 0, 0, .rw, 0, 1, 4⟩
-- 0x244 QCTL_SR_BASE: Stereo region base (R223)
def fQCTL_SR_BASE_BASE : FieldDef := ⟨0x244, 31, 0, .rw, 0, 1, 4⟩
-- 0x248 QCTL_SR_SIZE: Stereo region size (R223)
def fQCTL_SR_SIZE_SIZE : FieldDef := ⟨0x248, 20, 0, .rw, 0, 1, 4⟩
-- 0x24C QCTL_SR_MIR: Mirror base (R223)
def fQCTL_SR_MIR_BASE : FieldDef := ⟨0x24C, 31, 0, .rw, 0, 1, 4⟩
-- 0x250 QCTL_SR_PMASK_LO: Reader mask (R223)
def fQCTL_SR_PMASK_LO_MASK : FieldDef := ⟨0x250, 31, 0, .rw, 0, 1, 4⟩
-- 0x254 QCTL_SR_PMASK_HI: Reader mask (R223)
def fQCTL_SR_PMASK_HI_MASK : FieldDef := ⟨0x254, 31, 0, .rw, 0, 1, 4⟩
-- 0x258 QCTL_SR_DIGIDX: Digest word index (R223)
def fQCTL_SR_DIGIDX_WORD : FieldDef := ⟨0x258, 3, 0, .rw, 0, 1, 4⟩
-- 0x25C QCTL_SR_DIG: Digest word (R223)
def fQCTL_SR_DIG_DIG : FieldDef := ⟨0x25C, 31, 0, .rw, 0, 1, 4⟩
-- 0x260 QCTL_SR_CMD: Stereo command (R223)
def fQCTL_SR_CMD_MEN : FieldDef := ⟨0x260, 8, 8, .rw, 0, 1, 4⟩
def fQCTL_SR_CMD_CLOSE : FieldDef := ⟨0x260, 2, 2, .wo, 0, 1, 4⟩
def fQCTL_SR_CMD_CHECK : FieldDef := ⟨0x260, 1, 1, .wo, 0, 1, 4⟩
def fQCTL_SR_CMD_OPEN : FieldDef := ⟨0x260, 0, 0, .wo, 0, 1, 4⟩
-- 0x264 QCTL_SR_STAT: Stereo status (R223)
def fQCTL_SR_STAT_STATE : FieldDef := ⟨0x264, 31, 29, .ro, 0, 1, 4⟩
def fQCTL_SR_STAT_ILL : FieldDef := ⟨0x264, 28, 28, .w1c, 0, 1, 4⟩
def fQCTL_SR_STAT_CAUSE : FieldDef := ⟨0x264, 27, 26, .ro, 0, 1, 4⟩
def fQCTL_SR_STAT_REPAIRS : FieldDef := ⟨0x264, 25, 13, .ro, 0, 1, 4⟩
def fQCTL_SR_STAT_POISONED : FieldDef := ⟨0x264, 12, 0, .ro, 0, 1, 4⟩
-- 0x280 QCTL_RB_IDX: Reduction buffer index (R254)
def fQCTL_RB_IDX_ENT : FieldDef := ⟨0x280, 5, 0, .rw, 0, 1, 4⟩
-- 0x284 QCTL_RB_BASE_LO: Buffer base (R254)
def fQCTL_RB_BASE_LO_ADDR : FieldDef := ⟨0x284, 31, 7, .rw, 0, 1, 4⟩
-- 0x288 QCTL_RB_BASE_HI: Buffer base (R254)
def fQCTL_RB_BASE_HI_ADDR : FieldDef := ⟨0x288, 15, 0, .rw, 0, 1, 4⟩
-- 0x28C QCTL_RB_SIZE: Buffer size (R254)
def fQCTL_RB_SIZE_BLOCKS : FieldDef := ⟨0x28C, 24, 0, .rw, 0, 1, 4⟩
-- 0x290 QCTL_RB_CFG: Buffer frame and partition (R254)
def fQCTL_RB_CFG_FRAME : FieldDef := ⟨0x290, 31, 16, .rw, 0, 1, 4⟩
def fQCTL_RB_CFG_PART : FieldDef := ⟨0x290, 5, 0, .rw, 0, 1, 4⟩
-- 0x294 QCTL_RB_CMD: Buffer command (R254)
def fQCTL_RB_CMD_CLOSE : FieldDef := ⟨0x294, 2, 2, .wo, 0, 1, 4⟩
def fQCTL_RB_CMD_CLEAR : FieldDef := ⟨0x294, 1, 1, .wo, 0, 1, 4⟩
def fQCTL_RB_CMD_OPEN : FieldDef := ⟨0x294, 0, 0, .wo, 0, 1, 4⟩
-- 0x298 QCTL_RB_STAT: Buffer status (R254)
def fQCTL_RB_STAT_STATE : FieldDef := ⟨0x298, 31, 30, .ro, 0, 1, 4⟩
def fQCTL_RB_STAT_ILL : FieldDef := ⟨0x298, 29, 29, .w1c, 0, 1, 4⟩
def fQCTL_RB_STAT_POISON : FieldDef := ⟨0x298, 4, 4, .w1c, 0, 1, 4⟩
def fQCTL_RB_STAT_SAT : FieldDef := ⟨0x298, 3, 3, .w1c, 0, 1, 4⟩
def fQCTL_RB_STAT_IND : FieldDef := ⟨0x298, 2, 2, .w1c, 0, 1, 4⟩
def fQCTL_RB_STAT_NX : FieldDef := ⟨0x298, 1, 1, .w1c, 0, 1, 4⟩
-- 0x300 QCTL_MKEY_LO: Loaded key slots (R272)
def fQCTL_MKEY_LO_LOADED : FieldDef := ⟨0x300, 31, 0, .ro, 0, 1, 4⟩
-- 0x304 QCTL_MKEY_HI: Loaded key slots (R272)
def fQCTL_MKEY_HI_LOADED : FieldDef := ⟨0x304, 31, 0, .ro, 0, 1, 4⟩
-- 0x340 QCTL_TRF_MODE: Traffic mode (R289)
def fQCTL_TRF_MODE_METER : FieldDef := ⟨0x340, 0, 0, .rwl, 0, 1, 4⟩
-- 0x344 QCTL_TRF_IDX: Traffic partition index (R289)
def fQCTL_TRF_IDX_PART : FieldDef := ⟨0x344, 5, 0, .rw, 0, 1, 4⟩
-- 0x348 QCTL_TCB01: Initial budgets, classes 0 and 1 (R289)
def fQCTL_TCB01_TC1 : FieldDef := ⟨0x348, 27, 16, .rw, 0x400, 1, 4⟩
def fQCTL_TCB01_TC0 : FieldDef := ⟨0x348, 11, 0, .rw, 0x100, 1, 4⟩
-- 0x34C QCTL_TCB23: Initial budgets, classes 2 and 3 (R289)
def fQCTL_TCB23_TC3 : FieldDef := ⟨0x34C, 27, 16, .rw, 0xffe, 1, 4⟩
def fQCTL_TCB23_TC2 : FieldDef := ⟨0x34C, 11, 0, .rw, 0x800, 1, 4⟩
-- 0x350 QCTL_MISS: Late completions of class *t*, *t* = 0–3 (R289)
def fQCTL_MISS_COUNT : FieldDef := ⟨0x350, 31, 0, .w1c, 0, 4, 4⟩
-- 0x360 QCTL_MET_IDX: Master index (R289)
def fQCTL_MET_IDX_MST : FieldDef := ⟨0x360, 3, 0, .rw, 0, 1, 4⟩
-- 0x364 QCTL_MET_ALLOW: Master allowance (R289)
def fQCTL_MET_ALLOW_ALLOW : FieldDef := ⟨0x364, 15, 0, .rw, 0xffff, 1, 4⟩
-- 0x368 QCTL_MET_LOWER: Lowered requests (R289)
def fQCTL_MET_LOWER_COUNT : FieldDef := ⟨0x368, 31, 0, .w1c, 0, 1, 4⟩
-- 0x380 QCTL_CTRMAP_IDX: Counter block index (QCTL page) (R374)
def fQCTL_CTRMAP_IDX_BLK : FieldDef := ⟨0x380, 5, 0, .rw, 0, 1, 4⟩
-- 0x384 QCTL_CTRMAP: Counter block partition (QCTL page) (R374)
def fQCTL_CTRMAP_ILL : FieldDef := ⟨0x384, 30, 30, .w1c, 0, 1, 4⟩
def fQCTL_CTRMAP_PART : FieldDef := ⟨0x384, 5, 0, .rw, 0, 1, 4⟩
-- 0x3C0 QCTL_RSTINFO: Last reset (QCTL page; kept under R398) (R415)
def fQCTL_RSTINFO_COUNT : FieldDef := ⟨0x3C0, 31, 16, .ro, 0, 1, 4⟩
def fQCTL_RSTINFO_DOM : FieldDef := ⟨0x3C0, 9, 8, .ro, 0, 1, 4⟩
def fQCTL_RSTINFO_ESC : FieldDef := ⟨0x3C0, 7, 7, .ro, 0, 1, 4⟩
def fQCTL_RSTINFO_FORCED : FieldDef := ⟨0x3C0, 6, 6, .ro, 0, 1, 4⟩
def fQCTL_RSTINFO_CAUSE : FieldDef := ⟨0x3C0, 3, 0, .ro, 0, 1, 4⟩
/-- Every field of the qctl map. -/
def fieldsQctl : List FieldDef :=
  [fQCTL_WTAB_IDX_IDX, fQCTL_WTAB_W0_VALID, fQCTL_WTAB_W0_TC, fQCTL_WTAB_W0_RCACHE, fQCTL_WTAB_W0_PARTEN,
   fQCTL_WTAB_W0_PART, fQCTL_WTAB_W0_DEV, fQCTL_WTAB_W1_SIZE_G, fQCTL_WTAB_W2_PBASE, fQCTL_WTAB_CMD_ILL,
   fQCTL_WTAB_CMD_LOAD, fQCTL_WTAB_CMD_COMMIT, fQCTL_ARR_IDX_IDX, fQCTL_ARR_LO_CNT, fQCTL_ARR_HI_CNT,
   fQCTL_ARR_STAT_WRAP, fQCTL_ARR_STAT_WIDX, fQCTL_GRP_IDX_IDX, fQCTL_GRP_TALLY_TALLY, fQCTL_GRP_STAT_HELD,
   fQCTL_GRP_STAT_TMO, fQCTL_GRP_STAT_DUP, fQCTL_GRP_STAT_SAT, fQCTL_GRP_EXP_EXPECT, fQCTL_GRP_CMD_CLEAR,
   fQCTL_COLO_TMO_EXP, fQCTL_HMAP_IDX_UNIT, fQCTL_HMAP_BUSY, fQCTL_HMAP_ILL, fQCTL_HMAP_PART, fQCTL_PCFG_IDX_PART,
   fQCTL_PCFG_BUSY, fQCTL_PCFG_ILL, fQCTL_PCFG_RCWAYS, fQCTL_PCFG_PQUOTA, fQCTL_PWIN_IDX_WIN, fQCTL_PWIN_BASE_BASE,
   fQCTL_PWIN_LIM_LIM, fQCTL_PWIN_CTL_BUSY, fQCTL_PWIN_CTL_ILL] ++
  [fQCTL_PWIN_CTL_EN, fQCTL_PWIN_CTL_WQUOTA, fQCTL_PWIN_CTL_CLASS, fQCTL_RCREACH_REACH, fQCTL_MNT_START_LO_ADDR,
   fQCTL_MNT_START_HI_ADDR, fQCTL_MNT_LEN_PAGES, fQCTL_MNT_CMD_BUSY, fQCTL_MNT_CMD_ILL, fQCTL_MNT_CMD_RCINV,
   fQCTL_MNT_CMD_CLEAN, fQCTL_MNT_CMD_FLUSH, fQCTL_SR_IDX_ENT, fQCTL_SR_BASE_BASE, fQCTL_SR_SIZE_SIZE,
   fQCTL_SR_MIR_BASE, fQCTL_SR_PMASK_LO_MASK, fQCTL_SR_PMASK_HI_MASK, fQCTL_SR_DIGIDX_WORD, fQCTL_SR_DIG_DIG,
   fQCTL_SR_CMD_MEN, fQCTL_SR_CMD_CLOSE, fQCTL_SR_CMD_CHECK, fQCTL_SR_CMD_OPEN, fQCTL_SR_STAT_STATE,
   fQCTL_SR_STAT_ILL, fQCTL_SR_STAT_CAUSE, fQCTL_SR_STAT_REPAIRS, fQCTL_SR_STAT_POISONED, fQCTL_RB_IDX_ENT,
   fQCTL_RB_BASE_LO_ADDR, fQCTL_RB_BASE_HI_ADDR, fQCTL_RB_SIZE_BLOCKS, fQCTL_RB_CFG_FRAME, fQCTL_RB_CFG_PART,
   fQCTL_RB_CMD_CLOSE, fQCTL_RB_CMD_CLEAR, fQCTL_RB_CMD_OPEN, fQCTL_RB_STAT_STATE, fQCTL_RB_STAT_ILL] ++
  [fQCTL_RB_STAT_POISON, fQCTL_RB_STAT_SAT, fQCTL_RB_STAT_IND, fQCTL_RB_STAT_NX, fQCTL_MKEY_LO_LOADED,
   fQCTL_MKEY_HI_LOADED, fQCTL_TRF_MODE_METER, fQCTL_TRF_IDX_PART, fQCTL_TCB01_TC1, fQCTL_TCB01_TC0,
   fQCTL_TCB23_TC3, fQCTL_TCB23_TC2, fQCTL_MISS_COUNT, fQCTL_MET_IDX_MST, fQCTL_MET_ALLOW_ALLOW,
   fQCTL_MET_LOWER_COUNT, fQCTL_CTRMAP_IDX_BLK, fQCTL_CTRMAP_ILL, fQCTL_CTRMAP_PART, fQCTL_RSTINFO_COUNT,
   fQCTL_RSTINFO_DOM, fQCTL_RSTINFO_ESC, fQCTL_RSTINFO_FORCED, fQCTL_RSTINFO_CAUSE]

-- 0x100 CASE_PART: Slice assignment (R224)
def fCASE_PART_DRAINED : FieldDef := ⟨0x100, 31, 31, .ro, 0, 1, 4⟩
def fCASE_PART_ILL : FieldDef := ⟨0x100, 30, 30, .w1c, 0, 1, 4⟩
def fCASE_PART_PART : FieldDef := ⟨0x100, 5, 0, .rw, 0, 1, 4⟩
-- 0x104 CASE_DEMOTE: Demotions (R224)
def fCASE_DEMOTE_COUNT : FieldDef := ⟨0x104, 31, 0, .w1c, 0, 1, 4⟩
-- 0x108 CASE_MNT: Slice maintenance (R224)
def fCASE_MNT_BUSY : FieldDef := ⟨0x108, 31, 31, .ro, 0, 1, 4⟩
def fCASE_MNT_REOPEN : FieldDef := ⟨0x108, 1, 1, .wo, 0, 1, 4⟩
def fCASE_MNT_DRAIN : FieldDef := ⟨0x108, 0, 0, .wo, 0, 1, 4⟩
-- 0x10C CASE_RBFALL: Reduction fallbacks (R254)
def fCASE_RBFALL_COUNT : FieldDef := ⟨0x10C, 31, 0, .w1c, 0, 1, 4⟩
/-- Every field of the case map. -/
def fieldsCase : List FieldDef :=
  [fCASE_PART_DRAINED, fCASE_PART_ILL, fCASE_PART_PART, fCASE_DEMOTE_COUNT, fCASE_MNT_BUSY, fCASE_MNT_REOPEN,
   fCASE_MNT_DRAIN, fCASE_RBFALL_COUNT]

-- 0x100 DIR_LKA_LO: Lookup address (R254)
def fDIR_LKA_LO_ADDR : FieldDef := ⟨0x100, 31, 7, .rw, 0, 1, 4⟩
-- 0x104 DIR_LKA_HI: Lookup address (R254)
def fDIR_LKA_HI_ADDR : FieldDef := ⟨0x104, 15, 0, .rw, 0, 1, 4⟩
-- 0x108 DIR_LKCMD: Lookup command (R254)
def fDIR_LKCMD_BUSY : FieldDef := ⟨0x108, 31, 31, .ro, 0, 1, 4⟩
def fDIR_LKCMD_ILL : FieldDef := ⟨0x108, 30, 30, .w1c, 0, 1, 4⟩
def fDIR_LKCMD_GO : FieldDef := ⟨0x108, 0, 0, .wo, 0, 1, 4⟩
-- 0x10C DIR_LKRES: Lookup result (R254)
def fDIR_LKRES_TXN : FieldDef := ⟨0x10C, 31, 31, .ro, 0, 1, 4⟩
def fDIR_LKRES_STATE : FieldDef := ⟨0x10C, 23, 22, .ro, 0, 1, 4⟩
def fDIR_LKRES_BCAST : FieldDef := ⟨0x10C, 21, 21, .ro, 0, 1, 4⟩
def fDIR_LKRES_OWNER : FieldDef := ⟨0x10C, 20, 17, .ro, 0, 1, 4⟩
def fDIR_LKRES_PTRS : FieldDef := ⟨0x10C, 14, 0, .ro, 0, 1, 4⟩
-- 0x110 DIR_RECALL: Recalls (R254)
def fDIR_RECALL_COUNT : FieldDef := ⟨0x110, 31, 0, .w1c, 0, 1, 4⟩
-- 0x114 DIR_BCAST: Broadcasts (R254)
def fDIR_BCAST_COUNT : FieldDef := ⟨0x114, 31, 0, .w1c, 0, 1, 4⟩
-- 0x118 DIR_FREE: Free entries (R254)
def fDIR_FREE_FREE : FieldDef := ⟨0x118, 17, 0, .ro, 0x20000, 1, 4⟩
/-- Every field of the dir map. -/
def fieldsDir : List FieldDef :=
  [fDIR_LKA_LO_ADDR, fDIR_LKA_HI_ADDR, fDIR_LKCMD_BUSY, fDIR_LKCMD_ILL, fDIR_LKCMD_GO, fDIR_LKRES_TXN,
   fDIR_LKRES_STATE, fDIR_LKRES_BCAST, fDIR_LKRES_OWNER, fDIR_LKRES_PTRS, fDIR_RECALL_COUNT, fDIR_BCAST_COUNT,
   fDIR_FREE_FREE]

-- 0x100 MC_CFG: Channel configuration (R272)
def fMC_CFG_WHI : FieldDef := ⟨0x100, 13, 8, .rw, 0x20, 1, 4⟩
def fMC_CFG_REFPOST : FieldDef := ⟨0x100, 3, 0, .rw, 8, 1, 4⟩
-- 0x104 MC_CECNT: Corrected errors (R272)
def fMC_CECNT_COUNT : FieldDef := ⟨0x104, 31, 0, .w1c, 0, 1, 4⟩
-- 0x108 MC_UECNT: Uncorrectable errors (R272)
def fMC_UECNT_COUNT : FieldDef := ⟨0x108, 31, 0, .w1c, 0, 1, 4⟩
-- 0x10C MC_EADDR_LO: Last error address (R272)
def fMC_EADDR_LO_ADDR : FieldDef := ⟨0x10C, 31, 0, .ro, 0, 1, 4⟩
-- 0x110 MC_EADDR_HI: Last error address (R272)
def fMC_EADDR_HI_ADDR : FieldDef := ⟨0x110, 15, 0, .ro, 0, 1, 4⟩
/-- Every field of the mc map. -/
def fieldsMc : List FieldDef :=
  [fMC_CFG_WHI, fMC_CFG_REFPOST, fMC_CECNT_COUNT, fMC_UECNT_COUNT, fMC_EADDR_LO_ADDR, fMC_EADDR_HI_ADDR]

-- 0x100 STK_GEOM: Stack geometry (R272)
def fSTK_GEOM_BANKS : FieldDef := ⟨0x100, 31, 24, .ro, 0x20, 1, 4⟩
def fSTK_GEOM_CHANNELS : FieldDef := ⟨0x100, 23, 16, .ro, 8, 1, 4⟩
def fSTK_GEOM_SIZE_G : FieldDef := ⟨0x100, 15, 0, .ro, 0x48, 1, 4⟩
-- 0x104 STK_STAT: Stack status (R272)
def fSTK_STAT_STATE : FieldDef := ⟨0x104, 31, 29, .ro, 0, 1, 4⟩
def fSTK_STAT_ILL : FieldDef := ⟨0x104, 28, 28, .w1c, 0, 1, 4⟩
def fSTK_STAT_ZBUSY : FieldDef := ⟨0x104, 27, 27, .ro, 0, 1, 4⟩
-- 0x108 STK_CMD: Stack command (R272)
def fSTK_CMD_ZEROU : FieldDef := ⟨0x108, 2, 2, .wo, 0, 1, 4⟩
def fSTK_CMD_RETRAIN : FieldDef := ⟨0x108, 1, 1, .wo, 0, 1, 4⟩
def fSTK_CMD_TRAIN : FieldDef := ⟨0x108, 0, 0, .wo, 0, 1, 4⟩
-- 0x10C STK_ZUNIT: Unit to zero (R272)
def fSTK_ZUNIT_UNIT : FieldDef := ⟨0x10C, 6, 0, .rw, 0, 1, 4⟩
-- 0x110 STK_SCRUB: Patrol scrub (R272)
def fSTK_SCRUB_EN : FieldDef := ⟨0x110, 31, 31, .rw, 1, 1, 4⟩
def fSTK_SCRUB_PERIOD : FieldDef := ⟨0x110, 7, 0, .rw, 0x18, 1, 4⟩
-- 0x114 STK_ENC: Encryption (R272)
def fSTK_ENC_MODE : FieldDef := ⟨0x114, 1, 1, .rwl, 0, 1, 4⟩
def fSTK_ENC_EN : FieldDef := ⟨0x114, 0, 0, .rwl, 0, 1, 4⟩
/-- Every field of the stk map. -/
def fieldsStk : List FieldDef :=
  [fSTK_GEOM_BANKS, fSTK_GEOM_CHANNELS, fSTK_GEOM_SIZE_G, fSTK_STAT_STATE, fSTK_STAT_ILL, fSTK_STAT_ZBUSY,
   fSTK_CMD_ZEROU, fSTK_CMD_RETRAIN, fSTK_CMD_TRAIN, fSTK_ZUNIT_UNIT, fSTK_SCRUB_EN, fSTK_SCRUB_PERIOD,
   fSTK_ENC_MODE, fSTK_ENC_EN]

-- 0x100 XL_CFG: Port configuration (R321)
def fXL_CFG_ENC : FieldDef := ⟨0x100, 31, 31, .rwl, 0, 1, 4⟩
def fXL_CFG_COORD : FieldDef := ⟨0x100, 30, 30, .rwl, 0, 1, 4⟩
def fXL_CFG_DLINE : FieldDef := ⟨0x100, 24, 24, .rwl, 0, 1, 4⟩
def fXL_CFG_RAIL : FieldDef := ⟨0x100, 20, 20, .rwl, 0, 1, 4⟩
def fXL_CFG_DIR : FieldDef := ⟨0x100, 16, 16, .rwl, 0, 1, 4⟩
def fXL_CFG_DIM : FieldDef := ⟨0x100, 13, 12, .rwl, 0, 1, 4⟩
-- 0x104 XL_CMD: Port command (R321)
def fXL_CMD_DOWN : FieldDef := ⟨0x104, 2, 2, .wo, 0, 1, 4⟩
def fXL_CMD_RETRAIN : FieldDef := ⟨0x104, 1, 1, .wo, 0, 1, 4⟩
def fXL_CMD_TRAIN : FieldDef := ⟨0x104, 0, 0, .wo, 0, 1, 4⟩
-- 0x108 XL_STAT: Port status (R321)
def fXL_STAT_STATE : FieldDef := ⟨0x108, 31, 29, .ro, 0, 1, 4⟩
def fXL_STAT_ILL : FieldDef := ⟨0x108, 28, 28, .w1c, 0, 1, 4⟩
def fXL_STAT_OVR : FieldDef := ⟨0x108, 27, 27, .w1c, 0, 1, 4⟩
def fXL_STAT_CAUSE : FieldDef := ⟨0x108, 26, 24, .ro, 0, 1, 4⟩
-- 0x10C XL_PEER: Peer identity (R321)
def fXL_PEER_VALID : FieldDef := ⟨0x10C, 31, 31, .ro, 0, 1, 4⟩
def fXL_PEER_PORT : FieldDef := ⟨0x10C, 19, 16, .ro, 0, 1, 4⟩
def fXL_PEER_DEV : FieldDef := ⟨0x10C, 15, 0, .ro, 0, 1, 4⟩
-- 0x110 XL_CHARGE: Link charge (R321)
def fXL_CHARGE_CHARGE : FieldDef := ⟨0x110, 11, 0, .ro, 0, 1, 4⟩
-- 0x114 XL_PTMO: Peer request timeout (R321)
def fXL_PTMO_EXP : FieldDef := ⟨0x114, 5, 0, .rw, 0x1b, 1, 4⟩
-- 0x118 XL_FECCE: Corrected codewords (R321)
def fXL_FECCE_COUNT : FieldDef := ⟨0x118, 31, 0, .w1c, 0, 1, 4⟩
-- 0x11C XL_RETRY: Replays (R321)
def fXL_RETRY_COUNT : FieldDef := ⟨0x11C, 31, 0, .w1c, 0, 1, 4⟩
-- 0x120 XL_STALE: Dropped replies (R321)
def fXL_STALE_COUNT : FieldDef := ⟨0x120, 31, 0, .w1c, 0, 1, 4⟩
-- 0x140 XL_VCBUF: Shares of virtual channel *v*, *v* = 0–7 (R321)
def fXL_VCBUF_RPL : FieldDef := ⟨0x140, 31, 16, .rw, 0, 8, 4⟩
def fXL_VCBUF_REQ : FieldDef := ⟨0x140, 15, 0, .rw, 0, 8, 4⟩
/-- Every field of the xl map. -/
def fieldsXl : List FieldDef :=
  [fXL_CFG_ENC, fXL_CFG_COORD, fXL_CFG_DLINE, fXL_CFG_RAIL, fXL_CFG_DIR, fXL_CFG_DIM, fXL_CMD_DOWN,
   fXL_CMD_RETRAIN, fXL_CMD_TRAIN, fXL_STAT_STATE, fXL_STAT_ILL, fXL_STAT_OVR, fXL_STAT_CAUSE, fXL_PEER_VALID,
   fXL_PEER_PORT, fXL_PEER_DEV, fXL_CHARGE_CHARGE, fXL_PTMO_EXP, fXL_FECCE_COUNT, fXL_RETRY_COUNT, fXL_STALE_COUNT,
   fXL_VCBUF_RPL, fXL_VCBUF_REQ]

-- 0x100 BRG_STAT: Link state (R16)
def fBRG_STAT_STATE : FieldDef := ⟨0x100, 31, 29, .ro, 0, 1, 4⟩
def fBRG_STAT_OVR : FieldDef := ⟨0x100, 28, 28, .w1c, 0, 1, 4⟩
def fBRG_STAT_PEER : FieldDef := ⟨0x100, 11, 8, .ro, 0, 1, 4⟩
def fBRG_STAT_TRAINS : FieldDef := ⟨0x100, 7, 0, .ro, 0, 1, 4⟩
-- 0x104 BRG_RETRY: Resent flits (R16)
def fBRG_RETRY_COUNT : FieldDef := ⟨0x104, 31, 0, .w1c, 0, 1, 4⟩
/-- Every field of the brg map. -/
def fieldsBrg : List FieldDef :=
  [fBRG_STAT_STATE, fBRG_STAT_OVR, fBRG_STAT_PEER, fBRG_STAT_TRAINS, fBRG_RETRY_COUNT]

-- 0x100 IMP_QSEL: Queue select (R201)
def fIMP_QSEL_Q : FieldDef := ⟨0x100, 5, 0, .rw, 0, 1, 4⟩
-- 0x104 IMP_QCFG: Queue configuration (R201)
def fIMP_QCFG_PRIO : FieldDef := ⟨0x104, 29, 28, .rw, 0, 1, 4⟩
def fIMP_QCFG_LOGSZ : FieldDef := ⟨0x104, 20, 16, .rw, 0, 1, 4⟩
def fIMP_QCFG_TAG : FieldDef := ⟨0x104, 15, 0, .rw, 0, 1, 4⟩
-- 0x108 IMP_QBASE_LO: Ring base (R201)
def fIMP_QBASE_LO_ADDR : FieldDef := ⟨0x108, 31, 12, .rw, 0, 1, 4⟩
-- 0x10C IMP_QBASE_HI: Ring base (R201)
def fIMP_QBASE_HI_ADDR : FieldDef := ⟨0x10C, 15, 0, .rw, 0, 1, 4⟩
-- 0x110 IMP_QJRN_LO: Journal base (R201)
def fIMP_QJRN_LO_ADDR : FieldDef := ⟨0x110, 31, 12, .rw, 0, 1, 4⟩
-- 0x114 IMP_QJRN_HI: Journal base (R201)
def fIMP_QJRN_HI_ADDR : FieldDef := ⟨0x114, 15, 0, .rw, 0, 1, 4⟩
-- 0x118 IMP_QSAVE_LO: Save-area base (R201)
def fIMP_QSAVE_LO_ADDR : FieldDef := ⟨0x118, 31, 12, .rw, 0, 1, 4⟩
-- 0x11C IMP_QSAVE_HI: Save-area base (R201)
def fIMP_QSAVE_HI_ADDR : FieldDef := ⟨0x11C, 15, 0, .rw, 0, 1, 4⟩
-- 0x120 IMP_QSET: Target set (R201)
def fIMP_QSET_COLHI : FieldDef := ⟨0x120, 28, 24, .rw, 0, 1, 4⟩
def fIMP_QSET_COLLO : FieldDef := ⟨0x120, 20, 16, .rw, 0, 1, 4⟩
def fIMP_QSET_ROWHI : FieldDef := ⟨0x120, 12, 8, .rw, 0, 1, 4⟩
def fIMP_QSET_ROWLO : FieldDef := ⟨0x120, 4, 0, .rw, 0, 1, 4⟩
-- 0x124 IMP_QRP: Read pointer (R201)
def fIMP_QRP_RP : FieldDef := ⟨0x124, 31, 0, .rw, 0, 1, 4⟩
-- 0x128 IMP_QCMD: Queue command (R201)
def fIMP_QCMD_DISABLE : FieldDef := ⟨0x128, 6, 6, .wo, 0, 1, 4⟩
def fIMP_QCMD_PREEMPT : FieldDef := ⟨0x128, 5, 5, .wo, 0, 1, 4⟩
def fIMP_QCMD_UNHOLD : FieldDef := ⟨0x128, 4, 4, .wo, 0, 1, 4⟩
def fIMP_QCMD_URGENT : FieldDef := ⟨0x128, 3, 3, .wo, 0, 1, 4⟩
def fIMP_QCMD_HOLD : FieldDef := ⟨0x128, 2, 2, .wo, 0, 1, 4⟩
def fIMP_QCMD_RESTORE : FieldDef := ⟨0x128, 1, 1, .wo, 0, 1, 4⟩
def fIMP_QCMD_ENABLE : FieldDef := ⟨0x128, 0, 0, .wo, 0, 1, 4⟩
-- 0x12C IMP_QSTAT: Queue status (R201)
def fIMP_QSTAT_STATE : FieldDef := ⟨0x12C, 31, 29, .ro, 0, 1, 4⟩
def fIMP_QSTAT_SAVED : FieldDef := ⟨0x12C, 28, 28, .ro, 0, 1, 4⟩
def fIMP_QSTAT_ERR : FieldDef := ⟨0x12C, 27, 24, .ro, 0, 1, 4⟩
def fIMP_QSTAT_BEGUN : FieldDef := ⟨0x12C, 9, 0, .ro, 0, 1, 4⟩
-- 0x200 IMP_QWP: Write pointer of queue *n*, *n* = 0–63 (R201)
def fIMP_QWP_WP : FieldDef := ⟨0x200, 31, 0, .rw, 0, 64, 4⟩
-- 0x130 IMP_QPART: Queue partition (IMP page, queue IMP_QSEL) (R374)
def fIMP_QPART_PART : FieldDef := ⟨0x130, 5, 0, .rw, 0, 1, 4⟩
-- 0x134 IMP_CMAP_IDX: Core map index (IMP page) (R374)
def fIMP_CMAP_IDX_IDX : FieldDef := ⟨0x134, 9, 0, .rw, 0, 1, 4⟩
-- 0x138 IMP_CMAP: Core partition (IMP page) (R374)
def fIMP_CMAP_ILL : FieldDef := ⟨0x138, 31, 31, .w1c, 0, 1, 4⟩
def fIMP_CMAP_PART : FieldDef := ⟨0x138, 5, 0, .rw, 0, 1, 4⟩
-- 0x140 IMP_CRST: Cluster reset (IMP page) (R415)
def fIMP_CRST_BUSY : FieldDef := ⟨0x140, 31, 31, .ro, 0, 1, 4⟩
def fIMP_CRST_ROW : FieldDef := ⟨0x140, 28, 24, .rw, 0, 1, 4⟩
def fIMP_CRST_GO : FieldDef := ⟨0x140, 0, 0, .wo, 0, 1, 4⟩
-- 0x144 IMP_RPR: Core repair (IMP page) (R415)
def fIMP_RPR_BUSY : FieldDef := ⟨0x144, 31, 31, .ro, 0, 1, 4⟩
def fIMP_RPR_ILL : FieldDef := ⟨0x144, 30, 30, .w1c, 0, 1, 4⟩
def fIMP_RPR_ROW : FieldDef := ⟨0x144, 28, 24, .rw, 0, 1, 4⟩
def fIMP_RPR_PCOL : FieldDef := ⟨0x144, 20, 16, .rw, 0, 1, 4⟩
def fIMP_RPR_RETIRE : FieldDef := ⟨0x144, 1, 1, .wo, 0, 1, 4⟩
def fIMP_RPR_REPAIR : FieldDef := ⟨0x144, 0, 0, .wo, 0, 1, 4⟩
/-- Every field of the imp map. -/
def fieldsImp : List FieldDef :=
  [fIMP_QSEL_Q, fIMP_QCFG_PRIO, fIMP_QCFG_LOGSZ, fIMP_QCFG_TAG, fIMP_QBASE_LO_ADDR, fIMP_QBASE_HI_ADDR,
   fIMP_QJRN_LO_ADDR, fIMP_QJRN_HI_ADDR, fIMP_QSAVE_LO_ADDR, fIMP_QSAVE_HI_ADDR, fIMP_QSET_COLHI, fIMP_QSET_COLLO,
   fIMP_QSET_ROWHI, fIMP_QSET_ROWLO, fIMP_QRP_RP, fIMP_QCMD_DISABLE, fIMP_QCMD_PREEMPT, fIMP_QCMD_UNHOLD,
   fIMP_QCMD_URGENT, fIMP_QCMD_HOLD, fIMP_QCMD_RESTORE, fIMP_QCMD_ENABLE, fIMP_QSTAT_STATE, fIMP_QSTAT_SAVED,
   fIMP_QSTAT_ERR, fIMP_QSTAT_BEGUN, fIMP_QWP_WP, fIMP_QPART_PART, fIMP_CMAP_IDX_IDX, fIMP_CMAP_ILL,
   fIMP_CMAP_PART, fIMP_CRST_BUSY, fIMP_CRST_ROW, fIMP_CRST_GO, fIMP_RPR_BUSY, fIMP_RPR_ILL, fIMP_RPR_ROW,
   fIMP_RPR_PCOL, fIMP_RPR_RETIRE, fIMP_RPR_REPAIR]

-- 0x100 GAL_PIDX: Partition index (R224)
def fGAL_PIDX_PART : FieldDef := ⟨0x100, 5, 0, .rw, 0, 1, 4⟩
-- 0x104 GAL_PWAYS: Partition ways (R224)
def fGAL_PWAYS_WAYS : FieldDef := ⟨0x104, 15, 0, .rw, 0xffff, 1, 4⟩
-- 0x108 GAL_MNT: Galley maintenance (R224)
def fGAL_MNT_BUSY : FieldDef := ⟨0x108, 31, 31, .ro, 0, 1, 4⟩
def fGAL_MNT_ILL : FieldDef := ⟨0x108, 30, 30, .w1c, 0, 1, 4⟩
def fGAL_MNT_PART : FieldDef := ⟨0x108, 13, 8, .rw, 0, 1, 4⟩
def fGAL_MNT_FLUSHALL : FieldDef := ⟨0x108, 1, 1, .wo, 0, 1, 4⟩
def fGAL_MNT_FLUSHP : FieldDef := ⟨0x108, 0, 0, .wo, 0, 1, 4⟩
/-- Every field of the gal map. -/
def fieldsGal : List FieldDef :=
  [fGAL_PIDX_PART, fGAL_PWAYS_WAYS, fGAL_MNT_BUSY, fGAL_MNT_ILL, fGAL_MNT_PART, fGAL_MNT_FLUSHALL, fGAL_MNT_FLUSHP]

-- 0x100 CORE_LID: Logical identity (R78)
def fCORE_LID_PRESENT : FieldDef := ⟨0x100, 31, 31, .ro, 0, 1, 4⟩
def fCORE_LID_SPARE : FieldDef := ⟨0x100, 30, 30, .ro, 0, 1, 4⟩
def fCORE_LID_LID : FieldDef := ⟨0x100, 12, 0, .ro, 0, 1, 4⟩
-- 0x104 CORE_STONE: Stone occupancy (R78)
def fCORE_STONE_FREE : FieldDef := ⟨0x104, 24, 16, .ro, 0x100, 1, 4⟩
def fCORE_STONE_LARGEST : FieldDef := ⟨0x104, 8, 0, .ro, 0x100, 1, 4⟩
-- 0x108 CORE_TOK: Token occupancy (R78)
def fCORE_TOK_FREE : FieldDef := ⟨0x108, 5, 0, .ro, 0x20, 1, 4⟩
-- 0x10C CORE_WDOG: Station watchdog (R78)
def fCORE_WDOG_EXP : FieldDef := ⟨0x10C, 5, 0, .rw, 0x18, 1, 4⟩
-- 0x110 CORE_SLOT: Job slot *n*, *n* = 0–7 (R78)
def fCORE_SLOT_VALID : FieldDef := ⟨0x110, 31, 31, .ro, 0, 8, 4⟩
def fCORE_SLOT_RUN : FieldDef := ⟨0x110, 30, 30, .ro, 0, 8, 4⟩
def fCORE_SLOT_HWAIT : FieldDef := ⟨0x110, 29, 29, .ro, 0, 8, 4⟩
def fCORE_SLOT_PRIO : FieldDef := ⟨0x110, 27, 26, .ro, 0, 8, 4⟩
def fCORE_SLOT_TAG : FieldDef := ⟨0x110, 15, 0, .ro, 0, 8, 4⟩
-- 0x130 CORE_HTOK: Head tokens of slot *n* (R78)
def fCORE_HTOK_H3 : FieldDef := ⟨0x130, 31, 24, .ro, 0, 8, 4⟩
def fCORE_HTOK_H2 : FieldDef := ⟨0x130, 23, 16, .ro, 0, 8, 4⟩
def fCORE_HTOK_H1 : FieldDef := ⟨0x130, 15, 8, .ro, 0, 8, 4⟩
def fCORE_HTOK_H0 : FieldDef := ⟨0x130, 7, 0, .ro, 0, 8, 4⟩
-- 0x150 CORE_XFLAG: Exception flags of slot *n* (R78)
def fCORE_XFLAG_CHS : FieldDef := ⟨0x150, 8, 8, .ro, 0, 8, 4⟩
def fCORE_XFLAG_NV : FieldDef := ⟨0x150, 4, 4, .ro, 0, 8, 4⟩
def fCORE_XFLAG_DZ : FieldDef := ⟨0x150, 3, 3, .ro, 0, 8, 4⟩
def fCORE_XFLAG_OF : FieldDef := ⟨0x150, 2, 2, .ro, 0, 8, 4⟩
def fCORE_XFLAG_UF : FieldDef := ⟨0x150, 1, 1, .ro, 0, 8, 4⟩
def fCORE_XFLAG_NX : FieldDef := ⟨0x150, 0, 0, .ro, 0, 8, 4⟩
-- 0x170 CORE_CHSAT: Chase saturation of slot *n* (R78)
def fCORE_CHSAT_BUF : FieldDef := ⟨0x170, 15, 0, .ro, 0, 8, 4⟩
-- 0x200 STN_STAT: station status, FDR PLT INK FLD DLV (R79)
def fSTN_STAT_BUSY : FieldDef := ⟨0x200, 31, 31, .ro, 0, 5, 512⟩
def fSTN_STAT_DEPTH : FieldDef := ⟨0x200, 23, 16, .ro, 0, 5, 512⟩
def fSTN_STAT_SLOT : FieldDef := ⟨0x200, 10, 8, .ro, 0, 5, 512⟩
def fSTN_STAT_ENTRY : FieldDef := ⟨0x200, 7, 0, .ro, 0, 5, 512⟩
-- 0x204 STN_DONE: completed commands (R79)
def fSTN_DONE_COUNT : FieldDef := ⟨0x204, 31, 0, .ro, 0, 5, 512⟩
-- 0x208 STN_WAIT: token-waiting slots (R79)
def fSTN_WAIT_SLOTS : FieldDef := ⟨0x208, 7, 0, .ro, 0, 5, 512⟩
/-- Every field of the core map. -/
def fieldsCore : List FieldDef :=
  [fCORE_LID_PRESENT, fCORE_LID_SPARE, fCORE_LID_LID, fCORE_STONE_FREE, fCORE_STONE_LARGEST, fCORE_TOK_FREE,
   fCORE_WDOG_EXP, fCORE_SLOT_VALID, fCORE_SLOT_RUN, fCORE_SLOT_HWAIT, fCORE_SLOT_PRIO, fCORE_SLOT_TAG,
   fCORE_HTOK_H3, fCORE_HTOK_H2, fCORE_HTOK_H1, fCORE_HTOK_H0, fCORE_XFLAG_CHS, fCORE_XFLAG_NV, fCORE_XFLAG_DZ,
   fCORE_XFLAG_OF, fCORE_XFLAG_UF, fCORE_XFLAG_NX, fCORE_CHSAT_BUF, fSTN_STAT_BUSY, fSTN_STAT_DEPTH,
   fSTN_STAT_SLOT, fSTN_STAT_ENTRY, fSTN_DONE_COUNT, fSTN_WAIT_SLOTS]

/-- The map of a page kind: the header of R40 and the block's own registers. -/
def blockFields : Kind → List FieldDef
  | .hst => fieldsHst
  | .hstCh => fieldsHstCh
  | .boot => fieldsBoot
  | .dctl => fieldsDctl
  | .errcDev => fieldsErrc ++ fieldsErrcDev
  | .errcCh => fieldsErrc ++ fieldsErrcCh
  | .errcQ => fieldsErrc
  | .pwr => fieldsPwr
  | .clk => fieldsClk
  | .dma => fieldsDma
  | .qctl => fieldsQctl
  | .case => fieldsCase
  | .dir => fieldsDir
  | .mc => fieldsMc
  | .stk => fieldsStk
  | .xl => fieldsXl
  | .brg => fieldsBrg
  | .imp => fieldsImp
  | .gal => fieldsGal
  | .core => fieldsCore

/-- The fields of the register at `off`. -/
def fieldsAt (k : Kind) (off : Nat) : List FieldDef :=
  (if off < 0x100 then fieldsHdr else blockFields k).filter (·.stands off)

/-- BLK_CAP0.NSRC of a page kind (R16, R80, R202, R225, R254, R272, R321, R355, R395, R436, R457, R475). -/
def nsrc : Kind → Nat
  | .hst => 1 | .hstCh => 5 | .boot => 4 | .dctl => 1 | .errcDev => 3 | .errcCh => 3 | .errcQ => 3 | .pwr => 3
  | .clk => 3 | .dma => 1 | .qctl => 12 | .case => 4 | .dir => 3 | .mc => 5 | .stk => 3 | .xl => 15 | .brg => 4
  | .imp => 4 | .gal => 3 | .core => 8

/-- The severities of sources 0, 1, … after reset, from the source tables of the blocks' chapters. -/
def sevReset : Kind → List Nat
  | .hst => [0] | .hstCh => [1, 1, 1, 1, 0] | .boot => [0, 3, 1, 1] | .dctl => [2]
  | .errcDev => [0, 0, 2] | .errcCh => [0, 0, 2] | .errcQ => [0, 0, 2]
  | .pwr => [3, 3, 0] | .clk => [3, 3, 0] | .dma => [1]
  | .qctl => [1, 1, 1, 1, 1, 0, 1, 1, 0, 3, 1, 0] | .case => [0, 0, 1, 2] | .dir => [0, 1, 2]
  | .mc => [0, 1, 1, 1, 0] | .stk => [2, 2, 3] | .xl => [0, 0, 0, 1, 0, 2, 2, 2, 0, 3, 2, 0, 1, 0, 1]
  | .brg => [0, 3, 2, 0] | .imp => [1, 1, 2, 0] | .gal => [0, 0, 1] | .core => [2, 1, 1, 0, 2, 1, 1, 1]

/-- Two bits per source, source 0 lowest. -/
def pack2 : List Nat → Nat
  | [] => 0
  | v :: r => v + 4 * pack2 r

/-- The word a register holds at reset: the Reset columns of its fields, with ERR_SEV from `sevReset`, the default
shares of Table 12.5 and GAL_PWAYS of partition 0 (R223, R321). -/
def wordReset (k : Kind) (off idx : Nat) : Nat :=
  if off = 0x028 then pack2 (sevReset k)
  else if k = .xl ∧ 0x140 ≤ off ∧ off < 0x160 then
    [512 * 65536 + 512, 4096 * 65536 + 2048, 512 * 65536 + 5120, 512 * 65536 + 3072].getD ((off - 0x140) / 8) 0
  else if k = .gal ∧ off = 0x104 then (if idx = 0 then 0xFFFF else 0)
  else (fieldsAt k off).foldl (fun a f => setBits a f.hi f.lo f.reset) 0

end Sys2Proof.Machine
end

