-- ==== Sys2Proof/Machine/State.lean ====
section
/-!
DEFINITION. The state of the S9: every register, cache, buffer, queue, counter, mode and pin the spec gives the block,
as plain data, and the queue of commands that wait.

Registers that software reads and writes live in ONE sparse file (`Dev.regs`), whose unlisted entries hold their Reset
column. What the spec describes beside its registers (cores, Stones, caches, directories, runs, requests, links,
keys, power) is typed data below. Each record's docstring names the rule it comes from.
-/

namespace Sys2Proof.Machine

open Sys2Proof

/-! ### Caches and coherence (chapters 8 and 9) -/

/-- Line states of Table 9.2; `h` marks the home Case's own copy, which the directory does not record (R227). -/
inductive LState where
  | m | o | e | s | h
deriving DecidableEq, Repr

/-- A line of a Galley, a Case or the host agent (R203, R229). An absent line is state I. -/
structure CLine where
  st : LState
  dirty : Bool
  data : LineData
  psn : Bool
  part : Nat
  /-- class of R211: 0 evict-first, 1 normal, 2 persist -/
  cls : Nat
  win : Nat
  peer : Bool
  /-- the way the line lies in; 16 stands for the fill buffer, and 32 and above for a line that waits there for the way an
  evicted line still reserves (R241) -/
  way : Nat
  /-- recency: larger is more recently used (R214) -/
  used : Nat
  /-- held for a reduction (R249) -/
  held : Bool
  /-- evicted, its way reserved until the home acknowledges (R241) -/
  leaving : Bool
deriving DecidableEq, Repr

/-- A directory entry (Table 9.3): STATE 1 SH, 2 EX, 3 OWN; the pointers in the order P0, P1, P2. -/
structure DirEnt where
  st : Nat
  bcast : Bool
  owner : Nat
  ptrs : List (Option Nat)
  used : Nat
  /-- found uncorrectable: OWN, BCAST and an unknown owner (R236) -/
  lost : Bool
deriving DecidableEq, Repr

/-- Requests of Table 9.4. -/
inductive HKind where
  | rds | rdx | rdcur | homeop | wb | eve | adds | xfer
deriving DecidableEq, Repr

/-- The traffic class and deadline budget a request carries, and whether it is late (R275, R276, R278). -/
structure Svc where
  tc : Nat
  budget : Nat
  late : Bool
deriving DecidableEq, Repr

/-- A request as the home holds it, in a transaction or in the home queue (R237, R240). -/
structure HReq where
  kind : HKind
  agent : Nat
  line : Nat
  part : Nat
  req : Nat
  full : Bool
  data : Nat
  psn : Bool
  ecc : HomeEcc
  svc : Svc
deriving DecidableEq, Repr

/-- The transaction in flight on a line (R240): the answers awaited, what they have brought, and what follows. -/
structure Txn where
  req : HReq
  /-- agents whose answers are awaited; 15 stands for the memory controller's read -/
  await : List Nat
  /-- data an agent or the memory has returned to the home, and whether it is dirty with respect to memory -/
  got : Option (Nat × Bool)
  gotDirty : Bool
  /-- it was read from memory -/
  gotMem : Bool
  /-- the owner has sent its data to the requester itself (R238) -/
  direct : Bool
  /-- the requester was still listed when the transaction began: an upgrade (R238) -/
  upgrade : Bool
  /-- a recall of an entry to make room (R235), or of a lost entry (R236) -/
  recalled : Bool
  /-- the owner answered absent: its WB, EvE or Xfer is on its way (R239) -/
  ownerGone : Bool
  /-- the sharers, or every agent of a lost entry, have been snooped (R234, R236) -/
  inv : Bool
  /-- the line whose request takes the entry this recall frees (R235) -/
  room : Option Nat
  /-- the line of a reduction is in hand (R249) -/
  ready : Bool
deriving DecidableEq, Repr

/-- Messages in flight between agents and homes (R237 to R239). -/
inductive WMsg where
  | snpShr (dest rcv : Nat) (line : Nat)
  | snpOwn (dest rcv : Nat) (line : Nat) (full : Bool)
  | snpInv (dest : Nat) (line : Nat)
  | snpCur (dest rcv : Nat) (line : Nat)
  /-- `dirty`: the data differs from memory -/
  | answer (src : Nat) (line : Nat) (data : Option (Nat × Bool)) (present keeps direct dirty : Bool)
  /-- `die` sends it: the home's B-die, or an owner's die -/
  | reply (die dest : Nat) (line : Nat) (st : Option LState) (data : Option (Nat × Bool)) (part : Nat)
  | ack (dest : Nat) (line : Nat)
  | request (r : HReq)
deriving DecidableEq, Repr

/-- An agent's own outstanding request for a line: what it asked for, data that has come ahead of the grant, and whether
the local Case installs the line too (R242). -/
structure Mshr where
  want : HKind
  data : Option (Nat × Bool)
  /-- Galleys of the quadrant that wait for a Case's reply -/
  galleys : List Nat
deriving DecidableEq, Repr

/-! ### Requests (chapters 2, 6, 11) -/

/-- Who waits for a request. -/
inductive Client where
  | feeder (c : CoreId) (sl ent : Nat) (stoneOffs : List (Nat × Nat × Nat))
  /-- a prefetch of a command (R65); `sl` is 8 for a request no command waits on -/
  | prefetch (c : CoreId) (sl ent : Nat)
  | delivery (c : CoreId) (sl ent : Nat) (store : Bool)
  /-- an access of a thread: its group slot, 16 once its block has ended, and its LAUNCH's slot and entry -/
  | inkLd (c : CoreId) (g sl ent : Nat)
  | inkSt (c : CoreId) (g sl ent : Nat)
  | atom (c : CoreId) (g sl ent : Nat)
  | poll (c : CoreId) (sl : Nat)
  /-- the kernel header of a LAUNCH (R122), and an instruction line (R124) -/
  | header (c : CoreId) (sl : Nat)
  | ifetch (c : CoreId) (g : Nat)
  | journal (d q pos : Nat)
  | save (d q : Nat)
  | fetch (d q pos : Nat)
  | dma (ch e : Nat)
  | shadow (ch : Nat)
  /-- one copy of a mailbox message on a rail, by its number (R332), and the data of a firmware chunk (R333) -/
  | mailbox (rail seq : Nat)
  | chunk (rail : Nat)
  | ctl
  /-- a request that arrived on an Exwin port, with the tag and source of its answer -/
  | peerIn (p : Nat) (src tag gen : Nat) (tc : Nat)
deriving DecidableEq, Repr

/-- The read-modify-writes of Table 5.5. -/
inductive AOp where
  | add | fadd | smin | smax | umin | umax | and | or | xor | exch | cas
deriving DecidableEq, Repr

inductive ReqOp where
  | rd
  | wr
  /-- accumulate-write: RED and the frame F_s (R244, R247) -/
  | acc (red : Nat) (fs : Int)
  /-- per lane: lane, byte offset in the line, operands; the lanes' results return in `Req.res` -/
  | atom (op : AOp) (width : Nat) (lanes : List (Nat × Nat × Nat × Nat))
deriving DecidableEq, Repr

/-- Where R29 sends a request. -/
inductive Target where
  | stack (s : Nat) (off : Nat)
  | peer (dev : Nat) (addr : Nat) (tc : Nat) (rcache : Bool)
  | host (addr : Nat)
  | addrError
deriving DecidableEq, Repr

/-- One request of at most one line, or one Chase block (R153, R246). -/
structure Req where
  id : Nat
  cli : Client
  op : ReqOp
  addr : Nat
  tgt : Target
  /-- bytes of the line (or block) named, one bit each, and the data written -/
  mask : Nat
  data : Nat
  psn : Bool
  /-- requester partition (R358) and issuing quadrant -/
  part : Nat
  quad : Nat
  tc : Nat
  /-- deadline budget left, lateness, and the budget's stamp (chapter 11) -/
  budget : Nat
  late : Bool
  /-- placed last in metered mode (R287) -/
  lowered : Bool
  nogal : Bool
  scope : Nat
  /-- CTR, COLO and GROUP of the command; EXPECT for a colophon write -/
  ctr : Nat
  colo : Bool
  group : Nat
  expect : Nat
  flag : Bool
  /-- a write accepted by the Galley, performed at DEVICE, performed at SYSTEM, or failed (Table 6.1, R157) -/
  accepted : Bool
  dev : Bool
  sys : Bool
  failed : Bool
  /-- a read's reply is here -/
  ready : Bool
  res : Nat
  resPsn : Bool
  resErr : Bool
  /-- exception flags an atomic raised (R143) -/
  flags : Nat
  /-- LD.ACQ and ATOM.ACQ: the acquire taken when the reply is delivered -/
  acq : Option Nat
  /-- destination register and size in bytes of an Inker access; its pieces in this line: lane, byte in the line, byte in the
  lane's value, bytes -/
  dst : Nat
  size : Nat
  lanes : List (Nat × Nat × Nat × Nat)
  nocache : Bool
  /-- a fill overtaken by an invalidation is delivered and not installed (R148) -/
  noinstall : Bool
  /-- generation tag of the issuer's domain (R399) -/
  gen : Nat
  /-- released into the network: it left the issuing quadrant (regulation, fences) -/
  issued : Bool
deriving DecidableEq, Repr

/-! ### Cores (chapters 3, 5, 7) -/

/-- A command executing at a station: its slot, entry, the press cycle at which its own work is done, and whether a Delivery
command has begun to send its writes (a releasing one has not before its release set is performed, R157). -/
structure Exec where
  slot : Nat
  ent : Nat
  until_ : Nat
  sending : Bool
deriving DecidableEq, Repr

/-- A station of a core (R49, R81, R188, R189). -/
structure Station where
  exec : Option Exec
  /-- (slot, entry) in order of arrival -/
  queue : List (Nat × Nat)
  last : List Nat
  age : List Nat
  promo : List Bool
  wdog : List Nat
deriving DecidableEq, Repr

/-- A job slot's binding (R78, R183): the queue, its tag and level, and its head tokens. -/
structure Bind where
  q : Nat
  tag : Nat
  prio : Nat
  htok : List Nat
  /-- press cycle at which the slot last ended holding a run (R186) -/
  freed : Nat
deriving DecidableEq, Repr

/-- The sticky flags of a slot (R79). -/
structure Sticky where
  xflag : Nat
  chsat : Nat
deriving DecidableEq, Repr

/-- A divergence level: reconvergence address and the lanes that split there (R139, R140). -/
structure Level where
  reconv : Nat
  lanes : BitVec 32
deriving DecidableEq, Repr

/-- What a path waits for (R139). -/
inductive PState where
  | run | bar | reconv
deriving DecidableEq, Repr

/-- A path: active lanes at one address (R139). -/
structure Path where
  lanes : BitVec 32
  pc : Nat
  st : PState
  stack : List Level
  /-- instructions issued since it became current, and when it last stopped being current (R141) -/
  issued : Nat
  since : Nat
deriving DecidableEq, Repr

/-- A resident group (R119, R125 to R128): its first path is the current one. -/
structure Group where
  block : Nat
  grp : Nat
  colBase : Nat
  nreg : Nat
  paths : List Path
  regs : NMap Word
  /-- the register cache: registers held, most recently used first, with their kept mark (R127) -/
  rcache : List (Nat × Bool)
  /-- press cycle from which every result of the group's arithmetic can be read (R133, Table 5.4) -/
  until_ : Nat
deriving DecidableEq, Repr

/-- A resident block: its LAUNCH, number and area of block-local memory (R129). -/
structure Block where
  slot : Nat
  ent : Nat
  num : Nat
  area : Nat
deriving DecidableEq, Repr

/-- A LAUNCH executing at the Inker (R68, R120, R122). `hdr` is LGRAN, MINREG, LEN once the header has arrived. -/
structure Launch where
  slot : Nat
  ent : Nat
  hdr : Option (Nat × Nat × Nat)
  next : Nat
  ended : Nat
deriving DecidableEq, Repr

/-- The Inker (R121, R131 to R133). The LAUNCH whose block was admitted last stands first in `launches` (R49). -/
structure Inker where
  launches : List Launch
  /-- block slots 0-7 -/
  blocks : NMap (Option Block)
  /-- group slots 0-15 -/
  groups : NMap (Option Group)
  /-- press cycle until which a unit that takes more than one cycle an instruction is taken (R133, Table 5.4) -/
  unitTo : Nat
  /-- the group slot that issued last (R133) and the LAUNCH slot admitted last (R49) -/
  lastGroup : Nat
  lastAdmit : Nat
  /-- a LAUNCH chosen by arbitration whose next block does not fit yet (R132) -/
  chosen : Option Nat
  /-- lines of the instruction cache (R124) -/
  icache : List Nat
  /-- data-cache lines, most recently used first: line number, partition and data (R145, R359) -/
  dcache : List (Nat × Nat × LineData)
deriving DecidableEq, Repr

/-- A core (R48 to R54, R73, R78). -/
structure Core where
  binds : NMap (Option Bind)
  sticky : NMap Sticky
  stations : NMap Station
  /-- the Stone's bytes, and its lines whose written bit is set (R52) -/
  stone : NMap Byte
  written : List Nat
  /-- the 32 dependency tokens (R73) -/
  toks : NMap Nat
  inker : Inker
  /-- press cycle of the last MMA's end, an onset request, and its grant (R190) -/
  lastMma : Option Nat
  onsetReq : Bool
  onset : Bool
deriving DecidableEq, Repr

/-! ### Runs and queues (chapter 7) -/

/-- Where a run stands (Table 3.7, R187). -/
inductive Stage where
  /-- ring entry and image asked for -/
  | fetching
  /-- image here and checked -/
  | checked
  /-- holds a slot, in its head wait -/
  | waiting
  /-- head wait satisfied, or none; waits to begin -/
  | ready
  | begun
  /-- every command completed or abandoned; the end is due -/
  | ended
  /-- ended without beginning: its journal entry waits for the earlier runs -/
  | retiring
deriving DecidableEq, Repr

/-- A run known to the Imposer (R180 to R200). -/
structure Run where
  pos : Nat
  hdrAddr : Nat
  /-- header and entries as fetched -/
  img : List Byte
  stage : Stage
  err : Nat
  ent : Nat
  core : Option CoreId
  slot : Nat
  /-- press cycle at which the head wait began; next poll due; a poll outstanding (R77) -/
  waitStart : Nat
  pollDue : Nat
  pollOut : Bool
  /-- when the head wait ended, as a place in the order of R51 -/
  readySeq : Nat
  /-- physical token of each token name -/
  tokMap : List Nat
  /-- first granule of each placed buffer -/
  bufAt : List Nat
  /-- per station, the entries not yet placed, in run order -/
  toPlace : List (List Nat)
  /-- entries completed, and whether any command issued -/
  done : List Nat
  issued : Bool
  progress : Nat
  dlvDone : Nat
  outbound : Bool
  /-- head token consumed at beginning and its count (R192) -/
  htokUsed : Option (Nat × Nat)
  /-- a fetch (R185): 0 the ring entry, 1 the header, 2 the entries are asked for -/
  phase : Nat
  /-- press cycle at which the checks were passed (R186) -/
  checkedAt : Nat
deriving DecidableEq, Repr

/-- A run queue beside its registers (R179): the runs known, and what a PREEMPT or DISABLE waits to do after HELD. -/
structure Queue where
  runs : List Run
  /-- after HELD: nothing, save and switch off (PREEMPT), or switch off (DISABLE) (R193) -/
  after : Nat
  /-- the queue of its Imposer and level that was last served by fetching (R185) -/
  served : Bool
deriving DecidableEq, Repr

/-- A SIGNAL on its way (R72): the signalling core, slot and run position, entry, channel and job tag; target, head token and
increment. -/
structure Signal where
  src : CoreId
  slot : Nat
  pos : Nat
  ent : Nat
  chan : Nat
  tag : Nat
  target : Nat
  htok : Nat
  inc : Nat
  svc : Svc
deriving DecidableEq, Repr

/-! ### Destination-side counting (chapter 6) -/

/-- A colophon group entry at a B-die (R170 to R174): tally, held write and its arrival, sticky bits. -/
structure Grp where
  tally : Nat
  held : Option (Req × Nat)
  tmo : Bool
  dup : Bool
  sat : Bool
deriving DecidableEq, Repr

/-- A peer-window entry (R32). -/
structure Window where
  valid : Bool
  tc : Nat
  rcache : Bool
  parten : Bool
  part : Nat
  dev : Nat
  sizeG : Nat
  pbase : Nat
deriving DecidableEq, Repr

/-! ### Stacks and traffic (chapters 10 and 11) -/

/-- A line to be written to a stack: its data and poison, and the tag of the key it was accepted under (R262 to R265). -/
structure McWrite where
  line : Nat
  data : Nat
  psn : Bool
  tag : Nat
  svc : Svc
deriving DecidableEq, Repr

/-- A memory-controller channel (R266 to R269): requests queued, the batch direction, refresh debt and bank timing. -/
structure McChan where
  /-- lines to be read and lines to be written, oldest first -/
  reads : List Nat
  writes : List McWrite
  /-- the same, waiting in the home Case's queue for a stack in training (R271) -/
  waitR : List Nat
  waitW : List McWrite
  /-- reads issued to the stack and not returned; the Boolean: given up after four retries (R272) -/
  inflight : List (Nat × Bool)
  writing : Bool
  batch : Nat
  /-- a batch of writes has been served: the channel turns back to reads that wait (R268) -/
  owed : Bool
  postponed : Nat
  nextBank : Nat
  /-- open row of each bank and the memory-controller cycle it was opened in -/
  rows : NMap (Option (Nat × Nat))
  /-- the bank under refresh, and the cycle from which it serves again (R266) -/
  refresh : Option (Nat × Nat)
deriving DecidableEq, Repr

/-- A stack beside its registers: above its threshold (R267), the scrub's place, the channels whose scrub read is out
and those whose line was written meanwhile, one bit each (R261), commands and counts that a training or a zeroing waits for. -/
structure StackSt where
  hot : Bool
  scrubAt : Nat
  scrubbing : Nat
  overtaken : Nat
  zunit : Nat
deriving DecidableEq, Repr

/-- Regulation at one B-die (R282, R284, R287): the level last received of each stack, issue slots used in this 16-cycle
window per master, stack and class, request bytes of each master in this metering window. -/
structure Traffic where
  level : NMap Nat
  used : NMap Nat
  bytes : NMap Nat
deriving DecidableEq, Repr

/-! ### Exwin ports (chapter 12) -/

/-- A peer request in a tag table (R307, R313): its request, port and generation, and the net cycle it left in; `more`: the request
for the second line of its 256-byte block, where one packet serves both (R296). -/
structure TagEnt where
  req : Nat
  more : Option Nat
  port : Nat
  gen : Nat
  sentAt : Option Nat
  /-- abandoned by a function-level reset (Table 15.5) -/
  abandoned : Bool
deriving DecidableEq, Repr

/-- The requests a tag stands for. -/
def TagEnt.reqs (t : TagEnt) : List Nat := t.req :: t.more.toList
def TagEnt.names (t : TagEnt) (rq : Nat) : Bool := t.reqs.contains rq

/-- An acknowledgement waiting to be combined into a LANDED (R308): what it carries of its request, and the net cycle it arose in. -/
structure Landing where
  dst : Nat
  tag : Nat
  gen : Nat
  svc : Svc
  at_ : Nat
deriving DecidableEq, Repr

/-- An Exwin port beside its registers (R294 to R321). -/
structure PortSt where
  /-- credits the transmitter holds, per share j = 2 * VC + RPL, and the last cumulative count received -/
  credits : NMap Int
  credSeen : NMap Nat
  /-- of this receiver, per share: flits freed since training, how many of them it has returned, and flits held -/
  freed : NMap Nat
  credSent : NMap Nat
  held : NMap Nat
  /-- packets waiting to be sent, in order: 0 for a request of this device, 1 + the arrival port for a reply; and packets held in
  receive shares for this device or in transit, 16 added to the share for what the device sends to itself -/
  txq : List (Nat × Packet)
  rxq : List (Nat × Packet)
  /-- next FSEQ to send, last FSEQ accepted, and the retry buffer: FSEQ of the first flit and the packet (R305) -/
  fseqTx : Nat
  fseqRx : Nat
  retry : List (Nat × Packet)
  /-- NAK state of the receiver: NAKID, NAK pending, successive NAKs at one ACKSEQ -/
  nakId : Nat
  nak : Bool
  nakSame : Nat
  nakAck : Nat
  /-- NAKID last answered by the transmitter, a replay due -/
  answered : Option Nat
  replayDue : Bool
  /-- the ACKSEQ after which the replay begins -/
  replayFrom : Nat
  /-- control slots lost in a row, tag failures in a row (R306, R316) -/
  lostCtl : Nat
  tagFails : Nat
  /-- fast retraining asked of the peer -/
  rtrn : Bool
  /-- the peer's generation at the last UP, and whether there was one -/
  peerGen : Option Nat
  /-- link epoch, block numbers sent and received, the keys of the two directions, and the peer verified (R314, R455) -/
  epoch : Nat
  block : Nat
  rxBlock : Nat
  keyed : Bool
  keyTx : BitVec 256
  keyRx : BitVec 256
  peerUid : BitVec 128
  verified : Bool
  /-- the next slot's number since training, flits of packets sent that follow the next control slot, and with encryption the
  flits of the blocks not yet closed (R294, R314) -/
  slot : Nat
  carry : Nat
  plain : List (List Byte)
  /-- kinds and packets that have arrived encrypted and wait for the check of their block's tag (R314) -/
  unchecked : List (Nat × Packet)
  /-- the peer shows FENCE -/
  peerFence : Bool
  /-- taken DOWN by command or by tag failures: no automatic training (R316, R320) -/
  noAuto : Bool
  /-- fast training in progress -/
  fast : Bool
  /-- net cycle of the last fall, for the 10 ms of R320 -/
  downAt : Nat
  landings : List Landing
deriving DecidableEq, Repr

/-! ### Chapel management (chapter 13) -/

/-- A mailbox message of the device controller: waiting to be sent, or sent and not seen answered (R332, R335). -/
structure SentMsg where
  dst : Nat
  kind : Nat
  seq : Nat
  payload : List Byte
  at_ : Nat
deriving DecidableEq, Repr

/-- A collection window (R334, R335): the link it is about, if any: its two ends, their port masks, whom to send to for each, and the
numbers of the LINK_PREPs sent; step 0 collecting, 1 LINK_PREP sent; the ends that have answered (0, 1), and the management cycle
the step began in. -/
structure LinkCase where
  isLink : Bool
  endA : Nat
  endB : Nat
  maskA : Nat
  maskB : Nat
  toA : Option Nat
  toB : Option Nat
  seqA : Option Nat
  seqB : Option Nat
  step : Nat
  acks : List Nat
  since : Nat
deriving DecidableEq, Repr

/-- A notice collected about a device (R335). -/
structure Notice where
  named : Nat
  src : Nat
  cause : Nat
  at_ : Nat
deriving DecidableEq, Repr

/-- A link end that the top manager restarts through this chapel manager (R334): whom and what it answers, the end device, the number
the last message was passed on under, and the port mask; phase 0 LINK_PREP passed on, 1 answered, 2 LINK_GO passed on. -/
structure Relay where
  top : Nat
  topSeq : Nat
  dev : Nat
  seq : Nat
  mask : Nat
  phase : Nat
deriving DecidableEq, Repr

/-- The management state of the device controller (R332 to R335). -/
structure Chapel where
  /-- next SEQ to send per destination; the last 16 SEQs acted on per receive lane and sender, keyed lane * 65536 + sender -/
  seqOut : NMap Nat
  seen : NMap (List Nat)
  backlog : List SentMsg
  unanswered : List SentMsg
  links : List LinkCase
  notices : List Notice
  relays : List Relay
  failed : List Nat
  /-- PLAN payloads passed to host software; chunks here: component, offset, length; the chunk whose ACK waits for the check of
  the assembled image -/
  plans : List (List Byte)
  chunks : List (Nat × Nat × Nat)
  stageAck : Option (Nat × Nat)
  /-- broadcasts of this manager: component, and the last chunks not answered, by member and SEQ; components delivered (R333) -/
  casts : List (Nat × List (Nat × Nat))
  delivered : List Nat
deriving DecidableEq, Repr

/-! ### Outside (chapters 14, 16, 21) -/

/-- Requester ID, PASID prefix and address type of a PCIe request (R341). -/
structure HostId where
  fn : Nat
  pasid : Option Nat
  translated : Bool
deriving DecidableEq, Repr

/-- What the S9 sends outside its package. -/
inductive OutMsg where
  /-- PCIe requests: their identity, address and bytes; Relaxed Ordering and poison of a write -/
  | hostWrite (id : HostId) (addr : Nat) (bytes : List Byte) (relaxed psn : Bool)
  | hostRead (rq : Nat) (id : HostId) (addr len : Nat)
  | hostAtomic (rq : Nat) (id : HostId) (op : AOp) (addr len a b : Nat)
  | msix (fn vec : Nat) (addr : Nat) (data : Nat)
  | atsRequest (rq : Nat) (fn : Nat)
  | atsInvDone (fn tag : Nat)
  /-- the flits of a packet from the given one on, in clear (R294, R305) -/
  | packet (p : Nat) (k : Packet) (from_ : Nat)
  /-- the 20 slots before a control slot, encrypted (R314) -/
  | block (p : Nat) (cipher : List Byte)
  /-- a link-control flit with its CHECK: in clear a CRC-32, else the block's tag (Table 12.4) -/
  | ctl (p : Nat) (f : CtlFlit) (check : List Byte)
  /-- this end's part of a link's key exchange (R455): epoch, DEVUID, port, ephemeral key, signature and certificates -/
  | linkKey (p : Nat) (bytes : List Byte)
  | spdm (fn : Nat) (code : Nat) (payload : List Byte)
  | sbData (status : Nat) (val : Word)
  | sbNack
  | sbAra (addr : Nat)
  /-- an in-band interrupt of the I3C sideband, with its mandatory byte (R485) -/
  | sbIbi (byte : Nat)
  /-- a trap of the firmware of controller k (R382): 0-3 quadrant controllers, 4-8 the device controller -/
  | nmi (k : Nat)
  | regRead (val : Word)
deriving DecidableEq, Repr

/-- A PCIe function (R339, R341, R349, R354). -/
structure Func where
  busMaster : Bool
  msixOn : Bool
  maskAll : Bool
  /-- table entries: address, data, masked (vectors are masked after reset, as PCIe has it) -/
  table : NMap (Nat × Nat × Bool)
  pendingVec : List Nat
  bars : NMap Nat
  pasid : Bool
  ats : Bool
  atomics : Bool
  /-- TDI state: 0 CONFIG_UNLOCKED, 1 CONFIG_LOCKED, 2 RUN, 3 ERROR -/
  tdi : Nat
  /-- NumVFs and VF Enable, in PF0 -/
  numVfs : Nat
  vfEnable : Bool
  /-- a function-level reset is in progress: the management cycle of its step 1 -/
  flr : Option Nat
deriving DecidableEq, Repr

/-- A descriptor an engine has in progress: its ring position and its 32 bytes (R352). -/
structure Desc where
  pos : Nat
  bytes : List Byte
deriving DecidableEq, Repr

/-- An address translation held in the port's cache (R342): function, PASID, page, and the page it is translated to. -/
structure AtcEnt where
  fn : Nat
  pasid : Nat
  page : Nat
  to_ : Nat
deriving DecidableEq, Repr

/-- An invalidation request whose completion is due: function, tag, requests issued under the entries (R342). -/
structure Inval where
  fn : Nat
  tag : Nat
  waits : List Nat
deriving DecidableEq, Repr

/-- The host port beside its registers. -/
structure HostPort where
  fns : NMap Func
  atc : List AtcEnt
  invals : List Inval
  /-- host-window requests sent and not answered, held while the link is down; writes that have reached the port and not been sent, in
  the order they reached it (R346) -/
  sent : List Nat
  heldReqs : List Nat
  posted : List Nat
  /-- engine descriptors in progress, keyed 32 * channel + engine -/
  dma : NMap (List Desc)
  /-- PERST# is low -/
  perst : Bool
deriving DecidableEq, Repr

/-- An event message on its way to a collector, or recorded there (R376, R378). -/
structure Event where
  /-- when it was detected, in the clock of its collector's controller: messages of one such cycle are taken by status bit and
  source (R384) -/
  found : Nat
  blkId : Word
  src : Nat
  synd : Nat
  sev : Nat
  act : Nat
  clk : Nat
  stamp : Nat
  /-- the page's number, the collector it goes to and the status bit it sets -/
  page : Nat
  coll : Nat
  bit : Nat
  /-- a summary of a lower collector: no reaction, no syndrome (R380) -/
  summary : Bool
deriving DecidableEq, Repr

/-- A history entry (R387, ERRC_HE0 to HE6). -/
structure Hist where
  valid : Bool
  opened : Bool
  ack : Bool
  sev : Nat
  clk : Nat
  bit : Nat
  merge : Nat
  blkId : Word
  react : Nat
  src : Nat
  synd : Nat
  stamp : Nat
  seq : Nat
  merged : Nat
deriving DecidableEq, Repr

/-- A collector (R379 to R388): what its open episode has taken, and its history queue. -/
structure Coll where
  hist : NMap Hist
  next : Nat
  seq : Nat
  isOpen : Bool
  ent : Nat
  /-- widest DRST taken (0 none, 1 partition, 2 device) and pages whose BRST was taken (R385) -/
  drst : Nat
  brst : List Nat
deriving DecidableEq, Repr

/-! ### Resets (chapter 17) -/

/-- A reset in progress (R397 to R406): its domain, whether it drains (phase 0) or its blocks have been reset (phase 1), its cause
for QCTL_RSTINFO, whether it was escalated or its drain forced, the management cycle it began in, and the defect mask a REPAIR
or RETIRE sets while the row is in reset (0 for none). -/
structure Rst where
  dom : Dom
  phase : Nat
  cause : Nat
  esc : Bool
  forced : Bool
  since : Nat
  rpr : Nat
deriving DecidableEq, Repr

/-! ### Partition quiesce (chapter 15) -/

/-- What quiesces a partition: software, a VF's function-level reset (R371). -/
structure Quiesce where
  chan : Nat
  part : Nat
  urgent : Bool
  infence : Bool
  flr : Option Nat
deriving DecidableEq, Repr

/-! ### Bring-up, identity, power (chapters 18 to 20) -/

/-- An accepted image of the boot buffer (R425). Its LOADED, STARTED, OVR, EPOCH and VERSION stand in BOOT_COMP. -/
structure Image where
  comp : Nat
  bytes : List Byte
deriving DecidableEq, Repr

/-- A key of a channel's key store (R453, R454). -/
structure Key where
  chan : Nat
  slot : Nat
  value : BitVec 512
deriving DecidableEq, Repr

/-- Pyruno's and the device controller's state (chapters 18 and 19). -/
structure Boot where
  images : List Image
  /-- combinations of the manifest in force and of the override licences, 48 bytes each (R427); digests of the applied tokens -/
  combos : List (List Byte)
  overrides : List (List Byte)
  licences : List (List Byte)
  /-- the runtime stores of the Imposers are loaded (R431) -/
  rtStore : Bool
  /-- the command Pyruno is executing: 0 none, else the BOOT_CMD bit + 1 -/
  busy : Nat
  /-- the source and length a STAGE or LICENCE was given: BOOT_SRC and BOOT_LEN as they stood when it was accepted -/
  src : Nat
  len : Nat
  /-- floor plan: defective positions and retired or repaired spares, per row key die * 32 + row (R421, R398) -/
  defects : NMap Nat
  committed : Bool
  /-- measurement registers: those of the device by number, those of channel c at 16 * (c + 1) + number (R444, R445) -/
  mrs : NMap (BitVec 512)
  /-- words of the public key (0-7) and of DEVUID (8-11), and the secret seed (R438) -/
  idWords : NMap Word
  devSeed : BitVec 256
  devCert : List Byte
  caCert : List Byte
deriving DecidableEq, Repr

/-- Attestation and keys (R448 to R457). -/
structure Trust where
  /-- the attestation command a channel executes (0 none, 1 REPORT, 2 CERT, 3 + m EXTEND of MR12 + m), the bytes it writes, and the
  reports signed for the channel since power-up -/
  att : NMap Nat
  attBytes : NMap (List Byte)
  /-- the host address of the command in progress -/
  attTo : NMap Nat
  attCount : NMap Nat
  /-- the key slot a channel's key command loads, plus 1 -/
  keyBusy : NMap Nat
  keys : List Key
  /-- slots loaded in each B-die: quadrant, slot, value -/
  loaded : List (Nat × Nat × BitVec 512)
  /-- DCTL_ARRANGE.ARR at the previous START since power-up (R454) -/
  lastArr : Option Nat
  /-- SPDM: functions that have negotiated, sessions as (function, 1 exchanged or 2 established), IDE streams keyed -/
  algos : List Nat
  sessions : List (Nat × Nat)
  ide : List Nat
deriving DecidableEq, Repr

/-- Supply, clocks, thermal and the platform pins (chapters 20 and 21). -/
structure Power where
  /-- the input is in range, soft start is complete, and power-good is taken; a rise of PWRGD during soft start, with its straps
  (R459, R484) -/
  vin : Bool
  softStart : Bool
  pwrgd : Bool
  early : Option (Bool × Nat)
  /-- FPL# is low (R463) -/
  fpl : Bool
  alert : Bool
  /-- press clock of each C-die in units of 50 MHz; issue limits of C-dies (key d) and stacks (key 8 + t); dies whose press clock is
  stretched (R464, R471) -/
  press : NMap Nat
  limit : NMap Nat
  stretch : NMap Bool
  /-- the learned tables of the cap controller, keyed 32 * quadrant + phase (R464); the spec gives their contents no form -/
  learned : NMap Nat
  /-- trips in force: dies (Table 2.8) and stacks (32 + t) still hot (R473), PLLs (128 + bit of CLK_LOCK) without lock (R475) -/
  tripped : List Nat
  /-- PLLs locked, by their CLK_LOCK bit -/
  locked : NMap Bool
  /-- straps, sideband offset and dynamic address, TAP instruction -/
  i3c : Bool
  strap : Nat
  sbOff : Option Word
  sbDyn : Option Nat
  tap : Nat
  running : Bool
deriving DecidableEq, Repr

/-! ### The device and the state -/

/-- Everything but the queue of waiting commands. -/
structure Dev where
  /-- register file, keyed by page, word offset and index; unlisted: the Reset column -/
  regs : NMap Word
  /-- shadows of R39: what a LO read latched, and what a LO write left -/
  rdShadow : NMap Word
  wrShadow : NMap Word
  /-- peer-window tables, keyed quadrant * 256 + entry (R31) -/
  wtab : NMap Window
  /-- memory of the stacks: bytes and poisoned lines; the key each line was written under (R262) -/
  mem : List Host.Cell
  poisoned : List Nat
  lineKey : NMap Nat
  /-- key slot a home unit of a stereo entry had at OPEN, plus 1, keyed 512 * (2 * quadrant + entry) + unit (R265) -/
  srKey : NMap Nat
  /-- caches, keyed (agent * 128 + place) * 2^41 + line, where the place is a Case slice, and in a Galley 0 or, for a line of a
  stereo region, 1 + its partition (R220); directory entries by line -/
  lines : NMap (Option CLine)
  dir : NMap (Option DirEnt)
  txns : NMap (Option Txn)
  homeq : List HReq
  wire : List WMsg
  mshr : NMap (Option Mshr)
  useCtr : Nat
  reqs : List Req
  nextReq : Nat
  /-- reductions accepted at a slice and not performed, in order of arrival: slice key q * 16 + s, request (R253) -/
  redq : List (Nat × Nat)
  /-- reductions that take the fallback of R250 -/
  redMc : List (Nat × Nat)
  cores : NMap Core
  signals : List Signal
  queues : NMap Queue
  /-- rows of each C-die last granted onset, and the press cycle of the grant (R190) -/
  onset : NMap (Nat × Nat)
  arr : NMap (BitVec 64)
  grps : NMap Grp
  /-- maintenance, home-unit changes and walks in progress: what each BUSY bit stands for -/
  hmapBusy : NMap (Option (Nat × Nat))
  /-- stereo and reduction-buffer commands that wait: key of the entry -/
  rbWait : List Nat
  mcs : NMap McChan
  stks : NMap StackSt
  traffic : NMap Traffic
  ports : NMap PortSt
  /-- tag tables, keyed quadrant * 16384 + entry, and next entry to allocate (R307) -/
  tags : NMap (Option TagEnt)
  tagNext : NMap Nat
  /-- parity of the next peer packet of each quadrant, for the alternation of rails (R328) -/
  rail : NMap Nat
  /-- accumulate-write packets whose Chase block crosses a 256-byte boundary, each waiting for the other part: arrival port and
  packet (log entry 19) -/
  halves : List (Nat × Packet)
  /-- sender, tag and generation of packets answered REFUSE of which parts are still outstanding: no LANDED follows (R308, R310) -/
  refused : List (Nat × Nat × Nat)
  chapel : Chapel
  host : HostPort
  evq : List Event
  colls : NMap Coll
  rsts : List Rst
  /-- resets completed per domain key (R400) -/
  gens : NMap Nat
  quiesces : List Quiesce
  boot : Boot
  trust : Trust
  power : Power
  /-- clock counts since their PLL first locked (R378), by clock key -/
  clk : NMap Nat
  /-- outside world: what has been sent, oldest first -/
  out : List OutMsg
  /-- the model's own: argument of the free values of Config -/
  freeCtr : Nat
deriving DecidableEq, Repr

/-- The machine: the device, and the commands that wait, first in, first out. -/
structure State where
  pending : List Instr
  dev : Dev
deriving DecidableEq, Repr

/-- Why a command stops the machine. -/
inductive Fault where
  /-- raised by `step` and by a meaning on a command whose operands no sender can form (a list of the wrong length).
  Safe: the machine stops where no hardware would be. -/
  | illFormed
deriving DecidableEq, Repr

/-- Why a command has no meaning. -/
inductive Refusal where
  /-- raised by an arm of `exec` that has no meaning yet. Safe: the machine stops. -/
  | notModelled (mnemonic : String)
deriving DecidableEq, Repr

/-! ### Values of records that nothing has written: what the sparse maps give for an unlisted key -/

def Bind.none : Option Bind := Option.none
def Sticky.init : Sticky := ⟨0, 0⟩
def Station.init : Station :=
  ⟨none, [], [7, 7, 7, 7], [0, 0, 0, 0, 0, 0, 0, 0],
   [false, false, false, false, false, false, false, false], [0, 0, 0, 0, 0, 0, 0, 0]⟩
def Inker.init : Inker := ⟨[], [], [], 0, 15, 0, none, [], []⟩
def Core.init : Core := ⟨[], [], [], [], [], [], Inker.init, none, false, false⟩
def Queue.init : Queue := ⟨[], 0, false⟩
def Grp.init : Grp := ⟨0, none, false, false, false⟩
def Window.init : Window := ⟨false, 0, false, false, 0, 0, 0, 0⟩
def McChan.init : McChan := ⟨[], [], [], [], [], false, 0, false, 0, 0, [], none⟩
def StackSt.init : StackSt := ⟨false, 0, 0, 0, 0⟩
def Traffic.init : Traffic := ⟨[], [], []⟩
def PortSt.init : PortSt :=
  { credits := [], credSeen := [], freed := [], credSent := [], held := [], txq := [], rxq := [], fseqTx := 0, fseqRx := 0xFFFF,
    retry := [], nakId := 0, nak := false, nakSame := 0, nakAck := 0, answered := none, replayDue := false, replayFrom := 0,
    lostCtl := 0, tagFails := 0, rtrn := false, peerGen := none, epoch := 0, block := 0, rxBlock := 0, keyed := false, keyTx := 0, keyRx := 0,
    peerUid := 0, verified := false, slot := 0, carry := 0, plain := [], unchecked := [],
    peerFence := false, noAuto := false, fast := false, downAt := 0, landings := [] }
def Chapel.init : Chapel := ⟨[], [], [], [], [], [], [], [], [], [], none, [], []⟩
def Func.init : Func :=
  ⟨false, false, false, [], [], [], false, false, false, 0, 0, false, none⟩
def HostPort.init : HostPort := ⟨[], [], [], [], [], [], [], false⟩
def Hist.init : Hist := ⟨false, false, false, 0, 0, 0, 0, 0, 0, 0, 0, 0, 0, 0⟩
def Coll.init : Coll := ⟨[], 0, 0, false, 0, 0, []⟩
def Boot.init : Boot :=
  { images := [], combos := [], overrides := [], licences := [], rtStore := false, busy := 0, src := 0, len := 0, defects := [], committed := false,
    mrs := [], idWords := [], devSeed := 0, devCert := [], caCert := [] }
def Trust.init : Trust :=
  { att := [], attBytes := [], attTo := [], attCount := [], keyBusy := [], keys := [], loaded := [], lastArr := none, algos := [], sessions := [],
    ide := [] }
def Power.init : Power :=
  { vin := false, softStart := false, pwrgd := false, early := none, fpl := false, alert := false, press := [], limit := [],
    stretch := [], learned := [], tripped := [], locked := [], i3c := false, strap := 0, sbOff := none, sbDyn := none, tap := 0,
    running := false }

/-- The device before its input has risen (R459): every register at its Reset column, every store empty, PERST# held low (R492). The
press clock of a C-die, unlisted, reads 2.25 GHz. -/
def Dev.reset : Dev :=
  { regs := [], rdShadow := [], wrShadow := [], wtab := [], mem := [], poisoned := [], lineKey := [], srKey := [], lines := [],
    dir := [], txns := [], homeq := [], wire := [], mshr := [], useCtr := 0, reqs := [], nextReq := 0, redq := [],
    redMc := [], cores := [], signals := [], queues := [], onset := [], arr := [], grps := [], hmapBusy := [], rbWait := [],
    mcs := [], stks := [], traffic := [], ports := [], tags := [], tagNext := [], rail := [], halves := [], refused := [],
    chapel := Chapel.init, host := { HostPort.init with perst := true }, evq := [], colls := [], rsts := [], gens := [], quiesces := [],
    boot := Boot.init, trust := Trust.init, power := Power.init, clk := [], out := [], freeCtr := 0 }

/-- The machine right after power-up, no command waiting. -/
def State.reset : State := { pending := [], dev := Dev.reset }

end Sys2Proof.Machine
end

