-- ==== Sys2Proof/WellFormed.lean ====
section
/-!
DEFINITION. Which commands a sender can form. The operand types bound every number, so what is left are the widths an ATOM
may have (Table 5.5) and the length of a DMA descriptor (Table 14.3).
-/

namespace Sys2Proof

/-- Arithmetic and bitwise atomics are 32 or 64 bits wide (R142, Table 5.5). -/
def WellFormed.width64 (i : AtomInstr) : Bool := decide (i.width.val < 2)

/-- FADD is 32 bits wide (R142, Table 5.5). -/
def WellFormed.width32 (i : AtomInstr) : Bool := i.width.val == 0

/-- A descriptor is 32 bytes, and only a read that fails brings none (R351). -/
def WellFormed.descriptor (host : List Byte) (ans : FetchAnswer) : Bool :=
  match ans with
  | .ok | .poison => host.length == 32
  | _ => true

/-- The commands that can be formed. -/
def Instr.wellFormed : Instr → Bool
  | .registerWrite _ _ _ _ => true
  | .reg64LoRead _ _ => true
  | .reg64LoWrite _ _ _ => true
  | .reg64HiWrite _ _ _ => true
  | .errStatWrite _ _ _ => true
  | .blkCtlBrst _ _ => true
  | .blkCtlQreq _ _ _ => true
  | .seal _ => true
  | .wtabLoad _ _ => true
  | .wtabCommit _ _ => true
  | .brgLinkTrain _ _ => true
  | .brgLinkDown _ _ => true
  | .doorbellWrite _ _ _ => true
  | .runFetch _ => true
  | .runImageArrival _ _ _ => true
  | .runBind _ => true
  | .flagPollDue _ _ => true
  | .flagPollReply _ _ => true
  | .headWaitTimeout _ _ => true
  | .runBegin _ _ => true
  | .commandPlace _ _ _ => true
  | .load _ _ _ => true
  | .loadaux _ _ _ => true
  | .zero _ _ _ => true
  | .prefetch _ _ _ => true
  | .feederLineReturn _ _ => true
  | .mma _ _ _ => true
  | .launch _ _ => true
  | .kernelHeaderArrival _ _ => true
  | .blockAdmit _ _ => true
  | .blockEnd _ _ => true
  | .transpose _ _ _ => true
  | .relayout _ _ _ => true
  | .convert _ _ _ => true
  | .reduce _ _ _ => true
  | .sparsify _ _ _ => true
  | .densify _ _ _ => true
  | .store _ _ _ => true
  | .storeaux _ _ _ => true
  | .flag _ _ _ => true
  | .signal _ _ => true
  | .signalArrival _ => true
  | .commandComplete _ _ _ => true
  | .arbAgePromote _ _ _ => true
  | .stationWatchdogExpire _ _ _ => true
  | .runEnd _ _ => true
  | .onsetGrant _ => true
  | .inkArith _ _ _ => true
  | .tld _ _ _ _ _ _ _ _ _ => true
  | .tst _ _ _ _ _ _ _ _ _ _ => true
  | .lld _ _ _ _ _ _ _ => true
  | .lst _ _ _ _ _ _ _ => true
  | .ld _ _ _ _ _ _ _ _ _ => true
  | .ldAcq _ _ _ _ _ _ _ _ _ => true
  | .st _ _ _ _ _ _ _ => true
  | .stRel _ _ _ _ _ _ _ _ => true
  | .inkerLoadReply _ _ => true
  | .instructionFetchReply _ _ => true
  | .atomAdd _ _ i => WellFormed.width64 i
  | .atomFadd _ _ i => WellFormed.width32 i
  | .atomSmin _ _ i => WellFormed.width64 i
  | .atomSmax _ _ i => WellFormed.width64 i
  | .atomUmin _ _ i => WellFormed.width64 i
  | .atomUmax _ _ i => WellFormed.width64 i
  | .atomAnd _ _ i => WellFormed.width64 i
  | .atomOr _ _ i => WellFormed.width64 i
  | .atomXor _ _ i => WellFormed.width64 i
  | .atomExch _ _ _ => true
  | .atomCas _ _ _ => true
  | .atomReply _ _ => true
  | .bar _ _ => true
  | .bra _ _ _ _ _ _ => true
  | .exit _ _ => true
  | .fenceRel _ _ _ => true
  | .fenceAcq _ _ _ => true
  | .fenceAr _ _ _ => true
  | .pathSwitch _ _ => true
  | .colophonWriteArrival _ _ => true
  | .colophonHoldTimeout _ _ => true
  | .grpClear _ _ => true
  | .enable _ _ => true
  | .enableRestore _ _ _ _ => true
  | .hold _ _ => true
  | .holdUrgent _ _ => true
  | .unhold _ _ => true
  | .preempt _ _ => true
  | .preemptUrgent _ _ => true
  | .disable _ _ => true
  | .disableUrgent _ _ => true
  | .saveAreaDone _ => true
  | .drain _ _ _ => true
  | .reopen _ _ _ => true
  | .casePartWrite _ _ _ _ => true
  | .hmapWrite _ _ _ => true
  | .hmapChangeDone _ => true
  | .pcfgWrite _ _ _ => true
  | .pwinCtlWrite _ _ _ => true
  | .quotaWalkDone _ _ => true
  | .flush _ _ => true
  | .clean _ _ => true
  | .rcinv _ _ => true
  | .flushp _ _ _ => true
  | .flushall _ _ => true
  | .maintenanceDone _ => true
  | .srOpen _ _ _ => true
  | .srCheck _ _ => true
  | .srCheckDone _ _ => true
  | .srClose _ _ => true
  | .srCloseDone _ _ => true
  | .rds _ _ => true
  | .rdx _ _ => true
  | .rdcur _ _ => true
  | .homeop _ _ => true
  | .wb _ => true
  | .eve _ => true
  | .adds _ => true
  | .xfer _ => true
  | .snpshr _ => true
  | .snpown _ => true
  | .snpinv _ => true
  | .snpcur _ => true
  | .snoopAnswer _ _ => true
  | .dataReply _ _ => true
  | .wbAck _ _ => true
  | .homeQueueDispatch _ => true
  | .reductionPerform _ _ => true
  | .mcReduction _ _ => true
  | .rbOpen _ _ => true
  | .rbOpenClear _ _ => true
  | .rbClearDone _ _ => true
  | .rbClose _ _ => true
  | .rbCloseDone _ _ => true
  | .dirLookup _ _ _ => true
  | .mcIssue _ _ _ => true
  | .mcReadReturn _ _ _ _ => true
  | .patrolScrub _ => true
  | .scrubReadDone _ _ _ _ => true
  | .refreshDue _ _ => true
  | .stackTempHigh _ => true
  | .stackTempNormal _ => true
  | .stkTrain _ _ => true
  | .stkTrainDone _ _ _ => true
  | .retrain _ _ => true
  | .retrainDone _ _ _ => true
  | .zerou _ _ => true
  | .zerouDone _ => true
  | .budgetExpire _ => true
  | .levelBroadcast _ => true
  | .meterWindowRestart _ => true
  | .peerRequestIssue _ _ => true
  | .packetSend _ => true
  | .wr _ _ => true
  | .accw _ _ => true
  | .flagPacket _ _ => true
  | .rd _ _ => true
  | .atomPacket _ _ => true
  | .rdata _ _ => true
  | .atomr _ _ => true
  | .landed _ _ => true
  | .refuse _ _ => true
  | .illegalPacket _ _ => true
  | .requestShareAccept _ _ => true
  | .landedFlush _ => true
  | .peerRequestTimeout _ _ => true
  | .linkControlFlit _ _ => true
  | .fecUncorrectable _ _ => true
  | .encryptedBlockCheck _ _ => true
  | .xlTrain _ _ => true
  | .xlRetrain _ _ => true
  | .xlDown _ _ => true
  | .xlTrainComplete _ _ _ => true
  | .xlTrainFail _ _ => true
  | .xlAutoTrain _ => true
  | .cdcTimeout _ => true
  | .ack _ => true
  | .fwChunk _ => true
  | .linkPrep _ => true
  | .linkGo _ => true
  | .faultNotice _ => true
  | .faultRecord _ => true
  | .plan _ => true
  | .mailboxUnknownKind _ _ => true
  | .coordCollectExpire _ => true
  | .coordAckTimeout _ => true
  | .memberAckTimeout _ => true
  | .dctlChapelWrite _ _ => true
  | .vfDoorbellWrite _ _ _ => true
  | .pcieConfigWrite _ _ => true
  | .functionLevelReset _ => true
  | .vfEnableClear => true
  | .flrAbandon _ => true
  | .hostCompletion _ _ _ => true
  | .cplTimeout _ => true
  | .atsTranslationCompletion _ _ _ => true
  | .atsInvalidationRequest _ _ _ _ => true
  | .atsInvalidationComplete _ => true
  | .hostLinkDown => true
  | .hostLinkUp _ _ _ => true
  | .msixSend _ _ => true
  | .hstPtagWrite _ _ _ => true
  | .hstQirqWrite _ _ _ => true
  | .dmaWpWrite _ _ _ _ => true
  | .dmaDescriptorArrival _ _ host ans => WellFormed.descriptor host ans
  | .dmaDescriptorComplete _ _ => true
  | .dmaResume _ _ _ => true
  | .lockInterfaceRequest _ => true
  | .interfaceReport _ => true
  | .tdiUnlock _ => true
  | .dctlArrangeWrite _ _ => true
  | .impQpartWrite _ _ _ => true
  | .impCmapWrite _ _ _ => true
  | .ctrmapWrite _ _ _ => true
  | .quiesce _ _ _ => true
  | .quiesceUrgent _ _ _ => true
  | .quiesceInfence _ _ _ _ => true
  | .pqResume _ _ _ => true
  | .eventMessage _ _ => true
  | .errcStatWrite _ _ _ => true
  | .errcFence _ _ => true
  | .epinClr _ => true
  | .coreReset _ => true
  | .clusterReset _ _ _ => true
  | .partitionReset _ _ => true
  | .deviceReset _ => true
  | .resetDrainDone _ => true
  | .domainLeaveReset _ => true
  | .drainEscalate _ => true
  | .controllerWatchdogExpire _ => true
  | .repair _ _ _ _ => true
  | .retire _ _ _ _ => true
  | .pwrgdRise _ => true
  | .pyrunoInitDone _ _ => true
  | .selftest _ => true
  | .selftestDone _ _ _ => true
  | .mark _ _ => true
  | .fpcommit _ => true
  | .stage _ => true
  | .stageComplete _ _ => true
  | .licence _ => true
  | .licenceComplete _ _ => true
  | .start _ => true
  | .startComplete => true
  | .report _ _ => true
  | .cert _ _ => true
  | .extend _ _ _ => true
  | .attCommandComplete _ _ _ => true
  | .keyLoad _ _ _ => true
  | .keyRenew _ _ _ => true
  | .getVersion _ => true
  | .getCapabilities _ => true
  | .negotiateAlgorithms _ => true
  | .getDigests _ => true
  | .getCertificate _ => true
  | .challenge _ => true
  | .getMeasurements _ => true
  | .keyExchange _ => true
  | .finish _ => true
  | .endSession _ => true
  | .ideKm _ _ _ => true
  | .inputRise => true
  | .softStartDone => true
  | .inputFault _ => true
  | .pwrCapWrite _ _ => true
  | .pwrModeWrite _ _ => true
  | .fplAssert => true
  | .fplRelease => true
  | .capControllerSample _ => true
  | .droopDetect _ => true
  | .undervoltage _ => true
  | .jtrip _ => true
  | .therm _ => true
  | .tripRearm _ => true
  | .pllLockLoss _ => true
  | .perstAssert => true
  | .perstRelease => true
  | .sbRegisterWrite _ _ _ => true
  | .sbSetReadOffset _ _ => true
  | .sbRegisterRead => true
  | .sbUnknownCommand _ => true
  | .sbAlertResponse _ => true
  | .setdasa _ => true
  | .entdaa _ => true
  | .bypass => true
  | .idcode => true
  | .samplePreload => true
  | .extest => true
  | .clamp => true
  | .highz => true
  | .extestPulse => true
  | .extestTrain => true
  | .trst => true
  | .controlSlot _ => true
  | .issueSlotWindow _ => true
  | .pllRelock _ => true
  | .keyCommandDone _ => true
  | .startInterfaceRequest _ => true
  | .bridgeRetry _ _ => true

end Sys2Proof
end

