-- ==== Sys2Proof/Machine/Ops.lean ====
section
/-!
DEFINITION. The operations every meaning is built from: sparse maps, memory, pages and the register file, the
arrangement, the floor plan, domains and generations, and raising an error.
-/

namespace Sys2Proof.Machine

open Sys2Proof

/-- What a meaning answers. -/
abbrev Out := Host.Outcome State Fault Refusal

/-- The one way a meaning changes the machine: the device changes, the waiting commands do not, and the command
completes. -/
def onDev (f : Dev → Dev) (s : State) : Out := .next { s with dev := f s.dev }

/-- A meaning whose list operands must have a possible length; otherwise the command is one no sender can form. -/
def onDevIf (wf : Bool) (f : Dev → Dev) (s : State) : Out := if wf then onDev f s else .fault .illFormed

/-! ### Sparse maps and sets -/

/-- The value at a key, `d` where none is listed. -/
def NMap.get {β : Type} (m : NMap β) (k : Nat) (d : β) : β :=
  match m with
  | [] => d
  | (j, v) :: r => if j = k then v else NMap.get r k d

/-- Drops every key a test holds of. -/
def NMap.dropIf {β : Type} (m : NMap β) (f : Nat → Bool) : NMap β := m.filter (fun e => !f e.1)

/-- Drops one key. -/
def NMap.erase {β : Type} (m : NMap β) (k : Nat) : NMap β := NMap.dropIf m (fun j => j == k)

/-- Sets the value at a key, keeping the keys rising and listing no default (the canonical form). -/
def NMap.put {β : Type} [DecidableEq β] (m : NMap β) (k : Nat) (v d : β) : NMap β :=
  match m with
  | [] => if v = d then [] else [(k, v)]
  | (j, w) :: r =>
    if k < j then (if v = d then (j, w) :: NMap.erase r k else (k, v) :: (j, w) :: r)
    else if k = j then (if v = d then NMap.erase r k else (k, v) :: r)
    else (j, w) :: NMap.put r k v d

/-- Changes every listed value, keeping the canonical form. -/
def NMap.update {β : Type} [DecidableEq β] (m : NMap β) (d : β) (f : Nat → β → β) : NMap β :=
  match m with
  | [] => []
  | (j, v) :: r =>
    if f j v = d then NMap.erase (NMap.update r d f) j else (j, f j v) :: NMap.update r d f

def Set.has (s : List Nat) (k : Nat) : Bool := s.contains k
def Set.add (s : List Nat) (k : Nat) : List Nat :=
  match s with
  | [] => [k]
  | j :: r => if k < j then k :: j :: r else if k = j then j :: r else j :: Set.add r k
def Set.del (s : List Nat) (k : Nat) : List Nat := s.filter (fun j => j != k)

/-- Replaces the first element a test holds of. -/
def replaceFirst {β : Type} (f : β → Bool) (g : β → β) : List β → List β
  | [] => []
  | x :: r => if f x then g x :: r else x :: replaceFirst f g r

/-- Drops the first element a test holds of. -/
def dropFirst {β : Type} (f : β → Bool) : List β → List β
  | [] => []
  | x :: r => if f x then r else x :: dropFirst f r

/-- Replaces every element a test holds of. -/
def replaceAll {β : Type} (f : β → Bool) (g : β → β) (l : List β) : List β := l.map (fun x => if f x then g x else x)

/-! ### Bytes, little-endian (R6) -/

/-- The number a byte list spells, least significant byte first. -/
def leNat : List Byte → Nat
  | [] => 0
  | b :: r => b.toNat + 256 * leNat r

/-- `n` bytes of a number, least significant first. -/
def leBytes : Nat → Nat → List Byte
  | 0, _ => []
  | n + 1, v => BitVec.ofNat 8 v :: leBytes n (v / 256)

/-- `n` bytes of a list from an offset, as a number; bytes past the end read 0. -/
def fieldLE (l : List Byte) (off n : Nat) : Nat := leNat ((l.drop off).take n)

/-- The mask of `n` bytes from byte `off`. -/
def byteMask (off n : Nat) : Nat := (2 ^ n - 1) * 2 ^ off

/-- Byte `i` of a number. -/
def byteOf (v i : Nat) : Nat := (v >>> (8 * i)) % 256

/-- The number with the masked ones of its first `n` bytes taken from `new`. -/
def mergeBytes (n old mask new : Nat) : Nat :=
  (List.range n).foldl (fun a i => if mask.testBit i then setBits a (8 * i + 7) (8 * i) (byteOf new i) else a) old

/-- How many of the first `n` bytes a mask names. -/
def maskCount (n mask : Nat) : Nat := (List.range n).foldl (fun a i => if mask.testBit i then a + 1 else a) 0

/-! ### Memory of the stacks: one byte a cell, an unlisted byte reads 0 (log entry 1) -/

abbrev Memory := List Host.Cell

/-- What a byte that nothing has written reads as (log entry 1). -/
def Memory.unlisted : Byte := 0

def Memory.read (m : Memory) (a : Nat) : Byte := NMap.get m a Memory.unlisted
def Memory.write (m : Memory) (a : Nat) (b : Byte) : Memory := NMap.put m a b Memory.unlisted

/-- Addresses strictly rising, no cell at the unlisted value. -/
def Memory.wf : Memory → Bool
  | [] => true
  | (a, b) :: r => b != Memory.unlisted && (match r with | [] => true | (a', _) :: _ => decide (a < a')) && Memory.wf r

/-- The `n` bytes from `a` as a number. -/
def Memory.readN (m : Memory) (a : Nat) : Nat → Nat
  | 0 => 0
  | n + 1 => (m.read a).toNat + 256 * Memory.readN m (a + 1) n

/-- Writes the masked ones of `n` bytes from `a`: mask bit i and byte i of `v` belong to address a + i. -/
def Memory.writeN (m : Memory) (a : Nat) : Nat → Nat → Nat → Memory
  | 0, _, _ => m
  | n + 1, mask, v =>
    Memory.writeN (if mask % 2 = 1 then m.write a (BitVec.ofNat 8 v) else m) (a + 1) n (mask / 2) (v / 256)

/-! ### Pages and the register file -/

/-- The 4 KiB page number in BAR0 (Tables 2.2 to 2.5 and R354). -/
def pageNo : Page → Nat
  | .hst => 0 | .boot => 1 | .dctl => 2 | .errcDev => 3 | .pwr => 4 | .clk => 5
  | .hstCh c => 0x100 + 0x10 * c.val
  | .errcCh c => 0x101 + 0x10 * c.val
  | .dmaCh c => 0x102 + 0x10 * c.val
  | .qctl q => 0x1000 * (q.val + 1)
  | .errcQ q => 0x1000 * (q.val + 1) + 1
  | .case q n => 0x1000 * (q.val + 1) + 0x10 + n.val
  | .dir q n => 0x1000 * (q.val + 1) + 0x20 + n.val
  | .mc q n => 0x1000 * (q.val + 1) + 0x30 + n.val
  | .stk q n => 0x1000 * (q.val + 1) + 0x60 + n.val
  | .xl q n => 0x1000 * (q.val + 1) + 0x70 + n.val
  | .brg q n => 0x1000 * (q.val + 1) + 0x80 + n.val
  | .core c => 0x1000 * (c.die.val / 2 + 1) + 0x800 + 0x400 * (c.die.val % 2) + 32 * c.row.val + c.col.val
  | .imp d => 0x1000 * (d.val / 2 + 1) + 0x800 + 0x400 * (d.val % 2) + 0x300
  | .gal d => 0x1000 * (d.val / 2 + 1) + 0x800 + 0x400 * (d.val % 2) + 0x301

def pageKind : Page → Kind
  | .hst => .hst | .boot => .boot | .dctl => .dctl | .errcDev => .errcDev | .pwr => .pwr | .clk => .clk
  | .hstCh _ => .hstCh | .errcCh _ => .errcCh | .dmaCh _ => .dma | .qctl _ => .qctl | .errcQ _ => .errcQ
  | .case _ _ => .case | .dir _ _ => .dir | .mc _ _ => .mc | .stk _ _ => .stk | .xl _ _ => .xl | .brg _ _ => .brg
  | .core _ => .core | .imp _ => .imp | .gal _ => .gal

/-- A number below n as an element of Fin n, else none. -/
def fin? (n v : Nat) : Option (Fin n) := if h : v < n then some ⟨v, h⟩ else none

/-- A number as an element of Fin n, modulo n. -/
def finM (n : Nat) (h : 0 < n) (v : Nat) : Fin n := ⟨v % n, Nat.mod_lt v h⟩
def quad (v : Nat) : Quad := finM 4 (by decide) v
def die (v : Nat) : Die := finM 8 (by decide) v
def chan (v : Nat) : Chan := finM 4 (by decide) v
def port (v : Nat) : Port := finM 16 (by decide) v
def stack (v : Nat) : Stack := finM 20 (by decide) v
def coreAt (d r c : Nat) : CoreId := ⟨die d, finM 24 (by decide) r, finM 25 (by decide) c⟩

/-- The page at a BAR0 page number; none for a reserved page (R34). -/
def pageOfNo (n : Nat) : Option Page :=
  if n < 0x100 then
    (if n = 0 then some .hst else if n = 1 then some .boot else if n = 2 then some .dctl
     else if n = 3 then some .errcDev else if n = 4 then some .pwr else if n = 5 then some .clk else none)
  else if n < 0x1000 then
    (if 0x140 ≤ n then none
     else if n % 0x10 = 0 then some (.hstCh (chan ((n - 0x100) / 0x10)))
     else if n % 0x10 = 1 then some (.errcCh (chan ((n - 0x100) / 0x10)))
     else if n % 0x10 = 2 then some (.dmaCh (chan ((n - 0x100) / 0x10)))
     else none)
  else if n < 0x5000 then
    let q := quad (n / 0x1000 - 1)
    let o := n % 0x1000
    if o < 0x800 then
      (if o = 0 then some (.qctl q) else if o = 1 then some (.errcQ q)
       else if o < 0x10 then none
       else if o < 0x20 then (fin? 16 (o - 0x10)).map (Page.case q)
       else if o < 0x30 then (fin? 16 (o - 0x20)).map (Page.dir q)
       else if o < 0x60 then (fin? 40 (o - 0x30)).map (Page.mc q)
       else if o < 0x70 then (fin? 5 (o - 0x60)).map (Page.stk q)
       else if o < 0x80 then (fin? 4 (o - 0x70)).map (Page.xl q)
       else (fin? 4 (o - 0x80)).map (Page.brg q))
    else
      let d := 2 * q.val + (o - 0x800) / 0x400
      let i := o % 0x400
      if i = 0x300 then some (.imp (die d)) else if i = 0x301 then some (.gal (die d))
      else if i < 0x300 then
        (if i % 32 < 25 then some (.core (coreAt d (i / 32) (i % 32))) else none)
      else none
  else none

/-- The key of the register word at byte offset `off` of a page, entry `i` where an index selects it. -/
def regKey (p : Page) (off i : Nat) : Nat := (pageNo p * 1024 + off / 4) * 16384 + i

def Dev.word (d : Dev) (p : Page) (off i : Nat) : Nat :=
  (NMap.get d.regs (regKey p off i) (BitVec.ofNat 32 (wordReset (pageKind p) off i))).toNat

def Dev.setWord (d : Dev) (p : Page) (off i v : Nat) : Dev :=
  { d with regs := NMap.put d.regs (regKey p off i) (BitVec.ofNat 32 v)
                     (BitVec.ofNat 32 (wordReset (pageKind p) off i)) }

/-- A field of a register, as it stands. -/
def Dev.get (d : Dev) (p : Page) (f : FieldDef) (i : Nat) : Nat := bitsOf (d.word p f.off i) f.hi f.lo

/-- The field set by the block itself. -/
def Dev.set (d : Dev) (p : Page) (f : FieldDef) (i v : Nat) : Dev :=
  d.setWord p f.off i (setBits (d.word p f.off i) f.hi f.lo v)

def Dev.on (d : Dev) (p : Page) (f : FieldDef) (i : Nat) : Bool := d.get p f i == 1

/-- A counter of the block that saturates at its field's largest value. -/
def Dev.bump (d : Dev) (p : Page) (f : FieldDef) (i n : Nat) : Dev :=
  d.set p f i (min (d.get p f i + n) (2 ^ (f.hi + 1 - f.lo) - 1))

/-- A counter of the block that wraps. -/
def Dev.wrapAdd (d : Dev) (p : Page) (f : FieldDef) (i n : Nat) : Dev := d.set p f i (d.get p f i + n)

/-- A 64-bit quantity of a LO and a HI register (R39). -/
def Dev.get64 (d : Dev) (p : Page) (off i : Nat) : Nat := d.word p off i + 2 ^ 32 * d.word p (off + 4) i

/-! ### Free values -/

/-- The next unstated value, below 2^w, and the device that has drawn it (log entry 2). -/
def Dev.free (d : Dev) (w : Nat) : Nat × Dev :=
  (Config.freeValue d.freeCtr % 2 ^ w, { d with freeCtr := d.freeCtr + 1 })

/-! ### Arrangement and channels (R46, R356) -/

/-- 0 unified, 1 two channels, 2 four channels. -/
def Dev.arr? (d : Dev) : Nat := d.get .dctl fDCTL_ARRANGE_ARR 0
def Dev.isSealedOp (d : Dev) : Bool := d.arr? != 0
/-- The configuration is sealed (R43). -/
def Dev.isSealed (d : Dev) : Bool := d.on .dctl fDCTL_SEAL_SEAL 0
/-- Channels of the arrangement. -/
def Dev.nChan (d : Dev) : Nat := if d.arr? = 0 then 1 else if d.arr? = 1 then 2 else 4
/-- The channel of quadrant q. -/
def Dev.chanOf (d : Dev) (q : Nat) : Nat := if d.arr? = 0 then 0 else if d.arr? = 1 then q / 2 else q
/-- The quadrants of a channel, ascending. -/
def Dev.quadsOf (d : Dev) (c : Nat) : List Nat := (List.range 4).filter (fun q => d.chanOf q == c)
/-- The lowest-numbered quadrant of a quadrant's channel. -/
def Dev.chanQuad (d : Dev) (q : Nat) : Nat := (d.quadsOf (d.chanOf q)).headD q
/-- The quadrant whose number stands for a partition domain: the quadrant itself, or the channel's lowest (R397). -/
def Dev.domQuad (d : Dev) (q : Nat) : Nat := (d.quadsOf (if d.isSealedOp then d.chanOf q else q)).headD q
/-- Partition numbers of a channel are below this (R357). -/
def Dev.nPart (d : Dev) : Nat := 64 / d.nChan
/-- The rules of PASID-slice mode hold: PASID-slice mode, and every sealed channel (R356). -/
def Dev.sliceRules (d : Dev) : Bool := d.isSealedOp || d.on .dctl fDCTL_ARRANGE_TMODE 0

/-! ### The floor plan (R5, R421) -/

def rowKey (dd r : Nat) : Nat := dd * 32 + r
/-- Whether physical column c of a row is defective. -/
def Dev.defective (d : Dev) (dd r c : Nat) : Bool := (NMap.get d.boot.defects (rowKey dd r) 0).testBit c

/-- The logical column of a physical position: working columns are numbered from 0, at most 24 of them; the 25th is the
standby spare. -/
def Dev.logCol (d : Dev) (dd r c : Nat) : Option Nat :=
  if d.defective dd r c then none
  else
    let k := ((List.range c).filter (fun j => !d.defective dd r j)).length
    if k < 24 then some k else none

/-- Working positions of a row. -/
def Dev.working (d : Dev) (dd r : Nat) : Nat := ((List.range 25).filter (fun j => !d.defective dd r j)).length
/-- Logical columns the row presents, and whether it holds a spare. -/
def Dev.nLog (d : Dev) (dd r : Nat) : Nat := min (d.working dd r) 24
def Dev.hasSpare (d : Dev) (dd r : Nat) : Bool := d.working dd r == 25

/-- The logical core ID of a physical core, once the floor plan is committed. -/
def Dev.lid (d : Dev) (c : CoreId) : Option Nat :=
  if d.boot.committed then
    (d.logCol c.die.val c.row.val c.col.val).map (fun k => c.die.val * 1024 + c.row.val * 32 + k)
  else none

/-- The physical core a logical core ID names. -/
def Dev.coreOfLid (d : Dev) (l : Nat) : Option CoreId :=
  if d.boot.committed ∧ l < 8192 ∧ (l / 32) % 32 < 24 ∧ l % 32 < 24 then
    ((List.range 25).find? (fun c => d.logCol (l / 1024) ((l / 32) % 32) c == some (l % 32))).map
      (fun c => coreAt (l / 1024) ((l / 32) % 32) c)
  else none

def coreKey (c : CoreId) : Nat := c.die.val * 1024 + c.row.val * 32 + c.col.val

/-! ### Clocks (R378) -/

/-- Clock keys: press 0-7, net 8-11, memory-controller 12-15, management 16-19 of Q0-Q3 and 20 of the H-die, fabric 21,
the order of CLK_LOCK's bits. -/
def pressClk (d : Nat) : Nat := d
def netClk (q : Nat) : Nat := 8 + q
def mcClk (q : Nat) : Nat := 12 + q
def mgmtClk (q : Nat) : Nat := 16 + q
def fabClk : Nat := 21
/-- The device controller's management clock: 1.2 GHz. -/
def ctlClk : Nat := mgmtClk 4
/-- The port clock of an Exwin port, recovered from its lane 0 (R293). -/
def portClk (p : Nat) : Nat := 32 + p
def Dev.now (d : Dev) (k : Nat) : Nat := NMap.get d.clk k 0

/-! ### Domains (R397) -/

def domKey : Dom → Nat
  | .device => 0
  | .quad q => 1 + q.val
  | .cluster d r => 100 + d.val * 32 + r.val
  | .core c => 10000 + coreKey c

/-- The smallest reset domain of a page. -/
def Dev.pageDom (d : Dev) : Page → Dom
  | .hst | .boot | .dctl | .errcDev | .pwr | .clk | .errcCh _ => .device
  | .hstCh c | .dmaCh c => if d.isSealedOp then .quad (quad ((d.quadsOf c.val).headD 0)) else .device
  | .qctl q | .errcQ q | .case q _ | .dir q _ | .mc q _ | .stk q _ | .xl q _ | .brg q _ =>
    .quad (quad (d.domQuad q.val))
  | .imp x | .gal x => .quad (quad (d.domQuad (x.val / 2)))
  | .core c => .core c

/-- BLK_GEN.DOM of a page: 0 core, 2 partition, 3 device. -/
def domCode : Dom → Nat
  | .core _ => 0 | .cluster _ _ => 1 | .quad _ => 2 | .device => 3

/-- The domain contains another, or is it (R397). -/
def Dev.contains (d : Dev) (outer inner : Dom) : Bool :=
  match outer, inner with
  | .device, _ => true
  | .quad a, .quad b => d.domQuad a.val == d.domQuad b.val
  | .quad a, .cluster x _ => d.domQuad a.val == d.domQuad (x.val / 2)
  | .quad a, .core c => d.domQuad a.val == d.domQuad (c.die.val / 2)
  | .cluster x r, .cluster y t => x == y && r == t
  | .cluster x r, .core c => x == c.die && r == c.row
  | .core a, .core b => decide (a = b)
  | _, _ => false

/-- A reset of the domain, or of one that contains it, is in progress. -/
def Dev.domInReset (d : Dev) (x : Dom) : Bool := d.rsts.any (fun r => d.contains r.dom x)

/-- GEN of a domain: the times it has left reset, its containing domains' resets included, modulo 256 (R400). The count of a
partition domain's reset is kept for each physical quadrant, so that it means the same under every arrangement. -/
def Dev.gen (d : Dev) (x : Dom) : Nat :=
  let g (y : Dom) := NMap.get d.gens (domKey y) 0
  (match x with
   | .device => g .device
   | .quad q => g .device + g (.quad q)
   | .cluster a r => g .device + g (.quad (quad (a.val / 2))) + g (.cluster a r)
   | .core c => g .device + g (.quad (quad (c.die.val / 2))) + g (.cluster c.die c.row) + g (.core c)) % 256

/-- Key of the resets a channel's HST and DMA pages have left beside the device's. -/
def chanGenKey (c : Nat) : Nat := 5 + c

/-- BLK_GEN.GEN of a page. -/
def Dev.pageGen (d : Dev) (p : Page) : Nat :=
  match p with
  | .hstCh c | .dmaCh c => (NMap.get d.gens (domKey .device) 0 + NMap.get d.gens (chanGenKey c.val) 0) % 256
  | .core c => d.gen (.core c)
  | .qctl q | .errcQ q | .case q _ | .dir q _ | .mc q _ | .stk q _ | .xl q _ | .brg q _ => d.gen (.quad q)
  | .imp x | .gal x => d.gen (.quad (quad (x.val / 2)))
  | _ => d.gen .device

/-! ### Boot states (R416, BOOT_STAT) -/

def Dev.bootState (d : Dev) : Nat := d.get .boot fBOOT_STAT_STATE 0

/-- The page lies in a quadrant. -/
def pageQuad : Page → Option Nat
  | .qctl q | .errcQ q | .case q _ | .dir q _ | .mc q _ | .stk q _ | .xl q _ | .brg q _ => some q.val
  | .imp x | .gal x => some (x.val / 2)
  | .core c => some (c.die.val / 2)
  | _ => none

/-- The clocks of the quadrants run: self-test has started since power-up (R420; log entry 6). -/
def Dev.quadsClocked (d : Dev) : Bool := d.power.pwrgd && (decide (2 ≤ d.bootState) || d.boot.committed)

/-- The page's reset domain is in reset (R42): no power, not yet released by START, or a reset in progress. -/
def Dev.inReset (d : Dev) (p : Page) : Bool :=
  !d.power.pwrgd || d.domInReset (d.pageDom p) || ((pageQuad p).isSome && !d.power.running)

/-- As `inReset`, but for a domain whose blocks have been reset and that only waits to leave: its stacks and ports train (Table
17.4 step 8). -/
def Dev.dead (d : Dev) (p : Page) : Bool :=
  !d.power.pwrgd || d.rsts.any (fun r => r.phase == 0 && d.contains r.dom (d.pageDom p)) ||
  ((pageQuad p).isSome && !d.power.running)

/-! ### Bridges and H-die links (R9, R12, R16) -/

/-- Page n of B-die q serves a gated bridge (Table 1.3). -/
def Dev.brgGated (d : Dev) (q n : Nat) : Bool := n != q && d.chanOf q != d.chanOf n

/-- Page n of B-die q: the bridge to Qn, or for n = q the H-die link. -/
def pBrg (q n : Nat) : Page := .brg (quad q) (finM 4 (by decide) n)

/-- Both ends of a link are out of reset. -/
def Dev.brgReady (d : Dev) (q n : Nat) : Bool :=
  !d.inReset (pBrg q n) && (if n = q then !d.domInReset .device else !d.inReset (pBrg n q))

/-- What the page's STATE field holds: 0 not trained since the last reset of an end, 1 fallen, 2 trained. -/
def Dev.brgRaw (d : Dev) (q n : Nat) : Nat := d.get (pBrg q n) fBRG_STAT_STATE 0

/-- BRG_STAT.STATE as it reads: 0 DOWN, 1 TRAINING, 2 UP, 3 GATED. While an end is in reset the other reads DOWN; a link whose ends
are both out of reset trains by itself (R16). -/
def Dev.brgState (d : Dev) (q n : Nat) : Nat :=
  if d.brgGated q n then 3
  else if !d.brgReady q n then 0
  else if d.brgRaw q n = 2 then 2 else if d.brgRaw q n = 1 then 0 else 1

/-- Traffic passes between two dies: 0-3 the B-dies, 4 the H-die (Table 1.2). A link of a domain that drains still carries what was
issued (R401). -/
def Dev.carries (d : Dev) (a b : Nat) : Bool :=
  a == b || (if a = 4 then d.brgRaw b b == 2 else if b = 4 then d.brgRaw a a == 2 else !d.brgGated a b && d.brgRaw a b == 2)

/-- The die an agent of Table 9.1 hangs on, C-dies on their B-die. -/
def agentDie (a : Nat) : Nat := if a < 8 then a / 2 else if a < 12 then a - 8 else 4

/-! ### Raising an error (R41, R376, R379) -/

/-- The C-die's place in its quadrant. -/
def dieBase (d : Nat) : Nat := if d % 2 = 0 then 47 else 55

/-- The collector a page reports to (0-3 quadrants, 4-7 channels, 8 device) and the status bit it is mapped to (Tables
16.1 to 16.3). -/
def pageColl : Page → Nat × Nat
  | .qctl q => (q.val, 0) | .errcQ q => (q.val, 1)
  | .case q n => (q.val, 2 + n.val) | .dir q n => (q.val, 18 + n.val)
  | .mc q n => (q.val, 34 + n.val / 8) | .stk q n => (q.val, 34 + n.val)
  | .xl q n => (q.val, 39 + n.val) | .brg q n => (q.val, 43 + n.val)
  | .imp x => (x.val / 2, dieBase x.val) | .gal x => (x.val / 2, dieBase x.val + 1)
  | .core c => (c.die.val / 2, dieBase c.die.val + 2 + c.row.val / 4)
  | .hstCh c => (4 + c.val, 0) | .dmaCh c => (4 + c.val, 1) | .errcCh c => (4 + c.val, 2)
  | .hst => (8, 0) | .boot => (8, 1) | .dctl => (8, 2) | .errcDev => (8, 3) | .pwr => (8, 4) | .clk => (8, 5)

/-- Stamp clock of a page: its code in ERRC_HE0.CLK and its clock (R378). -/
def pageClock : Page → Nat × Nat
  | .core c => (0, pressClk c.die.val) | .imp x => (0, pressClk x.val) | .gal x => (0, pressClk x.val)
  | .qctl q | .case q _ | .dir q _ | .xl q _ | .brg q _ => (1, netClk q.val)
  | .mc q _ | .stk q _ => (2, mcClk q.val)
  | .errcQ q => (3, mgmtClk q.val)
  | _ => (4, fabClk)

/-- BLK_ID.TYPE of a page (Table 2.7); a defective position reads 0x31. -/
def Dev.blkType (d : Dev) : Page → Nat
  | .hst => 1 | .hstCh _ => 1 | .dmaCh _ => 1 | .boot => 2 | .dctl => 3
  | .errcDev => 4 | .errcCh _ => 4 | .errcQ _ => 4 | .pwr => 5 | .clk => 6
  | .qctl _ => 0x10 | .case _ _ => 0x11 | .dir _ _ => 0x12 | .mc _ _ => 0x13 | .stk _ _ => 0x14 | .xl _ _ => 0x15
  | .brg _ _ => 0x16 | .imp _ => 0x20 | .gal _ => 0x21
  | .core c => if d.defective c.die.val c.row.val c.col.val then 0x31 else 0x30

/-- BLK_ID.INST: the instance number of Tables 2.3 to 2.5, or 2 or 3 for the pages of a C-die. DESIGN CHOICE (log entry 120): a
DMA page stands in none of those tables; its instance number is taken as its channel's, as of the HST and ERRC pages beside it. -/
def pageInst : Page → Nat
  | .hstCh c => c.val | .errcCh c => c.val | .dmaCh c => c.val
  | .case _ n => n.val | .dir _ n => n.val | .mc _ n => n.val | .stk _ n => n.val | .xl _ n => n.val
  | .brg _ n => n.val
  | .core c => 2 + c.die.val % 2 | .imp x => 2 + x.val % 2 | .gal x => 2 + x.val % 2
  | _ => 0

/-- BLK_ID.LOC (Table 2.8). -/
def pageLoc : Page → Nat
  | .core c => c.die.val * 4096 + c.row.val * 32 + c.col.val
  | .imp x => x.val * 4096 | .gal x => x.val * 4096
  | .qctl q | .errcQ q | .case q _ | .dir q _ | .mc q _ | .stk q _ | .xl q _ | .brg q _ => (8 + q.val) * 4096
  | _ => 15 * 4096

def Dev.blkId (d : Dev) (p : Page) : Nat := d.blkType p * 2 ^ 24 + pageInst p * 2 ^ 16 + pageLoc p

/-- The management clock of a collector: of its quadrant's controller, or of the device controller. -/
def collClock (k : Nat) : Nat := if k < 4 then mgmtClk k else ctlClk

/-- Source `src` of a page sets: ERR_STAT, and unless it is masked ERR_FIRST and an event message. A page in reset sends
nothing (R377). -/
def Dev.raise (d : Dev) (p : Page) (src synd : Nat) : Dev :=
  if d.inReset p then d
  else
    let d1 := d.set p fERR_STAT_SRC 0 (d.get p fERR_STAT_SRC 0 ||| 2 ^ src)
    if (d.get p fERR_MASK_MASK 0).testBit src then d1
    else
      let d2 :=
        if d1.on p fERR_FIRST_VALID 0 then d1
        else ((d1.set p fERR_FIRST_VALID 0 1).set p fERR_FIRST_SRC 0 src).set p fERR_FIRST_SYND 0 synd
      let ev : Event :=
        { found := d.now (collClock (pageColl p).1), blkId := BitVec.ofNat 32 (d.blkId p), src := src, synd := synd % 65536,
          sev := bitsOf (d.get p fERR_SEV_SEV 0) (2 * src + 1) (2 * src),
          act := bitsOf (d.get p fERR_ACT_ACT 0) (2 * src + 1) (2 * src),
          clk := (pageClock p).1, stamp := d.now (pageClock p).2 % 2 ^ 48,
          page := pageNo p, coll := (pageColl p).1, bit := (pageColl p).2, summary := false }
      { d2 with evq := d2.evq ++ [ev] }

def Dev.raiseIf (d : Dev) (c : Bool) (p : Page) (src synd : Nat) : Dev := if c then d.raise p src synd else d

/-- Something leaves the package. -/
def Dev.send (d : Dev) (m : OutMsg) : Dev := { d with out := d.out ++ [m] }

/-! ### Pages of numbered things -/

def pCore (c : CoreId) : Page := .core c
def pImp (x : Nat) : Page := .imp (die x)
def pGal (x : Nat) : Page := .gal (die x)
def pQctl (q : Nat) : Page := .qctl (quad q)
def pCase (q s : Nat) : Page := .case (quad q) (finM 16 (by decide) s)
def pDir (q s : Nat) : Page := .dir (quad q) (finM 16 (by decide) s)
def pMc (q n : Nat) : Page := .mc (quad q) (finM 40 (by decide) n)
def pStk (t : Nat) : Page := .stk (quad (t / 5)) (finM 5 (by decide) t)
def pXl (p : Nat) : Page := .xl (quad (p / 4)) (finM 4 (by decide) p)
def pHst (c : Nat) : Page := .hstCh (chan c)
def pDma (c : Nat) : Page := .dmaCh (chan c)

/-! ### Sub-records of the device -/

def Dev.core (d : Dev) (c : CoreId) : Core := NMap.get d.cores (coreKey c) Core.init
def Dev.setCore (d : Dev) (c : CoreId) (x : Core) : Dev := { d with cores := NMap.put d.cores (coreKey c) x Core.init }
def Dev.modCore (d : Dev) (c : CoreId) (f : Core → Core) : Dev := d.setCore c (f (d.core c))
def Core.station (c : Core) (i : Nat) : Station := NMap.get c.stations i Station.init
def Core.setStation (c : Core) (i : Nat) (x : Station) : Core := { c with stations := NMap.put c.stations i x Station.init }
def Core.bind (c : Core) (sl : Nat) : Option Bind := NMap.get c.binds sl none
def Core.setBind (c : Core) (sl : Nat) (b : Option Bind) : Core := { c with binds := NMap.put c.binds sl b none }

def queueKey (dd q : Nat) : Nat := dd * 64 + q
def Dev.queue (d : Dev) (k : Nat) : Queue := NMap.get d.queues k Queue.init
def Dev.setQueue (d : Dev) (k : Nat) (x : Queue) : Dev := { d with queues := NMap.put d.queues k x Queue.init }
def Dev.modQueue (d : Dev) (k : Nat) (f : Queue → Queue) : Dev := d.setQueue k (f (d.queue k))

def Dev.port (d : Dev) (p : Nat) : PortSt := NMap.get d.ports p PortSt.init
def Dev.setPort (d : Dev) (p : Nat) (x : PortSt) : Dev := { d with ports := NMap.put d.ports p x PortSt.init }
def Dev.modPort (d : Dev) (p : Nat) (f : PortSt → PortSt) : Dev := d.setPort p (f (d.port p))
def Dev.func (d : Dev) (f : Nat) : Func := NMap.get d.host.fns f Func.init
def Dev.setFunc (d : Dev) (f : Nat) (x : Func) : Dev :=
  { d with host := { d.host with fns := NMap.put d.host.fns f x Func.init } }
def Dev.mc (d : Dev) (k : Nat) : McChan := NMap.get d.mcs k McChan.init
def Dev.setMc (d : Dev) (k : Nat) (x : McChan) : Dev := { d with mcs := NMap.put d.mcs k x McChan.init }
def Dev.stk (d : Dev) (t : Nat) : StackSt := NMap.get d.stks t StackSt.init
def Dev.setStk (d : Dev) (t : Nat) (x : StackSt) : Dev := { d with stks := NMap.put d.stks t x StackSt.init }
def Dev.grp (d : Dev) (k : Nat) : Grp := NMap.get d.grps k Grp.init
def Dev.setGrp (d : Dev) (k : Nat) (x : Grp) : Dev := { d with grps := NMap.put d.grps k x Grp.init }
def Dev.coll (d : Dev) (k : Nat) : Coll := NMap.get d.colls k Coll.init
def Dev.setColl (d : Dev) (k : Nat) (x : Coll) : Dev := { d with colls := NMap.put d.colls k x Coll.init }

/-- Whether a function-wide or mode-wide update applies, else the device as it stands. -/
def Dev.when (d : Dev) (c : Bool) (f : Dev → Dev) : Dev := if c then f d else d

/-! ### Where a request goes (R29, R33, R359) -/

/-- Home unit of a stack offset on its B-die (R206). -/
def homeUnit (s off : Nat) : Nat := 72 * (s % 5) + off / 2 ^ 30
/-- The owner of the home unit of a stack address. -/
def Dev.owner (d : Dev) (s off : Nat) : Nat := d.get (pQctl (s / 5)) fQCTL_HMAP_PART (homeUnit s off)

/-- A stereo entry of a B-die: its STATE, base and mirror ranges in bytes (R217). -/
def Dev.srState (d : Dev) (q e : Nat) : Nat := d.get (pQctl q) fQCTL_SR_STAT_STATE e
def Dev.srBase (d : Dev) (q e : Nat) : Nat := d.get (pQctl q) fQCTL_SR_BASE_BASE e * 65536
def Dev.srMir (d : Dev) (q e : Nat) : Nat := d.get (pQctl q) fQCTL_SR_MIR_BASE e * 65536
def Dev.srSize (d : Dev) (q e : Nat) : Nat := d.get (pQctl q) fQCTL_SR_SIZE_SIZE e * 65536
def Dev.srMen (d : Dev) (q e : Nat) : Bool := d.on (pQctl q) fQCTL_SR_CMD_MEN e

def inRange (a base size : Nat) : Bool := decide (base ≤ a ∧ a < base + size)

/-- The stereo entry not OFF whose region (or mirror: second component true) holds the address. -/
def Dev.srAt (d : Dev) (a : Nat) : Option (Nat × Nat × Bool) :=
  let q := a / 2 ^ 37 / 5
  (List.range 2).findSome? (fun e =>
    if d.srState q e = 0 then none
    else if inRange a (d.srBase q e) (d.srSize q e) then some (q, e, false)
    else if d.srMen q e && inRange a (d.srMir q e) (d.srSize q e) then some (q, e, true)
    else none)

/-- Table 8.3: whether a requester of partition `part` may access an address of a stereo entry. `wr`: a write; `host`: it
comes from the host port. -/
def Dev.srAllows (d : Dev) (e : Nat × Nat × Bool) (part : Nat) (wr host : Bool) : Bool :=
  if e.2.2 then false
  else
    let st := d.srState e.1 e.2.1
    if st = 1 then wr && host
    else if st = 3 then
      !wr && (d.get64 (pQctl e.1) 0x250 e.2.1).testBit part
    else false

/-- The decode of R29 with the owner check of R359: `q` issuing quadrant, `part` requester partition, `wr` a write or
accumulate-write, `host` issued by the host port's engines, `ctl` by the device controller. -/
def Dev.decode (d : Dev) (q part a : Nat) (wr host : Bool) : Target :=
  if a < 0x028000000000 then
    let s := a / 2 ^ 37
    let off := a % 2 ^ 37
    if 0x1200000000 ≤ off then .addrError
    else if d.chanOf (s / 5) ≠ d.chanOf q then .addrError
    else
      match d.srAt a with
      | some e => if d.srAllows e part wr host then .stack s off else .addrError
      | none => if d.owner s off = part then .stack s off else .addrError
  else if 0x100000000000 ≤ a ∧ a < 0x200000000000 then
    let e := NMap.get d.wtab (q * 256 + a / 2 ^ 36 % 256) Window.init
    let off := a % 2 ^ 36
    if !e.valid || decide (e.sizeG * 2 ^ 30 ≤ off) then .addrError
    else if e.parten && e.part != part then .addrError
    else .peer e.dev (e.pbase * 2 ^ 30 + off) e.tc e.rcache
  else if 0x800000000000 ≤ a ∧ a < 2 ^ 48 then
    .host (d.get (pHst (d.chanOf q)) fHST_HWIN_HI_BASE 0 * 2 ^ 47 + a % 2 ^ 47)
  else .addrError

end Sys2Proof.Machine
end

