-- ==== Sys2Proof/Machine/Crypto.lean ====
section
/-!
DEFINITION. SHA-512, Ed25519 and X25519, the algorithms of Table 19.1 for digests, signatures and link keys (R437). Their own text is
FIPS 180-4, RFC 8032 and RFC 7748, which the spec names and does not repeat (log entry 133: PRESUMED).
-/

namespace Sys2Proof.Machine

open Sys2Proof

/-! ### SHA-512 -/

/-- The round constants. -/
def shaK0 : List (BitVec 64) :=
  [0x428A2F98D728AE22, 0x7137449123EF65CD, 0xB5C0FBCFEC4D3B2F, 0xE9B5DBA58189DBBC, 0x3956C25BF348B538,
   0x59F111F1B605D019, 0x923F82A4AF194F9B, 0xAB1C5ED5DA6D8118, 0xD807AA98A3030242, 0x12835B0145706FBE,
   0x243185BE4EE4B28C, 0x550C7DC3D5FFB4E2, 0x72BE5D74F27B896F, 0x80DEB1FE3B1696B1, 0x9BDC06A725C71235,
   0xC19BF174CF692694, 0xE49B69C19EF14AD2, 0xEFBE4786384F25E3, 0x0FC19DC68B8CD5B5, 0x240CA1CC77AC9C65]
def shaK1 : List (BitVec 64) :=
  [0x2DE92C6F592B0275, 0x4A7484AA6EA6E483, 0x5CB0A9DCBD41FBD4, 0x76F988DA831153B5, 0x983E5152EE66DFAB,
   0xA831C66D2DB43210, 0xB00327C898FB213F, 0xBF597FC7BEEF0EE4, 0xC6E00BF33DA88FC2, 0xD5A79147930AA725,
   0x06CA6351E003826F, 0x142929670A0E6E70, 0x27B70A8546D22FFC, 0x2E1B21385C26C926, 0x4D2C6DFC5AC42AED,
   0x53380D139D95B3DF, 0x650A73548BAF63DE, 0x766A0ABB3C77B2A8, 0x81C2C92E47EDAEE6, 0x92722C851482353B]
def shaK2 : List (BitVec 64) :=
  [0xA2BFE8A14CF10364, 0xA81A664BBC423001, 0xC24B8B70D0F89791, 0xC76C51A30654BE30, 0xD192E819D6EF5218,
   0xD69906245565A910, 0xF40E35855771202A, 0x106AA07032BBD1B8, 0x19A4C116B8D2D0C8, 0x1E376C085141AB53,
   0x2748774CDF8EEB99, 0x34B0BCB5E19B48A8, 0x391C0CB3C5C95A63, 0x4ED8AA4AE3418ACB, 0x5B9CCA4F7763E373,
   0x682E6FF3D6B2B8A3, 0x748F82EE5DEFB2FC, 0x78A5636F43172F60, 0x84C87814A1F0AB72, 0x8CC702081A6439EC]
def shaK3 : List (BitVec 64) :=
  [0x90BEFFFA23631E28, 0xA4506CEBDE82BDE9, 0xBEF9A3F7B2C67915, 0xC67178F2E372532B, 0xCA273ECEEA26619C,
   0xD186B8C721C0C207, 0xEADA7DD6CDE0EB1E, 0xF57D4F7FEE6ED178, 0x06F067AA72176FBA, 0x0A637DC5A2C898A6,
   0x113F9804BEF90DAE, 0x1B710B35131C471B, 0x28DB77F523047D84, 0x32CAAB7B40C72493, 0x3C9EBE0A15C9BEBC,
   0x431D67C49C100D4C, 0x4CC5D4BECB3E42B6, 0x597F299CFC657E2A, 0x5FCB6FAB3AD6FAEC, 0x6C44198C4A475817]
def shaK : List (BitVec 64) := shaK0 ++ shaK1 ++ shaK2 ++ shaK3

/-- The chaining value: eight words. -/
def shaH : List (BitVec 64) :=
  [0x6A09E667F3BCC908, 0xBB67AE8584CAA73B, 0x3C6EF372FE94F82B, 0xA54FF53A5F1D36F1,
   0x510E527FADE682D1, 0x9B05688C2B3E6C1F, 0x1F83D9ABFB41BD6B, 0x5BE0CD19137E2179]

/-- The functions of the schedule and of the rounds: two rotations and a shift, or three rotations. -/
def shaS0 (x : BitVec 64) : BitVec 64 := x.rotateRight 1 ^^^ x.rotateRight 8 ^^^ x >>> 7
def shaS1 (x : BitVec 64) : BitVec 64 := x.rotateRight 19 ^^^ x.rotateRight 61 ^^^ x >>> 6
def shaB0 (x : BitVec 64) : BitVec 64 := x.rotateRight 28 ^^^ x.rotateRight 34 ^^^ x.rotateRight 39
def shaB1 (x : BitVec 64) : BitVec 64 := x.rotateRight 14 ^^^ x.rotateRight 18 ^^^ x.rotateRight 41

/-- The number a list of bytes stands for, the first byte most significant. -/
def shaNat (l : List Byte) : Nat := leNat l.reverse

/-- The words of a block: `n` more of them, the newest first. -/
def shaWords : Nat → List (BitVec 64) → List (BitVec 64)
  | 0, ws => ws
  | n + 1, ws => shaWords n ((shaS1 (ws.getD 1 0) + ws.getD 6 0 + shaS0 (ws.getD 14 0) + ws.getD 15 0) :: ws)

/-- One round, over the eight working words. -/
def shaRound (v : List (BitVec 64)) (kw : BitVec 64) : List (BitVec 64) :=
  match v with
  | [a, b, c, d, e, f, g, h] =>
    let t1 := h + shaB1 e + ((e &&& f) ^^^ (~~~e &&& g)) + kw
    let t2 := shaB0 a + ((a &&& b) ^^^ (a &&& c) ^^^ (b &&& c))
    [t1 + t2, a, b, c, d + t1, e, f, g]
  | _ => v

/-- A block of 128 bytes is taken up. -/
def shaBlock (h : List (BitVec 64)) (block : List Byte) : List (BitVec 64) :=
  let w0 := (List.range 16).map (fun i => BitVec.ofNat 64 (shaNat ((block.drop (8 * i)).take 8)))
  let ws := (shaWords 64 w0.reverse).reverse
  let v := (shaK.zip ws).foldl (fun v e => shaRound v (e.1 + e.2)) h
  (h.zip v).map (fun e => e.1 + e.2)

/-- The message with a 1 bit, zeros and its length in bits, in whole blocks. -/
def shaPad (l : List Byte) : List Byte :=
  l ++ [0x80] ++ List.replicate ((239 - l.length % 128) % 128) 0 ++ (leBytes 16 (8 * l.length)).reverse

def shaBlocks : Nat → List Byte → List (BitVec 64) → List (BitVec 64)
  | 0, _, h => h
  | n + 1, l, h => shaBlocks n (l.drop 128) (shaBlock h (l.take 128))

/-- SHA-512; byte 0 of the digest is the least significant of the answer. -/
@[irreducible] def sha512 (l : List Byte) : BitVec 512 :=
  let m := shaPad l
  let h := shaBlocks (m.length / 128) m shaH
  BitVec.ofNat 512 (leNat (h.flatMap (fun w => (leBytes 8 w.toNat).reverse)))

/-! ### The field of 2^255 - 19 -/

def pP : Nat := 2 ^ 255 - 19
def pSub (a b : Nat) : Nat := (a + pP - b % pP) % pP
def pMul (a b : Nat) : Nat := a * b % pP

/-- Powers, by squaring, over the low `n` bits of the exponent. -/
def pPow : Nat → Nat → Nat → Nat
  | 0, _, _ => 1
  | n + 1, a, e => pMul (if e % 2 = 1 then a else 1) (pPow n (pMul a a) (e / 2))
def pInv (a : Nat) : Nat := pPow 255 a (pP - 2)

/-! ### Ed25519, pure form -/

/-- A point of the curve in extended coordinates. -/
structure EdPoint where
  x : Nat
  y : Nat
  z : Nat
  t : Nat
deriving DecidableEq, Repr

/-- The order of the base point, and the curve's d. -/
def edQ : Nat := 2 ^ 252 + 27742317777372353535851937790883648493
def edD : Nat := pMul (pSub 0 121665) (pInv 121666)

def edAdd (p q : EdPoint) : EdPoint :=
  let a := pMul (pSub p.y p.x) (pSub q.y q.x)
  let b := pMul (p.y + p.x) (q.y + q.x)
  let c := pMul (2 * pMul p.t q.t) edD
  let d := pMul (2 * p.z) q.z
  let e := pSub b a
  let f := pSub d c
  let g := d + c
  let h := b + a
  ⟨pMul e f, pMul g h, pMul f g, pMul e h⟩

/-- Multiples of a point, over the low `n` bits of the factor. -/
def edMul : Nat → Nat → EdPoint → EdPoint
  | 0, _, _ => ⟨0, 1, 1, 0⟩
  | n + 1, s, p =>
    let r := edMul n (s / 2) (edAdd p p)
    if s % 2 = 1 then edAdd r p else r

def edSame (p q : EdPoint) : Bool := pMul p.x q.z == pMul q.x p.z && pMul p.y q.z == pMul q.y p.z

/-- The x of a point from its y and the parity of its x. -/
def edX (y sign : Nat) : Option Nat :=
  if pP ≤ y then none
  else
    let x2 := pMul (pSub (pMul y y) 1) (pInv (pMul edD (pMul y y) + 1))
    if x2 = 0 then (if sign = 1 then none else some 0)
    else
      let x := pPow 255 x2 ((pP + 3) / 8)
      let x := if pMul x x = x2 then x else pMul x (pPow 255 2 ((pP - 1) / 4))
      if pMul x x ≠ x2 then none else some (if x % 2 = sign then x else pP - x)

/-- The base point: y = 4/5, x even. -/
def edG : EdPoint :=
  let y := pMul 4 (pInv 5)
  let x := (edX y 0).getD 0
  ⟨x, y, 1, pMul x y⟩

/-- A point as 32 bytes, and back. -/
def edOut (p : EdPoint) : List Byte :=
  let zi := pInv p.z
  leBytes 32 (pMul p.y zi + pMul p.x zi % 2 * 2 ^ 255)
def edIn (l : List Byte) : Option EdPoint :=
  let n := leNat l
  let y := n % 2 ^ 255
  if l.length ≠ 32 then none else (edX y (n / 2 ^ 255)).map (fun x => ⟨x, y, 1, pMul x y⟩)

/-- The secret factor and the prefix of a seed. -/
def edExpand (seed : BitVec 256) : Nat × List Byte :=
  let h := (sha512 (leBytes 32 seed.toNat)).toNat
  (h % 2 ^ 254 / 8 * 8 + 2 ^ 254, leBytes 32 (h / 2 ^ 256))

/-- A digest as a factor. -/
def edHash (l : List Byte) : Nat := (sha512 l).toNat % edQ

/-- The public key of a seed. -/
@[irreducible] def ed25519Public (seed : BitVec 256) : List Byte := edOut (edMul 256 (edExpand seed).1 edG)

/-- The signature of a message under a seed. -/
@[irreducible] def ed25519Sign (seed : BitVec 256) (msg : List Byte) : List Byte :=
  let k := edExpand seed
  let r := edHash (k.2 ++ msg)
  let rs := edOut (edMul 256 r edG)
  rs ++ leBytes 32 ((r + edHash (rs ++ ed25519Public seed ++ msg) * k.1) % edQ)

/-- Whether a signature of a message verifies under a public key. -/
@[irreducible] def ed25519Verify (pk msg sig : List Byte) : Bool :=
  let s := leNat (sig.drop 32)
  match edIn pk, edIn (sig.take 32) with
  | some a, some r =>
    sig.length == 64 && decide (s < edQ) &&
      edSame (edMul 256 s edG) (edAdd r (edMul 256 (edHash (sig.take 32 ++ pk ++ msg)) a))
  | _, _ => false

/-! ### X25519 -/

/-- The ladder from bit n - 1 down: (x2, z2) and (x3, z3). -/
def xLadder (u k : Nat) : Nat → (Nat × Nat) × (Nat × Nat) → (Nat × Nat) × (Nat × Nat)
  | 0, s => s
  | n + 1, s =>
    let on := k.testBit n
    let p := if on then s.2 else s.1
    let q := if on then s.1 else s.2
    let a := p.1 + p.2
    let b := pSub p.1 p.2
    let aa := pMul a a
    let bb := pMul b b
    let e := pSub aa bb
    let da := pMul (pSub q.1 q.2) a
    let cb := pMul (q.1 + q.2) b
    let p' := (pMul aa bb, pMul e (aa + pMul 121665 e))
    let q' := (pMul (da + cb) (da + cb), pMul u (pMul (pSub da cb) (pSub da cb)))
    xLadder u k n (if on then (q', p') else (p', q'))

@[irreducible] def x25519 (secret pub : BitVec 256) : BitVec 256 :=
  let k := secret.toNat % 2 ^ 254 / 8 * 8 + 2 ^ 254
  let u := pub.toNat % 2 ^ 255 % pP
  let r := (xLadder u k 255 ((1, 0), (u, 1))).1
  BitVec.ofNat 256 (pMul r.1 (pInv r.2))

end Sys2Proof.Machine
end

