-- ==== Sys2Proof/Machine/Aes.lean ====
section
/-!
DEFINITION. AES-256 and the two modes the S9 uses it in: XTS over a stack's lines (R262) and GCM over the blocks of an encrypted
link (R314). The ciphers' own text is FIPS 197, IEEE 1619-2018 and NIST SP 800-38D, which the spec names and does not repeat
(log entry 133: PRESUMED).
-/

namespace Sys2Proof.Machine

open Sys2Proof

/-! ### AES-256 -/

/-- Multiplication by x in GF(2^8) modulo x^8 + x^4 + x^3 + x + 1. -/
def aesX2 (a : Nat) : Nat := if 128 ≤ a then (2 * a) ^^^ 0x11B else 2 * a

/-- A product in GF(2^8), over the low `n` bits of the second factor. -/
def aesMul : Nat → Nat → Nat → Nat
  | 0, _, _ => 0
  | n + 1, a, b => (if b % 2 = 1 then a else 0) ^^^ aesMul n (aesX2 a) (b / 2)

/-- a^254, the inverse of a, by repeated squaring: the product of a^2, a^4, ..., a^128. -/
def aesInvGo : Nat → Nat → Nat
  | 0, _ => 1
  | n + 1, a => aesMul 8 (aesMul 8 a a) (aesInvGo n (aesMul 8 a a))
def aesInv (a : Nat) : Nat := aesInvGo 7 a

/-- The S-box. -/
def aesSub (a : Nat) : Nat :=
  let b := aesInv a
  let rot (k : Nat) : Nat := (b * 2 ^ k) % 256 + b * 2 ^ k / 256
  b ^^^ rot 1 ^^^ rot 2 ^^^ rot 3 ^^^ rot 4 ^^^ 0x63

def xorList (a b : List Nat) : List Nat := (a.zip b).map (fun e => e.1 ^^^ e.2)

/-- The key schedule: the words so far, newest first, and how many are still to come. -/
def aesExpand : Nat → Nat → List (List Nat) → List (List Nat)
  | 0, _, ws => ws
  | n + 1, i, ws =>
    let prev := ws.headD []
    let old := ws.getD 7 []
    let t := if i % 8 = 0 then
        (let s := (prev.drop 1 ++ prev.take 1).map aesSub
         xorList s [2 ^ (i / 8 - 1), 0, 0, 0])
      else if i % 8 = 4 then prev.map aesSub else prev
    aesExpand n (i + 1) (xorList old t :: ws)

/-- The four-byte pieces of a list. -/
def words4 : Nat → List Nat → List (List Nat)
  | 0, _ => []
  | n + 1, l => l.take 4 :: words4 n (l.drop 4)

/-- The 15 round keys of a 32-byte key, 16 bytes each. -/
def aesKeys (key : List Nat) : List (List Nat) :=
  let ws := (aesExpand 52 8 (words4 8 key).reverse).reverse
  (List.range 15).map (fun r => (ws.drop (4 * r)).take 4 |>.flatten)

/-- SubBytes, then ShiftRows: row i % 4 of the state moves left by its number. -/
def aesSubShift (s : List Nat) : List Nat :=
  (List.range 16).map (fun i => aesSub (s.getD ((i + 4 * (i % 4)) % 16) 0))

/-- MixColumns. -/
def aesMix (s : List Nat) : List Nat :=
  (List.range 16).map (fun i =>
    let c := i / 4 * 4
    let at_ (k : Nat) : Nat := s.getD (c + (i + k) % 4) 0
    aesX2 (at_ 0) ^^^ (aesX2 (at_ 1) ^^^ at_ 1) ^^^ at_ 2 ^^^ at_ 3)

def aesRounds : List (List Nat) → List Nat → List Nat
  | [], s => s
  | [k], s => xorList (aesSubShift s) k
  | k :: ks, s => aesRounds ks (xorList (aesMix (aesSubShift s)) k)

/-- AES-256 on a 16-byte block under expanded keys. -/
def aesBlock (ks : List (List Nat)) (b : List Nat) : List Nat :=
  match ks with
  | [] => b
  | k :: r => aesRounds r (xorList b k)

/-- `n` bytes of a number, least significant first, and back. -/
def natBytes (n v : Nat) : List Nat := (List.range n).map (byteOf v)
def bytesNat : List Nat → Nat
  | [] => 0
  | b :: r => b + 256 * bytesNat r

/-! ### XTS (R262) -/

/-- The tweak of the next block: multiplication by x in GF(2^128), least significant byte first. -/
def xtsNext (t : Nat) : Nat := if 2 ^ 127 ≤ t then (2 * t) % 2 ^ 128 ^^^ 0x87 else 2 * t

def xtsGo (ks : List (List Nat)) : Nat → Nat → Nat → Nat
  | 0, _, _ => 0
  | n + 1, t, v =>
    (bytesNat (aesBlock ks (natBytes 16 (v % 2 ^ 128 ^^^ t))) ^^^ t) + 2 ^ 128 * xtsGo ks n (xtsNext t) (v / 2 ^ 128)

/-- The ciphertext of a line: eight blocks in ascending address, the line number as the tweak. The 64 key bytes are the
number's, least significant first: the first 32 encrypt the data and the last 32 the tweak. -/
def xtsEncrypt (key l data : Nat) : Nat :=
  let t := bytesNat (aesBlock (aesKeys (natBytes 32 (key / 2 ^ 256))) (natBytes 16 l))
  xtsGo (aesKeys (natBytes 32 key)) 8 t data

/-! ### GCM (R314) -/

/-- A product in the field of GHASH, blocks read most significant bit first; `n` bits of the first factor are left. -/
def ghMulGo : Nat → Nat → Nat → Nat → Nat
  | 0, _, _, z => z
  | n + 1, x, v, z =>
    ghMulGo n x (if v % 2 = 1 then v / 2 ^^^ 0xE1 * 2 ^ 120 else v / 2) (if x.testBit n then z ^^^ v else z)
def ghMul (x h : Nat) : Nat := ghMulGo 128 x h 0

/-- Bytes as a number, the first the most significant. -/
def beNat (l : List Nat) : Nat := l.foldl (fun a b => 256 * a + b) 0

/-- Pads a list of bytes with zeros to whole blocks, `n` at most. -/
def blocks16 : Nat → List Nat → List Nat
  | 0, _ => []
  | n + 1, l => if l.isEmpty then [] else beNat (l.take 16 ++ List.replicate (16 - l.length) 0) :: blocks16 n (l.drop 16)

def ghash (h : Nat) (aad c : List Nat) : Nat :=
  (blocks16 aad.length aad ++ blocks16 c.length c ++ [8 * aad.length * 2 ^ 64 + 8 * c.length]).foldl (fun y b => ghMul (y ^^^ b) h) 0

/-- The key stream from a counter block on, over the bytes of a text. -/
def gcmCtr (ks : List (List Nat)) (nonce : List Nat) : Nat → Nat → List Nat → List Nat
  | 0, _, _ => []
  | n + 1, i, l =>
    if l.isEmpty then []
    else
      xorList (l.take 16) (aesBlock ks (nonce ++ (natBytes 4 i).reverse)) ++ gcmCtr ks nonce n (i + 1) (l.drop 16)

/-- AES-256-GCM: key (32 bytes), 12-byte nonce, additional data and text give the ciphertext and the 16-byte tag. -/
def gcmSeal (key nonce aad text : List Nat) : List Nat × List Nat :=
  let ks := aesKeys key
  let h := beNat (aesBlock ks (List.replicate 16 0))
  let c := gcmCtr ks nonce text.length 2 text
  let s := ghash h aad c
  (c, xorList (natBytes 16 s).reverse (aesBlock ks (nonce ++ [0, 0, 0, 1])))

end Sys2Proof.Machine
end

