-- ==== Sys2Proof/Machine/Dram.lean ====
section
/-!
DEFINITION. The stacks as the memory controllers see them (chapter 10): where a line lies, keys, poison, and the queues of
a channel.
-/

namespace Sys2Proof.Machine

open Sys2Proof

/-! ### Where a line lies (R256, R257) -/

/-- Stack of a line, and the line's offset in the stack. -/
def lineStack (l : Nat) : Nat := l / 2 ^ 30
def lineOff (l : Nat) : Nat := l % 2 ^ 30 * 128
/-- Quadrant the line is homed on. -/
def lineQuad (l : Nat) : Nat := lineStack l / 5
/-- Channel, channel address, bank and row of a line. -/
def lineCh (l : Nat) : Nat := lineOff l / 512 % 8
def lineCa (l : Nat) : Nat := lineOff l / 4096 * 512 + lineOff l % 512
def lineBank (l : Nat) : Nat := (lineCa l / 4096 % 32) ^^^ (lineCa l / 2 ^ 17 % 32)
def lineRow (l : Nat) : Nat := lineCa l / 2 ^ 17
/-- MC page and channel key of a line. -/
def lineMcNo (l : Nat) : Nat := 8 * (lineStack l % 5) + lineCh l
def lineMc (l : Nat) : Page := pMc (lineQuad l) (lineMcNo l)
def mcKey (q n : Nat) : Nat := q * 40 + n
def lineMcKey (l : Nat) : Nat := mcKey (lineQuad l) (lineMcNo l)
/-- The line is in a populated range of a stack. -/
def isStackLine (l : Nat) : Bool := decide (lineStack l < 20 ∧ lineOff l < 0x1200000000)

/-- STK_STAT.STATE of a stack: 0 UNTRAINED, 1 TRAINING, 2 READY, 3 RETRAINING, 4 FAILED. -/
def Dev.stkState (d : Dev) (t : Nat) : Nat := d.get (pStk t) fSTK_STAT_STATE 0
/-- Requests that need the stack wait (R271, R272). -/
def Dev.stkWaits (d : Dev) (t : Nat) : Bool := d.stkState t == 1 || d.stkState t == 3
/-- Requests that need the stack complete with poison or are discarded (R272). -/
def Dev.stkDead (d : Dev) (t : Nat) : Bool := d.stkState t == 0 || d.stkState t == 4

/-! ### Keys (R262, R263, R265) -/

/-- The key slot of a line, none where its stack is not encrypted. -/
def Dev.keySlot (d : Dev) (l : Nat) : Option Nat :=
  let t := lineStack l
  if !d.on (pStk t) fSTK_ENC_EN 0 then none
  else if !d.on (pStk t) fSTK_ENC_MODE 0 then some (if d.isSealedOp then d.chanOf (t / 5) else 0)
  else
    match d.srAt (128 * l) with
    | some e => some (NMap.get d.srKey (512 * (2 * e.1 + e.2.1) + homeUnit t (lineOff l)) 0 - 1)
    | none => some (d.owner t (lineOff l))

/-- The key a slot of a B-die holds. -/
def Dev.loadedKey (d : Dev) (q k : Nat) : Option Nat :=
  (d.trust.loaded.find? (fun e => e.1 == q && e.2.1 == k)).map (fun e => e.2.2.toNat)

/-- The tag of the key a line is under now: 0 in clear, else the key's value plus 1; none where the slot is empty. -/
def Dev.keyTag (d : Dev) (l : Nat) : Option Nat :=
  match d.keySlot l with
  | none => some 0
  | some k => (d.loadedKey (lineQuad l) k).map (· + 1)

/-- KEYMISS: the source with the slot, and the address captured with KIND 4 (R263, MC_EADDR). -/
def Dev.eaddr (d : Dev) (l kind : Nat) : Dev :=
  let a := 128 * l
  (d.setWord (lineMc l) 0x10C 0 (a % 2 ^ 32 / 128 * 128 + kind)).setWord (lineMc l) 0x110 0 (a / 2 ^ 32)

def Dev.keyMiss (d : Dev) (l : Nat) : Dev :=
  (d.eaddr l 4).raise (lineMc l) 3 ((d.keySlot l).getD 0)

/-! ### Budgets (R275, R276) -/

/-- The initial budget of a class and partition at a B-die. -/
def Dev.budget0 (d : Dev) (q part tc : Nat) : Nat :=
  match tc with
  | 0 => d.get (pQctl q) fQCTL_TCB01_TC0 part
  | 1 => d.get (pQctl q) fQCTL_TCB01_TC1 part
  | 2 => d.get (pQctl q) fQCTL_TCB23_TC2 part
  | _ => d.get (pQctl q) fQCTL_TCB23_TC3 part

/-- What a new request of a class and partition carries; one whose budget starts at 0 is late (R278). -/
def Dev.svc0 (d : Dev) (q part tc : Nat) : Svc := ⟨tc, d.budget0 q part tc, d.budget0 q part tc == 0⟩

/-! ### A line of the stack -/

/-- The last write of the line that waits in its channel's queue, or at its home for a stack in training. -/
def Dev.queuedWrite (d : Dev) (l : Nat) : Option McWrite :=
  let c := d.mc (lineMcKey l)
  (c.writes ++ c.waitW).reverse.find? (fun w => w.line == l)

/-- The bytes of poisoned data that nothing else is there for (log entry 10). -/
def poisonBytes (l : Nat) : Nat := Config.poisonData l % 2 ^ 1024

/-- A line written as `data` under the key of tag `was`, read under that of tag `tag` (R262): in clear it reads as its ciphertext,
and under a key that did not write it as bytes nothing fixes. -/
def readUnder (l was tag data : Nat) : Nat :=
  if was = tag then data
  else if tag = 0 then xtsEncrypt (was - 1) l data
  else Config.wrongKey l was tag data % 2 ^ 1024

/-- What the stack holds of a line under the key in force: bytes and poison. -/
def Dev.stored (d : Dev) (l tag : Nat) : Nat × Bool :=
  (readUnder l (NMap.get d.lineKey l 0) tag (Memory.readN d.mem (128 * l) 128), Set.has d.poisoned l)

/-- A read of a line at its controller, its queued writes included: data, poison, and the device with KEYMISS raised where
the key is not loaded. A dead stack delivers poison and raises nothing here (R272). -/
def Dev.dramRead (d : Dev) (l : Nat) : Nat × Bool × Dev :=
  if d.stkDead (lineStack l) then (poisonBytes l, true, d)
  else
    match d.keyTag l with
    | none => (poisonBytes l, true, d.keyMiss l)
    | some tag =>
      match d.queuedWrite l with
      | some w => (readUnder l w.tag tag w.data, w.psn, d)
      | none => ((d.stored l tag).1, (d.stored l tag).2, d)

/-- Stores a whole line in the stack under the key of a tag: new check bits, and poison only if the data is (R260). -/
def Dev.storeUnder (d : Dev) (l tag v : Nat) (psn : Bool) : Dev :=
  { d with mem := Memory.writeN d.mem (128 * l) 128 (2 ^ 128 - 1) v,
           poisoned := if psn then Set.add d.poisoned l else Set.del d.poisoned l,
           lineKey := NMap.put d.lineKey l tag 0 }

/-- The same under the key in force, with KEYMISS where it is not loaded (R263). -/
def Dev.storeLine (d : Dev) (l v : Nat) (psn : Bool) : Dev :=
  match d.keyTag l with
  | none => d.keyMiss l
  | some tag => d.storeUnder l tag v psn

/-- The line the patrol scrub reads on a channel: channel address 128 * i. -/
def scrubLine (t ch i : Nat) : Nat := t * 2 ^ 30 + (128 * i / 512 * 4096 + ch * 512 + 128 * i % 512) / 128

/-- A write accepted between the scrub's read of its line and the write-back (R261). -/
def Dev.overtake (d : Dev) (l : Nat) : Dev :=
  let t := lineStack l
  let s := d.stk t
  if s.scrubbing.testBit (lineCh l) ∧ scrubLine t (lineCh l) s.scrubAt = l then
    d.setStk t { s with overtaken := s.overtaken ||| 2 ^ lineCh l }
  else d

/-- A write of a whole line accepted by its controller, under the key in force then: queued, or kept at the home while its stack
trains (R271); discarded by a dead stack, or where its key is not loaded (R263, R272). -/
def Dev.dramWrite (d : Dev) (l v : Nat) (psn : Bool) (svc : Svc) : Dev :=
  if d.stkDead (lineStack l) then d
  else
    match d.keyTag l with
    | none => d.keyMiss l
    | some tag =>
      let d := d.overtake l
      let c := d.mc (lineMcKey l)
      let w : McWrite := ⟨l, v, psn, tag, svc⟩
      d.setMc (lineMcKey l) (if d.stkWaits (lineStack l) then { c with waitW := c.waitW ++ [w] } else { c with writes := c.writes ++ [w] })

/-- Drops the queued writes of the lines of a range: they are overtaken by a write of the whole range. -/
def Dev.dropQueued (d : Dev) (inR : Nat → Bool) : Dev :=
  { d with mcs := d.mcs.map (fun e => (e.1, { e.2 with writes := e.2.writes.filter (fun w => !inR w.line),
                                                       waitW := e.2.waitW.filter (fun w => !inR w.line) })) }

/-- Zeros over the lines [lo, lo + n), each under the key in force (R254, R264): unlisted bytes read 0, so their cells
leave; every line takes the tag of its key. A line whose key is not loaded keeps its contents, with KEYMISS (R263). -/
def Dev.zeroLines (d : Dev) (lo n : Nat) : Dev :=
  let inR (l : Nat) : Bool := decide (lo ≤ l ∧ l < lo + n) && (d.keyTag l).isSome
  let e := d.dropQueued inR
  let e := { e with mem := NMap.dropIf e.mem (fun a => inR (a / 128)), poisoned := e.poisoned.filter (fun l => !inR l),
                    lineKey := NMap.dropIf e.lineKey inR }
  if d.on (pStk (lineStack lo)) fSTK_ENC_EN 0 then
    (List.range n).foldl (fun (e : Dev) i =>
      match d.keyTag (lo + i) with
      | some tag => { e with lineKey := NMap.put e.lineKey (lo + i) tag 0 }
      | none => e.keyMiss (lo + i)) e
  else e

/-- A demand read joins its channel's queue, or waits at the home while its stack trains (R271). -/
def Dev.queueRead (d : Dev) (l : Nat) : Dev :=
  let c := d.mc (lineMcKey l)
  d.setMc (lineMcKey l) (if d.stkWaits (lineStack l) then { c with waitR := c.waitR ++ [l] } else { c with reads := c.reads ++ [l] })

end Sys2Proof.Machine
end

