-- ==== Sys2Proof/Machine/Cache.lean ====
section
/-!
DEFINITION. The Galley and the Case (chapter 8): where a line is placed, what class it takes, which line it replaces, and
what an eviction sends.

Agents are numbered as in Table 9.1; a Case of Q q is agent 8 + q, both as the home of its own lines and as a cache of other
quadrants' lines and of peer lines. A line being evicted stays listed as `leaving` until its home acknowledges, keeps its way, and
answers snoops as absent (R241). A line filled meanwhile for that way waits in the fill buffer, from which it is served (way 32 and
above; log entry 11).
-/

namespace Sys2Proof.Machine

open Sys2Proof

/-! ### Lines by agent -/

def lineKeyOf (agent place l : Nat) : Nat := (agent * 128 + place) * 2 ^ 41 + l
def keyAgent (k : Nat) : Nat := k / 2 ^ 41 / 128
def keyPlace (k : Nat) : Nat := k / 2 ^ 41 % 128
def keyLine (k : Nat) : Nat := k % 2 ^ 41

def Dev.cline (d : Dev) (agent place l : Nat) : Option CLine := NMap.get d.lines (lineKeyOf agent place l) none
def Dev.setCline (d : Dev) (agent place l : Nat) (c : Option CLine) : Dev :=
  { d with lines := NMap.put d.lines (lineKeyOf agent place l) c none }

/-- The places an agent may hold a line in. -/
def placesOf (agent : Nat) : List Nat := if 8 ≤ agent ∧ agent < 12 then List.range 16 else [0]

/-- The place where an agent holds a line of coherent memory, and the line; leaving lines too. -/
def Dev.heldLine (d : Dev) (agent l : Nat) : Option (Nat × CLine) :=
  (placesOf agent).findSome? (fun p => (d.cline agent p l).map (fun c => (p, c)))

/-- The same, for a copy that is present: state I counts leaving lines out (R241). -/
def Dev.copyOf (d : Dev) (agent l : Nat) : Option (Nat × CLine) :=
  (d.heldLine agent l).filter (fun e => !e.2.leaving)

def Dev.isLeaving (d : Dev) (agent l : Nat) : Bool := ((d.heldLine agent l).map (fun e => e.2.leaving)).getD false

/-- Changes an agent's copy where it lies. -/
def Dev.modCopy (d : Dev) (agent l : Nat) (f : CLine → Option CLine) : Dev :=
  match d.heldLine agent l with
  | none => d
  | some e => d.setCline agent e.1 l (f e.2)

/-- A hit makes the line most recently used (R214). -/
def Dev.touchCopy (d : Dev) (agent l : Nat) : Dev :=
  let d := d.modCopy agent l (fun c => some { c with used := d.useCtr + 1 })
  { d with useCtr := d.useCtr + 1 }

/-! ### Stereo lines (R217 to R220) -/

/-- The entry whose region holds the line, the entry being ACTIVE. -/
def Dev.stereoLine (d : Dev) (l : Nat) : Bool :=
  match d.srAt (128 * l) with
  | some e => !e.2.2 && d.srState e.1 e.2.1 == 3
  | none => false

/-! ### Placement (R205, R207) -/

def Dev.sliceOpen (d : Dev) (q s : Nat) : Bool :=
  !d.on (pCase q s) fCASE_PART_DRAINED 0 && !d.on (pCase q s) fCASE_MNT_BUSY 0
def Dev.slicePart (d : Dev) (q s : Nat) : Nat := d.get (pCase q s) fCASE_PART_PART 0
/-- list(P, q). -/
def Dev.openSlices (d : Dev) (p q : Nat) : List Nat :=
  (List.range 16).filter (fun s => d.slicePart q s == p && d.sliceOpen q s)

/-- place(a, p, q): the slice for line l. -/
def Dev.place (d : Dev) (l p q : Nat) : Option Nat :=
  let s := d.openSlices p q
  if s.isEmpty then none else s[(l / 2 ^ 13 + l / 2 ^ 26) % s.length]?

def caseSet (l : Nat) : Nat := l % 8192
def galSet (l : Nat) : Nat := l % 16384

/-- The partition that places a line: the owner of its home unit; the requester for peer and stereo lines (R207). -/
def Dev.placer (d : Dev) (l part : Nat) : Nat :=
  if isStackLine l && !d.stereoLine l then d.owner (lineStack l) (lineOff l) else part

/-! ### Windows and classes (R211, R212) -/

/-- The lowest enabled window of the partition on a B-die that holds the address: its number, class and quota. -/
def Dev.windowOf (d : Dev) (q p l : Nat) : Option (Nat × Nat × Nat) :=
  (List.range 16).findSome? (fun w =>
    let i := p * 16 + w
    if d.on (pQctl q) fQCTL_PWIN_CTL_EN i &&
       decide (d.get (pQctl q) fQCTL_PWIN_BASE_BASE i ≤ 128 * l / 65536 ∧
               128 * l / 65536 ≤ d.get (pQctl q) fQCTL_PWIN_LIM_LIM i)
    then some (w, d.get (pQctl q) fQCTL_PWIN_CTL_CLASS i, d.get (pQctl q) fQCTL_PWIN_CTL_WQUOTA i) else none)

/-- The lines of a Case set, those that leave too: line number and line. -/
def Dev.setLines (d : Dev) (q s set : Nat) : List (Nat × CLine) :=
  d.lines.filterMap (fun e =>
    if keyAgent e.1 = 8 + q ∧ keyPlace e.1 = s ∧ caseSet (keyLine e.1) = set then e.2.map (fun c => (keyLine e.1, c)) else none)

/-- The lines of a Galley set, those that leave too: key and line. -/
def Dev.galLines (d : Dev) (g set : Nat) : List (Nat × CLine) :=
  d.lines.filterMap (fun e =>
    if keyAgent e.1 = g ∧ galSet (keyLine e.1) = set then e.2.map (fun c => (e.1, c)) else none)

/-- The lines of a set that stay. -/
def staying (ls : List (Nat × CLine)) : List (Nat × CLine) := ls.filter (fun e => !e.2.leaving)

/-- A line in its way, not in the fill buffer. -/
def CLine.inWay (c : CLine) : Bool := decide (c.way < 16)

/-- A fill's class and window: persist only below both quotas, else normal; the Boolean says that it was demoted. -/
def Dev.fillClass (d : Dev) (q s p l : Nat) (peer : Bool) : Nat × Nat × Bool :=
  if peer then (1, 0, false)
  else
    match d.windowOf q p l with
    | none => (1, 0, false)
    | some (w, cls, quota) =>
      if cls = 2 then
        let ps := (staying (d.setLines q s (caseSet l))).filter (fun e => e.2.cls == 2)
        if ps.length < d.get (pQctl q) fQCTL_PCFG_PQUOTA p ∧ (ps.filter (fun e => e.2.win == w)).length < quota
        then (2, w, false) else (1, w, true)
      else (cls, w, false)

/-! ### Replacement (R208, R214, R243) -/

/-- A copy at an agent is busy (R243): its home line has a transaction in flight, or the agent awaits a reply for it. -/
def Dev.busyAt (d : Dev) (agent place l : Nat) : Bool :=
  (NMap.get d.txns l none).isSome || (NMap.get d.mshr (lineKeyOf agent place l) none).isSome

/-- The place of a partition's copy in a Galley, and of an agent's request for it. -/
def Dev.galPlace (d : Dev) (l part : Nat) : Nat := if d.stereoLine l then 1 + part else 0

/-- The same for a Case's copy, which a partition placed. -/
def Dev.busyCase (d : Dev) (q l part : Nat) : Bool := d.busyAt (8 + q) (d.galPlace l part) l

/-- The least recently used of some lines. -/
def lru : List (Nat × CLine) → Option (Nat × CLine)
  | [] => none
  | x :: r =>
    match lru r with
    | none => some x
    | some y => if y.2.used < x.2.used then some y else some x

/-- The lowest way of 0-15 that a test holds of and no line lies in. -/
def freeWay (ls : List (Nat × CLine)) (ok : Nat → Bool) : Option Nat :=
  (List.range 16).find? (fun w => ok w && !ls.any (fun e => e.2.way == w))

/-- The way a line takes whose victim may still reserve it (R241): until the acknowledgement it waits in the fill buffer. -/
def wayAfter (ls : List (Nat × CLine)) (w : Nat) : Nat := if ls.any (fun e => e.2.way == w && e.2.leaving) then 32 + w else w

/-- The victim of a fill in a Case set: a free way, or the way of a line to be evicted and that line; none if the fill
is not installed. -/
def Dev.caseVictim (d : Dev) (q s p l : Nat) (peer : Bool) : Option (Nat × Option Nat) :=
  let all := d.setLines q s (caseSet l)
  let ls := staying all
  let c := ls.filter (fun e => e.2.inWay && !e.2.held && !d.busyCase q e.1 e.2.part)
  let rcways := d.get (pQctl q) fQCTL_PCFG_RCWAYS p
  let take (x : Option (Nat × CLine)) : Option (Nat × Option Nat) := x.map (fun e => (e.2.way, some e.1))
  if peer ∧ rcways = 0 then none
  else if peer ∧ rcways ≤ (ls.filter (fun e => e.2.peer)).length then take (lru (c.filter (fun e => e.2.peer)))
  else
    match freeWay all (fun _ => true) with
    | some w => some (w, none)
    | none =>
      match lru (c.filter (fun e => e.2.cls == 0)) with
      | some e => take (some e)
      | none =>
        match lru (c.filter (fun e => e.2.cls == 1)) with
        | some e => take (some e)
        | none => take (lru (c.filter (fun e => e.2.cls == 2)))

/-! ### Miss-handling entries (R289) -/

/-- The slice whose entry a line's transaction takes. -/
def Dev.sliceOf (d : Dev) (q l part : Nat) : Nat := (d.place l (d.placer l part) q).getD 0

/-- Entries in use in a slice: a transaction of a line homed there, or a request of the Case itself. -/
def Dev.missUsed (d : Dev) (q s : Nat) : Nat :=
  (d.txns.filter (fun e => match e.2 with
    | some t => isStackLine e.1 && lineQuad e.1 == q && d.sliceOf q e.1 t.req.part == s
    | none => false)).length +
  (d.mshr.filter (fun e => e.2.isSome && keyAgent e.1 == 8 + q && d.sliceOf q (keyLine e.1) (keyPlace e.1 - 1) == s)).length

/-- A slice has 256 of them. -/
def Dev.missFull (d : Dev) (q l part : Nat) : Bool := decide (256 ≤ d.missUsed q (d.sliceOf q l part))

/-! ### Metering (R287) -/

/-- The count of a master in this window at a B-die has passed its allowance. -/
def Dev.overAllow (d : Dev) (q m : Nat) : Bool :=
  d.on (pQctl q) fQCTL_TRF_MODE_METER 0 && d.get (pQctl q) fQCTL_MET_ALLOW_ALLOW m != 0xFFFF &&
  decide (d.get (pQctl q) fQCTL_MET_ALLOW_ALLOW m * 256 < NMap.get (NMap.get d.traffic q Traffic.init).bytes m 0)

/-- Counts the data bytes a master sends into the Case of a B-die. -/
def Dev.meter (d : Dev) (q m n : Nat) : Dev :=
  if !d.on (pQctl q) fQCTL_TRF_MODE_METER 0 then d
  else
    let t := NMap.get d.traffic q Traffic.init
    { d with traffic := NMap.put d.traffic q { t with bytes := NMap.put t.bytes m (NMap.get t.bytes m 0 + n) 0 } Traffic.init }

/-- Sends a message to another agent or home. -/
def Dev.wireMsg (d : Dev) (m : WMsg) : Dev := { d with wire := d.wire ++ [m] }

/-- A write-back or eviction notice to the home of a line (Table 9.4). -/
def evictMsg (kind : HKind) (agent l part data : Nat) (psn : Bool) (svc : Svc) : WMsg :=
  .request { kind := kind, agent := agent, line := l, part := part, req := 0, full := true, data := data, psn := psn,
             ecc := ⟨.clean, false, false⟩, svc := svc }

/-- The quadrant an agent hangs on; the host agent's requests count for the home of their line. -/
def agentQuad (agent l : Nat) : Nat := if agent < 8 then agent / 2 else if agent < 12 then agent - 8 else lineQuad l

/-- What a write-back of an agent carries (Table 11.2). -/
def Dev.wbSvc (d : Dev) (agent l part : Nat) : Svc := d.svc0 (agentQuad agent l) part 3

/-- A line leaves a Case: a home copy that is dirty goes to memory; a remote copy in M or O goes to its home as WB and waits
for the acknowledgement; every other copy is dropped (R214, R241). -/
def Dev.evictCase (d : Dev) (q s l : Nat) : Dev :=
  match d.cline (8 + q) s l with
  | none => d
  | some c =>
    if c.leaving then d
    else
      match c.st with
      | .h => (d.setCline (8 + q) s l none).when c.dirty (fun d => d.dramWrite l c.data.toNat c.psn (d.wbSvc (8 + q) l c.part))
      | .m | .o =>
        (d.setCline (8 + q) s l (some { c with leaving := true })).wireMsg
          (evictMsg .wb (8 + q) l c.part c.data.toNat c.psn (d.wbSvc (8 + q) l c.part))
      | _ => d.setCline (8 + q) s l none

/-- The copy a Case keeps of a line for a placing partition, and its slice: a stereo or peer line's lies in that partition's own
slice (R207, R220). -/
def Dev.ownCopy (d : Dev) (q p l : Nat) : Option (Nat × CLine) :=
  if d.stereoLine l || !isStackLine l then
    (d.place l p q).bind (fun s => ((d.cline (8 + q) s l).filter (fun c => !c.leaving)).map (fun c => (s, c)))
  else d.copyOf (8 + q) l

/-- Installs a line in a Case slice: class, quota and victim as R211 to R214 say; a line that is there already keeps its way and
class. The Boolean tells whether it is installed. -/
def Dev.fillCase (d : Dev) (q p l : Nat) (st : LState) (dirty peer held : Bool) (data : Nat) (psn : Bool) : Dev × Bool :=
  match d.ownCopy q p l with
  | some (s, c) =>
    (({ d with useCtr := d.useCtr + 1 }).setCline (8 + q) s l
      (some { c with st := st, dirty := dirty, data := BitVec.ofNat 1024 data, psn := psn, used := d.useCtr + 1,
                     held := held }), true)
  | none =>
    match d.place l p q with
    | none => (d, false)
    | some s =>
      match d.caseVictim q s p l peer with
      | none => (d, false)
      | some (w, v) =>
        let cl := d.fillClass q s p l peer
        let d := match v with
          | none => d
          | some old => d.evictCase q s old
        let d := d.when cl.2.2 (fun d => d.bump (pCase q s) fCASE_DEMOTE_COUNT 0 1)
        (({ d with useCtr := d.useCtr + 1 }).setCline (8 + q) s l
          (some { st := st, dirty := dirty, data := BitVec.ofNat 1024 data, psn := psn, part := p, cls := cl.1,
                  win := cl.2.1, peer := peer, way := wayAfter (d.setLines q s (caseSet l)) w, used := d.useCtr + 1, held := held,
                  leaving := false }), true)

/-! ### The Galley -/

/-- A Galley's copy that serves a request of a partition: present, and of that partition (R359). -/
def Dev.galCopy (d : Dev) (agent l part : Nat) : Option CLine :=
  (d.cline agent (d.galPlace l part) l).filter (fun c => !c.leaving && (c.part == part || agent == 12))

/-- The ways a partition may install lines in (R208). -/
def Dev.galWays (d : Dev) (g part : Nat) : Nat := d.get (pGal g) fGAL_PWAYS_WAYS part

/-- Whether a Galley may install lines of a partition at all; the host agent holds up to 1,024 lines (R352). -/
def Dev.galMay (d : Dev) (agent part : Nat) : Bool := agent == 12 || d.galWays agent part != 0

/-- A Galley's or the host agent's line leaves: M and O are taken over by the quadrant's Case if it has a way for a remote
line, else sent home with WB; E is announced with EvE; S is dropped (R241, R242). `k` is the line's key. -/
def Dev.evictGal (d : Dev) (agent k : Nat) : Dev :=
  let l := keyLine k
  let q := agent / 2
  match NMap.get d.lines k none with
  | none => d
  | some c =>
    if c.leaving then d
    else
      let gone : Dev := { d with lines := NMap.put d.lines k none none }
      let away (kind : HKind) : Dev :=
        ({ d with lines := NMap.put d.lines k (some { c with leaving := true }) none }).wireMsg
          (evictMsg kind agent l c.part c.data.toNat c.psn (d.wbSvc agent l c.part))
      match c.st with
      | .m | .o =>
        if agent < 8 ∧ lineQuad l ≠ q then
          (let r := (gone.meter q agent 128).fillCase q (d.placer l c.part) l c.st c.dirty false false c.data.toNat c.psn
           if r.2 then
             r.1.wireMsg (.request { kind := .xfer, agent := 8 + q, line := l, part := c.part, req := agent, full := false,
                                     data := 0, psn := false, ecc := ⟨.clean, false, false⟩, svc := d.wbSvc agent l c.part })
           else (away .wb).meter q agent 128)
        else if agent < 8 then (away .wb).meter q agent 128 else away .wb
      | .e => away .eve
      | _ => gone

/-- The victim way of a fill in a Galley set, among the ways allowed: a free way, else the least recently used line that is not
busy (R243). -/
def Dev.galVictim (d : Dev) (g l part : Nat) : Option (Nat × Option Nat) :=
  let ls := d.galLines g (galSet l)
  let ok (w : Nat) : Bool := (d.galWays g part).testBit w
  match freeWay ls ok with
  | some w => some (w, none)
  | none =>
    (lru ((staying ls).filter (fun e => e.2.inWay && ok e.2.way && !d.busyAt g (keyPlace e.1) (keyLine e.1)))).map
      (fun e => (e.2.way, some e.1))

/-- The host agent's victim when it holds 1,024 lines. -/
def Dev.hostVictim (d : Dev) : Option Nat :=
  let ls := d.lines.filterMap (fun e =>
    if keyAgent e.1 = 12 then (match e.2 with | some c => if c.leaving then none else some (e.1, c) | none => none)
    else none)
  if ls.length < 1024 then none else (lru ls).map (·.1)

/-- Installs a line in a Galley or the host agent; the Boolean tells whether it was installed. -/
def Dev.fillGal (d : Dev) (agent part l : Nat) (st : LState) (data : Nat) (psn : Bool) : Dev × Bool :=
  let p := d.galPlace l part
  let mk (w used : Nat) : Option CLine :=
    some { st := st, dirty := st == .m || st == .o, data := BitVec.ofNat 1024 data, psn := psn, part := part, cls := 1,
           win := 0, peer := false, way := w, used := used, held := false, leaving := false }
  match (d.cline agent p l).filter (fun c => !c.leaving) with
  | some c => (({ d with useCtr := d.useCtr + 1 }).setCline agent p l (mk c.way (d.useCtr + 1)), true)
  | none =>
    if agent = 12 then
      (let d := match d.hostVictim with
         | none => d
         | some k => d.evictGal 12 k
       (({ d with useCtr := d.useCtr + 1 }).setCline agent p l (mk 0 (d.useCtr + 1)), true))
    else
      match d.galVictim agent l part with
      | none => (d, false)
      | some (w, v) =>
        let d := match v with
          | none => d
          | some k => d.evictGal agent k
        (({ d with useCtr := d.useCtr + 1 }).setCline agent p l (mk (wayAfter (d.galLines agent (galSet l)) w) (d.useCtr + 1)), true)

/-! ### Current data -/

/-- The home's data of a line: its Case copy, or memory. -/
def Dev.homeData (d : Dev) (l : Nat) : Nat × Bool :=
  match d.copyOf (8 + lineQuad l) l with
  | some (_, c) => (c.data.toNat, c.psn)
  | none => let r := d.dramRead l; (r.1, r.2.1)

def msgLine : WMsg → Nat
  | .snpShr _ _ l | .snpOwn _ _ l _ | .snpInv _ l | .snpCur _ _ l => l
  | .answer _ l _ _ _ _ _ | .reply _ _ l _ _ _ | .ack _ l => l
  | .request r => r.line

/-- The message carries a line or changes who holds one; a request for a line does neither until its home takes it up. -/
def movesLine : WMsg → Bool
  | .request r => (match r.kind with | .rds | .rdx | .rdcur | .homeop => false | _ => true)
  | _ => true

/-- No transaction is in flight on the line, and no message that moves it. -/
def Dev.quiet (d : Dev) (l : Nat) : Bool :=
  (NMap.get d.txns l none).isNone && !d.wire.any (fun m => msgLine m == l && movesLine m)

/-- The current bytes and poison of a line of coherent memory at a moment with nothing in flight on it: the owner's copy, or
the home's (R230). -/
def Dev.currentData (d : Dev) (l : Nat) : Nat × Bool :=
  match ((List.range 13).findSome? (fun a =>
    match d.copyOf a l with
    | some (_, c) => if c.st = .m ∨ c.st = .o ∨ c.st = .e then some (c.data.toNat, c.psn) else none
    | none => none)) with
  | some x => x
  | none => d.homeData l

/-- `n` bytes of coherent memory from address a, and whether a line among them is poisoned. -/
def Dev.readCoherent (d : Dev) (a : Nat) : Nat → List Byte × Bool
  | 0 => ([], false)
  | n + 1 =>
    let c := d.currentData (a / 128)
    let r := Dev.readCoherent d (a + 1) n
    (BitVec.ofNat 8 (byteOf c.1 (a % 128)) :: r.1, c.2 || r.2)

/-- Every line of a byte range is quiet. -/
def Dev.rangeQuiet (d : Dev) (a n : Nat) : Bool :=
  (List.range ((a % 128 + n + 127) / 128)).all (fun i => d.quiet (a / 128 + i))

end Sys2Proof.Machine
end

