-- ==== Sys2Proof/Machine/Flags.lean ====
section
/-!
DEFINITION. Exact values, rounding and exception flags (chapter 4, R82 to R100; Table 5.5's arithmetic, R135).

A flag set is a number in CORE_XFLAG's bit order: NX 1, UF 2, OF 4, DZ 8, NV 16, CHS 256 (R79).
-/

namespace Sys2Proof.Machine

open Sys2Proof

def flNX : Nat := 1
def flUF : Nat := 2
def flOF : Nat := 4
def flDZ : Nat := 8
def flNV : Nat := 16
def flCHS : Nat := 256

/-- A value: NaN, an infinity, Chase's IND and ±SAT, or (-1)^neg * m * 2^e, whose sign is kept for a zero. ±SAT acts as an
infinity, but is delivered as Table 4.4 has it (R98). -/
inductive Val where
  | nan
  | ind
  | inf (neg : Bool)
  | sat (neg : Bool)
  | num (neg : Bool) (m : Nat) (e : Int)
deriving DecidableEq, Repr

def vZero : Val := .num false 0 0

/-- How the all-ones exponent is read (Table 4.1). -/
inductive Ones where
  | ieee | e4m3 | finite
deriving DecidableEq, Repr

/-- A floating-point element format of Table 4.1. -/
structure FloatFmt where
  eb : Nat
  fb : Nat
  bias : Nat
  ones : Ones
deriving DecidableEq, Repr

def fp64 : FloatFmt := ⟨11, 52, 1023, .ieee⟩
def fp32 : FloatFmt := ⟨8, 23, 127, .ieee⟩
def fp16 : FloatFmt := ⟨5, 10, 15, .ieee⟩
def bf16 : FloatFmt := ⟨8, 7, 127, .ieee⟩
def e4m3 : FloatFmt := ⟨4, 3, 7, .e4m3⟩
def e5m2 : FloatFmt := ⟨5, 2, 15, .ieee⟩
def e3m2 : FloatFmt := ⟨3, 2, 3, .finite⟩
def e2m3 : FloatFmt := ⟨2, 3, 1, .finite⟩
def e2m1 : FloatFmt := ⟨2, 1, 1, .finite⟩

/-- What an element encodes. -/
inductive Elem where
  | flt (f : FloatFmt)
  | int (w : Nat)
  | mxint8
  | chase
deriving DecidableEq, Repr

/-- The element format of an FMT code (Tables 3.2 and 4.1). -/
def elemOf (fmt : Nat) : Elem :=
  match fmt with
  | 0 => .flt fp64 | 1 => .flt fp32 | 2 => .flt fp16 | 3 => .flt bf16
  | 4 => .flt e4m3 | 5 => .flt e5m2 | 6 => .flt e2m1 | 7 => .int 8 | 8 => .int 4 | 9 => .int 32
  | 10 => .flt e4m3 | 11 => .flt e5m2 | 12 => .flt e3m2 | 13 => .flt e2m3 | 14 => .flt e2m1 | 15 => .mxint8
  | _ => .chase

/-- Bits per element (Table 3.2). -/
def bitsOfFmt (fmt : Nat) : Nat :=
  match fmt with
  | 0 => 64 | 1 => 32 | 2 => 16 | 3 => 16 | 4 => 8 | 5 => 8 | 6 => 4 | 7 => 8 | 8 => 4 | 9 => 32
  | 10 => 8 | 11 => 8 | 12 => 6 | 13 => 6 | 14 => 4 | 15 => 8 | _ => 96

/-- Two's complement of `w` bits. -/
def toSigned (w v : Nat) : Int := if 2 ^ (w - 1) ≤ v % 2 ^ w then (v % 2 ^ w : Int) - 2 ^ w else (v % 2 ^ w : Int)
def ofSigned (w : Nat) (i : Int) : Nat := (i % (2 ^ w : Int)).toNat

def vInt (i : Int) (e : Int) : Val := .num (decide (i < 0)) i.natAbs e

/-- The value of an encoding of a floating-point format (R82). -/
def decodeFloat (f : FloatFmt) (b : Nat) : Val :=
  let s := b.testBit (f.eb + f.fb)
  let ex := bitsOf b (f.eb + f.fb - 1) f.fb
  let fr := b % 2 ^ f.fb
  let ones := ex == 2 ^ f.eb - 1
  if ones && f.ones == .ieee then (if fr = 0 then .inf s else .nan)
  else if ones && f.ones == .e4m3 && fr == 2 ^ f.fb - 1 then .nan
  else if ex = 0 then .num s fr (1 - (f.bias : Int) - f.fb)
  else .num s (2 ^ f.fb + fr) ((ex : Int) - f.bias - f.fb)

/-- Table 4.5. -/
def chSatP : Int := 2 ^ 95 - 1
def chSatN : Int := -(2 ^ 95) + 1
def chInd : Int := -(2 ^ 95)

/-- The value of a Chase element of frame F (R95, R98). -/
def chaseVal (v : Int) (frame : Int) : Val :=
  if v = chInd then .ind else if v = chSatP then .sat false else if v = chSatN then .sat true else vInt v frame

/-- The value of an encoding of an element, in a Chase tile of the given frame. -/
def decodeElem (k : Elem) (frame : Int) (b : Nat) : Val :=
  match k with
  | .flt f => decodeFloat f b
  | .int w => vInt (toSigned w b) 0
  | .mxint8 => vInt (toSigned 8 b) (-6)
  | .chase => chaseVal (toSigned 96 b) frame

/-- The value times 2^k. -/
def scaleVal (k : Int) : Val → Val
  | .num s m e => .num s m (e + k)
  | v => v

/-! ### The stochastic generator (R93) -/

def srDraw (seed stn ti tj i j : Nat) : Nat :=
  let ctr := (stn * 2 ^ 46) ||| (ti * 2 ^ 30) ||| (tj * 2 ^ 14) ||| (i * 2 ^ 7) ||| j
  let z0 := (seed + (ctr + 1) * 0x9E3779B97F4A7C15) % 2 ^ 64
  let z1 := ((z0 ^^^ (z0 >>> 30)) * 0xBF58476D1CE5E4B9) % 2 ^ 64
  let z2 := ((z1 ^^^ (z1 >>> 27)) * 0x94D049BB133111EB) % 2 ^ 64
  z2 ^^^ (z2 >>> 31)

/-! ### Rounding (R90 to R94) -/

/-- Whether the magnitude lo + rem/den is rounded up to lo + 1: mode 0-4 of Table 4.3, sign, stochastic draw z. -/
def roundUp (mode : Nat) (neg : Bool) (lo rem den z : Nat) : Bool :=
  if rem = 0 then false
  else
    match mode with
    | 0 => decide (den < 2 * rem) || (2 * rem == den && lo % 2 == 1)
    | 1 => false
    | 2 => !neg
    | 3 => neg
    | _ => decide ((z >>> 32) * den < rem * 2 ^ 32)

/-- m * 2^e on the grid of 2^q: the integer part, the remainder and its denominator. -/
def splitAt (m : Nat) (e q : Int) : Nat × Nat × Nat :=
  if q ≤ e then (m * 2 ^ (e - q).toNat, 0, 1)
  else (m / 2 ^ (q - e).toNat, m % 2 ^ (q - e).toNat, 2 ^ (q - e).toNat)

/-- The magnitude rounded to the grid of 2^q, and whether it is inexact. -/
def roundGrid (mode : Nat) (neg : Bool) (m : Nat) (e q : Int) (z : Nat) : Nat × Bool :=
  let p := splitAt m e q
  (if roundUp mode neg p.1 p.2.1 p.2.2 z then p.1 + 1 else p.1, p.2.1 != 0)

/-- The largest finite encoding, sign clear. -/
def maxFinite (f : FloatFmt) : Nat :=
  match f.ones with
  | .ieee => (2 ^ f.eb - 1) * 2 ^ f.fb - 1
  | .e4m3 => 2 ^ (f.eb + f.fb) - 2
  | .finite => 2 ^ (f.eb + f.fb) - 1

/-- Canonical NaN (Table 4.2); formats without NaN take 0 (R91). -/
def canonNan (f : FloatFmt) : Nat :=
  match f.ones with
  | .ieee => (2 ^ f.eb - 1) * 2 ^ f.fb + 2 ^ (f.fb - 1)
  | .e4m3 => 2 ^ (f.eb + f.fb) - 1
  | .finite => 0

/-- Beyond the largest finite value: Table 4.4. -/
def overflowBits (f : FloatFmt) (mode : Nat) (neg : Bool) : Nat :=
  let inf := (2 ^ f.eb - 1) * 2 ^ f.fb
  if f.ones ≠ .ieee then maxFinite f
  else
    match mode with
    | 1 => maxFinite f
    | 2 => if neg then maxFinite f else inf
    | 3 => if neg then inf else maxFinite f
    | _ => inf

/-- Rounds a value to a floating-point format: the encoding and the flags raised (R90 to R94). -/
def roundFloat (f : FloatFmt) (mode z : Nat) (v : Val) : Nat × Nat :=
  let sb (neg : Bool) : Nat := if neg then 2 ^ (f.eb + f.fb) else 0
  match v with
  | .nan => (canonNan f, if f.ones = .finite then flNV else 0)
  | .ind => (canonNan f, flNV)
  | .inf neg =>
    if f.ones = .ieee then (sb neg + (2 ^ f.eb - 1) * 2 ^ f.fb, 0) else (sb neg + maxFinite f, flOF ||| flNX)
  | .sat neg => (sb neg + overflowBits f mode neg, flOF ||| flNX)
  | .num neg m e =>
    if m = 0 then (sb neg, 0)
    else
      let top : Int := (Nat.log2 m : Int) + e
      let emin : Int := 1 - (f.bias : Int)
      let q : Int := max (top - f.fb) (emin - f.fb)
      let enc (n : Nat) : Nat := (q + f.fb + f.bias - 1).toNat * 2 ^ f.fb + n
      -- a magnitude beyond the largest finite one is rounded as RND 0 (R94)
      let r0 := splitAt m e q
      let beyond := decide (maxFinite f < enc r0.1) || (enc r0.1 == maxFinite f && r0.2.1 != 0)
      let md := if mode = 4 ∧ beyond then 0 else mode
      let r := roundGrid md neg m e q z
      let b := enc r.1
      if maxFinite f < b then (sb neg + overflowBits f md neg, flOF ||| flNX)
      else
        -- tiny: rounded with unbounded exponent range, below the smallest normal (R92)
        let u := roundGrid md neg m e (top - f.fb) z
        let tiny := decide (top < emin) && !(top == emin - 1 && u.1 == 2 ^ (f.fb + 1))
        (sb neg + b, (if r.2 then flNX else 0) ||| (if r.2 && tiny then flUF else 0))

/-- Rounds a value to an integer range on the grid of 2^q: the integer and the flags (Table 4.4, R91). -/
def roundInt (lo hi : Int) (q : Int) (mode z : Nat) (nanNV infNV : Bool) (v : Val) : Int × Nat :=
  match v with
  | .nan => (0, if nanNV then flNV else 0)
  | .ind => (0, flNV)
  | .inf neg => (if neg then lo else hi, flOF ||| flNX ||| (if infNV then flNV else 0))
  | .sat neg => (if neg then lo else hi, flOF ||| flNX ||| (if infNV then flNV else 0))
  | .num neg m e =>
    let r0 := splitAt m e q
    let beyond := decide (if neg then (-(r0.1 : Int) < lo ∨ (-(r0.1 : Int) = lo ∧ r0.2.1 ≠ 0))
                          else (hi < (r0.1 : Int) ∨ ((r0.1 : Int) = hi ∧ r0.2.1 ≠ 0)))
    let r := roundGrid (if mode = 4 ∧ beyond then 0 else mode) neg m e q z
    let i : Int := if neg then -(r.1 : Int) else r.1
    if hi < i then (hi, flOF ||| flNX) else if i < lo then (lo, flOF ||| flNX)
    else (i, if r.2 then flNX else 0)

/-- Converts a value into a Chase frame (R97): V and the flags; a special result also raises CHS where R99 says so. -/
def toChase (frame : Int) (v : Val) : Int × Nat :=
  match v with
  | .nan => (chInd, 0)
  | .ind => (chInd, 0)
  | .inf neg => (if neg then chSatN else chSatP, flOF ||| flNX)
  | .sat neg => (if neg then chSatN else chSatP, flOF ||| flNX)
  | .num neg m e =>
    let r := roundGrid 0 neg m e frame 0
    let i : Int := if neg then -(r.1 : Int) else r.1
    if 2 ^ 95 - 2 < i then (chSatP, flOF ||| flNX) else if i < -(2 ^ 95) + 2 then (chSatN, flOF ||| flNX)
    else (i, if r.2 then flNX else 0)

/-- chase_add of R96. -/
def chaseAdd (x y : Int) : Int :=
  if x = chInd ∨ y = chInd then chInd
  else if (x = chSatP ∧ y = chSatN) ∨ (x = chSatN ∧ y = chSatP) then chInd
  else if x = chSatP ∨ y = chSatP then chSatP
  else if x = chSatN ∨ y = chSatN then chSatN
  else if chSatP - 1 < x + y then chSatP
  else if x + y < chSatN + 1 then chSatN
  else x + y

/-- A special Chase element. -/
def chSpecial (v : Int) : Bool := v == chInd || v == chSatP || v == chSatN

/-- Delivers a value in an element format by a rounding mode: the encoding and the flags (R91, R97, R113). -/
def encodeElem (k : Elem) (frame : Int) (mode z : Nat) (v : Val) : Nat × Nat :=
  match k with
  | .flt f => roundFloat f mode z v
  | .int w =>
    let r := roundInt (-(2 ^ (w - 1))) (2 ^ (w - 1) - 1) 0 mode z true true v
    (ofSigned w r.1, r.2)
  | .mxint8 =>
    let r := roundInt (-128) 127 (-6) mode z false true v
    (ofSigned 8 r.1, r.2)
  | .chase =>
    let r := toChase frame v
    (ofSigned 96 r.1, r.2 ||| (if chSpecial r.1 then flCHS else 0))

/-! ### Sums and products -/

def Val.isNanV : Val → Bool
  | .nan => true | .ind => true | _ => false
def Val.isInfV (neg : Bool) : Val → Bool
  | .inf n => n == neg | .sat n => n == neg | _ => false
def Val.isZeroV : Val → Bool
  | .num _ m _ => m == 0 | _ => false
def Val.negZeroV : Val → Bool
  | .num n m _ => n && m == 0 | _ => false
def Val.negV : Val → Bool
  | .num n _ _ => n | .inf n => n | .sat n => n | _ => false

/-- ±SAT read as an infinity of its sign (R98, R114). -/
def Val.asInf : Val → Val
  | .sat n => .inf n | v => v

/-- The product of two values; infinity times zero gives NaN with NV (R110). A zero has the sign of its factors' signs, and a
zero of an integer format counts as positive: DESIGN CHOICE (log entry 124), since the spec gives integers no signed zero. -/
def mulVal (a b : Val) : Val × Nat :=
  match a, b with
  | .num s m e, .num t n f => (.num (s != t) (m * n) (e + f), 0)
  | .inf s, .inf t => (.inf (s != t), 0)
  | .inf s, .num t n _ => if n = 0 then (.nan, flNV) else (.inf (s != t), 0)
  | .num s m _, .inf t => if m = 0 then (.nan, flNV) else (.inf (s != t), 0)
  | _, _ => (.nan, 0)

/-- The least exponent of the finite terms. -/
def minExp : List Val → Int → Int
  | [], e => e
  | .num _ m x :: r, e => minExp r (if m = 0 then e else min x e)
  | _ :: r, e => minExp r e

/-- The finite terms over 2^e, summed. -/
def sumOver (e : Int) : List Val → Int
  | [] => 0
  | .num s m x :: r =>
    (if m = 0 then 0 else if s then -((m : Int) * 2 ^ (x - e).toNat) else (m : Int) * 2 ^ (x - e).toNat) + sumOver e r
  | _ :: r => sumOver e r

/-- The exact sum of terms: NaN, infinities and the sign of an exact zero by R110 and R111. -/
def sumVal (mode : Nat) (ts : List Val) : Val × Nat :=
  if ts.any Val.isNanV then (.nan, 0)
  else if ts.any (Val.isInfV false) && ts.any (Val.isInfV true) then (.nan, flNV)
  else if ts.any (Val.isInfV false) then (.inf false, 0)
  else if ts.any (Val.isInfV true) then (.inf true, 0)
  else
    let e := minExp ts 0
    let s := sumOver e ts
    if s = 0 then
      (.num ((!ts.isEmpty && ts.all Val.negZeroV) || (!ts.all Val.isZeroV && mode == 3)) 0 0, 0)
    else (vInt s e, 0)

/-- Comparison of values that are no NaN, with -0 below +0: -1, 0 or 1. -/
def cmpVal (a b : Val) : Int :=
  let sgn (v : Val) : Int := match v with
    | .inf n => if n then -3 else 3
    | .sat n => if n then -3 else 3
    | .num n m _ => if m = 0 then (if n then -1 else 0) else if n then -2 else 1
    | _ => 0
  if sgn a < sgn b then -1 else if sgn b < sgn a then 1
  else
    match a, b with
    | .num n m e, .num _ m' e' =>
      let lo := min e e'
      let x := m * 2 ^ (e - lo).toNat
      let y := m' * 2 ^ (e' - lo).toNat
      if x = y then 0 else if (decide (x < y)) != n then -1 else 1
    | _, _ => 0

/-! ### IEEE operations of threads (R135) -/

/-- The sum of terms as IEEE 754-2019 signs it: zeros of unlike sign give -0 toward minus infinity. -/
def ieeeSum (mode : Nat) (ts : List Val) : Val × Nat :=
  if mode = 3 ∧ ts.all Val.isZeroV ∧ ts.any Val.negZeroV then (.num true 0 0, 0) else sumVal mode ts

def fAdd (f : FloatFmt) (mode a b : Nat) : Nat × Nat :=
  let s := ieeeSum mode [decodeFloat f a, decodeFloat f b]
  let r := roundFloat f mode 0 s.1
  (r.1, s.2 ||| r.2)

def fNeg (f : FloatFmt) (a : Nat) : Nat := a ^^^ 2 ^ (f.eb + f.fb)

def fMul (f : FloatFmt) (mode a b : Nat) : Nat × Nat :=
  let p := mulVal (decodeFloat f a) (decodeFloat f b)
  let r := roundFloat f mode 0 p.1
  (r.1, p.2 ||| r.2)

/-- Fused multiply-add, one rounding. -/
def fFma (f : FloatFmt) (mode a b c : Nat) : Nat × Nat :=
  let p := mulVal (decodeFloat f a) (decodeFloat f b)
  let s := ieeeSum mode [p.1, decodeFloat f c]
  let r := roundFloat f mode 0 s.1
  (r.1, p.2 ||| s.2 ||| r.2)

/-- Division: the quotient with enough bits and a sticky bit, rounded once; x/0 raises DZ (R135). -/
def fDiv (f : FloatFmt) (mode a b : Nat) : Nat × Nat :=
  match decodeFloat f a, decodeFloat f b with
  | .num s m e, .num t n g =>
    if n = 0 then
      (if m = 0 then (canonNan f, flNV)
       else ((roundFloat f mode 0 (.inf (s != t))).1, flDZ))
    else if m = 0 then ((if s != t then 2 ^ (f.eb + f.fb) else 0), 0)
    else
      let k := 2 * f.fb + 8 + Nat.log2 n
      let qn := m * 2 ^ k / n
      let st := if m * 2 ^ k % n = 0 then 0 else 1
      roundFloat f mode 0 (.num (s != t) (2 * qn + st) (e - g - k - 1))
  | .inf s, .num t _ _ => ((roundFloat f mode 0 (.inf (s != t))).1, 0)
  | .num s _ _, .inf t => ((if s != t then 2 ^ (f.eb + f.fb) else 0), 0)
  | .inf _, .inf _ => (canonNan f, flNV)
  | _, _ => (canonNan f, 0)

/-- Integer square root, bit by bit from bit k - 1 down. -/
def isqrt (n : Nat) : Nat → Nat → Nat
  | 0, r => r
  | k + 1, r => isqrt n k (if (r + 2 ^ k) * (r + 2 ^ k) ≤ n then r + 2 ^ k else r)

def fSqrt (f : FloatFmt) (mode a : Nat) : Nat × Nat :=
  match decodeFloat f a with
  | .num s m e =>
    if m = 0 then (a, 0)
    else if s then (canonNan f, flNV)
    else
      -- an even exponent, and enough bits below the result's last place
      let k : Nat := 2 * f.fb + 8 + (if (e - (2 * f.fb + 8 : Nat)) % 2 = 0 then 0 else 1)
      let n := m * 2 ^ k
      let r := isqrt n (Nat.log2 n / 2 + 1) 0
      let st := if r * r = n then 0 else 1
      roundFloat f mode 0 (.num false (2 * r + st) ((e - k) / 2 - 1))
  | .inf s => if s then (canonNan f, flNV) else (a, 0)
  | _ => (canonNan f, 0)

/-- Minimum (or maximum) of two encodings: a NaN on either side gives the canonical NaN, -0 lies below +0. The spec
states this for reductions (R248); that threads' minimum and maximum follow it is DEDUCED (log entry 7). -/
def fMinMax (f : FloatFmt) (isMax : Bool) (a b : Nat) : Nat × Nat :=
  let x := decodeFloat f a
  let y := decodeFloat f b
  if x.isNanV || y.isNanV then (canonNan f, 0)
  else if (cmpVal x y ≤ 0) != isMax then (a, 0) else (b, 0)

/-- IEEE comparison; an operand that is NaN makes it false, and -0 equals +0. No comparison raises a flag for a NaN: DESIGN
CHOICE (log entry 129), since R135 does not name the predicate, quiet or signalling. -/
def fCmp (f : FloatFmt) (lt eq : Bool) (a b : Nat) : Nat :=
  let x := decodeFloat f a
  let y := decodeFloat f b
  if x.isNanV || y.isNanV then 0
  else
    let c := if x.isZeroV && y.isZeroV then 0 else cmpVal x y
    if (lt && decide (c < 0)) || (eq && c == 0) then 1 else 0

end Sys2Proof.Machine
end

