-- ==== Sys2Proof/Machine/Operands.lean ====
section
/-!
DEFINITION. The operand forms of runs: run header, entries, tile descriptors and the addresses of their elements
(chapter 3, R55 to R64; R87 to R89), and the Stone they lie in (R50 to R53).
-/

namespace Sys2Proof.Machine

open Sys2Proof

/-! ### The run header (Table 3.4) -/

abbrev Img := List Byte

def hVer (r : Img) : Nat := fieldLE r 0 1
def hFlags (r : Img) : Nat := fieldLE r 1 1
def hNent (r : Img) : Nat := fieldLE r 2 2
def hRunId (r : Img) : Nat := fieldLE r 4 4
def hBufSz (r : Img) (n : Nat) : Nat := fieldLE r (8 + n) 1
def hSeed (r : Img) : Nat := fieldLE r 0x18 8
def hWaitKind (r : Img) : Nat := fieldLE r 0x20 1
def hWaitTmo (r : Img) : Nat := fieldLE r 0x21 1
def hWdog (r : Img) : Nat := fieldLE r 0x22 1
def hNtok (r : Img) : Nat := fieldLE r 0x23 1
def hWaitA (r : Img) : Nat := fieldLE r 0x24 4
def hWaitB (r : Img) : Nat := fieldLE r 0x28 8
def hWaitC (r : Img) : Nat := fieldLE r 0x30 8
def hCore (r : Img) : Nat := fieldLE r 0x38 2
def hPoll (r : Img) : Nat := fieldLE r 0x3A 1
def hAny (r : Img) : Bool := (hCore r).testBit 15
def hLid (r : Img) : Nat := hCore r % 8192

/-- The press cycles of a head wait's timeout (Table 3.4). -/
def waitLimit (r : Img) : Nat := if hWaitTmo r = 0 then 2 ^ 31 else 2 ^ hWaitTmo r

/-- Bit fields of the wait arguments (Table 3.5). -/
def waScope (r : Img) : Nat := bitsOf (hWaitA r) 29 28
def waQuad (r : Img) : Nat := bitsOf (hWaitA r) 13 12
def waCtr (r : Img) : Nat := bitsOf (hWaitA r) 11 0
def waWide (r : Img) : Bool := (hWaitA r).testBit 8
def waCmp (r : Img) : Nat := bitsOf (hWaitA r) 2 0
def waTok (r : Img) : Nat := bitsOf (hWaitA r) 9 8
def waCnt (r : Img) : Nat := bitsOf (hWaitA r) 5 0

/-- The flag comparison of WAIT_KIND 2 (Table 3.5). -/
def flagHolds (cmp v c : Nat) : Bool :=
  match cmp with
  | 0 => v == c | 1 => v != c | 2 => decide (c ≤ v) | 3 => v &&& c == c | _ => false

/-! ### Entries (R60, R64) -/

def entry (r : Img) (n : Nat) : Img := (r.drop (0x40 + 32 * n)).take 32
def eByte (e : Img) (o : Nat) : Nat := fieldLE e o 1
def eStn (e : Img) : Nat := eByte e 0 / 32
def eOp (e : Img) : Nat := eByte e 0 % 32
def isDescE (e : Img) : Bool := eStn e == 5 && eOp e == 0

/-- A token wait of a command: enable, token, count. -/
def eWaits (e : Img) : List (Nat × Nat) :=
  (if (eByte e 1).testBit 7 then [(eByte e 1 % 32, eByte e 2 % 64)] else []) ++
  (if (eByte e 3).testBit 7 then [(eByte e 3 % 32, eByte e 4 % 64)] else [])
def eSgEn (e : Img) : Bool := (eByte e 5).testBit 7
def eSgTok (e : Img) : Nat := eByte e 5 % 32
def eAddr (e : Img) : Nat := fieldLE e 0x10 6
def eStride (e : Img) : Nat := fieldLE e 0x0C 4
def eMode (e : Img) : Nat := eByte e 9
def eRel (e : Img) : Bool := (eMode e).testBit 1
def eRelSc (e : Img) : Nat := bitsOf (eMode e) 3 2
def eColo (e : Img) : Bool := (eMode e).testBit 4
def eNoGal (e : Img) : Bool := (eMode e).testBit 5
def eWide (e : Img) : Bool := (eMode e).testBit 6
def eAccw (e : Img) : Bool := (eMode e).testBit 0
def eCtr (e : Img) : Nat := fieldLE e 0x0A 2
def eGroup (e : Img) : Nat := fieldLE e 0x16 2
def eRed (e : Img) : Nat := eByte e 0x18
def eExpect (e : Img) : Nat := fieldLE e 0x0C 4
def eValue (e : Img) : Nat := fieldLE e 0x18 8
def eTi (e : Img) : Nat := fieldLE e 0x0C 2
def eTj (e : Img) : Nat := fieldLE e 0x0E 2

/-- Stations of commands. -/
def stFdr : Nat := 0
def stPlt : Nat := 1
def stInk : Nat := 2
def stFld : Nat := 3
def stDlv : Nat := 4

/-! ### Tile descriptors (Table 3.3) -/

/-- A tile, as its descriptor gives it. -/
structure Tile where
  layout : Nat
  rows : Nat
  cols : Nat
  blkdim : Nat
  sparse : Bool
  scale : Bool
  fmt : Nat
  buf : Nat
  off : Nat
  soff : Nat
  moff : Nat
  frame : Int
deriving DecidableEq, Repr

def tileOf (e : Img) : Tile :=
  { layout := eByte e 1 / 64, rows := 8 * 2 ^ (eByte e 1 % 8), cols := 8 * 2 ^ (eByte e 1 / 8 % 8),
    blkdim := eByte e 2 / 128, sparse := (eByte e 2).testBit 6, scale := (eByte e 2).testBit 5,
    fmt := eByte e 2 % 32, buf := eByte e 3 % 16, off := 128 * fieldLE e 4 2, soff := 16 * fieldLE e 6 2,
    moff := 16 * fieldLE e 8 2, frame := toSigned 16 (fieldLE e 0xA 2) }

def Tile.bits (t : Tile) : Nat := bitsOfFmt t.fmt
def Tile.dataBytes (t : Tile) : Nat := t.rows * t.cols * t.bits / 8 / (if t.sparse then 2 else 1)
def Tile.scaleBytes (t : Tile) : Nat := if t.scale then t.rows * t.cols / 32 else 0
def Tile.mapBytes (t : Tile) : Nat := if t.sparse then t.rows * t.cols / 8 else 0

/-- Rows and columns as stored: half along BLKDIM for a compressed tile (R57). -/
def Tile.stRows (t : Tile) : Nat := if t.sparse ∧ t.blkdim = 1 then t.rows / 2 else t.rows
def Tile.stCols (t : Tile) : Nat := if t.sparse ∧ t.blkdim = 0 then t.cols / 2 else t.cols

/-- The packed number of the stored element in stored row i, column j (R57). -/
def Tile.slot (t : Tile) (i j : Nat) : Nat :=
  match t.layout with
  | 0 => i * t.stCols + j
  | 1 => j * t.stRows + i
  | _ => ((i / 16) * (t.stCols / 16) + j / 16) * 256 + (i % 16) * 16 + j % 16

/-- The scale block of element (i, j), numbered first along BLKDIM (R57). -/
def Tile.blockNo (t : Tile) (i j : Nat) : Nat :=
  if t.blkdim = 0 then i * (t.cols / 32) + j / 32 else j * (t.rows / 32) + i / 32
/-- The 2:4 group of element (i, j), and the element's position in it. -/
def Tile.groupNo (t : Tile) (i j : Nat) : Nat :=
  if t.blkdim = 0 then i * (t.cols / 4) + j / 4 else j * (t.rows / 4) + i / 4
def Tile.posIn (t : Tile) (i j : Nat) : Nat := if t.blkdim = 0 then j % 4 else i % 4

/-- The regions of a tile in its buffer: offset and length of data, scale vector and map (R56). -/
def Tile.regions (t : Tile) : List (Nat × Nat) :=
  [(t.off, t.dataBytes)] ++ (if t.scale then [(t.soff, t.scaleBytes)] else []) ++
  (if t.sparse then [(t.moff, t.mapBytes)] else [])

def overlaps (a b : Nat × Nat) : Bool := decide (a.1 < b.1 + b.2 ∧ b.1 < a.1 + a.2)

/-- Two tiles share a byte of the Stone. -/
def Tile.overlap (t u : Tile) : Bool :=
  t.buf == u.buf && t.regions.any (fun a => u.regions.any (overlaps a))

/-! ### The Stone (R50 to R53) -/

/-- A byte of the Stone: 0 in a line whose written bit is clear. -/
def Core.stoneByte (c : Core) (a : Nat) : Byte :=
  if Set.has c.written (a / 128) then NMap.get c.stone a 0 else 0

/-- `n` bytes of the Stone as a number. -/
def Core.stoneN (c : Core) (a : Nat) : Nat → Nat
  | 0 => 0
  | n + 1 => (c.stoneByte a).toNat + 256 * c.stoneN (a + 1) n

/-- Bytes of a line whose written bit is clear are gone before the line is written (R52). -/
def Core.touch (c : Core) (line : Nat) : Core :=
  if Set.has c.written line then c
  else
    { c with written := Set.add c.written line,
             stone := NMap.dropIf c.stone (fun a => a / 128 == line) }

/-- Writes `n` bytes of a number to the Stone. -/
def Core.stoneWrite (c : Core) (a : Nat) : Nat → Nat → Core
  | 0, _ => c
  | n + 1, v =>
    Core.stoneWrite
      { c.touch (a / 128) with stone := NMap.put (c.touch (a / 128)).stone a (BitVec.ofNat 8 v) 0 } (a + 1) n (v / 256)

/-- Bits [at, at + w) of the region at byte address `base` of the Stone (R87). -/
def Core.stoneBits (c : Core) (base at_ w : Nat) : Nat :=
  (c.stoneN (base + at_ / 8) ((at_ % 8 + w + 7) / 8) >>> (at_ % 8)) % 2 ^ w

/-- Replaces those bits. -/
def Core.stoneSetBits (c : Core) (base at_ w v : Nat) : Core :=
  let n := (at_ % 8 + w + 7) / 8
  c.stoneWrite (base + at_ / 8) n (setBits (c.stoneN (base + at_ / 8) n) (at_ % 8 + w - 1) (at_ % 8) v)

/-- The first Stone byte of a run's buffer. -/
def Run.bufBase (r : Run) (b : Nat) : Nat := 4096 * r.bufAt.getD b 0

/-- The Stone address of a tile's data region, scale vector or map. -/
def Run.dataAt (r : Run) (t : Tile) : Nat := r.bufBase t.buf + t.off
def Run.scaleAt (r : Run) (t : Tile) : Nat := r.bufBase t.buf + t.soff
def Run.mapAt (r : Run) (t : Tile) : Nat := r.bufBase t.buf + t.moff

/-- The encoding of the stored element at a packed number. -/
def rawElem (c : Core) (r : Run) (t : Tile) (n : Nat) : Nat := c.stoneBits (r.dataAt t) (t.bits * n) t.bits
def setRawElem (c : Core) (r : Run) (t : Tile) (n v : Nat) : Core :=
  c.stoneSetBits (r.dataAt t) (t.bits * n) t.bits v
def scaleByte (c : Core) (r : Run) (t : Tile) (n : Nat) : Nat := (c.stoneByte (r.scaleAt t + n)).toNat
def setScaleByte (c : Core) (r : Run) (t : Tile) (n v : Nat) : Core := c.stoneWrite (r.scaleAt t + n) 1 v
def mapNibble (c : Core) (r : Run) (t : Tile) (g : Nat) : Nat := c.stoneBits (r.mapAt t) (4 * g) 4
def setMapNibble (c : Core) (r : Run) (t : Tile) (g v : Nat) : Core := c.stoneSetBits (r.mapAt t) (4 * g) 4 v

/-- The set bits of a nibble, ascending. -/
def setPositions (nib : Nat) : List Nat := (List.range 4).filter (fun p => nib.testBit p)

/-- The stored index (0 or 1) of position p in a group whose nibble is `nib`: its place among the set bits, where fewer
than two precede it (R103). -/
def storedIdx (nib p : Nat) : Option Nat :=
  if nib.testBit p then
    (let k := ((setPositions nib).filter (fun x => x < p)).length
     if k < 2 then some k else none)
  else none

/-- The encoding at logical (i, j) of a tile: none at a position a sparse tile drops. The flag is NV for a nibble without
exactly two bits set (R103). -/
def elemAt (c : Core) (r : Run) (t : Tile) (i j : Nat) : Option Nat × Nat :=
  if t.sparse then
    let nib := mapNibble c r t (t.groupNo i j)
    let nv := if (setPositions nib).length = 2 then 0 else flNV
    match storedIdx nib (t.posIn i j) with
    | none => (none, nv)
    | some k =>
      let n := if t.blkdim = 0 then t.slot i (2 * (j / 4) + k) else t.slot (2 * (i / 4) + k) j
      (some (rawElem c r t n), nv)
  else (some (rawElem c r t (t.slot i j)), 0)

/-- The exact value at logical (i, j): the scale of its block times the element (R89), +0 at a dropped position. The
Boolean tells a position that the map leaves out (R103). -/
def valAt (c : Core) (r : Run) (t : Tile) (i j : Nat) : Val × Bool × Nat :=
  let e := elemAt c r t i j
  let x := if t.scale then scaleByte c r t (t.blockNo i j) else 127
  if t.scale ∧ x = 255 then (.nan, false, e.2)
  else
    match e.1 with
    | none => (vZero, !(mapNibble c r t (t.groupNo i j)).testBit (t.posIn i j), e.2)
    | some b => (scaleVal ((x : Int) - 127) (decodeElem (elemOf t.fmt) t.frame b), false, e.2)

/-! ### Runs at cores -/

/-- The queue key of a core's slot binding. -/
def bindKey (c : CoreId) (b : Bind) : Nat := queueKey c.die.val b.q

/-- The run a slot of a core holds. -/
def Dev.runAt (d : Dev) (c : CoreId) (sl : Nat) : Option Run :=
  match (d.core c).bind sl with
  | none => none
  | some b => (d.queue (bindKey c b)).runs.find? (fun r => r.core == some c && r.slot == sl && r.stage != .fetching)

/-- Changes the run a slot holds. -/
def Dev.modRun (d : Dev) (c : CoreId) (sl : Nat) (f : Run → Run) : Dev :=
  match (d.core c).bind sl with
  | none => d
  | some b =>
    d.modQueue (bindKey c b) (fun q =>
      { q with runs := replaceFirst (fun r => r.core == some c && r.slot == sl && r.stage != .fetching) f q.runs })

/-- The requester partition of a slot's run (R358). -/
def Dev.slotPart (d : Dev) (c : CoreId) (sl : Nat) : Nat :=
  match (d.core c).bind sl with
  | none => 0
  | some b => d.get (pImp c.die.val) fIMP_QPART_PART b.q

/-- Sticky flags of a slot accumulate (R79, R117); CHS also names the buffer (R99). -/
def Dev.addFlags (d : Dev) (c : CoreId) (sl fl buf : Nat) : Dev :=
  d.modCore c (fun x =>
    let s := NMap.get x.sticky sl Sticky.init
    let s' : Sticky := ⟨s.xflag ||| fl, if fl.testBit 8 then s.chsat ||| 2 ^ buf else s.chsat⟩
    { x with sticky := NMap.put x.sticky sl s' Sticky.init })

end Sys2Proof.Machine
end

