-- ==== Sys2Proof/Machine/Heads.lean ====
section
/-!
DEFINITION. Head waits (chapter 3, R76, R77): what satisfies a wait on a counter or a head token, tested on every change of
the counter or token.
-/

namespace Sys2Proof.Machine

open Sys2Proof

def arrKey (q i : Nat) : Nat := q * 4096 + i

/-- Waits that a test finds satisfied end, and take their places in the order of R51. -/
def latchRuns (ok : Run → Bool) : List Run → Nat → List Run × Nat
  | [], n => ([], n)
  | r :: rs, n =>
    if r.stage = .waiting ∧ ok r = true then
      (let x := latchRuns ok rs (n + 1)
       ({ r with stage := .ready, readySeq := n + 1 } :: x.1, x.2))
    else
      let x := latchRuns ok rs n
      (r :: x.1, x.2)

def latchQueues (ok : Run → Bool) : NMap Queue → Nat → NMap Queue × Nat
  | [], n => ([], n)
  | (k, q) :: rest, n =>
    let x := latchRuns ok q.runs n
    let y := latchQueues ok rest x.2
    ((k, { q with runs := x.1 }) :: y.1, y.2)

/-- The count of a head wait has not passed its limit: a wait satisfied in the press cycle that reaches it counts (R77). -/
def Dev.inTime (d : Dev) (r : Run) : Bool :=
  match r.core with
  | some c => decide (d.now (pressClk c.die.val) ≤ r.waitStart + waitLimit r.img)
  | none => true

def Dev.testHeads (d : Dev) (ok : Run → Bool) : Dev :=
  let x := latchQueues (fun r => d.inTime r && ok r) d.queues d.useCtr
  { d with queues := x.1, useCtr := x.2 }

/-- The waits on an arrival counter that has changed. -/
def Dev.testCounter (d : Dev) (q i : Nat) : Dev :=
  let v := (NMap.get d.arr (arrKey q i) (0 : BitVec 64)).toNat
  d.testHeads (fun r => hWaitKind r.img == 1 && waQuad r.img == q && waCtr r.img == i && decide (hWaitB r.img ≤ v))

/-- Head token i of a slot. -/
def Dev.headTok (d : Dev) (c : CoreId) (sl i : Nat) : Nat :=
  match (d.core c).bind sl with
  | some b => b.htok.getD i 0
  | none => 0

/-- The wait on a head token that has changed. -/
def Dev.testTokens (d : Dev) (c : CoreId) (sl : Nat) : Dev :=
  d.testHeads (fun r => hWaitKind r.img == 3 && r.core == some c && r.slot == sl &&
    decide (waCnt r.img ≤ d.headTok c sl (waTok r.img)))

/-- The wait of one run, at its begin. -/
def Dev.testRun (d : Dev) (c : CoreId) (sl : Nat) : Dev :=
  d.testHeads (fun r => r.core == some c && r.slot == sl &&
    (match hWaitKind r.img with
     | 0 => true
     | 1 => decide (hWaitB r.img ≤ (NMap.get d.arr (arrKey (waQuad r.img) (waCtr r.img)) (0 : BitVec 64)).toNat)
     | 3 => decide (waCnt r.img ≤ d.headTok c sl (waTok r.img))
     | _ => false))

end Sys2Proof.Machine
end

