-- ==== Sys2Proof/Machine/Packets.lean ====
section
/-!
DEFINITION. Packets between devices (chapters 12 and 13): their form, the port they leave by, and the queues they wait in.
-/

namespace Sys2Proof.Machine

open Sys2Proof

/-! ### Routing (R323 to R330) -/

def Dev.devId (d : Dev) : Nat := d.get .dctl fDCTL_DEVID_DEV 0

/-- Length of a dimension of the torus (DCTL_TORUS holds the length minus 1). -/
def Dev.torusLen (d : Dev) (dim : Nat) : Nat :=
  (match dim with
   | 0 => d.get .dctl fDCTL_TORUS_L0 0
   | 1 => d.get .dctl fDCTL_TORUS_L1 0
   | 2 => d.get .dctl fDCTL_TORUS_L2 0
   | _ => d.get .dctl fDCTL_TORUS_L3 0) + 1

/-- Port of a rail, dimension and direction (Table 13.1). -/
def portNo (rail dim : Nat) (minus : Bool) : Nat := 8 * rail + 4 * (dim / 2) + 2 * (dim % 2) + (if minus then 1 else 0)
def portRail (p : Nat) : Nat := p / 8
def portDim (p : Nat) : Nat := 2 * (p / 4 % 2) + p % 4 / 2

/-- The dimension and direction of the next hop (R327); none where the packet is delivered. -/
def Dev.nextHop (d : Dev) (dst : Nat) : Option (Nat × Bool) :=
  (List.range 4).findSome? (fun dim =>
    let n := d.torusLen dim
    let x := d.devId / 16 ^ dim % 16
    let y := dst / 16 ^ dim % 16
    let f := (y + n - x) % n
    if f = 0 then none
    else some (dim, !(decide (2 * f < n) || (2 * f == n && x % 2 == 0))))

def Dev.nextPort (d : Dev) (dst rail : Nat) : Option Nat := (d.nextHop dst).map (fun h => portNo rail h.1 h.2)

/-- The devices a quadrant's channel reaches (Table 13.2). -/
def Dev.peerReach (d : Dev) (q dst : Nat) : Bool :=
  d.arr? != 2 || (if q % 2 = 0 then dst / 256 == d.devId / 256 else dst % 256 == d.devId % 256)

/-! ### Ports -/

/-- XL_STAT.STATE: 0 DOWN, 1 TRAINING, 2 UP, 3 FENCED, 4 WAITCOORD. -/
def Dev.xlState (d : Dev) (p : Nat) : Nat := d.get (pXl p) fXL_STAT_STATE 0
/-- A port carries traffic: UP, and its peer is not fenced (R321). -/
def Dev.portUp (d : Dev) (p : Nat) : Bool := d.xlState p == 2 && !(d.port p).peerFence

/-! ### The form of a packet (Tables 12.2 and 12.3, R296) -/

def pkFlits (k : Packet) : Nat := 1 + k.len.toNat
/-- Share 2 * VC + RPL of a packet (R299). -/
def pkShare (k : Packet) : Nat :=
  2 * (2 * k.tc.val + (if k.dl then 1 else 0)) + (if k.rpl then 1 else 0)
/-- Bytes of the payload: of a FLAG 4 or 8, otherwise CNT + 1 units of 16. -/
def pkBytes (k : Packet) : Nat := if k.kind.toNat = 3 then 4 * (k.cnt.toNat + 1) else 16 * (k.cnt.toNat + 1)
/-- The data flits a payload of n bytes at an address takes. -/
def flitsFor (a n : Nat) : Nat := (a % 32 + n + 31) / 32

/-- KIND, LEN or CNT is not as Table 12.3 and R296 have them (R298). -/
def pkBad (k : Packet) : Bool :=
  let n := k.len.toNat
  let a := k.addr.toNat
  match k.kind.toNat with
  | 1 | 2 => n == 0 || decide (8 < n) || n != flitsFor a (pkBytes k)
  | 3 => n != 1 || decide (1 < k.cnt.toNat) || n != flitsFor a (pkBytes k)
  | 4 => n != 0
  | 5 => n != 1 && n != 2
  | 6 => n == 0 || decide (8 < n)
  | 7 => n != 1
  | 0 | 8 | 9 => n != 0
  | _ => true

/-- The payload of a packet as a number, byte 0 the byte at ADDR. -/
def pkPayload (k : Packet) : Nat := leNat (k.data.drop (k.addr.toNat % 32))

/-- An empty packet of a kind. -/
def pktBlank (kind dst src tag gen tc budget : Nat) (late : Bool) : Packet :=
  { kind := BitVec.ofNat 4 kind, len := 0, tc := finM 4 (by decide) tc, dl := false, rpl := decide (6 ≤ kind), late := late,
    psn1 := false, psn0 := false, budget := BitVec.ofNat 12 budget, dst := BitVec.ofNat 16 dst, src := BitVec.ofNat 16 src,
    addr := 0, cnt := 0, opx := 0, ctr := 0, group := 0, tag := BitVec.ofNat 16 tag, gen := BitVec.ofNat 8 gen, colo := false,
    arg := 0, data := [] }

/-- A packet with a payload of n bytes at an address. -/
def pkData (k : Packet) (a n v : Nat) : Packet :=
  { k with addr := BitVec.ofNat 48 a, len := BitVec.ofNat 4 (flitsFor a n),
           data := List.replicate (a % 32) 0 ++ leBytes (32 * flitsFor a n - a % 32) v }

/-! ### The bytes of a flit (Tables 12.2 and 12.4) -/

def crcBits : Nat → Nat → Nat
  | 0, c => c
  | n + 1, c => crcBits n (if c % 2 = 1 then c / 2 ^^^ 0xEDB88320 else c / 2)
/-- CRC-32 of IEEE 802.3. -/
def crc32 (l : List Byte) : Nat := l.foldl (fun c b => crcBits 8 (c ^^^ b.toNat)) 0xFFFFFFFF ^^^ 0xFFFFFFFF

def bit01 (b : Bool) : Nat := if b then 1 else 0

/-- A header flit without its CRC. -/
def pkHeader (k : Packet) : List Byte :=
  [BitVec.ofNat 8 (16 * k.kind.toNat + k.len.toNat),
   BitVec.ofNat 8 (64 * k.tc.val + 32 * bit01 k.dl + 16 * bit01 k.rpl + 8 * bit01 k.late + 4 * bit01 k.psn1 + 2 * bit01 k.psn0)] ++
  leBytes 2 k.budget.toNat ++ leBytes 2 k.dst.toNat ++ leBytes 2 k.src.toNat ++ leBytes 6 k.addr.toNat ++
  leBytes 1 k.cnt.toNat ++ leBytes 1 k.opx.toNat ++ leBytes 2 k.ctr.toNat ++ leBytes 2 k.group.toNat ++ leBytes 2 k.tag.toNat ++
  leBytes 1 k.gen.toNat ++ leBytes 1 (bit01 k.colo) ++ leBytes 4 k.arg.toNat

/-- A packet as its flits: the header, with the CRC over it and the data, and the data. -/
def pkFlitBytes (k : Packet) : List (List Byte) :=
  let h := pkHeader k
  (h ++ leBytes 4 (crc32 (h ++ k.data))) ::
    (List.range k.len.toNat).map (fun i => (k.data ++ List.replicate 256 0).drop (32 * i) |>.take 32)

/-- An IDLE flit. -/
def idleFlit : List Byte := leBytes 28 0 ++ leBytes 4 (crc32 (leBytes 28 0))

/-- Bytes 0x00 to 0x13 of a link-control flit. -/
def ctlBytes (f : CtlFlit) : List Byte :=
  leBytes 2 f.ackseq.toNat ++
  [BitVec.ofNat 8 (128 * bit01 f.nak + 64 * bit01 f.replay + 32 * bit01 f.rtrn + 16 * bit01 f.fence + f.nakid.toNat), f.probe] ++
  (List.range 16).map (fun j => f.cred.getD j 0)

/-! ### Waiting to be sent -/

/-- A packet joins the send queue of a port; a fenced one sends none (R321). -/
def Dev.enqueuePkt (d : Dev) (p from_ : Nat) (k : Packet) : Dev :=
  if d.xlState p = 3 then d else d.modPort p (fun s => { s with txq := s.txq ++ [(from_, k)] })

/-- A reply to a request that arrived on port p leaves on that port's rail (log entry 14); one to this device itself is
delivered within it. -/
def Dev.replyPkt (d : Dev) (p : Nat) (k : Packet) : Dev :=
  match d.nextPort k.dst.toNat (portRail p) with
  | some o => d.enqueuePkt o (1 + p) k
  | none => d.modPort p (fun s => { s with rxq := s.rxq ++ [(16 + pkShare k, k)] })

/-- Refuses a request that arrived on port p with a cause of Table 12.6. -/
def Dev.refusePeer (d : Dev) (p src tag gen tc budget : Nat) (late : Bool) (cause : Nat) : Dev :=
  (d.raise (pXl p) 11 cause).replyPkt p
    { pktBlank 9 src d.devId tag gen tc budget late with opx := BitVec.ofNat 8 cause }

/-! ### The end of an arriving packet (R308, R310) -/

/-- The tags of the packets a request that came over Exwin serves: a Chase block joined of two packets has two (log entry 19). -/
def Req.peerTags (r : Req) : List Nat :=
  match r.cli, r.op with
  | .peerIn _ _ tag _ _, .acc _ _ => if r.expect = 0 then [tag] else [tag, r.expect - 1]
  | .peerIn _ _ tag _ _, _ => [tag]
  | _, _ => []

/-- A part of the packet a sender named by this tag is outstanding. -/
def Dev.tagBusy (d : Dev) (src tag gen : Nat) : Bool :=
  d.reqs.any (fun r => (match r.cli with | .peerIn _ s _ g _ => s == src && g == gen | _ => false) && r.peerTags.contains tag) ||
  d.halves.any (fun e => e.2.src.toNat == src && e.2.tag.toNat == tag && e.2.gen.toNat == gen)

/-- A packet counts as refused while a part of it is outstanding. -/
def Dev.settleRefused (d : Dev) : Dev := { d with refused := d.refused.filter (fun e => d.tagBusy e.1 e.2.1 e.2.2) }

/-- A part of a packet that arrived on port p has been performed: with the last part, unless one was refused, the acknowledgement
joins the port's list of LANDED to send. -/
def Dev.land (d : Dev) (p src tag gen : Nat) (svc : Svc) : Dev :=
  if d.tagBusy src tag gen then d
  else if d.refused.contains (src, tag, gen) then d.settleRefused
  else d.modPort p (fun s => { s with landings := s.landings ++ [⟨src, tag, gen, svc, d.now (netClk (p / 4))⟩] })

/-- A part of a packet is refused: one REFUSE answers its tag. -/
def Dev.refuseTag (d : Dev) (p src tag gen tc budget : Nat) (late : Bool) (cause : Nat) : Dev :=
  if d.refused.contains (src, tag, gen) then d.settleRefused
  else ({ d with refused := d.refused ++ [(src, tag, gen)] }.refusePeer p src tag gen tc budget late cause).settleRefused

end Sys2Proof.Machine
end

