-- ==== Sys2Proof/Machine/Count.lean ====
section
/-!
DEFINITION. Requests and their points of performance: budgets and regulation (chapter 11), arrival counters and colophon
groups (chapter 6, R164 to R174), and what completing a request does.
-/

namespace Sys2Proof.Machine

open Sys2Proof

/-! ### Who asks -/

/-- The caching agent a request goes through (Table 9.1, Table 11.1): the Galley of the core's C-die, the host agent, or the
Case of the quadrant of the Exwin port it arrived on. -/
def clientAgent : Client → Nat
  | .feeder c _ _ _ | .prefetch c _ _ | .delivery c _ _ _ | .inkLd c _ _ _ | .inkSt c _ _ _ | .atom c _ _ _ | .poll c _ | .header c _
  | .ifetch c _ => c.die.val
  | .journal x _ _ | .save x _ | .fetch x _ _ => x
  | .dma _ _ | .shadow _ | .mailbox _ _ | .chunk _ | .ctl => 12
  | .peerIn p _ _ _ _ => 8 + p / 4

/-- The core a request is issued by. -/
def clientCore : Client → Option CoreId
  | .feeder c _ _ _ | .prefetch c _ _ | .delivery c _ _ _ | .inkLd c _ _ _ | .inkSt c _ _ _ | .atom c _ _ _ | .poll c _ | .header c _
  | .ifetch c _ => some c
  | _ => none

/-- Master ID of Table 11.1 at the issuing B-die. -/
def clientMaster : Client → Nat
  | .dma _ _ | .shadow _ | .mailbox _ _ | .chunk _ | .ctl => 8
  | .peerIn p _ _ _ _ => 9 + p % 4
  | c => clientAgent c

def Req.agent (r : Req) : Nat := clientAgent r.cli
def Req.line (r : Req) : Nat := r.addr / 128
def Req.svc (r : Req) : Svc := ⟨r.tc, r.budget, r.late⟩
def Req.isWrite (r : Req) : Bool := match r.op with | .wr => true | .acc _ _ => true | _ => false

/-- A request nothing is yet said of. -/
def Req.blank : Req :=
  { id := 0, cli := .ctl, op := .rd, addr := 0, tgt := .addrError, mask := 0, data := 0, psn := false, part := 0, quad := 0,
    tc := 0, budget := 0xFFF, late := false, lowered := false, nogal := false, scope := 0, ctr := 0,
    colo := false, group := 0, expect := 0, flag := false, accepted := false, dev := false, sys := false, failed := false,
    ready := false, res := 0, resPsn := false, resErr := false, flags := 0, acq := none, dst := 0, size := 0, lanes := [],
    nocache := false, noinstall := false, gen := 0, issued := false }

def Dev.req (d : Dev) (id : Nat) : Option Req := d.reqs.find? (fun r => r.id == id)
def Dev.modReq (d : Dev) (id : Nat) (f : Req → Req) : Dev := { d with reqs := replaceFirst (fun r => r.id == id) f d.reqs }
def Dev.dropReq (d : Dev) (id : Nat) : Dev := { d with reqs := dropFirst (fun r => r.id == id) d.reqs }

/-! ### Budgets (R276, R278, R279) -/

/-- GEN of the smallest domain of the block that issues for a client (R399). -/
def Dev.cliGen (d : Dev) (q : Nat) : Client → Nat
  | .feeder c _ _ _ | .prefetch c _ _ | .delivery c _ _ _ | .inkLd c _ _ _ | .inkSt c _ _ _ | .atom c _ _ _ | .poll c _ | .header c _
  | .ifetch c _ => d.gen (.core c)
  | .dma ch _ => d.pageGen (pDma ch)
  | .shadow ch => d.pageGen (pHst ch)
  | .mailbox _ _ | .chunk _ | .ctl => d.gen .device
  | _ => d.gen (.quad (quad q))

/-- A new request takes the next number, its budget, its generation and its place in the order of arrival. -/
def Dev.addReq (d : Dev) (r : Req) : Dev :=
  let b := match r.cli with
    | .peerIn _ _ _ _ _ => r.budget
    | _ => d.budget0 r.quad r.part r.tc
  { d with nextReq := d.nextReq + 1,
           reqs := d.reqs ++ [{ r with id := d.nextReq, budget := b, late := r.late || b == 0,
                                       gen := d.cliGen r.quad r.cli }] }

/-! ### The order of service (R281) -/

/-- The place of a request in the order of service, smallest first; ties go by arrival. -/
def svcKey (s : Svc) (lowered : Bool) : Nat :=
  (if s.late then 0 else 2 ^ 20) + (if s.tc = 0 then 0 else 2 ^ 19) + (if lowered then 2 ^ 18 else 0) +
  (if s.budget = 0xFFF then 4096 else s.budget)

def Req.key (r : Req) : Nat := svcKey r.svc r.lowered

def insertBy {α : Type} (key : α → Nat) (x : α) : List α → List α
  | [] => [x]
  | y :: r => if key x ≤ key y then x :: y :: r else y :: insertBy key x r

/-- A queue in the order it is served: by key, and by arrival among equals. -/
def served {α : Type} (key : α → Nat) : List α → List α
  | [] => []
  | x :: r => insertBy key x (served key r)

/-! ### Regulation (R284, R285, R287) -/

/-- Table 11.4. -/
def issueSlots (level tc : Nat) : Nat :=
  match level, tc with
  | 1, 3 => 4
  | 2, 2 => 8 | 2, 3 => 0
  | 3, 1 => 8 | 3, 2 => 2 | 3, 3 => 0
  | _, _ => 16

def slotKey (master stk tc : Nat) : Nat := (master * 32 + stk) * 4 + tc

/-- Whether a new request to a stack may be sent now: late and TC 0 requests always, others while an issue slot is left; a master
beyond its allowance as TC 3 (R287). -/
def Dev.mayIssue (d : Dev) (r : Req) (stk : Nat) : Bool :=
  let t := NMap.get d.traffic r.quad Traffic.init
  r.late || r.tc == 0 ||
  decide (NMap.get t.used (slotKey (clientMaster r.cli) stk r.tc) 0 <
          issueSlots (NMap.get t.level stk 0)
            (if r.lowered || d.overAllow r.quad (clientMaster r.cli) || d.overAllow (stk / 5) (clientMaster r.cli) then 3 else r.tc))

/-- Lines of a request: three for a Chase block, one otherwise (R246). -/
def accLines (r : Req) : List Nat :=
  match r.op with
  | .acc 0 _ => [r.line, r.line + 1, r.line + 2]
  | _ => [r.line]

/-- The data bytes a request writes or reads, whole lines (R287). -/
def Req.lineBytes (r : Req) : Nat := 128 * (accLines r).length

/-- A request enters the Case of a B-die: its bytes are counted, and beyond its master's allowance it is lowered, once (R287). -/
def Dev.enterCase (d : Dev) (q : Nat) (r : Req) : Dev :=
  let m := clientMaster r.cli
  let lowers := d.overAllow q m && !r.lowered
  (d.meter q m r.lineBytes).when lowers (fun d =>
    (d.modReq r.id (fun r => { r with lowered := true })).bump (pQctl q) fQCTL_MET_LOWER_COUNT m 1)

/-- Uses an issue slot, and enters the Case of the issuing quadrant; what comes from the H-die enters its home's only. -/
def Dev.useSlot (d : Dev) (r : Req) (stk : Nat) : Dev :=
  let t := NMap.get d.traffic r.quad Traffic.init
  let k := slotKey (clientMaster r.cli) stk r.tc
  let d := { d with traffic := NMap.put d.traffic r.quad { t with used := NMap.put t.used k (NMap.get t.used k 0 + 1) 0 }
                                 Traffic.init }
  if r.agent = 12 then d else d.enterCase r.quad r

/-- A late request of a class and partition completes at a home B-die (R288). -/
def Dev.missAt (d : Dev) (q part tc : Nat) : Dev :=
  (d.bump (pQctl q) (fQCTL_MISS_COUNT.at tc) part 1).raise (pQctl q) 8 (part + 256 * tc)

/-- A late request completes: to a stack, it is counted at the home B-die (R288). -/
def Dev.countMiss (d : Dev) (r : Req) : Dev :=
  match r.tgt with
  | .stack s off =>
    if r.late then
      let p := match r.cli with
        | .peerIn _ _ _ _ _ => d.owner s off
        | _ => r.part
      d.missAt (s / 5) p r.tc
    else d
  | .host _ =>
    if r.late then
      (d.bump (pHst (d.chanOf r.quad)) (fHST_MISS_COUNT.at r.tc) 0 1).raise (pHst (d.chanOf r.quad)) 4 (r.part + 256 * r.tc)
    else d
  | _ => d

/-! ### Arrival counters and groups (R164 to R174, R360) -/

/-- The partition a block of 64 counters and groups of a B-die belongs to. -/
def Dev.ctrOwner (d : Dev) (q i : Nat) : Nat := d.get (pQctl q) fQCTL_CTRMAP_PART (i / 64)

/-- Adds bytes to a counter, modulo 2^64; a wrap is recorded (R166). -/
def Dev.countBytes (d : Dev) (q i n : Nat) : Dev :=
  let old := (NMap.get d.arr (arrKey q i) (0 : BitVec 64)).toNat
  let d := ({ d with arr := NMap.put d.arr (arrKey q i) (BitVec.ofNat 64 (old + n)) 0 }).testCounter q i
  if 2 ^ 64 ≤ old + n then
    ((d.set (pQctl q) fQCTL_ARR_STAT_WRAP 0 1).set (pQctl q) fQCTL_ARR_STAT_WIDX 0 i).raise (pQctl q) 11 i
  else d

/-- The message that performs a released colophon write at its home (R172). -/
def coloMsg (q : Nat) (r : Req) : WMsg :=
  .request { kind := .homeop, agent := 8 + q, line := r.line, part := r.part, req := r.id, full := false, data := r.data,
             psn := r.psn, ecc := ⟨.clean, false, false⟩, svc := r.svc }

/-- Performs a held colophon write whose group's tally has reached its EXPECT (R172). -/
def Dev.testGroup (d : Dev) (q g : Nat) : Dev :=
  let e := d.grp (arrKey q g)
  match e.held with
  | some (r, _) =>
    if r.expect ≤ e.tally then
      (({ d with reqs := d.reqs ++ [r] }).setGrp (arrKey q g) { e with held := none, tally := e.tally - r.expect }).wireMsg
        (coloMsg q r)
    else d
  | none => d

/-- Tallies a member part: the count saturates and raises COLO_SAT (R170, R173). -/
def Dev.tally (d : Dev) (q g n : Nat) : Dev :=
  let e := d.grp (arrKey q g)
  let d := if 0xFFFFFFFF < e.tally + n then
      (d.setGrp (arrKey q g) { e with tally := 0xFFFFFFFF, sat := true }).raise (pQctl q) 2 g
    else d.setGrp (arrKey q g) { e with tally := e.tally + n }
  d.testGroup q g

/-- What a performed write counts at its home B-die: its counter, and as a member its group, each only if it is assigned to
the partition owning the target (R164, R168, R170, R360). -/
def Dev.countPart (d : Dev) (r : Req) (n : Nat) : Dev :=
  let q := lineQuad r.line
  let own := d.owner (lineStack r.line) (lineOff r.line)
  let d := if r.ctr.testBit 15 then
      (let i := r.ctr % 4096
       if d.ctrOwner q i = own then d.countBytes q i n else d.raise (pQctl q) 0 i)
    else d
  if r.colo ∧ !r.flag then
    (let g := r.group % 4096
     if d.ctrOwner q g = own then d.tally q g n else d.raise (pQctl q) 0 (g + 0x8000))
  else d

/-! ### Completion -/

/-- Bytes of an atomic's value by its width code. -/
def atomWidth (w : Nat) : Nat := 4 * 2 ^ w

/-- Bytes of a request's part. -/
def Req.bytes (r : Req) : Nat := maskCount 384 r.mask

/-- A vector of a function falls due; one that is still unsent is merged with it (R349, R350). -/
def Dev.raiseVec (d : Dev) (fn vec : Nat) : Dev :=
  d.setFunc fn { d.func fn with pendingVec := Set.add (d.func fn).pendingVec vec }

/-- The last write of a journal entry has been sent: its queue's interrupt (R350). `expect` of that write holds STATUS and
256 * ERR. -/
def Dev.journalDone (d : Dev) (r : Req) : Dev :=
  match r.cli with
  | .journal x q _ =>
    let p := pHst (d.chanOf (x / 2))
    let i := x * 64 + q
    if r.flag ∧ d.on p fHST_QIRQ_EN i = true ∧ (d.on p fHST_QIRQ_MODE i = false ∨ r.expect ≠ 1) then
      d.raiseVec (d.get p fHST_QIRQ_FN i) (d.get p fHST_QIRQ_VEC i)
    else d
  | .dma ch e =>
    -- the completion write of a descriptor with IRQ (R352)
    if r.flag ∧ r.expect = 1 then
      d.raiseVec (d.get (pDma ch) (fDMA_CFG_FN.at e) 0) (d.get (pDma ch) (fDMA_CFG_VEC.at e) 0)
    else d
  | _ => d

/-- A write has been performed at its home's DEVICE scope: it is counted, a peer is told, and the request ends. -/
def Dev.performed (d : Dev) (id : Nat) : Dev :=
  match d.req id with
  | none => d
  | some r =>
    let d := d.countPart r r.bytes
    match r.cli with
    | .peerIn p src _ gen _ =>
      let d := d.dropReq id
      -- a packet of two lines is late, and counted late, as one request
      let d := if d.reqs.any (fun x => decide (x.cli = r.cli)) then
          { d with reqs := d.reqs.map (fun x => if x.cli = r.cli then { x with late := x.late || r.late } else x) }
        else d.countMiss r
      r.peerTags.foldl (fun d t => d.land p src t gen r.svc) d
    | .atom _ _ _ _ => (d.countMiss r).modReq id (fun r => { r with dev := true, sys := true })
    | _ => ((d.countMiss r).dropReq id).journalDone r

/-- The reply to a read or an atomic of another device, once every line of it is here (R302, R310). -/
def Dev.answerPeer (d : Dev) (cli : Client) : Dev :=
  let rs := d.reqs.filter (fun r => decide (r.cli = cli))
  match cli, rs with
  | .peerIn p src tag gen tc, r :: rest =>
    if !rs.all (fun r => r.ready) then d
    else
      let d := { d with reqs := d.reqs.filter (fun r => !decide (r.cli = cli)) }
      let d := d.countMiss { r with late := rs.any (fun r => r.late) }
      if d.refused.contains (src, tag, gen) then d.settleRefused
      else if rs.any (fun r => r.resErr) then d.refusePeer p src tag gen tc r.budget r.late 1
      else
        let psn1 := rest.any (fun r => r.resPsn)
        (match r.op with
         | .atom _ w lanes =>
           let lane := (lanes.head?.map (fun l => l.1)).getD 0
           d.replyPkt p (pkData { pktBlank 7 src d.devId tag gen tc r.budget r.late with psn0 := r.resPsn } 0 (atomWidth w)
             ((r.res >>> (128 * lane)) % 2 ^ (8 * atomWidth w)))
         | _ =>
           -- the bytes asked, line by line
           let v := rs.foldl (fun (a : Nat × Nat) r =>
             let n := maskCount 128 r.mask
             (a.1 + ((r.res >>> (8 * (r.addr % 128))) % 2 ^ (8 * n)) * 2 ^ (8 * a.2), a.2 + n)) (0, 0)
           d.replyPkt p (pkData { pktBlank 6 src d.devId tag gen tc r.budget r.late with psn0 := r.resPsn, psn1 := psn1 } 0 v.2 v.1))
  | _, _ => d

/-- A read or atomic has its answer: data, poison and address error are held for its consumer. -/
def Dev.answered (d : Dev) (id res : Nat) (psn err : Bool) : Dev :=
  match d.req id with
  | none => d
  | some r =>
    match r.cli with
    | .prefetch _ _ _ => (d.countMiss r).dropReq id
    | .peerIn _ _ _ _ _ =>
      (d.modReq id (fun r => { r with ready := true, res := res, resPsn := psn, resErr := err, dev := true, sys := true })).answerPeer
        r.cli
    | _ =>
      (d.countMiss r).modReq id (fun r => { r with ready := true, res := res, resPsn := psn, resErr := err, dev := true, sys := true })

/-! ### The arithmetic of atomics (Table 5.5) -/

/-- One read-modify-write of a w-byte value. -/
def atomApply (op : AOp) (bytes x a b : Nat) : Nat :=
  let w := 8 * bytes
  let m := 2 ^ w
  match op with
  | .add => (x + a) % m
  | .fadd => (fAdd fp32 0 x a).1
  | .smin => if toSigned w x ≤ toSigned w a then x else a % m
  | .smax => if toSigned w a ≤ toSigned w x then x else a % m
  | .umin => min x (a % m)
  | .umax => max x (a % m)
  | .and => x &&& (a % m)
  | .or => x ||| (a % m)
  | .xor => x ^^^ (a % m)
  | .exch => a % m
  | .cas => if x = a % m then b % m else x

/-- The flags one step raises. -/
def atomFlags (op : AOp) (x a : Nat) : Nat :=
  match op with
  | .fadd => (fAdd fp32 0 x a).2
  | _ => 0

/-- The lanes of an atomic on a line, in lane order (R143): the new line, the lanes' old values, packed 128 bits a lane, and
the flags raised. -/
def atomLanes (op : AOp) (bytes : Nat) : List (Nat × Nat × Nat × Nat) → Nat → Nat → Nat → Nat × Nat × Nat
  | [], line, res, fl => (line, res, fl)
  | (lane, off, a, b) :: r, line, res, fl =>
    let x := (line >>> (8 * off)) % 2 ^ (8 * bytes)
    let y := atomApply op bytes x a b
    atomLanes op bytes r (setBits line (8 * off + 8 * bytes - 1) (8 * off) y) (setBits res (128 * lane + 127) (128 * lane) x)
      (fl ||| atomFlags op x a)

end Sys2Proof.Machine
end

