-- ==== Sys2Proof/Machine/RunEnd.lean ====
section
/-!
DEFINITION. What ends the commands of a run: abandoning them at the stations (R62), run-time errors (Table 3.6), and the
tokens and granules a run holds (R51, R73).
-/

namespace Sys2Proof.Machine

open Sys2Proof

/-! ### Tokens and granules -/

/-- The physical tokens and granule ranges of the begun runs of a core, slot by slot. -/
def Dev.coreRuns (d : Dev) (c : CoreId) : List (Nat × Run) :=
  (List.range 8).filterMap (fun sl => (d.runAt c sl).map (fun r => (sl, r)))

/-- The run holds Stone and tokens. -/
def Run.holds (r : Run) : Bool := r.stage == .begun || r.stage == .ended

def Dev.usedToks (d : Dev) (c : CoreId) : List Nat :=
  ((d.coreRuns c).filter (fun e => e.2.holds)).flatMap (fun e => e.2.tokMap)
def Dev.freeToks (d : Dev) (c : CoreId) : List Nat :=
  (List.range 32).filter (fun t => !(d.usedToks c).contains t)

/-- Granules of a run's buffers. -/
def Run.granules (r : Run) : List Nat :=
  (List.range 16).flatMap (fun b => (List.range (hBufSz r.img b)).map (fun i => r.bufAt.getD b 0 + i))
def Dev.usedGrans (d : Dev) (c : CoreId) : List Nat :=
  ((d.coreRuns c).filter (fun e => e.2.holds)).flatMap (fun e => e.2.granules)

/-- The lowest range of `n` free granules. -/
def findSpace (used : List Nat) (n : Nat) : Option Nat :=
  (List.range (257 - n)).find? (fun a => (List.range n).all (fun i => !used.contains (a + i)))

/-- The lengths of the free ranges. -/
def largestFree (used : List Nat) : Nat :=
  ((List.range 256).foldl (fun (x : Nat × Nat) g =>
    if used.contains g then (x.1, 0) else (max x.1 (x.2 + 1), x.2 + 1)) (0, 0)).1

def Core.tok (c : Core) (t : Nat) : Nat := NMap.get c.toks t 0
def Core.setTok (c : Core) (t v : Nat) : Core := { c with toks := NMap.put c.toks t v 0 }

/-! ### Commands of a run -/

/-- The entry a station executes for a slot. -/
def Dev.execEntry (d : Dev) (c : CoreId) (stn sl : Nat) : Option Img :=
  match ((d.core c).station stn).exec, d.runAt c sl with
  | some e, some r => if e.slot = sl then some (entry r.img e.ent) else none
  | _, _ => none

/-- A Delivery command holds back its writes until its release set is performed (R157). -/
def eHolds (e : Img) : Bool := eOp e == 4 || eRel e

/-- The slot and entry of the LAUNCH a group belongs to. -/
def Dev.groupSlot (d : Dev) (c : CoreId) (g : Nat) : Option (Nat × Nat) :=
  let k := (d.core c).inker
  match NMap.get k.groups g none with
  | none => none
  | some x => (NMap.get k.blocks x.block none).map (fun b => (b.slot, b.ent))

/-- Stops the Inker's work for a slot. -/
def Inker.dropSlot (k : Inker) (sl : Nat) : Inker :=
  let gone (b : Nat) : Bool := match NMap.get k.blocks b none with
    | some x => x.slot == sl
    | none => false
  { k with launches := k.launches.filter (fun l => l.slot != sl),
           groups := k.groups.filter (fun e => match e.2 with | some g => !gone g.block | none => false),
           blocks := k.blocks.filter (fun e => match e.2 with | some b => b.slot != sl | none => false),
           chosen := if k.chosen = some sl then none else k.chosen }

/-- What becomes of a request whose slot's commands are abandoned: its reads are dropped; its writes go on, and so do its
atomics that have left the core, whose answer no thread waits for. -/
def Req.orphan (d : Dev) (c : CoreId) (sl : Nat) (r : Req) : Option Req :=
  let mine (g : Nat) : Bool := match d.groupSlot c g with
    | some x => x.1 == sl
    | none => false
  match r.cli with
  | .feeder c' s _ _ => if c' = c ∧ s = sl then none else some r
  | .poll c' s => if c' = c ∧ s = sl then none else some r
  | .header c' s => if c' = c ∧ s = sl then none else some r
  | .prefetch c' s _ => if c' = c ∧ s = sl then some { r with cli := .prefetch c 8 0 } else some r
  | .inkLd c' _ s _ => if c' = c ∧ s = sl then none else some r
  | .ifetch c' g => if c' = c ∧ mine g then none else some r
  | .inkSt c' _ s e => if c' = c ∧ s = sl then some { r with cli := .inkSt c 16 sl e } else some r
  | .atom c' _ s _ =>
    if c' = c ∧ s = sl then (if r.issued || r.accepted then some { r with cli := .prefetch c 8 0 } else none) else some r
  | _ => some r

/-- The stations abandon a slot's commands (R62). With `keepDlv`, a Delivery command that has begun issuing goes on; without
it, its parts that have not left the core are dropped too. A releasing command still held for its release set has not begun
issuing: DESIGN CHOICE (log entry 122), since the spec does not say whether it has. -/
def Dev.abandon (d : Dev) (c : CoreId) (sl : Nat) (keepDlv : Bool) : Dev :=
  let keep : Bool := keepDlv && (match ((d.core c).station stDlv).exec with
    | some e => e.slot == sl && e.sending
    | none => false)
  let reqs := d.reqs.filterMap (Req.orphan d c sl)
  let reqs := if keep then reqs else reqs.filter (fun r => match r.cli with
    | .delivery c' s _ _ => !(c' == c && s == sl) || r.issued || r.accepted
    | _ => true)
  let d := { d with reqs := reqs }
  d.modCore c (fun x =>
    let x := { x with inker := x.inker.dropSlot sl }
    (List.range 5).foldl (fun (x : Core) i =>
      let s := x.station i
      x.setStation i
        { s with queue := s.queue.filter (fun e => e.1 != sl),
                 exec := match s.exec with
                   | some e => if e.slot = sl ∧ ¬(i = stDlv ∧ keep) then none else some e
                   | none => none,
                 age := s.age.set sl 0, promo := s.promo.set sl false, wdog := s.wdog.set sl 0 }) x)

/-! ### Run-time errors (Table 3.6, Table 3.14) -/

/-- The core-page source of a run error. -/
def runErrSrc (code : Nat) : Option Nat :=
  match code with
  | 0x20 => some 0 | 0x21 => some 1 | 0x22 => some 2 | 0x24 => some 5 | 0x25 => some 6 | 0x26 => some 7 | 0x27 => some 4
  | _ => none

/-- SYND of that source: slot, and the station where Table 3.14 has it (7 for a head-wait poll, R77). -/
def runErrSynd (code sl stn : Nat) : Nat :=
  match code with
  | 0x20 => sl * 256 + stn | 0x22 => sl * 256 + stn | 0x26 => sl * 256 + stn | 0x27 => stn | _ => sl * 256

/-- Ends the run of a slot with an error: its source is raised (`stn`: station, or the granule for STONE_UE), its commands
are abandoned, and its end or its retirement becomes due. `own`: the error arose in the Delivery. An error met when every
command has completed, and the run's writes are still being performed, ends the run too; a run keeps its first error. -/
def Dev.endRun (d : Dev) (c : CoreId) (sl code stn ent : Nat) (own : Bool) : Dev :=
  match d.runAt c sl with
  | none => d
  | some r =>
    if r.stage = .retiring then d
    else
      let d := match runErrSrc code with
        | some src => d.raise (.core c) src (runErrSynd code sl stn)
        | none => d
      if r.stage = .ended then d.modRun c sl (fun r => if r.err = 0 then { r with err := code, ent := ent } else r)
      else
      let d := d.abandon c sl (!own)
      d.modRun c sl (fun r =>
        { r with stage := if r.stage = .begun then .ended else .retiring, err := code, ent := ent,
                 toPlace := [[], [], [], [], []] })

/-- The run of a slot is the one at a position, and its journal entry is not written yet. -/
def Dev.runIs (d : Dev) (c : CoreId) (sl pos : Nat) : Bool :=
  match d.runAt c sl with
  | some r => r.pos == pos && r.stage != .retiring
  | none => false

end Sys2Proof.Machine
end

