-- ==== Sys2Proof/Machine/Requests.lean ====
section
/-!
DEFINITION. Issuing requests: the decode of R29, what a Galley, the host agent or a Case does with the requests for one line in
their order (R142, R155, R204, R237, R242), host-window requests (R341 to R346, R496), and address errors (R30).
-/

namespace Sys2Proof.Machine

open Sys2Proof

/-! ### The requests of one line at one agent -/

/-- How an agent serves a request (Table 8.2, R142, R237). -/
inductive Cls where
  /-- a read that allocates in the Galley -/
  | rdAlloc
  /-- a read that does not -/
  | rdNo
  /-- done on a line the agent holds in M or E -/
  | own
  /-- sent to the home as HomeOp -/
  | home
deriving DecidableEq, Repr

def Dev.reqClass (d : Dev) (r : Req) : Cls :=
  let a := r.agent
  let gal := decide (a < 8) && d.galWays a r.part != 0
  let noAlloc := match r.cli with
    | .fetch _ _ _ => true
    | _ => false
  match r.op with
  | .acc _ _ => .home
  | .rd => if gal && !r.nogal && !noAlloc then .rdAlloc else .rdNo
  | .wr => if a = 12 ∨ (gal = true ∧ r.nogal = false) then .own else .home
  | .atom _ _ _ => if a = 12 ∨ (gal = true ∧ r.scope < 2) then .own else .home

def Dev.mshrAt (d : Dev) (agent place l : Nat) : Option Mshr := NMap.get d.mshr (lineKeyOf agent place l) none
def Dev.setMshr (d : Dev) (agent place l : Nat) (m : Option Mshr) : Dev :=
  { d with mshr := NMap.put d.mshr (lineKeyOf agent place l) m none }

/-- A request message to the home of a line. -/
def Dev.toHome (d : Dev) (kind : HKind) (agent l part req : Nat) (full : Bool) (svc : Svc) : Dev :=
  d.wireMsg (.request { kind := kind, agent := agent, line := l, part := part, req := req, full := full, data := 0,
                        psn := false, ecc := ⟨.clean, false, false⟩, svc := svc })

/-- The copy of a Case that may serve a partition, and its slice: for a stereo or peer line in that partition's own slice (R220). -/
def Dev.caseCopy (d : Dev) (q l part : Nat) : Option (Nat × CLine) := d.ownCopy q part l

/-- A write into a line: bytes, and poison: a part with poison poisons the line, a whole clean line clears it (R30). -/
def mergeLine (data : Nat) (psn : Bool) (r : Req) : Nat × Bool :=
  (mergeBytes 128 data r.mask r.data, r.psn || (psn && r.mask % 2 ^ 128 != 2 ^ 128 - 1))

/-- Performs a write or atomic on the copy an agent holds in M or E (R142, R150); the copy is in M afterwards. -/
def Dev.performOwn (d : Dev) (r : Req) : Dev :=
  let place := d.galPlace r.line r.part
  match d.cline r.agent place r.line with
  | none => d
  | some c =>
    let put (v : Nat) (p : Bool) : Dev :=
      ({ d with useCtr := d.useCtr + 1 }).setCline r.agent place r.line
        (some { c with st := .m, dirty := true, data := BitVec.ofNat 1024 v, psn := p, used := d.useCtr + 1 })
    match r.op with
    | .atom op w lanes =>
      if c.psn then d.answered r.id 0 true false
      else
        let x := atomLanes op (atomWidth w) lanes c.data.toNat 0 0
        ((put x.1 false).modReq r.id (fun r => { r with flags := x.2.2 })).answered r.id x.2.1 false false
    | _ =>
      let x := mergeLine c.data.toNat c.psn r
      (put x.1 x.2).performed r.id

/-- Asks the line's home for it in M, once, for a write or atomic of the agent (R237). -/
def Dev.askOwn (d : Dev) (r : Req) : Dev :=
  if (d.mshrAt r.agent 0 r.line).isSome || !d.mayIssue r (lineStack r.line) then d
  else ((d.useSlot r (lineStack r.line)).setMshr r.agent 0 r.line (some { want := .rdx, data := none, galleys := [] })).toHome
    .rdx r.agent r.line r.part r.id (decide (r.op = .wr) && r.mask % 2 ^ 128 == 2 ^ 128 - 1) r.svc

/-- Sends a request's HomeOp (R237). A NOGAL write that finds a copy merges with it and sends it home whole (Table 8.2), a copy
that is not its owner's alone once it is (log entry 12). The Boolean tells whether later requests may follow. -/
def Dev.sendHomeOp (d : Dev) (r : Req) : Dev × Bool :=
  let a := r.agent
  let l := r.line
  let go (d : Dev) : Dev × Bool :=
    let stk := lineStack l
    if d.mayIssue r stk then
      let d := d.useSlot r stk
      let full := decide (r.mask % 2 ^ 128 = 2 ^ 128 - 1)
      ((d.modReq r.id (fun r => { r with issued := true })).wireMsg
        (.request { kind := .homeop, agent := a, line := l, part := r.part, req := r.id, full := full,
                    data := r.data, psn := r.psn, ecc := ⟨.clean, false, false⟩, svc := r.svc }), true)
    else (d, false)
  match r.op with
  | .wr =>
    match (if a < 8 then d.cline a (d.galPlace l r.part) l else none) with
    | some c =>
      if c.leaving then (d, false)
      else
        (match c.st with
         | .m | .e =>
           let x := mergeLine c.data.toNat c.psn r
           (((d.setCline a (d.galPlace l r.part) l (some { c with st := .m, leaving := true })).wireMsg
             (evictMsg .wb a l c.part x.1 x.2 (d.wbSvc a l c.part))).performed r.id, false)
         | _ => (d.askOwn r, false))
    | none => go d
  | _ => go d

/-- A read served by the quadrant's Case from its copy in S, O or M (R242): the Galley gets S and the home an AddS. -/
def Dev.supplyFromCase (d : Dev) (r : Req) (s : Nat) (c : CLine) : Dev :=
  let q := r.agent / 2
  let l := r.line
  let d := d.setCline (8 + q) s l (some { c with st := if c.st = .m then .o else c.st, used := d.useCtr + 1 })
  let d := { d with useCtr := d.useCtr + 1 }.enterCase q r
  let d := match d.reqClass r with
    | .rdAlloc =>
      let f := d.fillGal r.agent r.part l .s c.data.toNat c.psn
      if f.2 && !d.stereoLine l then f.1.toHome .adds (8 + q) l r.part r.agent false r.svc else f.1
    | _ => d
  d.answered r.id c.data.toNat c.psn false

/-- Serves a read (R204): from the agent's copy, from the quadrant's Case, or by a request to the home. -/
def Dev.pumpRead (d : Dev) (r : Req) : Dev × Bool :=
  let a := r.agent
  let l := r.line
  let place := d.galPlace l r.part
  match (if a < 8 ∨ a = 12 then d.galCopy a l r.part else none) with
  | some c => ((d.touchCopy a l).answered r.id c.data.toNat c.psn false, true)
  | none =>
    if (d.mshrAt a place l).isSome then (d, false)
    else
      let q := if a < 8 then a / 2 else a - 8
      let remote := decide (a ≠ 12) && lineQuad l != q
      let ask (d : Dev) (agent : Nat) (m : Mshr) : Dev × Bool :=
        if d.mayIssue r (lineStack l) then
          (((d.useSlot r (lineStack l)).modReq r.id (fun r => { r with issued := true })).setMshr agent
              place l (some m) |>.toHome m.want agent l r.part r.id false r.svc,
           false)
        else (d, false)
      let mine : Mshr := { want := if d.reqClass r = .rdAlloc then .rds else .rdcur, data := none, galleys := [] }
      if remote then
        match (d.caseCopy q l r.part).filter (fun e => e.2.st != .h && (d.mshrAt (8 + q) (d.galPlace l r.part) l).isNone) with
        | some (s, c) => (d.supplyFromCase r s c, true)
        | none =>
          if a < 8 ∧ (match r.cli with | .fetch _ _ _ => false | _ => true) = true then
            let cp := d.galPlace l r.part
            (match d.mshrAt (8 + q) cp l with
             | some m =>
               (if m.want = .rds then
                  (d.modReq r.id (fun r => { r with issued := true })).setMshr (8 + q) cp l
                    (some { m with galleys := Set.add m.galleys a })
                else d, false)
             | none =>
               -- the local Case asks once for both Galleys, whether or not it then has a way for the line (R17)
               if d.isLeaving (8 + q) l || d.missFull q l r.part then (d, false)
               else ask d (8 + q) { want := .rds, data := none, galleys := [a] })
          else ask d a mine
      else ask d a mine

/-- A colophon write to a line that a core issued before another of its requests there is not yet performed. -/
def Dev.coloAhead (d : Dev) (r : Req) : Bool :=
  let ahead (x : Req) : Bool :=
    x.flag && x.colo && decide (x.id < r.id) && x.line == r.line && (clientCore x.cli).isSome && clientCore x.cli == clientCore r.cli &&
    (match x.tgt with | .stack _ _ => true | _ => false)
  d.reqs.any ahead || d.grps.any (fun e => match e.2.held with | some (x, _) => ahead x | none => false)

/-- An earlier request of the agent to another line of a Chase block is neither performed nor on its way to the home (R155). -/
def Dev.blockBehind (d : Dev) (r : Req) : Bool :=
  match r.op with
  | .acc 0 _ =>
    d.reqs.any (fun x => decide (x.id < r.id) && x.agent == r.agent && (accLines x).any (fun l => (accLines r).contains l) &&
      (match x.tgt with | .stack _ _ => true | _ => false) && !(x.flag && x.colo) && !x.ready && !x.dev &&
      !(x.issued && (match d.reqClass x with | .home => true | _ => false)))
  | _ => false

/-- One request of the line, in its turn. `homeOnly`: an earlier HomeOp of the line is outstanding. The answer: the device,
whether later requests may follow, and whether only HomeOps may. -/
def Dev.pumpOne (d : Dev) (id : Nat) (homeOnly : Bool) : Dev × Bool × Bool :=
  match d.req id with
  | none => (d, true, homeOnly)
  | some r =>
    if r.ready || r.dev then (d, true, homeOnly)
    -- a core's colophon write to the line comes first, also while its home holds it (R155)
    else if d.coloAhead r then (d, false, homeOnly)
    else
      let a := r.agent
      let l := r.line
      match d.reqClass r with
      | .home =>
        if r.issued then (d, true, true)
        else if d.blockBehind r then (d, false, homeOnly)
        else if d.isLeaving a l || (d.mshrAt a (d.galPlace l r.part) l).isSome then (d, false, homeOnly)
        else
          let x := d.sendHomeOp r
          (x.1, x.2, true)
      | .own =>
        if homeOnly || d.isLeaving a l then (d, false, homeOnly)
        else
          (match d.galCopy a l r.part with
           | some c => if c.st = .m ∨ c.st = .e then (d.performOwn r, true, homeOnly) else (d.askOwn r, false, homeOnly)
           | none => (d.askOwn r, false, homeOnly))
      | _ =>
        if homeOnly || d.isLeaving a l then (d, false, homeOnly)
        else
          let x := d.pumpRead r
          (x.1, x.2, homeOnly)

def Dev.pumpGo (d : Dev) (homeOnly : Bool) : List Nat → Dev
  | [] => d
  | id :: r =>
    let x := d.pumpOne id homeOnly
    if x.2.1 then Dev.pumpGo x.1 x.2.2 r else x.1

/-- The requests of an agent for a line of this device's stacks, in order of issue. -/
def Dev.lineReqs (d : Dev) (agent l : Nat) : List Nat :=
  (d.reqs.filter (fun r => r.agent == agent && (accLines r).contains l &&
    (match r.tgt with | .stack _ _ => true | _ => false) && !(r.flag && r.colo))).map (fun r => r.id)

/-- The agent goes on with its requests for a line. -/
def Dev.pump (d : Dev) (agent l : Nat) : Dev := d.pumpGo false (d.lineReqs agent l)

/-- What waited behind a request at its agent goes on. -/
def Dev.pumpAfter (d : Dev) (r : Req) : Dev := (accLines r).foldl (fun d l => d.pump r.agent l) d

/-- Both Galleys of a quadrant, and its Case's own requests, for a line. -/
def Dev.pumpQuad (d : Dev) (q l : Nat) : Dev := ((d.pump (2 * q) l).pump (2 * q + 1) l).pump (8 + q) l

/-- Every line of an agent with requests that have not left it, in the order of service (R281). -/
def Dev.pumpAll (d : Dev) (keep : Req → Bool) : Dev :=
  ((served Req.key (d.reqs.filter (fun r => keep r && !r.issued && (match r.tgt with | .stack _ _ => true | _ => false)))).map
    (fun r => (r.agent, r.line))).eraseDups.foldl (fun d e => d.pump e.1 e.2) d

/-! ### The shadow journal (R410) -/

/-- A journal entry that could not be written goes to the channel's shadow ring. The writing request carries the whole entry.
`why`: 1 discarded by a fence, 2 target in reset, 3 address error. -/
def Dev.shadowRec (d : Dev) (r : Req) (x q why : Nat) : Dev :=
  let ch := d.chanOf (x / 2)
  let p := pHst ch
  if !d.on p fHST_SHJ_CFG_EN 0 || !r.flag then d
  else
    let n := d.get p fHST_SHJ_COUNT_COUNT 0
    let size := 2 ^ d.get p fHST_SHJ_CFG_LOGSZ 0
    if size ≤ (n + 1 + 2 ^ 31 - d.get p fHST_SHJ_RP_RP 0) % 2 ^ 31 then d.set p fHST_SHJ_COUNT_OVF 0 1
    else
      let a := (d.get64 p 0x160 0 % 2 ^ 48) / 4096 * 4096 + 64 * (n % size)
      let v := (r.data >>> (8 * (r.addr % 128))) % 2 ^ 256 + 2 ^ 256 * (x + 256 * q + 65536 * why + 2 ^ 32 * n)
      let part := d.get p fHST_SHJ_CFG_PART 0
      let quad := (d.quadsOf ch).headD 0
      let d := d.set p fHST_SHJ_COUNT_COUNT 0 (n + 1)
      match d.decode quad part a true true with
      | .stack st off =>
        (d.addReq { Req.blank with cli := .shadow ch, op := .wr, addr := a, tgt := .stack st off, mask := byteMask (a % 128) 64,
                                   data := v * 2 ^ (8 * (a % 128)), part := part, quad := quad, scope := 3,
                                   accepted := true }).pump 12 (a / 128)
      | _ => d.raise (pQctl quad) 10 (part * 256 + 8)

/-- The request's target on this device lies in a domain in reset (Table 17.2): it is turned away, unless it belongs to that
domain, or writes a shadow record. -/
def Dev.absorbed (d : Dev) (r : Req) : Bool :=
  match r.tgt with
  | .stack s _ =>
    d.domInReset (.quad (quad (s / 5))) &&
    (match r.cli with
     | .shadow _ => false
     | .dma _ _ | .mailbox _ _ | .chunk _ | .ctl => true
     | _ => d.domQuad r.quad != d.domQuad (s / 5) && !d.domInReset .device)
  | _ => false

/-- Why a journal entry's write failed. -/
def Dev.whyLost (d : Dev) (r : Req) : Nat :=
  match d.decode r.quad r.part r.addr true false with
  | .stack s off => if d.absorbed { r with tgt := .stack s off } then 2 else 3
  | _ => 3

/-! ### Address errors (R30) -/

/-- A request fails: address error, refused or abandoned. Reads and atomics answer their consumer; a write's command ends
with ADDR; a journal or save-area write raises JRNL; an engine's write is kept for the engine to see. -/
def Dev.failReq (d : Dev) (id : Nat) : Dev :=
  match d.req id with
  | none => d
  | some r =>
    match r.cli with
    | .prefetch _ _ _ => d.dropReq id
    | .delivery c sl ent _ => (d.dropReq id).endRun c sl 0x26 stDlv ent true
    | .inkSt c _ sl ent => (d.dropReq id).endRun c sl 0x26 stInk ent false
    | .journal x q _ => (((d.dropReq id).raiseIf r.flag (pImp x) 2 q)).shadowRec r x q (d.whyLost r)
    | .save x q => (d.dropReq id).raise (pImp x) 2 q
    | .dma _ _ =>
      d.modReq id (fun r => { r with failed := true, ready := true, resErr := true, dev := true, sys := true })
    | .shadow _ | .mailbox _ _ | .chunk _ | .ctl => d.dropReq id
    | _ => d.answered id 0 true true

/-- An address error of a request of the H-die host agent or the device controller is reported by the issuing quadrant
(Table 16.9, QCTL source 10); one of a core's run by the run's end (R30). -/
def Dev.addrError (d : Dev) (id : Nat) : Dev :=
  match d.req id with
  | none => d
  | some r =>
    (d.raiseIf (clientMaster r.cli == 8) (pQctl r.quad) 10 (r.part * 256 + 8)).failReq id

/-! ### The host window (R341 to R346, R496) -/

/-- An enabled function of the channel: its PF, and in mediated mode PF0's VFs (R339). -/
def Dev.fnOf (d : Dev) (ch fn : Nat) : Bool :=
  if d.isSealedOp then fn == ch
  else fn == 0 || ((d.func 0).vfEnable && decide (fn ≤ (d.func 0).numVfs))

/-- The identity of a partition's requests to the host; none where HST_PTAG does not allow them (R341) or the function's
TDI is in ERROR (R354). -/
def Dev.hostId (d : Dev) (ch part : Nat) : Option HostId :=
  let p := pHst ch
  let fn := d.get p fHST_PTAG_FN part
  if d.on p fHST_PTAG_VALID part && d.fnOf ch fn && (d.func fn).tdi != 3 then
    some { fn := fn, pasid := if d.on p fHST_PTAG_PASIDEN part then some (d.get p fHST_PASID_PASID part) else none,
           translated := d.on p fHST_PTAG_ATS part }
  else none

def Dev.hostUp (d : Dev) : Bool := d.on .hst fHST_LINK_UP 0

/-- The contiguous runs of a byte mask: first byte and bytes. -/
def maskRuns (mask : Nat) : Nat → Nat → List (Nat × Nat) → List (Nat × Nat)
  | 0, _, acc => acc.reverse
  | n + 1, i, acc =>
    if mask.testBit i then
      (match acc with
       | (a, k) :: r => if a + k = i then maskRuns mask n (i + 1) ((a, k + 1) :: r) else maskRuns mask n (i + 1) ((i, 1) :: acc)
       | [] => maskRuns mask n (i + 1) [(i, 1)])
    else maskRuns mask n (i + 1) acc

def runsOf (mask : Nat) : List (Nat × Nat) := maskRuns mask 384 0 []

/-- Parts that carry Relaxed Ordering with HST_CTL.RO = 1 (R346): those of STORE, STOREAUX and DMA writes. -/
def Req.bulk (r : Req) : Bool :=
  match r.cli with
  | .delivery _ _ _ _ => !r.flag
  | .dma _ _ => !r.flag
  | _ => false

/-- A posted write is discarded while the link is down (R496). -/
def Dev.hostDiscard (d : Dev) (id : Nat) : Dev :=
  match d.req id with
  | none => d
  | some r =>
    match r.cli with
    | .save _ _ | .journal _ _ _ => d.failReq id
    | .dma _ _ => d.modReq id (fun r => { r with failed := true, expect := 5 })
    | _ => d.dropReq id

/-- A request that meets its channel's fence (Table 16.7): writes are discarded, reads and atomics return poisoned data. -/
def Dev.hostFenced (d : Dev) (id : Nat) : Dev :=
  match d.req id with
  | none => d
  | some r =>
    match r.op with
    | .wr | .acc _ _ =>
      (match r.cli with
       | .journal x q _ => (d.dropReq id).shadowRec r x q 1
       | .dma _ _ => d.modReq id (fun r => { r with failed := true, expect := 7 })
       | _ => d.dropReq id)
    | _ => d.answered id (poisonBytes (r.addr / 128)) true false

/-- The AtomicOp an ATOM maps to (R344). -/
def hostAtomOk (op : AOp) (bytes : Nat) : Bool :=
  match op with
  | .add => bytes != 16 | .exch => bytes != 16 | .cas => true | _ => false

/-- A request and its PCIe address, if it goes to the host. -/
def Dev.hostReq (d : Dev) (id : Nat) : Option (Req × Nat) :=
  match d.req id with
  | some r =>
    (match r.tgt with
     | .host a => some (r, a)
     | _ => none)
  | none => none

/-- The translation cache's entry for the page of a request (R342). -/
def Dev.atcEnt (d : Dev) (h : HostId) (addr : Nat) : Option AtcEnt :=
  d.host.atc.find? (fun e => e.fn == h.fn && e.pasid == h.pasid.getD 0 && e.page == addr / 4096)

/-- The address a request carries: translated where it is sent as translated. -/
def Dev.hostAddr (d : Dev) (h : HostId) (addr : Nat) : Nat :=
  if h.translated then
    (match d.atcEnt h addr with
     | some e => e.to_ * 4096 + addr % 4096
     | none => addr)
  else addr

/-- A read or atomic waits at the port while the link is down (R496). -/
def Dev.hostHold (d : Dev) (id : Nat) : Dev := { d with host := { d.host with heldReqs := d.host.heldReqs ++ [id] } }

/-- A host-window request leaves by the link: reads wait for their completion, writes are performed when sent. -/
def Dev.hostSend (d : Dev) (id : Nat) (h : HostId) : Dev :=
  match d.hostReq id with
  | some (r, asked) =>
    let addr := d.hostAddr h asked
    match r.op with
    | .wr =>
      if !d.hostUp then d.hostDiscard id
      else
        let relaxed := r.bulk && d.on .hst fHST_CTL_RO 0
        let base := addr - addr % 128
        let d := (runsOf r.mask).foldl (fun d e =>
          d.send (.hostWrite h (base + e.1) (leBytes e.2 (r.data >>> (8 * e.1))) relaxed r.psn)) d
        ((d.countMiss r).dropReq id).journalDone r
    | .acc _ _ => d.addrError id
    | .rd =>
      if !d.hostUp then d.hostHold id
      else
        let m := runsOf r.mask
        -- one read from the first byte wanted to the last
        let d := match m with
          | e :: _ =>
            let l := m.getLast?.getD e
            d.send (.hostRead id h (addr - addr % 128 + e.1) (l.1 + l.2 - e.1))
          | [] => d.send (.hostRead id h addr r.size)
        { d with host := { d.host with sent := d.host.sent ++ [id] } }
    | .atom op w lanes =>
      if !d.hostUp then d.hostHold id
      else
        let bytes := atomWidth w
        -- commutative lanes combine; the last of serialised exchanges is what memory keeps (R143)
        let off := (lanes.head?.map (fun l => l.2.1)).getD 0
        let a := match op with
          | .add => (lanes.foldl (fun a l => a + l.2.2.1) 0) % 2 ^ (8 * bytes)
          | .exch => (lanes.getLast?.map (fun l => l.2.2.1)).getD 0
          | _ => (lanes.head?.map (fun l => l.2.2.1)).getD 0
        let b := (lanes.head?.map (fun l => l.2.2.2)).getD 0
        let d := d.send (.hostAtomic id h op (addr - addr % 128 + off) bytes a b)
        { d with host := { d.host with sent := d.host.sent ++ [id] } }
  | none => d

/-- A read or atomic goes out, or first asks for its translation (R342), which needs the link too. -/
def Dev.hostGo (d : Dev) (id : Nat) (h : HostId) : Dev :=
  match d.hostReq id with
  | some (_, addr) =>
    if h.translated && (d.atcEnt h addr).isNone then (if d.hostUp then d.send (.atsRequest id h.fn) else d.hostHold id)
    else d.hostSend id h
  | none => d

def Dev.setPosted (d : Dev) (l : List Nat) : Dev := { d with host := { d.host with posted := l } }

/-- The writes at the port go out: of one partition in the order they reached it, each once it has its translation (R342, R346). -/
def Dev.drainPosted (d : Dev) : List Nat → Dev
  | [] => d
  | id :: rest =>
    let gone (d : Dev) : Dev := d.setPosted (d.host.posted.filter (fun i => i != id))
    match d.hostReq id with
    | none => (gone d).drainPosted rest
    | some (r, addr) =>
      let ahead := (d.host.posted.takeWhile (fun i => i != id)).any (fun i => match d.req i with
        | some x => x.part == r.part && d.chanOf x.quad == d.chanOf r.quad
        | none => false)
      match d.hostId (d.chanOf r.quad) r.part with
      | none => ((gone d).addrError id).drainPosted rest
      | some h =>
        if h.translated && (d.atcEnt h addr).isNone then
          (if d.hostUp then d.drainPosted rest else ((gone d).hostDiscard id).drainPosted rest)
        else if ahead then d.drainPosted rest
        else ((gone d).hostSend id h).drainPosted rest

def Dev.sendPosted (d : Dev) : Dev := d.drainPosted d.host.posted

/-- A request at the port: a write joins those that wait there. -/
def Dev.hostEnter (d : Dev) (id : Nat) (h : HostId) : Dev :=
  match d.hostReq id with
  | some (r, addr) =>
    if r.isWrite then
      let d := d.setPosted (d.host.posted ++ [id])
      (if h.translated && (d.atcEnt h addr).isNone && d.hostUp then d.send (.atsRequest id h.fn) else d).sendPosted
    else d.hostGo id h
  | none => d

/-- A host-window request reaches the port. -/
def Dev.hostIssue (d : Dev) (id : Nat) : Dev :=
  match d.hostReq id with
  | some (r, _) =>
    let ch := d.chanOf r.quad
    match d.hostId ch r.part with
    | none => d.addrError id
    | some h =>
      -- QREQ of the channel's HST page holds it at its source (Table 15.4), as does an H-die link that does not carry (R9)
      if d.on (pHst ch) fBLK_CTL_QREQ 0 || !d.carries (agentDie r.agent) 4 then d
      else if d.on (.errcCh (chan ch)) fERRC_FENCE_FENCED 0 then d.hostFenced id
      else
      let bad := match r.op with
        | .atom op w _ => !hostAtomOk op (atomWidth w) || !(d.func h.fn).atomics
        | _ => false
      if bad then d.addrError id
      else
        (d.modReq id (fun r => { r with issued := true })).hostEnter id h
  | none => d

/-- An atomic to the host or a peer waits for an earlier one of its group on the same address (R143). -/
def Dev.atomWaits (d : Dev) (id : Nat) : Bool :=
  match d.req id with
  | none => false
  | some r =>
    (match r.op with
     | .atom _ _ _ => d.reqs.any (fun x => decide (x.id < id) && decide (x.cli = r.cli) && x.addr == r.addr && !x.ready &&
         (match x.op with | .atom _ _ _ => true | _ => false))
     | _ => false)

/-- Host-window requests held at their sources go on. -/
def Dev.releaseHost (d : Dev) (ch : Nat) : Dev :=
  ((served Req.key (d.reqs.filter (fun r => !r.issued && !r.failed && d.chanOf r.quad == ch &&
    (match r.tgt with | .host _ => true | _ => false)))).map (fun r => r.id)).foldl
    (fun d id => if d.atomWaits id then d else d.hostIssue id) d

/-! ### Issuing -/

/-- Invalidates a peer line of the issuing quadrant's window (R176). -/
def Dev.dropPeerLine (d : Dev) (q l : Nat) : Dev :=
  (List.range 16).foldl (fun d s =>
    match d.cline (8 + q) s l with
    | some c => if c.peer then d.setCline (8 + q) s l none else d
    | none => d) d

/-- Where a request goes (R29), unless its target cannot be reached (R330) or lies in a domain in reset. -/
def Dev.targetOf (d : Dev) (r : Req) : Target :=
  let host := match r.cli with | .dma _ _ | .shadow _ | .mailbox _ _ | .chunk _ | .ctl => true | _ => false
  let tgt := match r.tgt with
    | .addrError => d.decode r.quad r.part r.addr r.isWrite host
    | t => t
  match tgt with
  | .peer dev _ _ _ => if dev != d.devId && d.isSealedOp && !d.peerReach r.quad dev then .addrError else tgt
  | .stack _ _ => if d.absorbed { r with tgt := tgt } then .addrError else tgt
  | _ => tgt

/-- A request issues: it is decoded, and goes to its agent, to the host port, or waits for a tag (R29, R307). A read of a peer
line that the partition's remote-cache window holds is answered there unless it has no ways (R215); anything that writes the
line drops it from the window, an ATOM too: DESIGN CHOICE (log entry 123), since R176 names writes and accumulate-writes only.
-/
def Dev.issue (d : Dev) (r : Req) : Dev :=
  let tgt := d.targetOf r
  let id := d.nextReq
  let tc := match tgt with
    | .peer _ _ tc _ => tc
    | _ => r.tc
  let d := d.addReq { r with tgt := tgt, tc := tc }
  match tgt with
  | .addrError => d.addrError id
  | .host _ => if d.atomWaits id then d else d.hostIssue id
  | .peer _ _ _ rc =>
    if rc then
      (match r.op with
       | .rd =>
         (match d.caseCopy r.quad (r.addr / 128) r.part with
          | some (s, c) =>
            if c.peer && d.get (pQctl r.quad) fQCTL_PCFG_RCWAYS r.part != 0 then
              ((d.setCline (8 + r.quad) s (r.addr / 128) (some { c with used := d.useCtr + 1 })).answered id c.data.toNat
                c.psn false)
            else d
          | none => d)
       | _ => d.dropPeerLine r.quad (r.addr / 128))
    else d
  | .stack _ _ =>
    let d := match r.op with
      | .wr => if r.flag && r.colo then d else d.modReq id (fun r => { r with accepted := true })
      | .atom _ _ _ => if r.scope < 2 then d.modReq id (fun r => { r with accepted := true }) else d
      | _ => d
    if r.flag && r.colo then d.modReq id (fun r => { r with issued := true })
    else d.pump (clientAgent r.cli) (r.addr / 128)

def Dev.issueAll (d : Dev) : List Req → Dev
  | [] => d
  | r :: rs => Dev.issueAll (d.issue r) rs

end Sys2Proof.Machine
end

