-- ==== Sys2Proof/Machine/Peer.lean ====
section
/-!
DEFINITION. What becomes of a request that its home turns away (R246, R310, R495).
-/

namespace Sys2Proof.Machine

open Sys2Proof

/-- Refuses a request that came over Exwin, by each of its tags. -/
def Req.refuseAll (d : Dev) (r : Req) (cause : Nat) : Dev :=
  match r.cli with
  | .peerIn p src _ gen tc => r.peerTags.foldl (fun d t => d.refuseTag p src t gen tc r.budget r.late cause) d
  | _ => d

/-- A request is turned away at its home: one that came over Exwin is answered REFUSE, one of this device fails as an address
error of its issuer. What waited behind it goes on. -/
def Dev.turnAway (d : Dev) (id cause : Nat) : Dev :=
  match d.req id with
  | none => d
  | some r =>
    match r.cli with
    | .peerIn _ _ _ _ _ => (Req.refuseAll (d.dropReq id) r cause).pumpAfter r
    | _ => (d.failReq id).pumpAfter r

/-- The source of a discarded colophon write is told only over Exwin (R310, R495). -/
def Dev.answerColo (d : Dev) (r : Req) (cause : Nat) : Dev :=
  match r.cli with
  | .peerIn _ _ _ _ _ => (Req.refuseAll d r cause).pumpAfter r
  | _ => d.pumpAfter r

/-- Discards a colophon write. -/
def Dev.turnAwayColo (d : Dev) (id cause : Nat) : Dev :=
  match d.req id with
  | none => d
  | some r => (d.dropReq id).answerColo r cause

end Sys2Proof.Machine
end

