-- ==== Sys2Proof/Machine/Coherence.lean ====
section
/-!
DEFINITION. The home of a line (chapter 9, R227 to R243): its directory, its transactions and their order, the snoops, and
what agents do with what they receive.
-/

namespace Sys2Proof.Machine

open Sys2Proof

/-! ### Directory entries (R232 to R235) -/

/-- Home line index, its bank and set. -/
def lineH (l : Nat) : Nat := (lineStack l % 5) * 2 ^ 30 + l % 2 ^ 30
def lineBankNo (l : Nat) : Nat := lineH l % 16
def lineDirSet (l : Nat) : Nat := lineH l / 16 % 8192
def lineDirPage (l : Nat) : Page := pDir (lineQuad l) (lineBankNo l)

def Dev.dirEnt (d : Dev) (l : Nat) : Option DirEnt := NMap.get d.dir l none
def Dev.setDir (d : Dev) (l : Nat) (e : Option DirEnt) : Dev := { d with dir := NMap.put d.dir l e none }
def Dev.txn (d : Dev) (l : Nat) : Option Txn := NMap.get d.txns l none
def Dev.setTxn (d : Dev) (l : Nat) (t : Option Txn) : Dev := { d with txns := NMap.put d.txns l t none }
def Dev.modTxn (d : Dev) (l : Nat) (f : Txn → Txn) : Dev :=
  match d.txn l with
  | some t => d.setTxn l (some (f t))
  | none => d

def DirEnt.sharers (e : DirEnt) : List Nat := e.ptrs.filterMap id
/-- The owner of an entry whose state has one, and knows it. -/
def DirEnt.own? (e : DirEnt) : Option Nat := if (e.st = 2 ∨ e.st = 3) ∧ e.lost = false then some e.owner else none

/-- Adds a sharer, or turns to broadcast (R234). -/
def DirEnt.addSharer (e : DirEnt) (a : Nat) : DirEnt :=
  if e.bcast || e.sharers.contains a then e
  else
    match e.ptrs with
    | [none, p1, p2] => { e with ptrs := [some a, p1, p2] }
    | [p0, none, p2] => { e with ptrs := [p0, some a, p2] }
    | [p0, p1, none] => { e with ptrs := [p0, p1, some a] }
    | _ => { e with bcast := true, ptrs := [none, none, none] }

/-- The sharers are gone; BCAST stays until the entry is removed (R234). -/
def DirEnt.noSharers (e : DirEnt) : DirEnt := { e with ptrs := [none, none, none] }

def mkEntry (st owner used : Nat) : DirEnt := ⟨st, false, owner, [none, none, none], used, false⟩

/-- The caching agents of a home's channel but its own Case (R227, R234). -/
def Dev.chanAgents (d : Dev) (q : Nat) : List Nat :=
  (List.range 13).filter (fun a =>
    a != 8 + q && (a == 12 || d.chanOf (if a < 8 then a / 2 else a - 8) == d.chanOf q))

/-- Whom an invalidation of an entry's sharers goes to (R234), the requester left out. -/
def Dev.invTargets (d : Dev) (q : Nat) (e : DirEnt) (skip : Nat) : List Nat :=
  (if e.bcast then (d.chanAgents q).filter (fun a => e.own? != some a) else e.sharers).filter (fun a => a != skip)

/-- The entries of a line's directory set. -/
def Dev.dirSetLines (d : Dev) (l : Nat) : List (Nat × DirEnt) :=
  d.dir.filterMap (fun e =>
    if lineQuad e.1 = lineQuad l ∧ lineBankNo e.1 = lineBankNo l ∧ lineDirSet e.1 = lineDirSet l then
      e.2.map (fun x => (e.1, x))
    else none)

/-- A message that Tables 9.5 and 9.6 do not allow (R238, R255); `k` names its kind (log entry 8). -/
def Dev.proto (d : Dev) (l agent k : Nat) : Dev :=
  d.raise (lineDirPage l) 2 (agent % 16 + 16 * (Config.protoKind k % 16))

/-! ### Array errors (R223) -/

/-- The slice a home lookup of a line goes to. -/
def Dev.homeSlice (d : Dev) (l part : Nat) : Nat :=
  match d.caseCopy (lineQuad l) l part with
  | some (s, _) => s
  | none => (d.place l (d.placer l part) (lineQuad l)).getD 0

/-- What a lookup of a home's own copy finds. -/
def Dev.caseEcc (d : Dev) (q l part : Nat) (e : ArrayEcc) : Dev :=
  let s := d.homeSlice l part
  let p := pCase q s
  let set := caseSet l
  let way := match d.caseCopy q l part with
    | some (_, c) => c.way % 8
    | none => 0
  -- written back as poison, unless it is a stereo line's copy, which is never written
  let poison (d : Dev) : Dev := match d.caseCopy q l part with
    | some (s, c) => d.setCline (8 + q) s l (some { c with psn := true, dirty := c.dirty || c.st == .h })
    | none => d
  match e with
  | .clean => d
  | .ce => d.raise p 0 (set + way * 8192)
  | .ueClean =>
    (match d.caseCopy q l part with
     | some (s, c) => if c.dirty || c.held then d else (d.setCline (8 + q) s l none).raise p 1 set
     | none => d)
  | .ueDirty =>
    (match d.caseCopy q l part with
     | some (_, c) => if c.dirty then (poison d).raise p 2 set else d
     | none => d)
  | .tagUe => (poison d).raise p 3 set

/-! ### Parking and order (R240, R210, R254, R264) -/

/-- The reduction-buffer entry of a B-die whose range holds a line, in a given state. -/
def Dev.rbAt (d : Dev) (q l st : Nat) : Option Nat :=
  (List.range 64).find? (fun e =>
    d.get (pQctl q) fQCTL_RB_STAT_STATE e == st &&
    inRange (128 * l) (d.get64 (pQctl q) 0x284 e) (384 * d.get (pQctl q) fQCTL_RB_SIZE_BLOCKS e))

/-- New requests to the line are held: its home unit changes owner or is zeroed, or its buffer is being cleared (R279). -/
def Dev.lineParked (d : Dev) (l : Nat) : Bool :=
  let t := lineStack l
  let q := lineQuad l
  (match NMap.get d.hmapBusy q none with
   | some (u, _) => u == homeUnit t (lineOff l)
   | none => false) ||
  (d.on (pStk t) fSTK_STAT_ZBUSY 0 && (d.stk t).zunit == homeUnit t (lineOff l)) ||
  (d.rbAt q l 1).isSome

/-- A request that may need a new directory entry. -/
def newEntry (k : HKind) : Bool := match k with | .rds | .rdx => true | _ => false

/-- A transaction as it begins. -/
def Txn.start (r : HReq) (recalled : Bool) (room : Option Nat) : Txn :=
  { req := r, await := [], got := none, gotDirty := false, gotMem := false, direct := false, upgrade := false, recalled := recalled,
    ownerGone := false, inv := false, room := room, ready := false }

/-- What a request at its home carries: a request of an agent's own as that stands, everything else as it was sent. -/
def Dev.svcOf (d : Dev) (h : HReq) : Svc :=
  match h.kind with
  | .wb | .eve | .adds | .xfer => h.svc
  | _ => ((d.req h.req).map Req.svc).getD h.svc

/-- What a message carries: snoops, answers and replies the class, budget and lateness of the request that caused them, which is
that of the line's transaction or the one a reply is for, and an acknowledgement that of the write-back (R275, R278). -/
def Dev.msgSvc (d : Dev) : WMsg → Svc
  | .request h => d.svcOf h
  | .reply _ a l _ _ part =>
    ((d.reqs.find? (fun r => r.agent == a && r.line == l && r.issued && !r.ready)).map Req.svc).getD (d.wbSvc a l part)
  | .ack a l => d.wbSvc a l 0
  | m =>
    match d.txn (msgLine m) with
    | some t => d.svcOf t.req
    | none => d.svc0 (lineQuad (msgLine m)) 0 3

/-! ### Installing replies at agents -/

/-- Installs a line in a Galley or the host agent and goes on with its requests; a line for which there is no way is used by
the requests that wait and leaves at once (R204, R208). Way 16 stands for the fill buffer. -/
def Dev.installGal (d : Dev) (agent part l : Nat) (st : LState) (data : Nat) (psn : Bool) : Dev :=
  let f := d.fillGal agent part l st data psn
  if f.2 then f.1.pump agent l
  else
    let place := d.galPlace l part
    let c : CLine := { st := st, dirty := st == .m, data := BitVec.ofNat 1024 data, psn := psn, part := part, cls := 1, win := 0,
                       peer := false, way := 16, used := d.useCtr, held := false, leaving := false }
    let d := (d.setCline agent place l (some c)).pump agent l
    match d.cline agent place l with
    | some c => if c.way = 16 ∧ ¬c.leaving then d.evictGal agent (lineKeyOf agent place l) else d
    | none => d

/-- Gives data to the reads of an agent that wait for a line without installing it, up to the first request of another
kind. -/
def Dev.serveReads (d : Dev) (data : Nat) (psn : Bool) : List Nat → Dev
  | [] => d
  | id :: rest =>
    match d.req id with
    | none => Dev.serveReads d data psn rest
    | some r =>
      if r.ready || r.dev then Dev.serveReads d data psn rest
      else
        match r.op with
        | .rd => Dev.serveReads (d.answered id data psn false) data psn rest
        | _ => d

/-- A reply reaches its agent (R231, R242). -/
def Dev.takeReply (d : Dev) (a l : Nat) (st : Option LState) (data : Option (Nat × Bool)) (part : Nat) : Dev :=
  let isCase := decide (8 ≤ a ∧ a < 12)
  let place := if d.stereoLine l then 1 + part else 0
  match d.mshrAt a place l with
  | none => d
  | some m =>
    match m.want with
    | .rdcur =>
      (match data with
       | some x =>
         let d := d.setMshr a place l none
         (match (d.lineReqs a l).find? (fun id => match d.req id with
            | some r => r.op == .rd && !r.ready && r.issued
            | none => false) with
          | some id => (d.answered id x.1 x.2 false).pump a l
          | none => d.pump a l)
       | none => d)
    | .rdx =>
      (match st with
       | some _ =>
         let own := (d.cline a place l).filter (fun c => !c.leaving)
         let x : Nat × Bool := match data with
           | some x => x
           | none =>
             (match m.data with
              | some x => x
              | none => (match own with | some c => (c.data.toNat, c.psn) | none => (0, false)))
         ((d.setMshr a place l none)).installGal a part l .m x.1 x.2
       | none => d.setMshr a place l (some { m with data := data }))
    | _ =>
      (match data with
       | none => d
       | some x =>
         let d := d.setMshr a place l none
         if isCase then
           let q := a - 8
           let d := (d.fillCase q (d.placer l part) l .s false false false x.1 x.2).1
           let d := m.galleys.foldl (fun d g =>
             let alloc := (d.lineReqs g l).any (fun id => match d.req id with
               | some r => !r.ready && d.reqClass r == .rdAlloc
               | none => false)
             let f := if alloc then d.fillGal g part l .s x.1 x.2 else (d, false)
             let d := if f.2 && !f.1.stereoLine l then f.1.toHome .adds a l part g false (d.svc0 q part 1) else f.1
             d.serveReads x.1 x.2 (d.lineReqs g l)) d
           d.pumpQuad q l
         else d.installGal a part l (st.getD .s) x.1 x.2)

/-- A reply for an agent and line. -/
def isReply (a l : Nat) : WMsg → Bool
  | .reply _ t n _ _ _ => t == a && n == l
  | _ => false

/-- The first reply for an agent and line in flight is delivered. -/
def Dev.deliverReply (d : Dev) (a l : Nat) : Dev :=
  match d.wire.find? (isReply a l) with
  | some (.reply _ _ _ st data part) => ({ d with wire := dropFirst (isReply a l) d.wire }).takeReply a l st data part
  | _ => d

/-- Every reply on its way to an agent for a line can reach it (R9). -/
def Dev.repliesCarry (d : Dev) (a l : Nat) : Bool :=
  d.wire.all (fun m => !isReply a l m || (match m with | .reply die _ _ _ _ _ => d.carries die (agentDie a) | _ => true))

def Dev.deliverReplies (d : Dev) (a l : Nat) : Nat → Dev
  | 0 => d
  | n + 1 => Dev.deliverReplies (d.deliverReply a l) a l n

/-- The home replies. -/
def Dev.sendReply (d : Dev) (dest l : Nat) (st : Option LState) (data : Option (Nat × Bool)) (part : Nat) : Dev :=
  d.wireMsg (.reply (lineQuad l) dest l st data part)

/-! ### The home copy -/

/-- Puts data into the home's own copy, dirty with respect to memory; without a victim it goes to memory (R214, R235). -/
def Dev.putHome (d : Dev) (l part data : Nat) (psn : Bool) (svc : Svc) : Dev :=
  let f := d.fillCase (lineQuad l) (d.placer l part) l .h true false false data psn
  if f.2 then f.1 else d.dramWrite l data psn svc

/-- A lookup hits the home's own copy, which becomes most recently used (R214). -/
def Dev.touchHome (d : Dev) (l s : Nat) (c : CLine) : Dev :=
  ({ d with useCtr := d.useCtr + 1 }).setCline (8 + lineQuad l) s l (some { c with used := d.useCtr + 1 })

/-! ### Accumulate-writes (R246 to R252) -/

/-- The 12-byte groups of a block's mask are whole or empty: the written bytes keep to element boundaries (R246). -/
def chaseAligned (mask : Nat) : Bool :=
  (List.range 32).all (fun j => let g := mask >>> (12 * j) % 4096; g == 0 || g == 4095)

/-- The refusal cause of a Chase block at its home: 1 no OPEN entry, 2 partition, 3 alignment (R246). -/
def Dev.accRefusal (d : Dev) (r : Req) (part : Nat) : Option Nat :=
  let q := lineQuad r.line
  match r.op with
  | .acc 0 _ =>
    (match d.rbAt q r.line 2 with
     | none => some 1
     | some e =>
       if d.get (pQctl q) fQCTL_RB_CFG_PART e ≠ part then some 2
       else if !chaseAligned r.mask then some 3 else none)
  | _ => none

/-- The partition a request counts for at its home: its own, or for one over Exwin the owner of the target's unit (R310). -/
def Dev.homePart (d : Dev) (r : Req) : Nat :=
  match r.cli with
  | .peerIn _ _ _ _ _ => d.owner (lineStack r.line) (lineOff r.line)
  | _ => r.part

/-- The home's data of a line is here for a reduction: it is held in the Case, or without a victim the whole block falls
back to the memory controller (R249, R250). -/
def Dev.holdLine (d : Dev) (l part id data : Nat) (psn dirty : Bool) : Dev :=
  let q := lineQuad l
  let f := d.fillCase q (d.placer l part) l .h dirty false true data psn
  let d := f.1.modTxn l (fun t => { t with ready := true })
  if f.2 then d
  else
    let s := ((d.redq.find? (fun e => e.2 == id)).map (·.1)).getD (q * 16)
    let d := d.when dirty (fun d => d.dramWrite l data psn (((d.req id).map Req.svc).getD (d.svc0 q part 2)))
    if d.redMc.any (fun e => e.2 == id) then d
    else ({ d with redMc := d.redMc ++ [(s, id)] }).bump (pCase q (s % 16)) fCASE_RBFALL_COUNT 0 1

/-! ### Finishing a transaction -/

/-- Ends a line's transaction. -/
def Dev.endTxn (d : Dev) (l : Nat) : Dev := d.setTxn l none

/-- The home performs a write or atomic of a HomeOp on the line's current data (Table 9.5), which becomes a dirty home
copy; the line has no entry afterwards. The agent's requests behind it go on. -/
def Dev.performHome (d : Dev) (r : HReq) (data : Nat) (psn : Bool) : Dev :=
  let l := r.line
  let svc := d.svcOf r
  let d := (d.endTxn l).setDir l none
  match d.req r.req with
  | none => if r.full then d.putHome l r.part r.data r.psn svc else d.putHome l r.part data psn svc
  | some rq =>
    match rq.op with
    | .atom op w lanes =>
      if psn then ((d.putHome l r.part data psn svc).answered r.req 0 true false).pumpAfter rq
      else
        let x := atomLanes op (atomWidth w) lanes data 0 0
        (((d.putHome l r.part x.1 false svc).modReq r.req (fun r => { r with flags := x.2.2 })).answered r.req x.2.1 false
          false).pumpAfter rq
    | _ =>
      let x := mergeLine data psn rq
      ((d.putHome l r.part x.1 x.2 svc).performed r.req).pumpAfter rq

/-- Every answer is in and the data is known: the home acts (Table 9.5). `data` is the current data, `none` where the owner
has sent it to the requester itself, or none is needed; `dirty`: it differs from memory; `mem`: it was read from memory just now,
and the home Case allocates it (Table 8.2). -/
def Dev.finishTxn (d : Dev) (l : Nat) (t : Txn) (data : Option (Nat × Bool)) (dirty mem : Bool) : Dev :=
  let r := t.req
  let q := lineQuad l
  let d := match data with
    | some x => if mem && !t.recalled && r.kind != HKind.homeop then
        (d.fillCase q (d.placer l r.part) l (if d.stereoLine l then .s else .h) false false false x.1 x.2).1 else d
    | none => d
  let used := d.useCtr
  let e0 := d.dirEnt l
  if t.recalled then
    let d := ((d.endTxn l).setDir l none).when r.svc.late (fun d => d.missAt q r.part r.svc.tc)
    (match t.got with
     | some x => d.when t.gotDirty (fun d => d.putHome l r.part x.1 x.2 r.svc)
     | none => d)
  else
    match r.kind with
    | .rds =>
      if d.stereoLine l then (d.endTxn l).sendReply r.agent l (some .s) data r.part
      else
        let e := e0.getD (mkEntry 1 0 used)
        let excl := e0.isNone && decide (r.agent < 8 ∨ r.agent = 12)
        let d := d.endTxn l
        if t.direct then d.setDir l (some ({ e with used := used }.addSharer r.agent))
        else if excl then (d.setDir l (some (mkEntry 2 r.agent used))).sendReply r.agent l (some .e) data r.part
        else (d.setDir l (some ({ e with used := used }.addSharer r.agent))).sendReply r.agent l (some .s) data r.part
    | .rdx =>
      ((d.endTxn l).setDir l (some { mkEntry 2 r.agent used with bcast := (e0.map (fun e => e.bcast)).getD false })).sendReply r.agent l
        (some .m) data r.part
    | .rdcur => if t.direct then d.endTxn l else (d.endTxn l).sendReply r.agent l none data r.part
    | _ =>
      match d.req r.req with
      | some rq =>
        (match rq.op with
         | .acc _ _ =>
           let x := data.getD (0, false)
           (d.setDir l none).holdLine l r.part r.req x.1 x.2 dirty
         | _ => let x := data.getD (0, false); d.performHome r x.1 x.2)
      | none => let x := data.getD (0, false); d.performHome r x.1 x.2

/-- Whether a transaction needs the line's data at its home. -/
def Dev.needsData (d : Dev) (l : Nat) (t : Txn) : Bool :=
  if t.recalled || t.direct then false
  else
    match t.req.kind with
    | .rdx => !(t.req.full || (t.upgrade && (d.copyOf t.req.agent l).isSome))
    | .homeop => !(t.req.full && (match d.req t.req.req with
        | some r => r.op == .wr && decide (r.mask % 2 ^ 128 = 2 ^ 128 - 1)
        | none => true))
    | _ => true

/-- A transaction with no answer outstanding goes on: it snoops the owner and the sharers the table names, then fetches
the data the home must supply, then finishes. -/
def Dev.evalOne (d : Dev) (l : Nat) : Dev :=
  match d.txn l with
  | none => d
  | some t =>
    if !t.await.isEmpty || t.ready then d
    else
      let r := t.req
      let q := lineQuad l
      let e := d.dirEnt l
      let taking := t.recalled || (match r.kind with | .rdx | .homeop => true | _ => false)
      let owner := (e.bind DirEnt.own?).filter (fun x => (taking && (t.recalled || r.kind == HKind.homeop)) || x != r.agent)
      let lost := (e.map (fun e => e.lost)).getD false
      let bc := (e.map (fun e => e.bcast)).getD false
      let skip := if r.kind = HKind.rdx ∧ ¬t.recalled then r.agent else 16
      -- whom an invalidation of the sharers goes to: an EX entry has none, but a recall follows R235
      let ts := match e with
        | some e => if !taking || t.inv || (e.st == 2 && !t.recalled) then [] else d.invTargets q e skip
        | none => []
      let counted (d : Dev) : Dev := d.when (bc && !ts.isEmpty) (fun d => d.bump (lineDirPage l) fDIR_BCAST_COUNT 0 1)
      if taking && lost && !t.inv then
        -- an unknown owner: SnpOwn to every agent of the channel (R236)
        let ts := d.chanAgents q
        let d := ts.foldl (fun d a => d.wireMsg (.snpOwn a (8 + q) l false)) d
        (d.bump (lineDirPage l) fDIR_BCAST_COUNT 0 1).setTxn l (some { t with await := ts, inv := true })
      else
        match (if t.direct && !taking then none else owner) with
        | some x =>
          if t.ownerGone then d
          else if taking then
            -- SnpOwn to the owner and SnpInv to the sharers (R238)
            let ts' := ts.filter (fun a => a != x)
            let d := (ts'.foldl (fun d a => d.wireMsg (.snpInv a l)) d).wireMsg (.snpOwn x (if skip = 16 then 8 + q else skip) l r.full)
            ((counted d).setDir l (e.map DirEnt.noSharers)).setTxn l (some { t with await := x :: ts', inv := true })
          else
            let d := match r.kind with
              | .rdcur => d.wireMsg (.snpCur x r.agent l)
              | _ => d.wireMsg (.snpShr x r.agent l)
            d.setTxn l (some { t with await := [x] })
        | none =>
          let listed := (e.map (fun e => e.sharers.contains r.agent || e.own? == some r.agent)).getD false
          let t := { t with upgrade := t.upgrade || listed }
          if !ts.isEmpty then
            let d := ts.foldl (fun d a => d.wireMsg (.snpInv a l)) d
            ((counted d).setDir l (e.map DirEnt.noSharers)).setTxn l (some { t with await := ts, inv := true })
          else
            let d := d.setTxn l (some t)
            if !d.needsData l t then d.finishTxn l t none false false
            else
              match t.got with
              | some x => d.finishTxn l t (some x) t.gotDirty t.gotMem
              | none =>
                (match d.caseCopy q l r.part with
                 | some (s, c) =>
                   if c.held then d
                   else (d.touchHome l s c).finishTxn l t (some (c.data.toNat, c.psn)) c.dirty false
                 | none =>
                   if d.stkDead (lineStack l) then
                     (let x := d.dramRead l
                      x.2.2.finishTxn l t (some (x.1, x.2.1)) false false)
                   else (d.queueRead l).setTxn l (some { t with await := [15] }))

/-- The request a recall made room for takes the entry (R235). -/
def Dev.takeRoom (d : Dev) (n : Nat) : Dev :=
  match d.homeq.find? (fun r => r.line == n) with
  | none => d
  | some r =>
    (({ d with homeq := dropFirst (fun r => r.line == n) d.homeq }).setTxn n (some (Txn.start r false none))).evalOne n

/-- A transaction goes on; where it was a recall and has ended, the request it made room for starts. -/
def Dev.evalTxn (d : Dev) (l : Nat) : Dev :=
  let d' := d.evalOne l
  match (d.txn l).bind (fun t => t.room) with
  | some n => if (d'.txn l).isNone then d'.takeRoom n else d'
  | none => d'

/-- The memory controller's read of a line returns to its transaction. -/
def Dev.memReturn (d : Dev) (l data : Nat) (psn : Bool) : Dev :=
  match d.txn l with
  | some t =>
    if t.await.contains 15 then
      (d.setTxn l (some { t with await := t.await.erase 15, got := some (data, psn), gotDirty := false, gotMem := true })).evalTxn l
    else d
  | none => d

/-! ### Requests at the home -/

/-- The directory entries of a line's set that are in use, or that a transaction in flight needs or frees (R232, R235). -/
def Dev.setTaken (d : Dev) (l : Nat) : Nat :=
  (d.dirSetLines l).length +
  (d.txns.filter (fun e => lineQuad e.1 == lineQuad l && lineBankNo e.1 == lineBankNo l && lineDirSet e.1 == lineDirSet l &&
    (d.dirEnt e.1).isNone && !d.stereoLine e.1 && (match e.2 with | some t => t.recalled || newEntry t.req.kind | none => false))).length

/-- An entry is being recalled for a request to the line. -/
def Dev.makingRoom (d : Dev) (l : Nat) : Bool :=
  d.txns.any (fun e => match e.2 with | some t => t.room == some l | none => false)

/-- Starts a request whose line is free: the entry it needs, a recall to make room for it, then its transaction (R235, R236,
R240). The request is queued where it has to wait. -/
def Dev.homeStart (d : Dev) (r : HReq) : Dev :=
  let l := r.line
  let q := lineQuad l
  let d := d.caseEcc q l r.part r.ecc.arr
  let has := (d.dirEnt l).isSome
  let d := d.when (r.ecc.dirCe && has) (fun d => d.raise (lineDirPage l) 0 (lineDirSet l))
  let r0 := { r with ecc := ⟨.clean, false, false⟩ }
  let d := { d with useCtr := d.useCtr + 1 }
  let snoopOut (v : Nat) (room : Option Nat) (d : Dev) : Dev :=
    let part := d.owner (lineStack v) (lineOff v)
    let vr := { r0 with kind := .homeop, line := v, full := false, part := part, svc := d.svc0 (lineQuad v) part 3 }
    (d.setTxn v (some (Txn.start vr true room))).evalTxn v
  if r.ecc.dirUe && has then
    let d := d.raise (lineDirPage l) 1 (lineDirSet l)
    snoopOut l none { d.setDir l (some { mkEntry 3 0 d.useCtr with bcast := true, lost := true }) with homeq := r0 :: d.homeq }
  else if newEntry r.kind && !has && !d.stereoLine l && decide (16 ≤ d.setTaken l) then
    let free := (d.dirSetLines l).filter (fun e => (d.txn e.1).isNone)
    let pick := free.foldl (fun (b : Option (Nat × DirEnt)) e =>
      match b with
      | none => some e
      | some x => if e.2.used < x.2.used then some e else some x) none
    let d := { d with homeq := r0 :: d.homeq }
    match pick with
    | none => d
    | some (v, _) => snoopOut v (some l) (d.bump (lineDirPage v) fDIR_RECALL_COUNT 0 1)
  else
    let d := d.setDir l ((d.dirEnt l).map (fun e => { e with used := d.useCtr }))
    (d.setTxn l (some (Txn.start r0 false none))).evalTxn l

/-- No entry of the slice is free for a request; the lines of an accepted reduction do not wait for one. -/
def Dev.noEntry (d : Dev) (r : HReq) : Bool :=
  !(match r.kind, d.req r.req with
    | .homeop, some rq => (match rq.op with | .acc _ _ => true | _ => false)
    | _, _ => false) && d.missFull (lineQuad r.line) r.line r.part

/-- A request for a line waits its turn, or starts. -/
def Dev.homeEnter (d : Dev) (r : HReq) : Dev :=
  if (d.txn r.line).isSome || d.noEntry r || d.lineParked r.line || d.homeq.any (fun x => x.line == r.line) then
    { d with homeq := d.homeq ++ [r] }
  else d.homeStart r

/-- A request of an accumulate-write passes the checks of R246, and takes its place at its slice (R253), or is refused. -/
def Dev.accCheck (d : Dev) (r : HReq) (rq : Req) : Dev × Bool :=
  let q := lineQuad r.line
  match d.accRefusal rq (d.homePart rq) with
  | some cause => ((d.raise (pQctl q) 4 (cause * 16384 + r.line % 16384)).turnAway rq.id 4, false)
  | none =>
    let s := (d.place r.line (d.placer r.line r.part) q).getD 0
    ({ d with redq := d.redq ++ [(q * 16 + s, rq.id)] }, true)

/-- It reaches its home's queue: it is checked, and accepted or refused (R246), or waits while its entry is CLEARING; accepted, it
takes every copy of each of its lines (R249). -/
def Dev.accArrive (d : Dev) (r : HReq) (rq : Req) : Dev :=
  if (match rq.op with | .acc 0 _ => true | _ => false) && (d.rbAt (lineQuad r.line) r.line 1).isSome then
    { d with homeq := d.homeq ++ [r] }
  else
    let x := d.accCheck r rq
    if x.2 then (accLines rq).foldl (fun d l => d.homeEnter { r with line := l, full := false }) x.1 else x.1

/-- The request of an accumulate-write that waits in the home queue unchecked. -/
def Dev.waitingAcc (d : Dev) (r : HReq) : Option Req :=
  match r.kind, d.req r.req with
  | .homeop, some rq =>
    (match rq.op with
     | .acc _ _ => if d.redq.any (fun e => e.2 == rq.id) then none else some rq
     | _ => none)
  | _, _ => none

/-- A waiting block is checked: accepted, its lines take its place in the order of arrival (R240, R251); refused, it leaves. -/
def Dev.accAdmit (d : Dev) (r : HReq) (rq : Req) : Dev :=
  let x := d.accCheck r rq
  let lines := if x.2 then (accLines rq).map (fun l => { r with line := l, full := false }) else []
  { x.1 with homeq := x.1.homeq.flatMap (fun y => if y = r then lines else [y]) }

/-- A request message as a command names it. -/
def isReq (k : HKind) (m : HomeMsg) : WMsg → Bool
  | .request r => r.kind == k && r.agent == m.agent.val && r.line == m.line.toNat && r.req == m.req
  | _ => false

/-- A message of an agent to the home of a line. -/
def fromAgent (a l : Nat) : WMsg → Bool
  | .request r => r.agent == a && r.line == l
  | .answer s n _ _ _ _ _ => s == a && n == l
  | _ => false

/-- A message can arrive: the links between the two dies carry (R9), and it stands first among those whose order is kept
(R240). One that is not in flight here comes from outside the model and arrives as it is. -/
def Dev.inTurn (d : Dev) (a l : Nat) (of_ is : WMsg → Bool) : Bool :=
  d.carries (agentDie a) (lineQuad l) &&
  (match d.wire.find? of_ with
   | some m => is m || !d.wire.any is
   | none => true)

/-- Drops the message a command delivers from those in flight. -/
def Dev.takeRequest (d : Dev) (k : HKind) (m : HomeMsg) : Dev := { d with wire := dropFirst (isReq k m) d.wire }

/-- The request a command delivers; its class and budget are those it was sent with. -/
def Dev.hreqOf (d : Dev) (k : HKind) (m : HomeMsg) (ecc : HomeEcc) : HReq :=
  { kind := k, agent := m.agent.val, line := m.line.toNat, part := m.part.val, req := m.req, full := m.full,
    data := m.data.toNat, psn := m.psn, ecc := ecc,
    svc := match d.wire.find? (isReq k m) with
      | some (.request r) => r.svc
      | _ => d.svc0 (agentQuad m.agent.val m.line.toNat) m.part.val 3 }

/-- RdS, RdX, RdCur and HomeOp arrive (R240): metered (R287), then in the order of arrival for their line. -/
def Dev.homeArrive (d : Dev) (k : HKind) (m : HomeMsg) (ecc : HomeEcc) : Dev :=
  let r := d.hreqOf k m ecc
  if !d.inTurn r.agent r.line (fromAgent r.agent r.line) (isReq k m) then d
  else
    let d := d.takeRequest k m
    if !isStackLine r.line then d
    else
      let d := match d.req r.req with
        | some rq => if rq.agent = 12 ∨ rq.quad ≠ lineQuad r.line then d.enterCase (lineQuad r.line) rq else d
        | none => d
      match k, d.req r.req with
      | .homeop, some rq =>
        (match rq.op with
         | .acc _ _ => d.accArrive r rq
         | _ => d.homeEnter r)
      | _, _ => d.homeEnter r

def execRds (m : HomeMsg) (ecc : HomeEcc) (s : State) : Out := onDev (fun d => d.homeArrive .rds m ecc) s
def execRdx (m : HomeMsg) (ecc : HomeEcc) (s : State) : Out := onDev (fun d => d.homeArrive .rdx m ecc) s
def execRdcur (m : HomeMsg) (ecc : HomeEcc) (s : State) : Out := onDev (fun d => d.homeArrive .rdcur m ecc) s
def execHomeop (m : HomeMsg) (ecc : HomeEcc) (s : State) : Out := onDev (fun d => d.homeArrive .homeop m ecc) s

/-- A transaction that waits for an owner's WB, EvE or Xfer goes on once it is here (R239). -/
def Dev.ownerMoved (d : Dev) (l : Nat) : Dev :=
  match d.txn l with
  | some t => if t.ownerGone then (d.setTxn l (some { t with ownerGone := false })).evalTxn l else d
  | none => d

/-- WB and EvE at the home (Table 9.5, R241): acknowledged, and applied at once, also within a transaction. -/
def Dev.homeEvict (d : Dev) (k : HKind) (m : HomeMsg) : Dev :=
  let l := m.line.toNat
  let a := m.agent.val
  let q := lineQuad l
  let svc := (d.hreqOf k m ⟨.clean, false, false⟩).svc
  let d := (d.takeRequest k m).wireMsg (.ack a l)
  if !isStackLine l then d
  else
    let d := d.when svc.late (fun d => d.missAt q m.part.val svc.tc)
    -- a write-back of another quadrant's Galley, or of the host agent, enters this Case (R287)
    let d := if a = 12 then d.meter q 8 128 else d.when (decide (a < 8 ∧ a / 2 ≠ q) && k == .wb) (fun d => d.meter q a 128)
    match d.dirEnt l with
    | none => d.proto l a (if k = .wb then 4 else 5)
    | some e =>
      if e.lost then d.when (k == .wb) (fun d => d.putHome l m.part.val m.data.toNat m.psn svc)
      else
        match e.own? with
        | none => d.proto l a (if k = .wb then 4 else 5)
        | some x =>
          if x ≠ a then d
          else if k = .wb then
            let d := d.putHome l m.part.val m.data.toNat m.psn svc
            let d := d.setDir l (if e.st = 3 ∧ (e.bcast ∨ ¬e.sharers.isEmpty) then some { e with st := 1 } else none)
            d.ownerMoved l
          else if e.st = 2 then (d.setDir l none).ownerMoved l
          else d.proto l a 5

/-- WB and EvE arrive. -/
def Dev.takeEvict (d : Dev) (k : HKind) (m : HomeMsg) : Dev :=
  if d.inTurn m.agent.val m.line.toNat (fromAgent m.agent.val m.line.toNat) (isReq k m) then d.homeEvict k m else d

def execWb (m : HomeMsg) (s : State) : Out := onDev (fun d => d.takeEvict .wb m) s
def execEve (m : HomeMsg) (s : State) : Out := onDev (fun d => d.takeEvict .eve m) s

/-- AddS (Table 9.5, R241): the Galley named by the message becomes a sharer, or joins those a transaction in flight
invalidates. -/
def execAdds (m : HomeMsg) (s : State) : Out :=
  onDev (fun d =>
    let l := m.line.toNat
    let a := m.agent.val
    let g := m.req % 8
    if !d.inTurn a l (fromAgent a l) (isReq .adds m) then d
    else
      let d := d.takeRequest .adds m
      if !isStackLine l then d
      else
        let taking := match d.txn l with
          | some t => t.recalled || (match t.req.kind with | .rdx | .homeop => true | _ => false)
          | none => false
        if taking then
          (d.wireMsg (.snpInv g l)).modTxn l (fun t => { t with await := t.await ++ [g] })
        else
          match d.dirEnt l with
          | none => (d.proto l a 6).wireMsg (.ack a l)
          | some e =>
            if e.st = 2 then
              (if e.owner = a then d.setDir l (some ({ e with st := 3 }.addSharer g)) else (d.proto l a 6).wireMsg (.ack a l))
            else d.setDir l (some (e.addSharer g))) s

/-- Xfer (Table 9.5): the Case has taken over a line of a Galley of its quadrant. A Case that did so after it answered the broadcast
for a lost entry is asked again (R236). -/
def execXfer (m : HomeMsg) (s : State) : Out :=
  onDev (fun d =>
    let l := m.line.toNat
    let a := m.agent.val
    let q := lineQuad l
    let svc := (d.hreqOf .xfer m ⟨.clean, false, false⟩).svc
    if !d.inTurn a l (fromAgent a l) (isReq .xfer m) then d
    else
      let d := d.takeRequest .xfer m
      if !isStackLine l then d
      else
        let d := d.when svc.late (fun d => d.missAt q m.part.val svc.tc)
        match d.dirEnt l with
        | none => (d.proto l a 7).wireMsg (.ack a l)
        | some e =>
          if e.lost then
            (match d.txn l with
             | some t =>
               if t.await.contains a then d
               else (d.wireMsg (.snpOwn a (8 + q) l false)).setTxn l (some { t with await := t.await ++ [a] })
             | none => d)
          else
            match e.own? with
            | none => (d.proto l a 7).wireMsg (.ack a l)
            | some x =>
              if x < 8 ∧ 8 ≤ a ∧ x / 2 = a - 8 then (d.setDir l (some { e with owner := a })).ownerMoved l
              else d.wireMsg (.ack a l)) s

/-! ### Snoops at agents (Table 9.6) -/

/-- What a lookup of a Galley's or a Case's copy finds (R223, R226). A clean line that cannot be corrected is dropped, an E line with
EvE. A tag error leaves the data poisoned, to be written back where the copy is the agent's to write; a Galley has no TAG_UE and
raises UE_DIRTY for it (log entry 134). -/
def Dev.arrayEcc (d : Dev) (a l p : Nat) (c : CLine) (e : ArrayEcc) : Dev :=
  let page := if a < 8 then pGal a else pCase (a - 8) p
  let set := if a < 8 then galSet l else caseSet l
  let way := if a < 8 then c.way % 4 * 16384 else c.way % 8 * 8192
  let own := c.st == .e || c.st == .m
  if a = 12 then d
  else
    match e with
    | .clean => d
    | .ce => d.raise page 0 (set + way)
    | .ueClean =>
      if c.dirty then d
      else
        (if c.st = .e then
           (d.setCline a p l (some { c with leaving := true })).wireMsg (evictMsg .eve a l c.part 0 false (d.wbSvc a l c.part))
         else d.setCline a p l none).raise page 1 set
    | .ueDirty => if c.dirty then (d.setCline a p l (some { c with psn := true })).raise page 2 set else d
    | .tagUe =>
      (d.setCline a p l (some { c with psn := true, st := if own then .m else c.st, dirty := c.dirty || own })).raise page
        (if a < 8 then 2 else 3) set

/-- The same for a snoop's lookup. -/
def Dev.agentEcc (d : Dev) (a l : Nat) (e : ArrayEcc) : Dev :=
  match d.copyOf a l with
  | none => d
  | some (p, c) => d.arrayEcc a l p c e

/-- The same for the first lookup that finds a request's line on its way from a core: its Galley's, then its quadrant's Case's. -/
def Dev.lookupEcc (d : Dev) (a part l : Nat) (e : ArrayEcc) : Dev :=
  match d.galCopy a l part with
  | some c => d.arrayEcc a l (d.galPlace l part) c e
  | none =>
    if isStackLine l && lineQuad l == a / 2 then d
    else
      match d.caseCopy (a / 2) l part with
      | some (s, c) => d.arrayEcc (8 + a / 2) l s c e
      | none => d

/-- Requests issue, the first of them meeting an array error at its lookup (R223). -/
def Dev.issueSeen (d : Dev) (e : ArrayEcc) (rs : List Req) : Dev :=
  (match rs with
   | r :: _ => d.lookupEcc r.agent r.part r.line e
   | [] => d).issueAll rs

/-- The requester's partition of the line's transaction. -/
def Dev.txnPart (d : Dev) (l : Nat) : Nat := ((d.txn l).map (fun t => t.req.part)).getD 0

/-- An agent answers: data to the home or to the requester, or an acknowledgement. -/
def Dev.answerSnoop (d : Dev) (a l : Nat) (home : Bool) (rcv : Nat) (grant : Option LState) (data : Option (Nat × Bool))
    (present keeps dirty : Bool) : Dev :=
  match data with
  | none => d.wireMsg (.answer a l none present keeps false false)
  | some x =>
    if home then d.wireMsg (.answer a l (some x) present keeps false dirty)
    else (d.wireMsg (.reply (agentDie a) rcv l grant (some x) (d.txnPart l))).wireMsg (.answer a l none present keeps true false)

/-- A snoop of a kind (0 SnpShr, 1 SnpOwn, 2 SnpInv, 3 SnpCur) to an agent about a line. -/
def isSnoop (kind a l : Nat) : WMsg → Bool
  | .snpShr t _ n => kind == 0 && t == a && n == l
  | .snpOwn t _ n _ => kind == 1 && t == a && n == l
  | .snpInv t n => kind == 2 && t == a && n == l
  | .snpCur t _ n => kind == 3 && t == a && n == l
  | _ => false

/-- A message of the home to an agent about a line, its replies apart, which are taken before a snoop (log entry 13). -/
def toAgent (a l : Nat) (m : WMsg) : Bool :=
  (List.range 4).any (fun k => isSnoop k a l m) || (match m with | .ack t n => t == a && n == l | _ => false)

/-- A snoop reaches an agent: replies sent to it earlier are taken first (R240; log entry 13), then it answers from its
state. -/
def Dev.snoop (d : Dev) (kind : Nat) (m : SnoopMsg) : Dev :=
  let a := m.agent.val
  let l := m.line.toNat
  let rcv := m.rcv.val
  if !d.inTurn a l (toAgent a l) (isSnoop kind a l) || !d.repliesCarry a l then d
  else
    let d := { d with wire := dropFirst (isSnoop kind a l) d.wire }
    let d := d.deliverReplies a l d.wire.length
    let d := d.agentEcc a l m.ecc
    let home := rcv == 8 + lineQuad l
    match d.copyOf a l with
    | none => d.answerSnoop a l home rcv none none false false false
    | some (p, c) =>
      let x := some (c.data.toNat, c.psn)
      let put (st : LState) : Dev := d.setCline a p l (some { c with st := st })
      let gone : Dev := d.setCline a p l none
      match kind, c.st with
      | 0, .m => (put .o).answerSnoop a l home rcv (some .s) x true true true
      | 0, .o => d.answerSnoop a l home rcv (some .s) x true true true
      | 0, .e => (put .s).answerSnoop a l home rcv (some .s) x true false false
      | 1, .m => gone.answerSnoop a l home rcv none x true false true
      | 1, .o => gone.answerSnoop a l home rcv none x true false true
      | 1, .e => gone.answerSnoop a l home rcv none (if m.full then none else x) true false false
      | 1, .s => gone.answerSnoop a l home rcv none none true false false
      | 2, .s => gone.answerSnoop a l home rcv none none true false false
      | 2, .m => (d.proto l a 10).answerSnoop a l home rcv none none true true false
      | 2, .o => (d.proto l a 10).answerSnoop a l home rcv none none true true false
      | 2, .e => (d.proto l a 10).answerSnoop a l home rcv none none true true false
      | 3, .m => d.answerSnoop a l home rcv none x true true true
      | 3, .o => d.answerSnoop a l home rcv none x true true true
      | 3, .e => d.answerSnoop a l home rcv none x true true false
      | _, _ => d.answerSnoop a l home rcv none none false false false

def execSnpshr (m : SnoopMsg) (s : State) : Out := onDev (fun d => d.snoop 0 m) s
def execSnpown (m : SnoopMsg) (s : State) : Out := onDev (fun d => d.snoop 1 m) s
def execSnpinv (m : SnoopMsg) (s : State) : Out := onDev (fun d => d.snoop 2 m) s
def execSnpcur (m : SnoopMsg) (s : State) : Out := onDev (fun d => d.snoop 3 m) s

/-- A snoop answer reaches the home (R240): the entry changes as Table 9.5 says for the answer, and with the last answer the
transaction goes on. -/
def Dev.takeAnswer (d : Dev) (a l : Nat) (data : Option (Nat × Bool)) (present keeps direct dirty : Bool) : Dev :=
  match d.txn l with
  | none => d
  | some t =>
    if !t.await.contains a then d
    else
      let e := d.dirEnt l
      let isOwner := e.bind DirEnt.own? == some a
      let taking := t.recalled || (match t.req.kind with | .rdx | .homeop => true | _ => false)
      let t := { t with await := t.await.erase a, got := if data.isSome then data else t.got,
                        gotDirty := if data.isSome then dirty else t.gotDirty,
                        direct := t.direct || direct, ownerGone := t.ownerGone || (isOwner && !present) }
      let d := d.setTxn l (some t)
      let d := if isOwner && present then
          (if taking then d.setDir l (e.map (fun e => { e with st := 1 }))
           else if t.req.kind == HKind.rds then
             d.setDir l (e.map (fun e => if keeps then { e with st := 3 } else { e with st := 1 }.addSharer a))
           else d)
        else d
      d.evalTxn l

/-- An answer of an agent about a line. -/
def isAnswer (a l : Nat) : WMsg → Bool
  | .answer s n _ _ _ _ _ => s == a && n == l
  | _ => false

/-- The first answer of an agent about a line in flight reaches the home. -/
def execSnoopAnswer (a : Agent) (l : BitVec 41) (s : State) : Out :=
  onDev (fun d =>
    match d.wire.find? (isAnswer a.val l.toNat) with
    | some (.answer src n data present keeps direct dirty) =>
      if !d.inTurn src n (fromAgent src n) (isAnswer src n) then d
      else
        ({ d with wire := dropFirst (isAnswer a.val l.toNat) d.wire }).takeAnswer src n data present keeps direct dirty
    | _ => d) s

/-- The first reply for an agent and line arrives, from a die its link carries from. -/
def execDataReply (a : Agent) (l : BitVec 41) (s : State) : Out :=
  onDev (fun d =>
    match d.wire.find? (isReply a.val l.toNat) with
    | some (.reply die _ _ _ _ _) => if d.carries die (agentDie a.val) then d.deliverReply a.val l.toNat else d
    | _ => d) s

/-- An evicted line leaves its way, and a line that waited in the fill buffer for the way takes it (R241). -/
def Dev.freeLeaving (d : Dev) (a p l : Nat) : Dev :=
  match d.cline a p l with
  | some c =>
    if c.leaving then
      (let same (k : Nat) : Bool :=
         keyAgent k == a && (if a < 8 then galSet (keyLine k) == galSet l else keyPlace k == p && caseSet (keyLine k) == caseSet l)
       let d := d.setCline a p l none
       { d with lines := d.lines.map (fun e =>
           if same e.1 then (e.1, e.2.map (fun x => if x.way = 32 + c.way then { x with way := c.way } else x)) else e) })
    else d
  | none => d

/-- The home's acknowledgement frees the evicted line's way (R241), and the agent goes on. -/
def execWbAck (a : Agent) (l : BitVec 41) (s : State) : Out :=
  onDev (fun d =>
    let is (m : WMsg) : Bool := match m with | .ack t n => t == a.val && n == l.toNat | _ => false
    if d.wire.any is && d.inTurn a.val l.toNat (toAgent a.val l.toNat) is then
      let d := { d with wire := dropFirst is d.wire }
      let d := (placesOf a.val).foldl (fun d p => d.freeLeaving a.val p l.toNat) d
      if 8 ≤ a.val ∧ a.val < 12 then d.pumpQuad (a.val - 8) l.toNat else d.pump a.val l.toNat
    else d) s

/-- The next waiting request for a line starts once the line's transaction has ended, nothing parks it, and no entry is being
recalled for it. -/
def execHomeQueueDispatch (l : BitVec 41) (s : State) : Out :=
  onDev (fun d =>
    let n := l.toNat
    if (d.txn n).isSome || d.lineParked n || d.makingRoom n then d
    else
      match d.homeq.find? (fun r => r.line == n) with
      | none => d
      | some r =>
        if d.noEntry r then d
        else match d.waitingAcc r with
        | some rq => d.accAdmit r rq
        | none => ({ d with homeq := dropFirst (fun r => r.line == n) d.homeq }).homeStart r) s

end Sys2Proof.Machine
end

