-- ==== Sys2Proof/Machine/RegAccess.lean ====
section
/-!
DEFINITION. Who reaches which register page (R34 to R38, R42 to R47), and the forms every register write takes.
-/

namespace Sys2Proof.Machine

open Sys2Proof

/-- START has been accepted: the host port presents the functions of the arrangement (R47, R418). -/
def Dev.started (d : Dev) : Bool := d.power.running || d.boot.busy == 5

/-- The pages a path reaches. The sideband reaches the device-wide H-die pages. In sealed operation from START onward, a
channel's function reaches that channel's pages only (R46, R47); before, and in unified operation, PF0 reaches every page
(R45). -/
def Dev.reaches (d : Dev) (via : Via) (p : Page) : Bool :=
  let dev : Bool := match p with
    | .hst | .boot | .dctl | .errcDev | .pwr | .clk => true
    | _ => false
  match via with
  | .sb => dev
  | .vf _ => false
  | .pf f =>
    -- the quadrants' pages are assigned from self-test on (Table 18.1; log entry 6)
    if (pageQuad p).isSome && !d.quadsClocked then false
    else if d.isSealedOp && d.started then
      (match p with
       | .hstCh c | .errcCh c | .dmaCh c => c == f
       | _ => (match pageQuad p with
         | some q => decide (f.val < d.nChan) && d.chanOf q == f.val
         | none => false))
    else f.val == 0

/-- The function's TDI is in ERROR: its writes are discarded and its reads return all ones (R354). -/
def Dev.tdiError (d : Dev) (via : Via) : Bool :=
  match via with
  | .pf f => (d.func f.val).tdi == 3
  | .vf v => (d.func v.val).tdi == 3
  | .sb => false

/-- An access can arrive: the H-die has power, and through the host port only while its link is up (R496). -/
def Dev.arrives (d : Dev) (via : Via) : Bool :=
  d.power.pwrgd && (match via with
    | .sb => true
    | _ => d.on .hst fHST_LINK_UP 0)

/-- A page at a defective position: its writes are discarded without record (R35). -/
def Dev.deadPage (d : Dev) : Page → Bool
  | .core c => d.defective c.die.val c.row.val c.col.val
  | _ => false

/-- A write of a block register reaches it: the page is reached, is no defective position, and is not in reset (R35, R37,
R42). -/
def Dev.writable (d : Dev) (via : Via) (p : Page) : Bool :=
  d.arrives via && d.reaches via p && !d.tdiError via && !d.deadPage p && !d.inReset p

/-- Performs a block register's write where it reaches the block, else discards it. -/
def Dev.viaWrite (d : Dev) (via : Via) (p : Page) (f : Dev → Dev) : Dev := if d.writable via p then f d else d

/-- An engine halts (R353): what it has in progress is dropped, and DMA_ERR raised. -/
def Dev.haltEngine (d : Dev) (ch e cause : Nat) : Dev :=
  let p := pDma ch
  let d := { d with reqs := d.reqs.filter (fun r => match r.cli with
    | .dma c x => !(c == ch && x == e)
    | _ => true) }
  let d : Dev := { d with host := { d.host with dma := NMap.put d.host.dma (32 * ch + e) [] [] } }
  ((d.set p (fDMA_STAT_STATE.at e) 0 2).set p (fDMA_STAT_CAUSE.at e) 0 cause).raise p 0 (e + 256 * cause)

/-- Engines of a channel. -/
def Dev.nEngine (d : Dev) : Nat := 32 / d.nChan

/-- The TDI of a function moves to ERROR, and its engines halt (R354). The spec gives that halt no cause. -/
def Dev.tdiToError (d : Dev) (fn : Nat) : Dev :=
  let d := d.setFunc fn { d.func fn with tdi := 3 }
  (List.range d.nChan).foldl (fun d ch => (List.range d.nEngine).foldl (fun d e =>
    if d.get (pDma ch) (fDMA_STAT_STATE.at e) 0 = 1 ∧ d.get (pDma ch) (fDMA_CFG_FN.at e) 0 = fn ∧
       (d.isSealedOp = true → ch = fn) then
      let x := d.free 4
      x.2.haltEngine ch e x.1
    else d) d) d

/-- A write after sealing tried to change an RWL field: BLK_STAT.LKV (R43); a TDI of the page's channel in CONFIG_LOCKED or
RUN moves to ERROR (R354). -/
def Dev.lockViolation (d : Dev) (p : Page) : Dev :=
  let ch := match p with
    | .hstCh c | .errcCh c | .dmaCh c => some c.val
    | _ => (pageQuad p).map d.chanOf
  let hit (fn : Nat) : Bool := match ch with
    | none => true
    | some c => if d.isSealedOp then fn == c else true
  let d := d.set p fBLK_STAT_LKV 0 1
  (d.host.fns.filter (fun e => hit e.1 && (e.2.tdi == 1 || e.2.tdi == 2))).foldl (fun d e => d.tdiToError e.1) d

/-- A write of one field by software: an RWL field is kept once the configuration is sealed, and LKV set if the write would
have changed it. -/
def Dev.swField (d : Dev) (p : Page) (f : FieldDef) (i val : Nat) : Dev :=
  let v := bitsOf val f.hi f.lo
  match f.acc with
  | .ro | .wo | .w1s => d
  | .rw => d.set p f i v
  | .w1c => d.set p f i (d.get p f i &&& (2 ^ (f.hi + 1 - f.lo) - 1 - v))
  | .rwl => if d.isSealed then (if d.get p f i = v then d else d.lockViolation p) else d.set p f i v

end Sys2Proof.Machine
end

