-- ==== Sys2Proof/Machine/Reduction.lean ====
section
/-!
DEFINITION. Reductions (R244 to R254): performing an accumulate-write in the Case or at the memory controller, opening and
closing Chase buffers, and the directory lookup of a DIR page.
-/

namespace Sys2Proof.Machine

open Sys2Proof

/-! ### One reduction (R247, R248, R252) -/

/-- The reduction-buffer entry of a line that still accepts or finishes reductions: OPEN or CLOSING. -/
def Dev.rbEntry (d : Dev) (q l : Nat) : Option Nat :=
  match d.rbAt q l 2 with
  | some e => some e
  | none => d.rbAt q l 3

/-- Sticky flags of a Chase reduction: NX 1, SAT 2, IND 4. -/
def chaseFlags (conv : Int × Nat) (old new : Int) : Nat :=
  (if conv.2 % 2 = 1 ∧ chSpecial conv.1 = false then 1 else 0) |||
  (if (new = chSatP ∨ new = chSatN) ∧ new ≠ old then 2 else 0) |||
  (if new = chInd ∧ old ≠ chInd then 4 else 0)

/-- RED 0 on a block of 32 elements: source block, frames, memory block; the new block and the flags. -/
def chaseBlock (mask src : Nat) (fs fb : Int) (mem : Nat) : Nat × Nat :=
  (List.range 32).foldl (fun (x : Nat × Nat) j =>
    if mask.testBit (12 * j) then
      let v := toSigned 96 (src >>> (96 * j))
      let m := toSigned 96 (x.1 >>> (96 * j))
      let cv := toChase fb (chaseVal v fs)
      let n := chaseAdd m cv.1
      (setBits x.1 (96 * j + 95) (96 * j) (ofSigned 96 n), x.2 ||| chaseFlags cv m n)
    else x) (mem, 0)

/-- RED 1 to 3 on the words of a line. -/
def redWord (red m v : Nat) : Nat :=
  match red with
  | 1 => (m + v) % 2 ^ 32
  | 2 => (fMinMax fp32 true m v).1
  | _ => (fMinMax fp32 false m v).1

def redLine (red mask src mem : Nat) : Nat :=
  (List.range 32).foldl (fun x j =>
    if mask.testBit (4 * j) then
      setBits x (32 * j + 31) (32 * j) (redWord red (x >>> (32 * j) % 2 ^ 32) (src >>> (32 * j) % 2 ^ 32))
    else x) mem

/-- The reduction of a request into the data of its lines, joined lowest line first. -/
def Dev.reduceInto (d : Dev) (r : Req) (mem : Nat) : Nat × Nat :=
  match r.op with
  | .acc 0 fs =>
    (match d.rbEntry (lineQuad r.line) r.line with
     | some e => chaseBlock r.mask r.data fs (toSigned 16 (d.get (pQctl (lineQuad r.line)) fQCTL_RB_CFG_FRAME e)) mem
     | none => (mem, 0))
  | .acc red _ => (redLine red r.mask r.data mem, 0)
  | _ => (mem, 0)

/-- Records what a reduction of RED 0 raised in its entry. -/
def Dev.rbFlags (d : Dev) (r : Req) (fl : Nat) (psn : Bool) : Dev :=
  match r.op, d.rbEntry (lineQuad r.line) r.line with
  | .acc 0 _, some e =>
    let p := pQctl (lineQuad r.line)
    let d := d.when (fl.testBit 0) (fun d => d.set p fQCTL_RB_STAT_NX e 1)
    let d := d.when (fl.testBit 1) (fun d => d.set p fQCTL_RB_STAT_SAT e 1)
    let d := d.when (fl.testBit 2) (fun d => d.set p fQCTL_RB_STAT_IND e 1)
    d.when psn (fun d => d.set p fQCTL_RB_STAT_POISON e 1)
  | _, _ => d

/-- Every line of the reduction has been taken from its copies, and its data is here. -/
def Dev.accReady (d : Dev) (r : Req) : Bool :=
  (accLines r).all (fun l => match d.txn l with
    | some t => t.req.req == r.id && t.await.isEmpty && t.ready
    | none => false)

/-- The lines' data and poison, each as a function says. -/
def gather (f : Nat → Nat × Bool) : List Nat → Nat × Bool
  | [] => (0, false)
  | l :: ls => let x := f l; let y := gather f ls; (x.1 + 2 ^ 1024 * y.1, x.2 || y.2)

/-- Writes the lines of a result back, lowest first. -/
def Dev.scatter (d : Dev) (put : Dev → Nat → Nat → Dev) (v : Nat) : List Nat → Dev
  | [] => d
  | l :: ls => Dev.scatter (put d l (v % 2 ^ 1024)) put (v / 2 ^ 1024) ls

/-- The reduction is done: its lines' transactions end, and the write is performed. -/
def Dev.accDone (d : Dev) (r : Req) : Dev :=
  let d := (accLines r).foldl (fun d l => d.endTxn l) d
  let d := { d with redq := dropFirst (fun e => e.2 == r.id) d.redq, redMc := dropFirst (fun e => e.2 == r.id) d.redMc }
  (d.performed r.id).pumpAfter r

/-- The reduction at the head of a slice's queue (R253), with the request. -/
def Dev.redHead (d : Dev) (key : Nat) : Option Req :=
  match d.redq.find? (fun e => e.1 == key) with
  | some e => d.req e.2
  | none => none

/-- The head of the slice's queue is reduced into its held lines, which become dirty home copies (R249). -/
def execReductionPerform (q : Quad) (n : Fin 16) (s : State) : Out :=
  onDev (fun d =>
    match d.redHead (q.val * 16 + n.val) with
    | none => d
    | some r =>
      if d.redMc.any (fun e => e.2 == r.id) || !d.accReady r then d
      else
        let ls := accLines r
        let x := gather (fun l => match d.caseCopy q.val l r.part with
          | some (_, c) => (c.data.toNat, c.psn)
          | none => (0, true)) ls
        let y := d.reduceInto r x.1
        let psn := x.2 || r.psn
        let put (d : Dev) (l v : Nat) : Dev := match d.caseCopy q.val l r.part with
          | some (s, c) =>
            ({ d with useCtr := d.useCtr + 1 }).setCline (8 + q.val) s l
              (some { c with data := BitVec.ofNat 1024 v, dirty := true, psn := psn, held := false, used := d.useCtr + 1 })
          | none => d
        ((d.scatter put y.1 ls).rbFlags r y.2 psn).accDone r) s

/-- The block at the head of the slice's queue that found no victim is reduced at the controllers (R250). -/
def execMcReduction (q : Quad) (n : Fin 16) (s : State) : Out :=
  onDev (fun d =>
    match d.redHead (q.val * 16 + n.val) with
    | none => d
    | some r =>
      if !d.redMc.any (fun e => e.2 == r.id) || !d.accReady r || d.stkWaits (lineStack r.line) then d
      else
        let ls := accLines r
        let d := ls.foldl (fun d l => match d.caseCopy q.val l r.part with
          | some (s, c) => (d.setCline (8 + q.val) s l none).when c.dirty (fun d => d.dramWrite l c.data.toNat c.psn r.svc)
          | none => d) d
        let x := gather (fun l => let e := d.dramRead l; (e.1, e.2.1)) ls
        -- a slot that is not loaded is reported as for any read (R263)
        let d := ls.foldl (fun d l => (d.dramRead l).2.2) d
        let y := d.reduceInto r x.1
        let psn := x.2 || r.psn
        ((d.scatter (fun d l v => d.dramWrite l v psn r.svc) y.1 ls).rbFlags r y.2 psn).accDone r) s

/-! ### Chase buffers (R245, R254) -/

def rbBase (d : Dev) (q e : Nat) : Nat := d.get64 (pQctl q) 0x284 e
def rbBlocks (d : Dev) (q e : Nat) : Nat := d.get (pQctl q) fQCTL_RB_SIZE_BLOCKS e
def rbState (d : Dev) (q e : Nat) : Nat := d.get (pQctl q) fQCTL_RB_STAT_STATE e

/-- Another entry of the device that is not CLOSED overlaps the range. -/
def rbOverlap (d : Dev) (q e : Nat) : Bool :=
  (List.range 4).any (fun q' => (List.range 64).any (fun e' =>
    !(q' == q && e' == e) && rbState d q' e' != 0 &&
    overlaps (rbBase d q e, 384 * rbBlocks d q e) (rbBase d q' e', 384 * rbBlocks d q' e')))

/-- OPEN is refused (R254). -/
def rbIllegal (d : Dev) (q e : Nat) : Bool :=
  let b := rbBase d q e
  let n := rbBlocks d q e
  let f := toSigned 16 (d.get (pQctl q) fQCTL_RB_CFG_FRAME e)
  rbState d q e != 0 || b / 128 % 3 != 0 || n == 0 || decide (2 ^ 24 < n) ||
  decide (0x1200000000 < b % 2 ^ 37 + 384 * n) || decide (b / 2 ^ 37 / 5 ≠ q ∨ 20 ≤ b / 2 ^ 37) || rbOverlap d q e ||
  decide (f < -1152 ∨ 960 < f) || (d.isSealedOp && decide (d.nPart ≤ d.get (pQctl q) fQCTL_RB_CFG_PART e))

def rbIll (d : Dev) (q e : Nat) : Dev := d.set (pQctl q) fQCTL_RB_STAT_ILL e 1

/-- The entry QCTL_RB_IDX names. -/
def rbIdx (d : Dev) (q : Nat) : Nat := d.get (pQctl q) fQCTL_RB_IDX_ENT 0

/-- OPEN clears the sticky flags. -/
def rbOpenTo (d : Dev) (q e st : Nat) : Dev :=
  let p := pQctl q
  ((((d.set p fQCTL_RB_STAT_POISON e 0).set p fQCTL_RB_STAT_SAT e 0).set p fQCTL_RB_STAT_IND e 0).set p fQCTL_RB_STAT_NX e 0).set
    p fQCTL_RB_STAT_STATE e st

/-- Every copy of a line range in every cache goes, without being written back, and every entry. -/
def Dev.discardCopies (d : Dev) (inR : Nat → Bool) : Dev :=
  { d with lines := NMap.dropIf d.lines (fun k => inR (keyLine k)), dir := NMap.dropIf d.dir inR }

/-- No transaction is in flight on any line of a range, no message that moves one, and no line leaves. -/
def Dev.rangeIdle (d : Dev) (lo n : Nat) : Bool :=
  let inR (l : Nat) : Bool := decide (lo ≤ l ∧ l < lo + n)
  !d.txns.any (fun e => e.2.isSome && inR e.1) && !d.wire.any (fun m => inR (msgLine m) && movesLine m) &&
  !d.lines.any (fun e => inR (keyLine e.1) && (match e.2 with | some c => c.leaving | none => false))

/-- A write of QCTL_RB_CMD (R254): bit 0 OPEN, bit 1 CLEAR, bit 2 CLOSE. -/
def rbCmd (d : Dev) (q val : Nat) : Dev :=
  let e := rbIdx d q
  let p := pQctl q
  match val % 8 with
  | 0 => d
  | 1 => if rbIllegal d q e then rbIll d q e else rbOpenTo d q e 2
  | 3 => if rbIllegal d q e then rbIll d q e else rbOpenTo d q e 1
  | 4 =>
    if rbState d q e = 2 then d.set p fQCTL_RB_STAT_STATE e 3
    else if rbState d q e = 0 then d else rbIll d q e
  | _ => rbIll d q e

def execRbOpen (via : Via) (q : Quad) (s : State) : Out :=
  onDev (fun d => d.viaWrite via (pQctl q.val) (fun d => rbCmd d q.val 1)) s
def execRbOpenClear (via : Via) (q : Quad) (s : State) : Out :=
  onDev (fun d => d.viaWrite via (pQctl q.val) (fun d => rbCmd d q.val 3)) s
def execRbClose (via : Via) (q : Quad) (s : State) : Out :=
  onDev (fun d => d.viaWrite via (pQctl q.val) (fun d => rbCmd d q.val 4)) s

/-- The range's zeros are written (R254), with nothing left in flight on it: the entry reads OPEN, and the blocks that waited are
checked in the order they arrived in (R246). -/
def execRbClearDone (q : Quad) (e : Fin 64) (s : State) : Out :=
  onDev (fun d =>
    let lo := rbBase d q.val e.val / 128
    let n := 3 * rbBlocks d q.val e.val
    if rbState d q.val e.val ≠ 1 ∨ d.stkWaits (rbBase d q.val e.val / 2 ^ 37) ∨ ¬d.rangeIdle lo n then d
    else
      let d := d.discardCopies (fun l => decide (lo ≤ l ∧ l < lo + n))
      let d := (d.zeroLines lo n).set (pQctl q.val) fQCTL_RB_STAT_STATE e.val 2
      (d.homeq.filter (fun r => decide (lo ≤ r.line ∧ r.line < lo + n))).foldl (fun d r =>
        match d.waitingAcc r with
        | some rq => d.accAdmit r rq
        | none => d) d) s

/-- When every reduction accepted on the range is complete the entry reads CLOSED. -/
def execRbCloseDone (q : Quad) (e : Fin 64) (s : State) : Out :=
  onDev (fun d =>
    let busy := d.redq.any (fun x => match d.req x.2 with
      | some r => (match r.op with | .acc 0 _ => true | _ => false) &&
          inRange (128 * r.line) (rbBase d q.val e.val) (384 * rbBlocks d q.val e.val)
      | none => false)
    if rbState d q.val e.val ≠ 3 ∨ busy = true then d else d.set (pQctl q.val) fQCTL_RB_STAT_STATE e.val 0) s

/-! ### Directory lookup (DIR page) -/

/-- A write of DIR_LKCMD.GO: the entry of ADDR as it stands, or ILL where it is not this bank's. -/
def dirLookup (d : Dev) (q n : Nat) : Dev :=
  let p := pDir q n
  let l := d.get64 p 0x100 0 % 2 ^ 48 / 128
  if !isStackLine l || lineQuad l != q || lineBankNo l != n then d.set p fDIR_LKCMD_ILL 0 1
  else
    let ptr (i : Nat) (x : Option Nat) : Nat := match x with
      | some a => (16 + a % 16) * 32 ^ i
      | none => 0
    let v : Nat := match d.dirEnt l with
      | none => 0
      | some e =>
        e.st * 2 ^ 22 + (if e.bcast then 2 ^ 21 else 0) + (match e.own? with | some o => o % 16 * 2 ^ 17 | none => 0) +
        (match e.ptrs with
         | [a, b, c] => ptr 0 a + ptr 1 b + ptr 2 c
         | _ => 0)
    d.setWord p 0x10C 0 (v + (if (d.txn l).isSome then 2 ^ 31 else 0))

def execDirLookup (via : Via) (q : Quad) (n : Fin 16) (s : State) : Out :=
  onDev (fun d => d.viaWrite via (pDir q.val n.val) (fun d => dirLookup d q.val n.val)) s

/-! ### Colophon writes (R170 to R174, R495) -/

/-- A core's earlier request to the line is not yet performed (R155). -/
def Dev.coreEarlier (d : Dev) (r : Req) : Bool :=
  (clientCore r.cli).isSome && d.reqs.any (fun x => decide (x.id < r.id) && (accLines x).contains r.line &&
    clientCore x.cli == clientCore r.cli && !x.ready && !x.dev && (match x.tgt with | .stack _ _ => true | _ => false))

/-- A colophon write reaches the B-die that homes it, over links that carry and after its core's earlier requests to the line:
performed at once, held, or discarded (R172, R173). A group outside its owner's blocks discards it (R360). Where the entry holds
a write, a second one is discarded by R173 even where R172 would perform it at once: DESIGN CHOICE (log entry 131). -/
def execColophonWriteArrival (q : Quad) (rq : Nat) (s : State) : Out :=
  onDev (fun d =>
    match d.req rq with
    | none => d
    | some r =>
      let g := r.group % 4096
      let k := arrKey q.val g
      let here := match r.tgt with
        | .stack s _ => s / 5 == q.val
        | _ => false
      if !(r.flag && r.colo) || !here || r.accepted || d.coreEarlier r || !d.carries (agentDie r.agent) q.val then d
      else if d.ctrOwner q.val g ≠ d.owner (lineStack r.line) (lineOff r.line) then
        (d.raise (pQctl q.val) 0 (g + 0x8000)).turnAwayColo rq 5
      else
        let e := d.grp k
        let d := d.modReq rq (fun r => { r with accepted := true })
        if e.held.isSome then
          (((d.setGrp k { e with dup := true }).raise (pQctl q.val) 1 g)).turnAwayColo rq 5
        else if r.expect ≤ e.tally then
          (d.setGrp k { e with tally := e.tally - r.expect }).wireMsg (coloMsg q.val r)
        else
          ((d.setGrp k { e with held := some ({ r with accepted := true }, d.now (netClk q.val)) }).dropReq rq)) s

/-- A write held for 2^EXP net cycles is discarded (R174). -/
def execColophonHoldTimeout (q : Quad) (g : Fin 4096) (s : State) : Out :=
  onDev (fun d =>
    let k := arrKey q.val g.val
    let e := d.grp k
    match e.held with
    | none => d
    | some (r, since) =>
      if d.now (netClk q.val) < since + 2 ^ d.get (pQctl q.val) fQCTL_COLO_TMO_EXP 0 then d
      else
        let d := d.setGrp k { e with held := none, tmo := true }
        (d.raise (pQctl q.val) 3 g.val).answerColo r 6) s

/-- QCTL_GRP_CMD.CLEAR (R174): the tally is zero and the held write is gone. -/
def grpClear (d : Dev) (q : Nat) : Dev :=
  let k := arrKey q (d.get (pQctl q) fQCTL_GRP_IDX_IDX 0)
  let e := d.grp k
  let d := d.setGrp k { e with tally := 0, held := none }
  match e.held with
  | some (r, _) => d.answerColo r 6
  | none => d

def execGrpClear (via : Via) (q : Quad) (s : State) : Out :=
  onDev (fun d => d.viaWrite via (pQctl q.val) (fun d => grpClear d q.val)) s

end Sys2Proof.Machine
end

