-- ==== Sys2Proof/Machine/Maintenance.lean ====
section
/-!
DEFINITION. Partitions, persistence, maintenance and stereo regions (R206 to R224): every command of the QCTL, CASE and GAL
pages that moves lines or ownership.
-/

namespace Sys2Proof.Machine

open Sys2Proof

/-! ### Writing lines back (R222) -/

/-- The lines cached anywhere that a test holds of. -/
def Dev.cachedLines (d : Dev) (inR : Nat → Bool) : List Nat :=
  ((d.lines.map (fun e => keyLine e.1)).filter inR).eraseDups

/-- Drops every copy of a line, and its entry. -/
def Dev.dropCopies (d : Dev) (l : Nat) : Dev :=
  ({ d with lines := NMap.dropIf d.lines (fun k => keyLine k == l) }).setDir l none

/-- Some copy of the line is dirty with respect to memory. -/
def Dev.lineDirty (d : Dev) (l : Nat) : Bool :=
  d.lines.any (fun e => keyLine e.1 == l && (match e.2 with | some c => c.dirty | none => false))

/-- A stack line with nothing in flight on it is written back if dirty and invalidated everywhere, or (`keep`) written back
and kept clean: an owner in M goes to E, or in a Case to S, one in O to S (R222). -/
def Dev.flushLine (d : Dev) (keep : Bool) (l : Nat) : Dev :=
  if !d.quiet l then d
  else
    let cur := d.currentData l
    let dirty := d.lineDirty l
    let d := d.when (dirty && isStackLine l) (fun d => d.dramWrite l cur.1 cur.2 (d.svc0 (lineQuad l) 0 3))
    if !keep then d.dropCopies l
    else if !dirty then d
    else
      let clean (k : Nat) (c : CLine) : CLine :=
        match c.st with
        | .m => { c with st := if 8 ≤ keyAgent k ∧ keyAgent k < 12 then .s else .e, dirty := false }
        | .o => { c with st := .s, dirty := false }
        | .h => { c with data := BitVec.ofNat 1024 cur.1, psn := cur.2, dirty := false }
        | _ => c
      let d := { d with lines := d.lines.map (fun (e : Nat × Option CLine) =>
        if keyLine e.1 = l then (e.1, e.2.map (clean e.1)) else e) }
      match d.dirEnt l with
      | some e =>
        (match e.own? with
         | some o =>
           if e.st = 3 then d.setDir l (some ({ e with st := 1 }.addSharer o))
           else if 8 ≤ o ∧ o < 12 then d.setDir l (some ({ e with st := 1 }.noSharers.addSharer o))
           else d
         | none => d)
      | none => d

def Dev.flushRange (d : Dev) (keep : Bool) (lo n : Nat) : Dev :=
  (d.cachedLines (fun l => decide (lo ≤ l ∧ l < lo + n))).foldl (fun d l => d.flushLine keep l) d

/-! ### Home units (R206, R210) -/

/-- First line of a home unit of a B-die, and its lines. -/
def unitLine (q u : Nat) : Nat := (5 * q + u / 72) * 2 ^ 30 + u % 72 * 2 ^ 23
def unitLines : Nat := 2 ^ 23

/-- The partition holds a slice on the B-die. -/
def Dev.hasSlice (d : Dev) (q p : Nat) : Bool := (List.range 16).any (fun s => d.slicePart q s == p)
/-- The partition owns a home unit of the B-die, or a change in progress gives it one. -/
def Dev.hasUnit (d : Dev) (q p : Nat) : Bool :=
  (List.range 360).any (fun u => d.get (pQctl q) fQCTL_HMAP_PART u == p) ||
  (match NMap.get d.hmapBusy q none with | some (_, new) => new == p | none => false)
/-- In sealed operation a partition number belongs to the channel only below its limit (R357). -/
def Dev.partOk (d : Dev) (p : Nat) : Bool := !d.isSealedOp || decide (p < d.nPart)

/-- A write of QCTL_HMAP: refused while a change runs, or for a partition without a slice here (R206); else the unit's
requests are held and it is flushed (R210). -/
def hmapWrite (d : Dev) (q val : Nat) : Dev :=
  let p := pQctl q
  let u := d.get p fQCTL_HMAP_IDX_UNIT 0
  let new := val % 64
  let d := d.swField p fQCTL_HMAP_ILL u val
  if (NMap.get d.hmapBusy q none).isSome ∨ ¬d.hasSlice q new ∨ ¬d.partOk new then
    d.set p fQCTL_HMAP_ILL u 1
  else if d.get p fQCTL_HMAP_PART u = new then d
  else
    let d := { d with hmapBusy := NMap.put d.hmapBusy q (some (u, new)) none }
    (d.set p fQCTL_HMAP_BUSY u 1).flushRange false (unitLine q u) unitLines

def execHmapWrite (via : Via) (q : Quad) (val : Word) (s : State) : Out :=
  onDev (fun d => d.viaWrite via (pQctl q.val) (fun d => hmapWrite d q.val val.toNat)) s

/-- The unit's flush is complete: the owner changes, and the held requests can be dispatched. -/
def execHmapChangeDone (q : Quad) (s : State) : Out :=
  onDev (fun d =>
    match NMap.get d.hmapBusy q.val none with
    | none => d
    | some (u, new) =>
      if !d.rangeIdle (unitLine q.val u) unitLines then d
      else
        let d := d.flushRange false (unitLine q.val u) unitLines
        let d := { d with hmapBusy := NMap.put d.hmapBusy q.val none none }
        (d.set (pQctl q.val) fQCTL_HMAP_PART u new).set (pQctl q.val) fQCTL_HMAP_BUSY u 0) s

/-! ### Quotas and windows (R211 to R215) -/

/-- The demotion walk (R213): in every set of the partition's slices, persist lines beyond a quota become normal, least
recently used first. `win`: one window's quota, else all windows' PQUOTA. -/
def Dev.demoteSet (d : Dev) (q s set : Nat) (win : Option Nat) (quota : Nat) : Dev :=
  let ls := (staying (d.setLines q s set)).filter (fun e => e.2.cls == 2 && (match win with | some w => e.2.win == w | none => true))
  (List.range (ls.length - quota)).foldl (fun d _ =>
    let ls := (staying (d.setLines q s set)).filter (fun e => e.2.cls == 2 && (match win with | some w => e.2.win == w | none => true))
    match lru ls with
    | some (l, c) => (d.setCline (8 + q) s l (some { c with cls := 1 })).bump (pCase q s) fCASE_DEMOTE_COUNT 0 1
    | none => d) d

def Dev.demoteWalk (d : Dev) (q p : Nat) (win : Option Nat) (quota : Nat) : Dev :=
  ((d.lines.filterMap (fun e =>
      if keyAgent e.1 = 8 + q ∧ d.slicePart q (keyPlace e.1) = p then some (keyPlace e.1, caseSet (keyLine e.1)) else none)).eraseDups).foldl
    (fun d e => d.demoteSet q e.1 e.2 win quota) d

/-- A write of QCTL_PCFG (R213, R215). -/
def pcfgWrite (d : Dev) (q val : Nat) : Dev :=
  let p := pQctl q
  let i := d.get p fQCTL_PCFG_IDX_PART 0
  let d := d.swField p fQCTL_PCFG_ILL i val
  let rc := bitsOf val 11 8
  let pq := bitsOf val 3 0
  if d.on p fQCTL_PCFG_BUSY i ∨ 8 < rc ∨ 12 < pq ∨ 14 < pq + rc then d.set p fQCTL_PCFG_ILL i 1
  else
    let low := decide (pq < d.get p fQCTL_PCFG_PQUOTA i)
    let d := (d.set p fQCTL_PCFG_RCWAYS i rc).set p fQCTL_PCFG_PQUOTA i pq
    d.when low (fun d => d.set p fQCTL_PCFG_BUSY i 1)

def execPcfgWrite (via : Via) (q : Quad) (val : Word) (s : State) : Out :=
  onDev (fun d => d.viaWrite via (pQctl q.val) (fun d => pcfgWrite d q.val val.toNat)) s

/-- The entry of a persistence window: partition and window named by the index registers. -/
def pwinIdx (d : Dev) (q : Nat) : Nat :=
  d.get (pQctl q) fQCTL_PCFG_IDX_PART 0 * 16 + d.get (pQctl q) fQCTL_PWIN_IDX_WIN 0

/-- A write of QCTL_PWIN_CTL (R213). -/
def pwinCtlWrite (d : Dev) (q val : Nat) : Dev :=
  let p := pQctl q
  let i := pwinIdx d q
  let d := d.swField p fQCTL_PWIN_CTL_ILL i val
  let w := bitsOf val 11 8
  if val % 4 = 3 ∨ 12 < w ∨ d.on p fQCTL_PWIN_CTL_BUSY i = true then d.set p fQCTL_PWIN_CTL_ILL i 1
  else
    let low := decide (w < d.get p fQCTL_PWIN_CTL_WQUOTA i)
    let d := ((d.set p fQCTL_PWIN_CTL_EN i (bitsOf val 16 16)).set p fQCTL_PWIN_CTL_WQUOTA i w).set p fQCTL_PWIN_CTL_CLASS i
      (val % 4)
    d.when low (fun d => d.set p fQCTL_PWIN_CTL_BUSY i 1)

def execPwinCtlWrite (via : Via) (q : Quad) (val : Word) (s : State) : Out :=
  onDev (fun d => d.viaWrite via (pQctl q.val) (fun d => pwinCtlWrite d q.val val.toNat)) s

/-- The walks of a partition on a B-die end: lines beyond the quotas are normal, and BUSY clears (R213). -/
def execQuotaWalkDone (q : Quad) (p : Fin 64) (s : State) : Out :=
  onDev (fun d =>
    let g := pQctl q.val
    let d := if d.on g fQCTL_PCFG_BUSY p.val then
        (d.demoteWalk q.val p.val none (d.get g fQCTL_PCFG_PQUOTA p.val)).set g fQCTL_PCFG_BUSY p.val 0
      else d
    (List.range 16).foldl (fun d w =>
      let i := p.val * 16 + w
      if d.on g fQCTL_PWIN_CTL_BUSY i then
        (d.demoteWalk q.val p.val (some w) (d.get g fQCTL_PWIN_CTL_WQUOTA i)).set g fQCTL_PWIN_CTL_BUSY i 0
      else d) d) s

/-! ### Slices (R209) -/

/-- A slice's lines leave as far as nothing is in flight on them: home copies to memory, remote copies to their homes, peer
lines at once. -/
def Dev.drainSlice (d : Dev) (q s : Nat) : Dev :=
  ((d.lines.filterMap (fun e => if keyAgent e.1 = 8 + q ∧ keyPlace e.1 = s then some (keyLine e.1) else none))).foldl
    (fun d l => match d.cline (8 + q) s l with
      | some c => if c.held || d.busyCase q l c.part then d else d.evictCase q s l
      | none => d) d

/-- A write of CASE_MNT: bit 0 DRAIN, bit 1 REOPEN (R209, R222). -/
def caseMnt (d : Dev) (q s val : Nat) : Dev :=
  let p := pCase q s
  let ill := d.set p fCASE_PART_ILL 0 1
  match val % 4 with
  | 0 => d
  | 1 =>
    if d.on p fCASE_MNT_BUSY 0 || d.on p fCASE_PART_DRAINED 0 then ill
    else (d.set p fCASE_MNT_BUSY 0 1).drainSlice q s
  | 2 =>
    if d.on p fCASE_MNT_BUSY 0 || !d.on p fCASE_PART_DRAINED 0 then ill
    else d.set p fCASE_PART_DRAINED 0 0
  | _ => ill

def execDrain (via : Via) (q : Quad) (n : Fin 16) (s : State) : Out :=
  onDev (fun d => d.viaWrite via (pCase q.val n.val) (fun d => caseMnt d q.val n.val 1)) s
def execReopen (via : Via) (q : Quad) (n : Fin 16) (s : State) : Out :=
  onDev (fun d => d.viaWrite via (pCase q.val n.val) (fun d => caseMnt d q.val n.val 2)) s

/-- A write of CASE_PART.PART (R205, R206, R209): the slice, and every slice here of the old and of the new partition, must
be drained, and no owner of a home unit may be left without a slice. -/
def casePartWrite (d : Dev) (q s val : Nat) : Dev :=
  let p := pCase q s
  let old := d.slicePart q s
  let new := val % 64
  let d := d.swField p fCASE_PART_ILL 0 val
  let drained (i : Nat) : Bool := d.on (pCase q i) fCASE_PART_DRAINED 0
  let concerned := (List.range 16).filter (fun i => i == s || d.slicePart q i == old || d.slicePart q i == new)
  let last := new != old && !(List.range 16).any (fun i => i != s && d.slicePart q i == old)
  if !concerned.all drained || (last && d.hasUnit q old) || !d.partOk new then d.set p fCASE_PART_ILL 0 1
  else d.set p fCASE_PART_PART 0 new

def execCasePartWrite (via : Via) (q : Quad) (n : Fin 16) (val : Word) (s : State) : Out :=
  onDev (fun d => d.viaWrite via (pCase q.val n.val) (fun d => casePartWrite d q.val n.val val.toNat)) s

/-! ### Range and Galley maintenance (R222) -/

def mntKey (q : Nat) (keep : Bool) : Nat := (if keep then 200 else 100) + q

/-- Invalidates every peer line of a B-die, of one partition or of all (R177, R216); fills in flight are not installed. -/
def Dev.rcInvalidate (d : Dev) (q : Nat) (part : Option Nat) : Dev :=
  let d := { d with lines := d.lines.filter (fun e =>
    !(keyAgent e.1 == 8 + q && (match e.2 with
      | some c => c.peer && (match part with | some p => c.part == p | none => true)
      | none => false))) }
  { d with reqs := d.reqs.map (fun r =>
      if r.quad == q && (match r.tgt with | .peer _ _ _ rc => rc | _ => false) && (match part with | some p => r.part == p | none => true)
      then { r with noinstall := true } else r) }

/-- A write of QCTL_MNT_CMD: bit 0 FLUSH, bit 1 CLEAN, bit 2 RCINV. -/
def mntCmd (d : Dev) (q val : Nat) : Dev :=
  let p := pQctl q
  let ill := d.set p fQCTL_MNT_CMD_ILL 0 1
  let start := d.get64 p 0x230 0
  let lo := start / 128
  let n := d.get p fQCTL_MNT_LEN_PAGES 0 * 32
  let bad := start % 4096 != 0 || n == 0 || decide (start / 2 ^ 37 / 5 ≠ q ∨ 20 ≤ start / 2 ^ 37) ||
    decide (0x1200000000 < start % 2 ^ 37 + 128 * n)
  let range (keep : Bool) : Dev :=
    if bad then ill
    else
      (({ d with hmapBusy := NMap.put d.hmapBusy (mntKey q keep) (some (lo, n)) none }).set p fQCTL_MNT_CMD_BUSY 0 1).flushRange
        keep lo n
  if val % 8 = 0 then d
  else if d.on p fQCTL_MNT_CMD_BUSY 0 then ill
  else
    match val % 8 with
    | 1 => range false
    | 2 => range true
    | 4 => (d.set p fQCTL_MNT_CMD_BUSY 0 1).rcInvalidate q none
    | _ => ill

def execFlush (via : Via) (q : Quad) (s : State) : Out :=
  onDev (fun d => d.viaWrite via (pQctl q.val) (fun d => mntCmd d q.val 1)) s
def execClean (via : Via) (q : Quad) (s : State) : Out :=
  onDev (fun d => d.viaWrite via (pQctl q.val) (fun d => mntCmd d q.val 2)) s
def execRcinv (via : Via) (q : Quad) (s : State) : Out :=
  onDev (fun d => d.viaWrite via (pQctl q.val) (fun d => mntCmd d q.val 4)) s

/-- The home's older copy goes: memory is current again. -/
def Dev.dropHome (d : Dev) (l : Nat) : Dev :=
  match d.copyOf (8 + lineQuad l) l with
  | some (s, c) => if c.st = .h then d.setCline (8 + lineQuad l) s l none else d
  | none => d

/-- The lines of a Galley, of one partition or all, leave as far as nothing is in flight on them: owned lines are written
back, and the home's entry no longer names the Galley as owner. -/
def Dev.galFlush (d : Dev) (g : Nat) (part : Option Nat) : Dev :=
  ((d.lines.filterMap (fun e =>
      if keyAgent e.1 = g ∧ (match e.2 with
        | some c => !c.leaving && (match part with | some p => c.part == p | none => true)
        | none => false) = true then some e.1 else none))).foldl
    (fun d k =>
      let l := keyLine k
      if !d.quiet l then d
      else
        match NMap.get d.lines k none with
        | none => d
        | some c =>
          let d := { d with lines := NMap.put d.lines k none none }
          (match c.st with
           | .s => d
           | _ =>
             let d := d.when c.dirty (fun d => (d.dropHome l).dramWrite l c.data.toNat c.psn (d.wbSvc g l c.part))
             (match d.dirEnt l with
              | some e => d.setDir l (if e.st = 3 ∧ (e.bcast ∨ ¬e.sharers.isEmpty) then some { e with st := 1 } else none)
              | none => d))) d

/-- A write of GAL_MNT: bit 0 FLUSHP with the partition in bits 13:8, bit 1 FLUSHALL. -/
def galMnt (d : Dev) (g val : Nat) : Dev :=
  let p := pGal g
  let ill := d.set p fGAL_MNT_ILL 0 1
  if val % 4 = 0 then d.set p fGAL_MNT_PART 0 (bitsOf val 13 8)
  else if d.on p fGAL_MNT_BUSY 0 || val % 4 == 3 then ill
  else
    let d := d.set p fGAL_MNT_PART 0 (bitsOf val 13 8)
    match val % 4 with
    | 1 =>
      (({ d with hmapBusy := NMap.put d.hmapBusy (300 + g) (some (1, bitsOf val 13 8)) none }).set p fGAL_MNT_BUSY 0 1).galFlush g
        (some (bitsOf val 13 8))
    | 2 =>
      (({ d with hmapBusy := NMap.put d.hmapBusy (300 + g) (some (0, 0)) none }).set p fGAL_MNT_BUSY 0 1).galFlush g none
    | _ => d.set p fGAL_MNT_ILL 0 1

def execFlushp (via : Via) (d : Die) (p : Fin 64) (s : State) : Out :=
  onDev (fun v => v.viaWrite via (.gal d) (fun v => galMnt v d.val (1 + 256 * p.val))) s
def execFlushall (via : Via) (d : Die) (s : State) : Out :=
  onDev (fun v => v.viaWrite via (.gal d) (fun v => galMnt v d.val (2 + 256 * v.get (.gal d) fGAL_MNT_PART 0))) s

/-- A maintenance operation completes: lines that were busy when it was accepted have gone too, and BUSY clears. -/
def execMaintenanceDone (u : MntUnit) (s : State) : Out :=
  onDev (fun d =>
    match u with
    | .qctl q =>
      if !d.on (.qctl q) fQCTL_MNT_CMD_BUSY 0 then d
      else
        let done (d : Dev) (keep : Bool) : Dev × Bool :=
          match NMap.get d.hmapBusy (mntKey q.val keep) none with
          | none => (d, true)
          | some (lo, n) =>
            if d.rangeIdle lo n then
              ({ d.flushRange keep lo n with hmapBusy := NMap.put d.hmapBusy (mntKey q.val keep) none none }, true)
            else (d, false)
        let a := done d false
        let b := done a.1 true
        if a.2 && b.2 then b.1.set (.qctl q) fQCTL_MNT_CMD_BUSY 0 0 else d
    | .slice q n =>
      if !d.on (.case q n) fCASE_MNT_BUSY 0 then d
      else
        let d := d.drainSlice q.val n.val
        let left := d.lines.any (fun e => keyAgent e.1 == 8 + q.val && keyPlace e.1 == n.val)
        if left then d else (d.set (.case q n) fCASE_MNT_BUSY 0 0).set (.case q n) fCASE_PART_DRAINED 0 1
    | .galley g =>
      if !d.on (.gal g) fGAL_MNT_BUSY 0 then d
      else
        let part := match NMap.get d.hmapBusy (300 + g.val) none with
          | some (1, p) => some p
          | _ => none
        -- every line of the Galley that it names must be quiet before the last of them can go
        let d := d.galFlush g.val part
        if d.lines.any (fun e => keyAgent e.1 == g.val && (match e.2, part with
            | some c, some p => c.part == p
            | some _, none => true
            | none, _ => false)) then d
        else
          ({ d with hmapBusy := NMap.put d.hmapBusy (300 + g.val) none none }).set (.gal g) fGAL_MNT_BUSY 0 0) s

/-! ### Stereo regions (R217 to R221, R224) -/

def srIdx (d : Dev) (q : Nat) : Nat := d.get (pQctl q) fQCTL_SR_IDX_ENT 0
def srIll (d : Dev) (q e : Nat) : Dev := d.set (pQctl q) fQCTL_SR_STAT_ILL e 1

/-- The ranges an entry takes: its region, and its mirror if enabled. -/
def srRanges (d : Dev) (q e : Nat) : List (Nat × Nat) :=
  [(d.srBase q e, d.srSize q e)] ++ (if d.srMen q e then [(d.srMir q e, d.srSize q e)] else [])

/-- A range lies in the populated part of one stack of the B-die. -/
def inStackOf (q : Nat) (r : Nat × Nat) : Bool :=
  decide (r.1 / 2 ^ 37 / 5 = q ∧ r.1 / 2 ^ 37 < 20 ∧ r.1 % 2 ^ 37 + r.2 ≤ 0x1200000000)

/-- OPEN is refused (R217). -/
def srIllegal (d : Dev) (q e : Nat) : Bool :=
  d.srState q e != 0 || d.get (pQctl q) fQCTL_SR_SIZE_SIZE e == 0 || decide (2 ^ 20 < d.get (pQctl q) fQCTL_SR_SIZE_SIZE e) ||
  !(srRanges d q e).all (inStackOf q) ||
  (d.srMen q e && d.srMir q e / 2 ^ 37 == d.srBase q e / 2 ^ 37) ||
  (List.range 4).any (fun q' => (List.range 2).any (fun e' =>
    !(q' == q && e' == e) && d.srState q' e' != 0 &&
    (srRanges d q e).any (fun a => (srRanges d q' e').any (overlaps a))))

/-- The key slots of the entry's units are kept from OPEN to CLOSE (R265). -/
def srKeepKeys (d : Dev) (q e : Nat) : Dev :=
  ((List.range 360).filter (fun u => (srRanges d q e).any (fun r => overlaps r (128 * unitLine q u, 2 ^ 30)))).foldl
    (fun d u => { d with srKey := NMap.put d.srKey (512 * (2 * q + e) + u) (d.get (pQctl q) fQCTL_HMAP_PART u + 1) 0 }) d

/-- A write of QCTL_SR_CMD: bit 0 OPEN, bit 1 CHECK, bit 2 CLOSE, bit 8 MEN, which is written in OFF only (R218, R224). -/
def srCmd (d : Dev) (q val : Nat) : Dev :=
  let e := srIdx d q
  let p := pQctl q
  let st := d.srState q e
  let men := bitsOf val 8 8
  let d := if st = 0 then d.set p fQCTL_SR_CMD_MEN e men
    else if d.get p fQCTL_SR_CMD_MEN e ≠ men then srIll d q e else d
  match val % 8 with
  | 0 => d
  | 1 =>
    if srIllegal d q e then srIll d q e
    else
      (((srKeepKeys d q e).set p fQCTL_SR_STAT_STATE e 1).set p fQCTL_SR_STAT_REPAIRS e 0).set p fQCTL_SR_STAT_POISONED e 0
  | 2 => if st = 1 then d.set p fQCTL_SR_STAT_STATE e 2 else srIll d q e
  | 4 =>
    if st = 1 ∨ st = 3 ∨ st = 4 then { d with rbWait := Set.add d.rbWait (2 * q + e) } else srIll d q e
  | _ => srIll d q e

def execSrOpen (via : Via) (q : Quad) (men : Bool) (s : State) : Out :=
  onDev (fun d => d.viaWrite via (pQctl q.val) (fun d => srCmd d q.val (1 + (if men then 256 else 0)))) s
def execSrCheck (via : Via) (q : Quad) (s : State) : Out :=
  onDev (fun d => d.viaWrite via (pQctl q.val)
    (fun d => srCmd d q.val (2 + 256 * d.get (pQctl q.val) fQCTL_SR_CMD_MEN (srIdx d q.val)))) s
def execSrClose (via : Via) (q : Quad) (s : State) : Out :=
  onDev (fun d => d.viaWrite via (pQctl q.val)
    (fun d => srCmd d q.val (4 + 256 * d.get (pQctl q.val) fQCTL_SR_CMD_MEN (srIdx d q.val)))) s

/-- The digest of a range as R219 computes it: SHA-512 of the digests of its 1 MiB pieces. -/
def stereoDigest (bytes : List Byte) : Nat → List Byte
  | 0 => []
  | n + 1 =>
    leBytes 64 (sha512 (bytes.take (2 ^ 20))).toNat ++ stereoDigest (bytes.drop (2 ^ 20)) n

/-- The expected digest: 16 words, word 0 holding bytes 0 to 3. -/
def srExpected (d : Dev) (q e : Nat) : List Byte :=
  (List.range 16).flatMap (fun w => leBytes 4 (d.get (pQctl q) fQCTL_SR_DIG_DIG (e * 16 + w)))

/-- Copies each line of the region to the mirror (R219). -/
def Dev.mirrorLines (d : Dev) (src dst : Nat) : Nat → Dev
  | 0 => d
  | n + 1 =>
    let x := d.dramRead src
    Dev.mirrorLines (x.2.2.dramWrite dst x.1 x.2.1 (d.svc0 (lineQuad dst) 0 3)) (src + 1) (dst + 1) n

/-- The digest is computed: a match makes the entry ACTIVE, a mismatch or a poisoned line FAILED (R219). Host writes of the
region that caches still hold are in memory first. -/
def execSrCheckDone (q : Quad) (e : Fin 2) (s : State) : Out :=
  onDev (fun d =>
    let p := pQctl q.val
    if d.srState q.val e.val ≠ 2 then d
    else
      let lo := d.srBase q.val e.val / 128
      let n := d.srSize q.val e.val / 128
      if !d.rangeIdle lo n then d
      else
        let d := d.flushRange false lo n
        let r := d.readCoherent (128 * lo) (128 * n)
        let d := d.when (d.srMen q.val e.val) (fun d => d.mirrorLines lo (d.srMir q.val e.val / 128) n)
        if r.2 then (d.set p fQCTL_SR_STAT_STATE e.val 4).set p fQCTL_SR_STAT_CAUSE e.val 2 |>.raise p 7
          (2 * 8192 + 32768 * e.val + ((List.range n).find? (fun i => (d.currentData (lo + i)).2)).getD 0 % 512)
        else
          let dg := leBytes 64 (sha512 (stereoDigest r.1 ((128 * n + 2 ^ 20 - 1) / 2 ^ 20))).toNat
          if dg = srExpected d q.val e.val then d.set p fQCTL_SR_STAT_STATE e.val 3
          else (d.set p fQCTL_SR_STAT_STATE e.val 4).set p fQCTL_SR_STAT_CAUSE e.val 1 |>.raise p 7 (1 * 8192 + 32768 * e.val)) s

/-- Every cached copy of the region is gone, and the entry reads OFF (R218). -/
def execSrCloseDone (q : Quad) (e : Fin 2) (s : State) : Out :=
  onDev (fun d =>
    let k := 2 * q.val + e.val
    let lo := d.srBase q.val e.val / 128
    let n := d.srSize q.val e.val / 128
    if !Set.has d.rbWait k || !d.rangeIdle lo n then d
    else
      let d := d.flushRange false lo n
      let d := { d with rbWait := Set.del d.rbWait k,
                        srKey := NMap.dropIf d.srKey (fun x => x / 512 == k) }
      d.set (pQctl q.val) fQCTL_SR_STAT_STATE e.val 0) s

end Sys2Proof.Machine
end

