-- ==== Sys2Proof/Machine/RunCheck.lean ====
section
/-!
DEFINITION. The checks the Imposer makes of a run's header and entries (R61, Tables 3.3 to 3.13, R90, R101, R123, R156, R165,
R171, R244). The checks are made in the order of Table 3.6's codes; the first that fails names the run's error.
-/

namespace Sys2Proof.Machine

open Sys2Proof

/-- Bits of `v` outside a mask. -/
def outside (v mask : Nat) : Bool := v != v &&& mask

/-- The header (Table 3.4); `set` lists the logical IDs of the queue's target set. -/
def hdrBad (r : Img) (set : List Nat) : Bool :=
  hVer r != 1 || outside (hFlags r) 1 || hNent r == 0 || decide (256 < hNent r) ||
  decide (256 < ((List.range 16).map (hBufSz r)).foldl (· + ·) 0) || decide (3 < hWaitKind r) ||
  decide (1 ≤ hWaitTmo r ∧ hWaitTmo r ≤ 15) || decide (41 ≤ hWaitTmo r) ||
  (if (hFlags r).testBit 0 then !decide (16 ≤ hWdog r ∧ hWdog r ≤ 32) else hWdog r != 0) ||
  decide (32 < hNtok r) || bitsOf (hCore r) 14 13 != 0 || (!hAny r && !set.contains (hLid r)) ||
  (if hWaitKind r = 2 then !decide (8 ≤ hPoll r ∧ hPoll r ≤ 15) else hPoll r != 0) || fieldLE r 0x3B 5 != 0

/-- The address lies within a stack of one of the quadrants. -/
def inStacks (quads : List Nat) (a : Nat) : Bool :=
  decide (a < 0x028000000000 ∧ a % 2 ^ 37 < 0x1200000000) && quads.contains (a / 2 ^ 37 / 5)

/-- The wait arguments (Table 3.5 and its notes). -/
def waitBad (r : Img) (quads : List Nat) : Bool :=
  match hWaitKind r with
  | 0 => hWaitA r != 0 || hWaitB r != 0 || hWaitC r != 0
  | 1 => outside (hWaitA r) 0x30003FFF || !quads.contains (waQuad r) || hWaitC r != 0
  | 2 =>
    outside (hWaitA r) 0x30000107 || decide (3 < waCmp r) || decide (2 ^ 48 ≤ hWaitB r) ||
    (!waWide r && decide (2 ^ 32 ≤ hWaitC r)) || hWaitB r % (if waWide r then 8 else 4) != 0 || !inStacks quads (hWaitB r)
  | _ => outside (hWaitA r) 0x33F || waCnt r == 0 || hWaitB r != 0 || hWaitC r != 0

/-! ### Entries (R60, R64) -/

/-- The bits of bytes 0x08 to 0x1F that a command's table or a rule gives a meaning (Tables 3.9 to 3.13), byte 0x08 lowest;
none where STN and OP name no command. -/
def cmdMask (stn op : Nat) : Option Nat :=
  let addr := (2 ^ 48 - 1) * 2 ^ 64
  match stn, op with
  | 0, 1 => some (0xFFFFFFFF00000FFF ||| addr)
  | 0, 2 => some (0x10FFF ||| addr)
  | 0, 3 => some 0xFF
  | 0, 4 => some (0xFFFFFFFF00000000 ||| addr)
  | 1, 1 => some 0xFFFFFFFF0FFFFFFF
  | 2, 1 => some (0xFFFFFFFFFFFFFFFF ||| addr ||| (2 ^ 64 - 1) * 2 ^ 128)
  | 3, 1 => some 0xFFFFFFFF0700FFFF
  | 3, 2 => some 0xFFFFFFFF0700FFFF
  | 3, 3 => some 0xFFFFFFFF0700FFFF
  | 3, 4 => some 0xFFFFFFFF0707FFFF
  | 3, 5 => some 0xFFFFFFFF0700FFFF
  | 3, 6 => some 0xFFFFFFFF0700FFFF
  | 4, 1 => some (0xFFFFFFFFFFFF7FFF ||| addr ||| 0xFFFFFF * 2 ^ 112)
  | 4, 2 => some (0x1FFFF7FFF ||| addr ||| 0xFFFF * 2 ^ 112)
  | 4, 3 => some (0xFFFFFFFFFFFF7F00 ||| addr ||| 0xFFFF * 2 ^ 112 ||| (2 ^ 64 - 1) * 2 ^ 128)
  | 4, 4 => some 0xFF031FFF
  | _, _ => none

/-- STN and OP name no command and no descriptor entry, or a reserved bit of a command is set. -/
def entryBad (e : Img) : Bool :=
  if eStn e = 5 then eOp e != 0
  else
    match cmdMask (eStn e) (eOp e) with
    | none => true
    | some m => outside (fieldLE e 0 8) 0x00009F3F9F3F9FFF || outside (fieldLE e 8 24) m

/-! ### Descriptors (Table 3.3, R56) -/

def sparseFmt (f : Nat) : Bool := [2, 3, 4, 5, 6, 7, 0xA, 0xB, 0xE, 0xF].contains f

/-- The regions of a tile, pairwise. -/
def regionsClash (t : Tile) : Bool :=
  match t.regions with
  | [a, b] => overlaps a b
  | [a, b, c] => overlaps a b || overlaps a c || overlaps b c
  | _ => false

def descBad (r e : Img) : Bool :=
  let t := tileOf e
  let along := if t.blkdim = 0 then t.cols else t.rows
  t.layout == 3 || (t.layout == 2 && (t.rows == 8 || t.cols == 8)) || (t.layout == 2 && t.sparse && along == 16) ||
  decide (4 < eByte e 1 % 8) || decide (4 < eByte e 1 / 8 % 8) || (t.scale && decide (along < 32)) ||
  (t.sparse && !sparseFmt t.fmt) || t.scale != decide (0xA ≤ t.fmt ∧ t.fmt ≤ 0xF) || decide (0x10 < t.fmt) ||
  eByte e 3 / 16 != 0 || hBufSz r t.buf == 0 || (!t.scale && t.soff != 0) || (!t.sparse && t.moff != 0) ||
  (if t.fmt = 0x10 then !decide (-1152 ≤ t.frame ∧ t.frame ≤ 960) else t.frame != 0) || fieldLE e 0xC 20 != 0 ||
  t.regions.any (fun x => decide (4096 * hBufSz r t.buf < x.1 + x.2)) || regionsClash t ||
  decide (65536 < t.dataBytes + t.scaleBytes + t.mapBytes)

/-! ### References and tile bounds -/

/-- The descriptor entries a command names; T0 to T3 of 0xFF name none. -/
def namedOf (e : Img) : List Nat :=
  match eStn e, eOp e with
  | 0, 4 => []
  | 0, _ => [eByte e 8]
  | 1, _ => [eByte e 8, eByte e 9, eByte e 0xA]
  | 2, _ => [eByte e 8, eByte e 9, eByte e 0xA, eByte e 0xB].filter (fun x => x != 0xFF)
  | 3, _ => [eByte e 8, eByte e 9]
  | 4, 1 => [eByte e 8]
  | 4, 2 => [eByte e 8]
  | _, _ => []

def refBad (r e : Img) : Bool :=
  if eStn e = 5 then false
  else
    let w := eWaits e
    (namedOf e).any (fun x => decide (hNent r ≤ x) || !isDescE (entry r x)) ||
    w.any (fun x => decide (hNtok r ≤ x.1) || x.2 == 0) ||
    (match w with
     | [a, b] => a.1 == b.1
     | _ => false) ||
    (eSgEn e && decide (hNtok r ≤ eSgTok e))

/-- The first entry that brings a station's distinct descriptors to 65. -/
def boundBad (r : Img) : List Nat → List (List Nat) → Option Nat
  | [], _ => none
  | n :: ns, seen =>
    let e := entry r n
    if eStn e = 5 then boundBad r ns seen
    else
      let s := (namedOf e).foldl (fun l x => if l.contains x then l else x :: l) (seen.getD (eStn e) [])
      if 64 < s.length then some n else boundBad r ns (seen.set (eStn e) s)

/-! ### Operands -/

def tileAt (r : Img) (n : Nat) : Tile := tileOf (entry r n)

/-- The class of an MMA operand format (Table 4.6): 0 FP64, 1 FP32, 2 Half, 3 narrow plain, 4 narrow MX, 5 none. -/
def fmtClass (f : Nat) : Nat :=
  if f = 0 then 0 else if f = 1 then 1 else if f = 2 ∨ f = 3 then 2 else if 4 ≤ f ∧ f ≤ 8 then 3
  else if 0xA ≤ f ∧ f ≤ 0xF then 4 else 5

/-- R67, R90, R101. -/
def mmaBad (a b c : Tile) (rnd : Nat) : Bool :=
  let k := fmtClass a.fmt
  let isInt (f : Nat) : Bool := f == 7 || f == 8
  decide (4 < rnd) || a.cols != b.rows || a.rows != c.rows || b.cols != c.cols || b.sparse || c.overlap a || c.overlap b ||
  k == 5 || fmtClass b.fmt != k || c.scale || c.sparse || (a.scale && !(a.blkdim == 0 && b.blkdim == 1)) ||
  (a.sparse && a.blkdim != 0) ||
  !((if k = 0 then c.fmt == 0 else c.fmt == 1) || c.fmt == 0x10 || (c.fmt == 9 && isInt a.fmt && isInt b.fmt))

/-- R69, R90, Table 3.12. -/
def foldBad (op : Nat) (s t : Tile) (arg rnd : Nat) : Bool :=
  let same := s.rows == t.rows && s.cols == t.cols
  let aux := s.scale || s.sparse
  decide (4 < rnd) || s.overlap t ||
  (match op with
   | 1 => !(s.rows == t.cols && s.cols == t.rows) || s.fmt != t.fmt || s.sparse != t.sparse || (aux && t.blkdim + s.blkdim != 1)
   | 2 => !same || s.fmt != t.fmt || s.sparse != t.sparse || (aux && t.blkdim != s.blkdim)
   | 3 => !same || s.fmt == t.fmt || t.sparse
   | 4 => t.sparse || (if arg.testBit 2 then !(t.rows == 8 && t.cols == s.cols) else !(t.rows == s.rows && t.cols == 8))
   | 5 => !same || s.fmt != t.fmt || s.sparse || !t.sparse || (aux && t.blkdim != s.blkdim)
   | _ => !same || s.fmt != t.fmt || !s.sparse || t.sparse || (aux && t.blkdim != s.blkdim))

def operandBad (r e : Img) : Bool :=
  match eStn e, eOp e with
  | 0, 2 => let t := tileAt r (eByte e 8); if (eByte e 0xA).testBit 0 then !t.sparse else !t.scale
  | 1, _ => mmaBad (tileAt r (eByte e 8)) (tileAt r (eByte e 9)) (tileAt r (eByte e 0xA)) (bitsOf (eByte e 0xB) 3 1)
  | 3, op => foldBad op (tileAt r (eByte e 8)) (tileAt r (eByte e 9)) (eByte e 0xA) (eByte e 0xB % 8)
  | 4, 1 =>
    if eAccw e then
      (match eRed e with
       | 0 => (tileAt r (eByte e 8)).fmt != 0x10
       | 1 => (tileAt r (eByte e 8)).fmt != 9
       | 2 => (tileAt r (eByte e 8)).fmt != 1
       | 3 => (tileAt r (eByte e 8)).fmt != 1
       | _ => false)
    else false
  | 4, 2 => let t := tileAt r (eByte e 8); if (eByte e 0xC).testBit 0 then !t.sparse else !t.scale
  | _, _ => false

/-! ### Command arguments -/

/-- The contiguous units of a tile's memory image: how many, and bytes each (R65). -/
def Tile.units (t : Tile) : Nat × Nat :=
  match t.layout with
  | 0 => (t.stRows, t.stCols * t.bits / 8)
  | 1 => (t.stCols, t.stRows * t.bits / 8)
  | _ => (t.stRows / 16, t.stCols / 16 * 256 * t.bits / 8)

def imageBad (e : Img) (t : Tile) : Bool :=
  eAddr e % 16 != 0 || eStride e % 16 != 0 || decide (eStride e < (t.units).2)

def inHost (e : Img) : Bool := decide (0x800000000000 ≤ eAddr e)

/-- The rules the Delivery's memory commands share (R70, R156, R165, R171). -/
def dlvBad (e : Img) : Bool :=
  (eWide e && eOp e != 3) || (eAccw e && eOp e != 1) || (eRelSc e != 0 && !eRel e) ||
  bitsOf (eCtr e) 14 12 != 0 || (eCtr e % 4096 != 0 && !(eCtr e).testBit 15) || ((eCtr e).testBit 15 && inHost e) ||
  decide (4096 ≤ eGroup e) || (eGroup e != 0 && !eColo e) || (eColo e && inHost e)

def argBad (r e : Img) : Bool :=
  match eStn e, eOp e with
  | 0, 1 => (bitsOf (eByte e 9) 3 2 != 0 && !(eByte e 9).testBit 1) || imageBad e (tileAt r (eByte e 8))
  | 0, 2 => bitsOf (eByte e 9) 3 2 != 0 && !(eByte e 9).testBit 1
  | 0, 4 => eStride e % 128 != 0 || eStride e == 0 || decide (2 ^ 20 < eStride e) || eAddr e % 128 != 0
  | 2, _ =>
    let ngrp := eByte e 0xC
    let nreg := eByte e 0xF
    let lbuf := eByte e 0xE
    eAddr e % 128 != 0 || ngrp == 0 || decide (16 < ngrp) || eByte e 0xD == 0 || decide (nreg < 8) ||
    decide (1024 < ngrp * ((nreg + 7) / 8 * 8)) || bitsOf lbuf 6 4 != 0 || (lbuf.testBit 7 && hBufSz r (lbuf % 16) == 0)
  | 3, 4 => eByte e 0xA % 4 == 3
  | 4, 1 =>
    decide (3 < eRed e) || (eRed e != 0 && !eAccw e) || (eAccw e && inHost e) || dlvBad e || imageBad e (tileAt r (eByte e 8))
  | 4, 2 => dlvBad e
  | 4, 3 => dlvBad e || (eExpect e != 0 && !eColo e) || eAddr e % (if eWide e then 8 else 4) != 0
  | 4, 4 => eByte e 0xB == 0
  | _, _ => false

/-! ### The whole run -/

/-- The error code and entry of an illegal run, none for a legal one (R61). -/
def checkRun (r : Img) (set quads : List Nat) : Option (Nat × Nat) :=
  let ns := List.range (hNent r)
  let first (code : Nat) (bad : Img → Bool) : Option (Nat × Nat) :=
    (ns.find? (fun n => bad (entry r n))).map (fun n => (code, n))
  if hdrBad r set then some (1, 0xFFFF)
  else if waitBad r quads then some (2, 0xFFFF)
  else
    (first 3 entryBad).or ((first 4 (fun e => eStn e == 5 && descBad r e)).or ((first 5 (refBad r)).or
      (((boundBad r ns [[], [], [], [], []]).map (fun n => (6, n))).or ((first 7 (operandBad r)).or (first 8 (argBad r))))))

/-- Whether the entry is a command. -/
def isCmd (e : Img) : Bool := eStn e != 5

/-- The commands of each station, in run order. -/
def cmdsOf (r : Img) : List (List Nat) :=
  (List.range 5).map (fun s => (List.range (hNent r)).filter (fun n => eStn (entry r n) == s))

/-- How many commands a run has. -/
def nCmds (r : Img) : Nat := ((List.range (hNent r)).filter (fun n => isCmd (entry r n))).length

end Sys2Proof.Machine
end

