-- ==== Sys2Proof/Machine/Imposer.lean ====
section
/-!
DEFINITION. The Imposer (chapter 7): doorbells, fetching and checking runs, binding, head waits, the begin and end of runs,
the journal, and the queue commands.

The queue registers are indexed by queue. The ring entry, the header and the entries of a run are asked for in turn, each by
requests like those of any other client (R185); the save area of an ENABLE with RESTORE is read at once from the coherent
copies of device memory, and bytes of it that lie in host memory or at a peer come with the command (log entry 77).
-/

namespace Sys2Proof.Machine

open Sys2Proof

/-! ### Queue registers -/

def Dev.qRp (d : Dev) (x q : Nat) : Nat := d.get (pImp x) fIMP_QRP_RP q
def Dev.qWp (d : Dev) (x q : Nat) : Nat := d.get (pImp x) (fIMP_QWP_WP.at q) 0
def Dev.qSize (d : Dev) (x q : Nat) : Nat := 2 ^ d.get (pImp x) fIMP_QCFG_LOGSZ q
def Dev.qPart (d : Dev) (x q : Nat) : Nat := d.get (pImp x) fIMP_QPART_PART q
def Dev.qPrio (d : Dev) (x q : Nat) : Nat := d.get (pImp x) fIMP_QCFG_PRIO q
def Dev.qTag (d : Dev) (x q : Nat) : Nat := d.get (pImp x) fIMP_QCFG_TAG q
def Dev.qState (d : Dev) (x q : Nat) : Nat := d.get (pImp x) fIMP_QSTAT_STATE q
def Dev.qBegun (d : Dev) (x q : Nat) : Nat := d.get (pImp x) fIMP_QSTAT_BEGUN q
def Dev.qErr (d : Dev) (x q e : Nat) : Dev := d.set (pImp x) fIMP_QSTAT_ERR q e
def Dev.qBase (d : Dev) (x q off : Nat) : Nat := d.get64 (pImp x) off q % 2 ^ 48

/-- WP - RP modulo 2^32. -/
def Dev.qLen (d : Dev) (x q : Nat) : Nat := (d.qWp x q + 2 ^ 32 - d.qRp x q) % 2 ^ 32

/-- The target set's logical core IDs, ascending (R182). -/
def Dev.targetSet (d : Dev) (x q : Nat) : List Nat :=
  let p := pImp x
  let rlo := d.get p fIMP_QSET_ROWLO q
  let rhi := d.get p fIMP_QSET_ROWHI q
  let clo := d.get p fIMP_QSET_COLLO q
  let chi := d.get p fIMP_QSET_COLHI q
  ((List.range 24).filter (fun r => decide (rlo ≤ r ∧ r ≤ rhi))).flatMap (fun r =>
    ((List.range 24).filter (fun c => decide (clo ≤ c ∧ c ≤ chi) && (d.coreOfLid (1024 * x + 32 * r + c)).isSome)).map
      (fun c => 1024 * x + 32 * r + c))

/-- The cores of the target set. -/
def Dev.targetCores (d : Dev) (x q : Nat) : List CoreId := (d.targetSet x q).filterMap d.coreOfLid

/-- The slot a queue has on a core. -/
def Dev.slotOf (d : Dev) (c : CoreId) (q : Nat) : Option Nat :=
  (List.range 8).find? (fun sl => match (d.core c).bind sl with
    | some b => b.q == q
    | none => false)

/-! ### Writes of bytes, line by line -/

/-- The parts of a byte string at an address, split at 128-byte lines: address, mask and data in the line (R153). -/
def lineParts (addr : Nat) (bytes : List Byte) : Nat → List (Nat × Nat × Nat)
  | 0 => []
  | fuel + 1 =>
    if bytes.isEmpty then []
    else
      let off := addr % 128
      let chunk := bytes.take (128 - off)
      (addr, byteMask off chunk.length, leNat chunk * 2 ^ (8 * off)) ::
        lineParts (addr + chunk.length) (bytes.drop (128 - off)) fuel

/-! ### Acquires (R147, R158, R177, R216) -/

/-- An acquire on a core: from DIE scope up the data cache is invalidated and its fills in flight are not installed; at SYSTEM
scope the remote-cache windows within reach too. -/
def Dev.acquire (d : Dev) (c : CoreId) (scope part : Nat) : Dev :=
  if scope = 0 then d
  else
    let d := d.modCore c (fun x => { x with inker := { x.inker with dcache := [] } })
    let d := { d with reqs := d.reqs.map (fun r => match r.cli with
      | .inkLd c' _ _ _ => if c' = c then { r with noinstall := true } else r
      | _ => r) }
    if scope = 3 then
      let q := c.die.val / 2
      (if d.on (pQctl (d.chanQuad q)) fQCTL_RCREACH_REACH 0 then d.quadsOf (d.chanOf q) else [q]).foldl
        (fun d y => d.rcInvalidate y (some part)) d
    else d

/-! ### The journal (R197 to R200) -/

/-- An entry as a number (Table 7.2). -/
def journalNum (phase status err gen runId pos progress core dlv ent xflag chsat : Nat) : Nat :=
  (status + 128 * phase) + 2 ^ 8 * (err % 256) + 2 ^ 16 * (gen % 256) + 2 ^ 32 * (runId % 2 ^ 32) + 2 ^ 64 * (pos % 2 ^ 32) +
  2 ^ 96 * (progress % 65536) + 2 ^ 112 * (core % 65536) + 2 ^ 128 * (dlv % 65536) + 2 ^ 144 * (ent % 65536) +
  2 ^ 160 * (xflag % 2 ^ 32) + 2 ^ 192 * (chsat % 65536)

/-- Writes a run's entry: bytes 4 to 31, then bytes 0 to 3; both go to one line, which keeps their order (R155, R346). -/
def Dev.writeJournal (d : Dev) (x q : Nat) (r : Run) (status gen xflag chsat : Nat) : Dev :=
  let a := d.qBase x q 0x110 + 32 * (r.pos % d.qSize x q)
  let phase := 1 - (if r.pos.testBit (d.get (pImp x) fIMP_QCFG_LOGSZ q) then 1 else 0)
  let core := match r.core with
    | some c => 0x8000 + (d.lid c).getD 0x1FFF
    | none => 0
  let v := journalNum phase status r.err gen (hRunId r.img) r.pos r.progress core r.dlvDone r.ent xflag chsat
  let off := a % 128
  let base : Req := { Req.blank with cli := .journal x q r.pos, op := .wr, addr := a, data := v * 2 ^ (8 * off),
                                     part := d.qPart x q, quad := x / 2, tc := 0, scope := 3 }
  (d.issue { base with mask := byteMask (off + 4) 28 }).issue
    { base with mask := byteMask off 4, flag := true, expect := status + 256 * r.err }

/-- Runs of a queue are gone: their slots are free from now on (R186), and what was asked for them is dropped. -/
def Dev.dropRuns (d : Dev) (x q : Nat) (gone : Run → Bool) : Dev :=
  let rs := (d.queue (queueKey x q)).runs.filter gone
  let d : Dev := { d with reqs := d.reqs.filter (fun r => !rs.any (fun y => decide (r.cli = .fetch x q y.pos))) }
  let d := rs.foldl (fun d r => match r.core with
    | some c => d.modCore c (fun k => match k.bind r.slot with
      | some b => k.setBind r.slot (some { b with freed := d.now (pressClk x) })
      | none => k)
    | none => d) d
  d.modQueue (queueKey x q) (fun y => { y with runs := y.runs.filter (fun r => !gone r) })

/-- Drops the run at a position. -/
def Dev.dropRun (d : Dev) (x q pos : Nat) : Dev := d.dropRuns x q (fun r => r.pos == pos)

/-- Retires the runs at RP that have ended without beginning, in position order (R187). -/
def Dev.retire (d : Dev) (x q : Nat) : Nat → Dev
  | 0 => d
  | fuel + 1 =>
    let rp := d.qRp x q
    match (d.queue (queueKey x q)).runs.find? (fun r => r.pos == rp && r.stage == .retiring) with
    | none => d
    | some r =>
      let gen := match r.core with
        | some c => d.gen (.core c)
        | none => d.pageGen (pImp x)
      Dev.retire (((d.dropRun x q rp).writeJournal x q r 2 gen 0 0).set (pImp x) fIMP_QRP_RP q (rp + 1)) x q fuel

def Dev.retireAll (d : Dev) (x q : Nat) : Dev := d.retire x q 64

/-! ### Holding, saving and releasing (R191 to R194) -/

/-- Releases a queue's bindings. -/
def Dev.releaseSlots (d : Dev) (x q : Nat) : Dev :=
  { d with cores := NMap.update d.cores Core.init (fun k c =>
      if k / 1024 = x then
        { c with binds := c.binds.filter (fun e => match e.2 with | some b => b.q != q | none => false) }
      else c) }

/-- The save area of a queue (Table 7.1). -/
def Dev.saveArea (d : Dev) (x q : Nat) : List Byte :=
  let cs := d.targetCores x q
  leBytes 4 cs.length ++ leBytes 2 (d.qTag x q) ++ leBytes 2 0 ++
  cs.flatMap (fun c => match d.slotOf c q with
    | some sl => (List.range 4).map (fun i => BitVec.ofNat 8 (d.headTok c sl i))
    | none => leBytes 4 0)

def Dev.setQState (d : Dev) (x q st : Nat) : Dev := d.set (pImp x) fIMP_QSTAT_STATE q st

/-- The job slots of a C-die balance (Table 11.5): a core out of reset has one bound for each queue that is on and whose target
set holds it. -/
def Dev.slotsBalance (d : Dev) (x : Nat) : Bool :=
  let on := ((List.range 64).filter (fun q => d.qState x q != 0)).map (fun q => d.targetCores x q)
  (List.range 24).all (fun r => (List.range 25).all (fun c =>
    let k := coreAt x r c
    d.domInReset (.core k) ||
      decide (((List.range 8).filter (fun sl => ((d.core k).bind sl).isSome)).length = (on.filter (fun t => t.contains k)).length)))

/-- A queue has reached OFF: job slots out of balance raise LEDGER (R289). -/
def Dev.ledger (d : Dev) (x : Nat) : Dev := d.raiseIf (!d.slotsBalance x) (pQctl (x / 2)) 9 (3 + 256 * x)

/-- What follows HELD: nothing, the save area of a PREEMPT, or OFF for a DISABLE (R193). -/
def Dev.afterHeld (d : Dev) (x q : Nat) : Dev :=
  match (d.queue (queueKey x q)).after with
  | 1 =>
    let b := d.saveArea x q
    (d.setQState x q 4).issueAll ((lineParts (d.qBase x q 0x118) b (b.length + 1)).map (fun e =>
      { Req.blank with cli := .save x q, op := .wr, addr := e.1, mask := e.2.1, data := e.2.2, part := d.qPart x q,
                       quad := x / 2, tc := 0, scope := 3 }))
  | 2 =>
    ((((d.releaseSlots x q).setQState x q 0).set (pImp x) fIMP_QSTAT_SAVED q 0).modQueue (queueKey x q)
      (fun y => { y with after := 0 })).ledger x
  | _ => d

/-- HOLDING becomes HELD once no run has begun and not ended. -/
def Dev.testHeld (d : Dev) (x q : Nat) : Dev :=
  if d.qState x q = 2 ∧ d.qBegun x q = 0 then (d.setQState x q 3).afterHeld x q else d

/-- Withdraws the runs at and after RP (R191). -/
def Dev.withdraw (d : Dev) (x q : Nat) : Dev :=
  let gone (r : Run) : Bool := !(r.stage == .begun || r.stage == .ended)
  let d := (((d.queue (queueKey x q)).runs.filter gone).foldl (fun d r => match r.core with
    | some c => d.abandon c r.slot false
    | none => d) d)
  d.dropRuns x q gone

/-- Adds n to a head token, saturating; the Boolean tells that it would have passed 255. -/
def Dev.addHead (d : Dev) (c : CoreId) (sl i n : Nat) : Dev × Bool :=
  match (d.core c).bind sl with
  | none => (d, false)
  | some b =>
    let v := b.htok.getD i 0 + n
    (d.modCore c (fun x => x.setBind sl (some { b with htok := b.htok.set i (min v 255) })), decide (255 < v))

/-- Withdraws the begun runs before RP that have made no outbound write, the last first, up to one that has (R192). -/
def Dev.withdrawBegun (d : Dev) (x q : Nat) : Nat → Dev
  | 0 => d
  | fuel + 1 =>
    let pos := (d.qRp x q + 2 ^ 32 - 1) % 2 ^ 32
    match (d.queue (queueKey x q)).runs.find? (fun r => r.pos == pos && r.stage == .begun && !r.outbound) with
    | none => d
    | some r =>
      match r.core with
      | none => d
      | some c =>
        let d := d.abandon c r.slot false
        let d := d.modCore c (fun k => r.tokMap.foldl (fun k t => k.setTok t 0) k)
        let d := match r.htokUsed with
          | some (i, n) => (d.addHead c r.slot i n).1
          | none => d
        let d := ((d.dropRun x q pos).set (pImp x) fIMP_QRP_RP q pos).set (pImp x) fIMP_QSTAT_BEGUN q (d.qBegun x q - 1)
        Dev.withdrawBegun d x q fuel

/-- HOLD (R191, R192). -/
def Dev.holdQueue (d : Dev) (x q : Nat) (urgent : Bool) : Dev :=
  let d := (d.setQState x q 2).withdraw x q
  (if urgent then d.withdrawBegun x q 1024 else d).testHeld x q

/-- PREEMPT or DISABLE of a queue that is on (R193): `after` 1 or 2. -/
def Dev.endQueue (d : Dev) (x q after : Nat) (urgent : Bool) : Dev :=
  let d := d.modQueue (queueKey x q) (fun y => { y with after := after })
  if d.qState x q = 3 then d.afterHeld x q else d.holdQueue x q urgent

/-! ### ENABLE (R183, R194) -/

/-- The slots of a core that are free. -/
def Core.freeSlot (k : Core) : Option Nat := (List.range 8).find? (fun sl => (k.bind sl).isNone)

/-- Whether a core may serve a queue's partition (R364). -/
def Dev.sliceOk (d : Dev) (c : CoreId) (part : Nat) : Bool :=
  !d.sliceRules || d.get (pImp c.die.val) fIMP_CMAP_PART (32 * c.row.val + c.col.val) == part

/-- The first case of R183 that an ENABLE breaks, but for RESTORE; 0 for none. -/
def Dev.enableErr (d : Dev) (x q : Nat) : Nat :=
  let p := pImp x
  let l := d.get p fIMP_QCFG_LOGSZ q
  let cs := d.targetCores x q
  let bounds := [d.get p fIMP_QSET_ROWLO q, d.get p fIMP_QSET_ROWHI q, d.get p fIMP_QSET_COLLO q, d.get p fIMP_QSET_COLHI q]
  let tag := d.qTag x q
  if l < 4 ∨ 16 < l ∨ d.boot.rtStore = false ∨
     ([0x108, 0x110, 0x118].any (fun o => d.get64 p o q % 4096 != 0)) = true then 5
  else if cs.isEmpty = true ∨ bounds.any (fun b => decide (23 < b)) = true ∨ bounds.getD 1 0 < bounds.getD 0 0 ∨
          bounds.getD 3 0 < bounds.getD 2 0 then 4
  else if d.qSize x q < d.qLen x q then 7
  else if (List.range 64).any (fun o => o != q && d.qState x o != 0 && d.qTag x o == tag &&
            (d.targetSet x o).any (fun l => (d.targetSet x q).contains l)) then 2
  else if cs.any (fun c => (List.range 8).any (fun sl => match (d.core c).bind sl with
            | some b => b.tag == tag && b.prio != d.qPrio x q
            | none => false)) then 3
  else if cs.any (fun c => (d.core c).freeSlot.isNone || !d.sliceOk c (d.qPart x q)) then 1
  else 0

/-- Binds the lowest free slot of every core of the set; `htok` gives the head tokens of the i-th core. -/
def Dev.bindAll (d : Dev) (x q : Nat) (htok : Nat → List Nat) : List CoreId → Nat → Dev
  | [], _ => d
  | c :: cs, i =>
    let d := match (d.core c).freeSlot with
      | some sl => d.modCore c (fun k => k.setBind sl (some ⟨q, d.qTag x q, d.qPrio x q, htok i, 0⟩))
      | none => d
    Dev.bindAll d x q htok cs (i + 1)

/-- Bytes of device memory as they stand, none where a byte's address is not a stack's of the requester (R359). -/
def Dev.readDevice (d : Dev) (quad part a n : Nat) : Option (List Byte × Bool) :=
  if (List.range (n / 128 + 2)).all (fun i =>
      (match d.decode quad part (min (a + 128 * i) (a + n - 1)) false false with
       | .stack _ _ => true
       | _ => false)) then some (d.readCoherent a n)
  else none

/-- The address lies outside the device's stacks: host memory or a peer's. -/
def outsideDevice (a : Nat) : Bool := decide (0x028000000000 ≤ a)

/-- The save area read at ENABLE with RESTORE: from device memory, or the bytes that have come from outside. -/
def Dev.restoreBytes (d : Dev) (x q : Nat) (host : List Byte) (ans : Answer) : Option (List Byte) :=
  let a := d.qBase x q 0x118
  let n := 8 + 4 * (d.targetSet x q).length
  if outsideDevice a then
    (let tgt := d.targetOf { Req.blank with cli := .save x q, addr := a, part := d.qPart x q, quad := x / 2 }
     let ok := match tgt with
       | .host _ => (d.hostId (d.chanOf (x / 2)) (d.qPart x q)).isSome
       | .peer _ _ _ _ => true
       | _ => false
     if ans = .ok ∧ n ≤ host.length ∧ ok = true then some (host.take n) else none)
  else
    match d.readDevice (x / 2) (d.qPart x q) a n with
    | some (b, false) => some b
    | _ => none

/-- An accepted ENABLE: the slots are bound and the queue runs. -/
def Dev.startQueue (d : Dev) (x q : Nat) (htok : Nat → List Nat) : Dev :=
  ((d.bindAll x q htok (d.targetCores x q) 0).setQState x q 1).qErr x q 0

def Dev.enableQueue (d : Dev) (x q : Nat) (restore : Option (List Byte × Answer)) : Dev :=
  match d.enableErr x q with
  | 0 =>
    match restore with
    | none => d.startQueue x q (fun _ => [0, 0, 0, 0])
    | some (host, ans) =>
      match d.restoreBytes x q host ans with
      | none => d.qErr x q 8
      | some b =>
        if fieldLE b 0 4 = (d.targetSet x q).length ∧ fieldLE b 4 2 = d.qTag x q then
          d.startQueue x q (fun i => (List.range 4).map (fun j => fieldLE b (8 + 4 * i + j) 1))
        else d.qErr x q 8
  | e => d.qErr x q e

/-- While its page's QREQ is 1, HOLD with URGENT applies to every queue (Table 15.4): a queue that would run is held again. -/
def Dev.heldByQreq (d : Dev) (x q : Nat) : Dev :=
  if d.on (pImp x) fBLK_CTL_QREQ 0 ∧ d.qState x q = 1 then d.holdQueue x q true else d

/-- A write of IMP_QCMD (R201, Table 7.3): 0 ENABLE, 1 RESTORE, 2 HOLD, 3 URGENT, 4 UNHOLD, 5 PREEMPT, 6 DISABLE. -/
def qCmd (d : Dev) (x val : Nat) (host : List Byte) (ans : Answer) : Dev :=
  let q := d.get (pImp x) fIMP_QSEL_Q 0
  let st := d.qState x q
  let b (i : Nat) : Bool := val.testBit i
  let main := [0, 2, 4, 5, 6].filter b
  if val % 128 = 0 then d
  else
    match main with
    | [m] =>
      if (b 3 && !(m == 2 || m == 5 || m == 6)) || (b 1 && m != 0) then d.qErr x q 6
      else
        (match m with
         | 0 => if st = 0 then (d.enableQueue x q (if b 1 then some (host, ans) else none)).heldByQreq x q else d.qErr x q 6
         | 2 => if st = 1 then (d.qErr x q 0).holdQueue x q (b 3) else d.qErr x q 6
         | 4 =>
           if st = 2 ∨ st = 3 then
             (((d.qErr x q 0).setQState x q 1).modQueue (queueKey x q) (fun y => { y with after := 0 })).heldByQreq x q
           else d.qErr x q 6
         | _ =>
           if st = 1 ∨ st = 2 ∨ st = 3 then (d.qErr x q 0).endQueue x q (if m = 5 then 1 else 2) (b 3) else d.qErr x q 6)
    | _ => d.qErr x q 6

def qCmdVia (via : Via) (d : Die) (val : Nat) (host : List Byte) (ans : Answer) (s : State) : Out :=
  onDev (fun m => m.viaWrite via (pImp d.val) (fun m => qCmd m d.val val host ans)) s

def execEnable (via : Via) (d : Die) (s : State) : Out := qCmdVia via d 0x01 [] .ok s
def execEnableRestore (via : Via) (d : Die) (host : List Byte) (ans : Answer) (s : State) : Out := qCmdVia via d 0x03 host ans s
def execHold (via : Via) (d : Die) (s : State) : Out := qCmdVia via d 0x04 [] .ok s
def execHoldUrgent (via : Via) (d : Die) (s : State) : Out := qCmdVia via d 0x0C [] .ok s
def execUnhold (via : Via) (d : Die) (s : State) : Out := qCmdVia via d 0x10 [] .ok s
def execPreempt (via : Via) (d : Die) (s : State) : Out := qCmdVia via d 0x20 [] .ok s
def execPreemptUrgent (via : Via) (d : Die) (s : State) : Out := qCmdVia via d 0x28 [] .ok s
def execDisable (via : Via) (d : Die) (s : State) : Out := qCmdVia via d 0x40 [] .ok s
def execDisableUrgent (via : Via) (d : Die) (s : State) : Out := qCmdVia via d 0x48 [] .ok s

def execSaveAreaDone (k : QId) (s : State) : Out :=
  onDev (fun d =>
    let x := k.die.val
    let q := k.q.val
    if d.qState x q = 4 ∧ d.reqs.any (fun r => decide (r.cli = .save x q)) = false then
      ((((d.releaseSlots x q).setQState x q 0).set (pImp x) fIMP_QSTAT_SAVED q 1).modQueue (queueKey x q)
        (fun y => { y with after := 0 })).ledger x
    else d) s

/-! ### Doorbells and configuration (R181, R201, R357, R364) -/

/-- A write of IMP_QWP. -/
def doorbell (d : Dev) (x q val : Nat) : Dev :=
  if d.qSize x q < (val + 2 ^ 32 - d.qRp x q) % 2 ^ 32 then (d.qErr x q 7).raise (pImp x) 3 q
  else d.set (pImp x) (fIMP_QWP_WP.at q) 0 val

def execDoorbellWrite (via : Via) (k : QId) (val : Word) (s : State) : Out :=
  onDev (fun d => d.viaWrite via (pImp k.die.val) (fun d => doorbell d k.die.val k.q.val val.toNat)) s

/-- A write of IMP_QPART. -/
def qpartWrite (d : Dev) (x val : Nat) : Dev :=
  let q := d.get (pImp x) fIMP_QSEL_Q 0
  if d.qState x q ≠ 0 then d.qErr x q 6
  else if d.nPart ≤ val % 64 then d.qErr x q 5
  else d.set (pImp x) fIMP_QPART_PART q (val % 64)

def execImpQpartWrite (via : Via) (d : Die) (val : Word) (s : State) : Out :=
  onDev (fun m => m.viaWrite via (pImp d.val) (fun m => qpartWrite m d.val val.toNat)) s

/-- A write of IMP_CMAP; writing 1 to ILL clears it. -/
def cmapWrite (d : Dev) (x val : Nat) : Dev :=
  let i := d.get (pImp x) fIMP_CMAP_IDX_IDX 0
  let c := coreAt x (i / 32) (i % 32)
  let d := if val.testBit 31 then d.set (pImp x) fIMP_CMAP_ILL i 0 else d
  if d.nPart ≤ val % 64 ∨ (i < 768 ∧ i % 32 < 25 ∧ (List.range 8).any (fun sl => ((d.core c).bind sl).isSome) = true) then
    d.set (pImp x) fIMP_CMAP_ILL i 1
  else d.set (pImp x) fIMP_CMAP_PART i (val % 64)

def execImpCmapWrite (via : Via) (d : Die) (val : Word) (s : State) : Out :=
  onDev (fun m => m.viaWrite via (pImp d.val) (fun m => cmapWrite m d.val val.toNat)) s

/-! ### Fetching (R185) -/

/-- Runs known that have neither begun nor retired. -/
def Queue.ahead (y : Queue) : List Run := y.runs.filter (fun r => !(r.stage == .begun || r.stage == .ended))

/-- The position fetched next. -/
def Dev.nextFetch (d : Dev) (x q : Nat) : Nat := (d.qRp x q + (d.queue (queueKey x q)).ahead.length) % 2 ^ 32

/-- The pointers let a queue fetch its next run. -/
def Dev.mayFetch (d : Dev) (x q : Nat) : Bool :=
  let y := d.queue (queueKey x q)
  let old := (d.nextFetch x q + 2 ^ 32 - d.qSize x q) % 2 ^ 32
  d.qState x q == 1 && decide (y.ahead.length < 16) && decide (y.ahead.length < d.qLen x q) &&
  !y.runs.any (fun r => r.pos == old) && !d.reqs.any (fun r => decide (r.cli = .journal x q old))

/-- Bytes of a run image of which the header has arrived. -/
def imageBytes (h : Img) : Nat := 64 + (if 1 ≤ hNent h ∧ hNent h ≤ 256 then 32 * hNent h else 0)

/-- Bytes of the run buffer a run takes until its commands are placed; one that is being fetched takes them once its header has
arrived and it fits (R185). -/
def Run.bufBytes (r : Run) : Nat :=
  match r.stage with
  | .fetching => if r.phase = 2 then imageBytes r.img else 0
  | .ended => 0
  | .retiring => 0
  | _ => if r.toPlace.all (fun l => l.isEmpty) then 0 else r.img.length

def Dev.bufUsed (d : Dev) (x : Nat) : Nat :=
  (List.range 64).foldl (fun n q => n + ((d.queue (queueKey x q)).runs.map Run.bufBytes).foldl (· + ·) 0) 0

/-- The queue that is served next: by level, and round-robin within a level. -/
def Dev.fetchPick (d : Dev) (x : Nat) : Option Nat :=
  (List.range 4).findSome? (fun lvl =>
    let last := ((List.range 64).find? (fun q => d.qPrio x q == lvl && (d.queue (queueKey x q)).served)).getD 63
    ((List.range 64).map (fun i => (last + 1 + i) % 64)).find? (fun q => d.qPrio x q == lvl && d.mayFetch x q))

def Run.new (pos : Nat) : Run :=
  { pos := pos, hdrAddr := 0, img := [], stage := .fetching, err := 0, ent := 0xFFFF, core := none, slot := 0, waitStart := 0,
    pollDue := 0, pollOut := false, readySeq := 0, tokMap := [], bufAt := [], toPlace := [[], [], [], [], []], done := [],
    issued := false, progress := 0, dlvDone := 0, outbound := false, htokUsed := none, phase := 0, checkedAt := 0 }

/-- A contiguous unit cut at 128-byte lines: memory address, Stone address, bytes. -/
def cutUnit (mem stone len : Nat) : Nat → List (Nat × Nat × Nat)
  | 0 => []
  | fuel + 1 =>
    if len = 0 then []
    else
      let n := min len (128 - mem % 128)
      (mem % 2 ^ 48, stone, n) :: cutUnit (mem + n) (stone + n) (len - n) fuel

/-- The Imposer asks for bytes of a run, line by line (R185, Table 11.2). -/
def Dev.fetchBytes (d : Dev) (x q pos a n : Nat) : Dev :=
  d.issueAll ((cutUnit a 0 n (n / 128 + 2)).map (fun e =>
    { Req.blank with cli := .fetch x q pos, op := .rd, addr := e.1, mask := byteMask (e.1 % 128) e.2.2, part := d.qPart x q,
                     quad := x / 2, tc := 0 }))

/-- A run of this Imposer is being fetched and does not have its room in the run buffer yet: it goes first (R185). -/
def Dev.fetchWaits (d : Dev) (x : Nat) : Bool :=
  (List.range 64).any (fun q => (d.queue (queueKey x q)).runs.any (fun r => r.stage == .fetching && r.phase != 2))

def execRunFetch (k : QId) (s : State) : Out :=
  onDev (fun d =>
    let x := k.die.val
    let q := k.q.val
    if d.fetchPick x = some q ∧ d.fetchWaits x = false ∧ d.inReset (pImp x) = false then
      (let pos := d.nextFetch x q
       let lvl := d.qPrio x q
       let d := { d with queues := NMap.update d.queues Queue.init (fun j y =>
                    if j / 64 = x ∧ d.qPrio x (j % 64) = lvl then { y with served := false } else y) }
       (d.modQueue (queueKey x q) (fun y => { y with served := true, runs := y.runs ++ [Run.new pos] })).fetchBytes x q pos
         (d.qBase x q 0x108 + 8 * (pos % d.qSize x q)) 8)
    else d) s

/-- Ends the run being fetched at a position, without a core. -/
def Dev.fetchEnd (d : Dev) (x q pos code ent : Nat) (img : Img) (cmds : List (List Nat)) : Dev :=
  let upd (r : Run) : Run :=
    { r with stage := if code = 0 then .checked else .retiring, err := code, ent := ent, img := img, toPlace := cmds,
             checkedAt := d.now (pressClk x) }
  d.modQueue (queueKey x q) (fun y => { y with runs := replaceFirst (fun r => r.pos == pos) upd y.runs })

/-- The bytes of a run's answered requests, in ascending address. -/
def Dev.fetched (rs : List Req) : List Byte :=
  rs.flatMap (fun r => leBytes (maskCount 128 r.mask) (r.res >>> (8 * (r.addr % 128))))

/-- What a fetch does with the bytes it asked for: the ring entry names the header, the header the number of entries, which are
asked for once the run fits into the buffer, and the whole image is checked. -/
def Dev.imageGoes (d : Dev) (x q : Nat) (r : Run) (bytes : List Byte) : Dev :=
  let set (d : Dev) (f : Run → Run) : Dev :=
    d.modQueue (queueKey x q) (fun y => { y with runs := replaceFirst (fun z => z.pos == r.pos) f y.runs })
  let check (d : Dev) (img : Img) : Dev :=
    match checkRun img (d.targetSet x q) (d.quadsOf (d.chanOf (x / 2))) with
    | some (code, ent) => d.fetchEnd x q r.pos code ent img []
    | none => d.fetchEnd x q r.pos 0 0xFFFF img (cmdsOf img)
  match r.phase with
  | 0 =>
    let e := fieldLE bytes 0 8
    if 2 ^ 48 ≤ e ∨ e % 64 ≠ 0 then (d.raise (pImp x) 1 q).fetchEnd x q r.pos 0x41 0xFFFF [] []
    else (set d (fun z => { z with phase := 1, hdrAddr := e })).fetchBytes x q r.pos e 64
  | 1 =>
    let n := imageBytes bytes - 64
    if n = 0 then check d bytes
    else (set d (fun z => { z with phase := 2, img := bytes })).fetchBytes x q r.pos (r.hdrAddr + 64) n
  | _ => check d (r.img ++ bytes)

/-- The requests of a run's fetch. -/
def Dev.fetchReqs (d : Dev) (x q pos : Nat) : List Req := d.reqs.filter (fun y => decide (y.cli = .fetch x q pos))

/-- Every line a fetch asked for is here: poison and address errors end the run with FETCH; a header whose run does not fit into
the buffer waits, and everything else goes on. -/
def Dev.imageArrives (d : Dev) (x q : Nat) (r : Run) : Dev :=
  let rs := d.fetchReqs x q r.pos
  let gone : Dev := { d with reqs := d.reqs.filter (fun y => !decide (y.cli = .fetch x q r.pos)) }
  if rs.isEmpty || !rs.all (fun y => y.ready) then d
  else if rs.any (fun y => y.resErr || y.resPsn) then (gone.raise (pImp x) 0 q).fetchEnd x q r.pos 0x40 0xFFFF r.img []
  else if r.phase = 1 ∧ 131072 < d.bufUsed x + imageBytes (Dev.fetched rs) then d
  else gone.imageGoes x q r (Dev.fetched rs)

def execRunImageArrival (quad : Quad) (half : Fin 2) (n : Fin 64) (s : State) : Out :=
  onDev (fun d =>
    let x := 2 * quad.val + half.val
    let q := n.val
    match (d.queue (queueKey x q)).runs.find? (fun r => r.stage == .fetching &&
        !(d.fetchReqs x q r.pos).isEmpty && (d.fetchReqs x q r.pos).all (fun y => y.ready)) with
    | some r => if d.inReset (pImp x) then d else (d.imageArrives x q r).retireAll x q
    | none => d) s

/-! ### Binding (R186) -/

/-- The queue's slot on a core, if it holds no run. -/
def Dev.openSlot (d : Dev) (c : CoreId) (q : Nat) : Option Nat :=
  (d.slotOf c q).filter (fun sl => (d.runAt c sl).isNone && !d.domInReset (.core c))

/-- Where a checked run is bound: its core; for ANY the core of lowest logical ID among those that were free when the run had
been checked, or else the first that freed since, and of two that freed in one press cycle the one of lower logical ID. -/
def Dev.bindAt (d : Dev) (x q : Nat) (r : Run) : Option (CoreId × Nat) :=
  let cs := if hAny r.img then d.targetCores x q else ((d.coreOfLid (hLid r.img)).map (fun c => [c])).getD []
  let freed (e : CoreId × Nat) : Nat := max r.checkedAt (((d.core e.1).bind e.2).map (fun b => b.freed) |>.getD 0)
  (cs.filterMap (fun c => (d.openSlot c q).map (fun sl => (c, sl)))).foldl (fun (best : Option (CoreId × Nat)) e => match best with
    | none => some e
    | some b => if freed e < freed b then some e else some b) none

def execRunBind (k : QId) (s : State) : Out :=
  onDev (fun d =>
    let x := k.die.val
    let q := k.q.val
    let rs := (d.queue (queueKey x q)).runs.filter (fun r => r.stage == .checked)
    match rs.findSome? (fun r => (d.bindAt x q r).map (fun e => (r.pos, e))) with
    | some (pos, c, sl) =>
      let now := d.now (pressClk x)
      (d.modQueue (queueKey x q) (fun y =>
        { y with runs := replaceFirst (fun r => r.pos == pos) (fun r =>
            { r with stage := .waiting, core := some c, slot := sl, waitStart := now, pollDue := now }) y.runs })).testRun c sl
    | none => d) s

/-! ### Head waits (R77) -/

def execFlagPollDue (c : CoreId) (sl : Slot) (s : State) : Out :=
  onDev (fun d =>
    match d.runAt c sl.val with
    | some r =>
      if r.stage = .waiting ∧ hWaitKind r.img = 2 ∧ r.pollDue ≤ d.now (pressClk c.die.val) then
        (let next := d.modRun c sl.val (fun r => { r with pollDue := r.pollDue + 2 ^ hPoll r.img })
         if r.pollOut then next
         else
           let a := hWaitB r.img
           (next.modRun c sl.val (fun r => { r with pollOut := true })).issue
             { Req.blank with cli := .poll c sl.val, op := .rd, addr := a,
                              mask := byteMask (a % 128) (if waWide r.img then 8 else 4), part := d.slotPart c sl.val,
                              quad := c.die.val / 2, tc := 0, scope := waScope r.img })
      else d
    | none => d) s

/-- The queue of a slot retires what it can. -/
def Dev.retireSlot (d : Dev) (c : CoreId) (sl : Nat) : Dev :=
  match (d.core c).bind sl with
  | some b => d.retireAll c.die.val b.q
  | none => d

def execFlagPollReply (c : CoreId) (sl : Slot) (s : State) : Out :=
  onDev (fun d =>
    match d.reqs.find? (fun r => decide (r.cli = .poll c sl.val) && r.ready), d.runAt c sl.val with
    | some q, some r =>
      let d := (d.dropReq q.id).modRun c sl.val (fun r => { r with pollOut := false })
      if r.stage ≠ .waiting then d
      else if q.resErr then (d.endRun c sl.val 0x26 7 0xFFFF false).retireSlot c sl.val
      else if q.resPsn then (d.endRun c sl.val 0x22 7 0xFFFF false).retireSlot c sl.val
      else
        let v := (q.res >>> (8 * (q.addr % 128))) % 2 ^ (if waWide r.img then 64 else 32)
        d.testHeads (fun y => y.core == some c && y.slot == sl.val && flagHolds (waCmp r.img) v (hWaitC r.img))
    | _, _ => d) s

def execHeadWaitTimeout (c : CoreId) (sl : Slot) (s : State) : Out :=
  onDev (fun d =>
    match d.runAt c sl.val with
    | some r =>
      if r.stage = .waiting ∧ d.inTime r = false then
        (d.endRun c sl.val 0x21 0 0xFFFF false).retireSlot c sl.val
      else d
    | none => d) s

/-! ### Beginning (R51, R187) -/

/-- The runs of a core that wait for Stone or tokens: slot, level and place in the order. -/
def Dev.beginners (d : Dev) (c : CoreId) : List (Nat × Nat × Nat) :=
  (d.coreRuns c).filterMap (fun e =>
    match (d.core c).bind e.1 with
    | some b =>
      if e.2.stage = .ready ∧ e.2.pos = d.qRp c.die.val b.q ∧ d.qState c.die.val b.q = 1 ∧
         (hWaitKind e.2.img = 3 → waCnt e.2.img ≤ b.htok.getD (waTok e.2.img) 0) then some (e.1, b.prio, e.2.readySeq)
      else none
    | none => none)

/-- The first of them: the lowest level, then the earliest. -/
def firstBegin : List (Nat × Nat × Nat) → Option (Nat × Nat × Nat)
  | [] => none
  | x :: r =>
    match firstBegin r with
    | none => some x
    | some y => if x.2.1 < y.2.1 ∨ (x.2.1 = y.2.1 ∧ x.2.2 ≤ y.2.2) then some x else some y

/-- The buffers of a run at the lowest free ranges, in ascending buffer index; none where one does not fit. -/
def placeBufs : List Nat → List Nat → Option (List Nat)
  | [], _ => some []
  | n :: ns, used =>
    if n = 0 then (placeBufs ns used).map (fun l => 0 :: l)
    else
      match findSpace used n with
      | none => none
      | some a => (placeBufs ns (used ++ (List.range n).map (fun i => a + i))).map (fun l => a :: l)

/-- The scope of the acquire that a satisfied head wait performs; 0 for none (Table 6.2). -/
def headScope (r : Img) : Nat :=
  match hWaitKind r with
  | 0 => 0
  | 3 => 2
  | _ => waScope r

/-- What a Stone access of a command finds (R54): a corrected error is recorded; an uncorrectable one ends the run whose buffer
it lies in, and in a free granule is only recorded. `sl` and `ent` name the accessing command, a slot of 8 none. -/
def Dev.stoneEcc (d : Dev) (c : CoreId) (e : StoneEcc) (stn sl ent : Nat) : Dev :=
  match e with
  | .clean => d
  | .array _ => d
  | .corrected g => d.raise (.core c) 3 g.val
  | .uncorrectable g =>
    match (d.coreRuns c).find? (fun x => x.2.holds && x.2.granules.contains g.val) with
    | some x =>
      d.endRun c x.1 0x27 g.val (if x.1 = sl then ent else 0xFFFF) (x.1 == sl && stn == stDlv)
    | none => d.raise (.core c) 4 g.val

/-- Step 4 of Table 3.7, for the run of a slot. -/
def Dev.beginRun (d : Dev) (c : CoreId) (sl q : Nat) (r : Run) (toks bufs : List Nat) : Dev :=
  let x := c.die.val
  let grans := (List.range 16).flatMap (fun b => (List.range (hBufSz r.img b)).map (fun i => bufs.getD b 0 + i))
  let d := d.modCore c (fun k =>
    let k := { k with written := k.written.filter (fun l => !grans.contains (l / 32)),
                      stone := NMap.dropIf k.stone (fun a => grans.contains (a / 4096)),
                      sticky := NMap.put k.sticky sl Sticky.init Sticky.init }
    toks.foldl (fun k t => k.setTok t 0) k)
  let used := if hWaitKind r.img = 3 then some (waTok r.img, waCnt r.img) else none
  let d := match used with
    | some (i, n) => d.modCore c (fun k => match k.bind sl with
        | some b => k.setBind sl (some { b with htok := b.htok.set i (b.htok.getD i 0 - n) })
        | none => k)
    | none => d
  let d := d.acquire c (headScope r.img) (d.slotPart c sl)
  let d := d.modRun c sl (fun r =>
    { r with stage := if nCmds r.img = 0 then .ended else .begun, tokMap := toks, bufAt := bufs, htokUsed := used })
  let d := (d.set (pImp x) fIMP_QRP_RP q (d.qRp x q + 1)).set (pImp x) fIMP_QSTAT_BEGUN q (d.qBegun x q + 1)
  d.retireAll x q

def execRunBegin (c : CoreId) (ecc : StoneEcc) (s : State) : Out :=
  onDev (fun d =>
    match firstBegin (d.beginners c) with
    | none => d
    | some (sl, _, _) =>
      match d.runAt c sl, (d.core c).bind sl with
      | some r, some b =>
        let free := d.freeToks c
        if free.length < hNtok r.img then d
        else
          (match placeBufs ((List.range 16).map (hBufSz r.img)) (d.usedGrans c) with
           | none => d
           | some bufs => (d.stoneEcc c ecc stInk 8 0xFFFF).beginRun c sl b.q r (free.take (hNtok r.img)) bufs)
      | _, _ => d) s

/-! ### Placing commands (R188) -/

def execCommandPlace (c : CoreId) (sl : Slot) (stn : Stn) (s : State) : Out :=
  onDev (fun d =>
    match d.runAt c sl.val with
    | some r =>
      let st := (d.core c).station stn.val
      let count (n : Nat) : Nat := (st.queue.filter (fun e => e.1 == n)).length
      let begun := ((d.coreRuns c).filter (fun e => e.2.stage == .begun)).length
      let shared := (List.range 8).foldl (fun n i => n + (count i - 4)) 0
      if r.stage = .begun ∧ ((count sl.val < 4 ∧ st.queue.length < 64) ∨ shared < 64 - 4 * begun) then
        (match r.toPlace.getD stn.val [] with
         | n :: rest =>
           (d.modCore c (fun k => k.setStation stn.val { st with queue := st.queue ++ [(sl.val, n)] })).modRun c sl.val
             (fun r => { r with toPlace := r.toPlace.set stn.val rest })
         | [] => d)
      else d
    | none => d) s

/-! ### The end of a run (R63, R71, R75, R198) -/

/-- The status of an ended run. -/
def Run.status (r : Run) (err : Nat) : Nat := if err = 0 ∨ err = 0x23 then 1 else if r.issued then 3 else 2

/-- Steps 7 and 8 of Table 3.7. -/
def Dev.finishRun (d : Dev) (c : CoreId) (sl q : Nat) (r : Run) : Dev :=
  let x := c.die.val
  let k := d.core c
  let err := if r.err = 0 ∧ r.tokMap.any (fun t => k.tok t != 0) then 0x23 else r.err
  let f := NMap.get k.sticky sl Sticky.init
  let r' := { r with err := err }
  let d := d.modCore c (fun k => r.tokMap.foldl (fun k t => k.setTok t 0) k)
  let d := (d.dropRun x q r.pos).writeJournal x q r' (r.status err) (d.gen (.core c)) f.xflag f.chsat
  (d.set (pImp x) fIMP_QSTAT_BEGUN q (d.qBegun x q - 1)).testHeld x q

/-- Writes of a slot's Delivery and of its Inker that are still to be performed. -/
def Dev.slotWrites (d : Dev) (c : CoreId) (sl : Nat) : List Req :=
  d.reqs.filter (fun r => match r.cli with
    | .delivery c' s _ _ => c' == c && s == sl
    | .inkSt c' _ s _ => c' == c && s == sl
    | _ => false)

/-- Colophon writes of a slot that a B-die of this device holds (R172). -/
def Dev.slotHeld (d : Dev) (c : CoreId) (sl : Nat) : Bool :=
  d.grps.any (fun e => match e.2.held with
    | some (r, _) => (match r.cli with
      | .delivery c' s _ _ => c' == c && s == sl
      | _ => false)
    | none => false)

/-- Every write of the ended run is done, a colophon write once its destination has accepted it (R157), its signals have been
taken or refused (R72), and its Delivery has finished issuing. -/
def Dev.runDone (d : Dev) (c : CoreId) (sl : Nat) : Bool :=
  (d.slotWrites c sl).all (fun r => r.flag && r.colo && r.accepted) && !d.signals.any (fun g => g.src == c && g.slot == sl && d.runIs c sl g.pos) &&
  (match ((d.core c).station stDlv).exec with
   | some e => e.slot != sl
   | none => true)

def execRunEnd (c : CoreId) (sl : Slot) (s : State) : Out :=
  onDev (fun d =>
    match d.runAt c sl.val, (d.core c).bind sl.val with
    | some r, some b => if r.stage = .ended ∧ d.runDone c sl.val = true then d.finishRun c sl.val b.q r else d
    | _, _ => d) s

/-! ### Onset (R190) -/

/-- Press cycles between two grants. -/
def Dev.pace (d : Dev) : Nat := if d.on .pwr fPWR_MODE_FIXED 0 then 32 else 8

/-- The cores of a physical row that ask for onset. -/
def Dev.onsetRow (d : Dev) (x r : Nat) : List CoreId :=
  ((List.range 25).map (fun c => coreAt x r c)).filter (fun c => (d.core c).onsetReq)

def execOnsetGrant (x : Die) (s : State) : Out :=
  onDev (fun d =>
    let now := d.now (pressClk x.val)
    let last := NMap.get d.onset x.val (23, 0)
    let rows := ((List.range 24).map (fun i => (last.1 + 1 + i) % 24)).filter (fun r => !(d.onsetRow x.val r).isEmpty)
    match rows with
    | r :: _ =>
      if now < last.2 ∨ d.inReset (pImp x.val) = true then d
      else
        let d := { d with onset := NMap.put d.onset x.val (r, now + d.pace) (23, 0) }
        (d.onsetRow x.val r).foldl (fun d c => d.modCore c (fun k => { k with onsetReq := false, onset := true })) d
    | [] => d) s

end Sys2Proof.Machine
end

