-- ==== Sys2Proof/Machine/Dma.lean ====
section
/-!
DEFINITION. The DMA engines of the host port (R351 to R353, R363).
-/

namespace Sys2Proof.Machine

open Sys2Proof

/-! ### Descriptors (Table 14.3) -/

def dOp (b : List Byte) : Nat := fieldLE b 0 1
def dIrq (b : List Byte) : Bool := (fieldLE b 1 1).testBit 0
def dFence (b : List Byte) : Bool := (fieldLE b 1 1).testBit 1
def dSrcH (b : List Byte) : Bool := (fieldLE b 1 1).testBit 2
def dDstH (b : List Byte) : Bool := (fieldLE b 1 1).testBit 3
def dCtr (b : List Byte) : Nat := fieldLE b 2 2
def dLen (b : List Byte) : Nat := fieldLE b 4 4
def dSrc (b : List Byte) : Nat := fieldLE b 8 8
def dDst (b : List Byte) : Nat := fieldLE b 0x10 8
def dValue (b : List Byte) : Nat := fieldLE b 0x18 8

/-- A device address outside the stack ranges of R29. -/
def offStacks (a : Nat) : Bool := decide (0x028000000000 ≤ a) || decide (0x1200000000 ≤ a % 2 ^ 37)

/-- A reserved or illegal field (the Illegal column of Table 14.3). -/
def descIllegal (b : List Byte) : Bool :=
  (dOp b != 1 && dOp b != 2) || decide (16 ≤ fieldLE b 1 1) || (dSrcH b && dOp b == 2) || (dDstH b && dSrcH b) ||
  ((dCtr b).testBit 15 && dDstH b) || bitsOf (dCtr b) 14 12 != 0 || dLen b == 0 || decide (2 ^ 30 < dLen b) ||
  (!dSrcH b && offStacks (dSrc b)) || (!dDstH b && offStacks (dDst b)) || (dOp b == 1 && dValue b != 0)

/-! ### An engine's registers and requests -/

def Dev.engSt (d : Dev) (ch e : Nat) : Nat := d.get (pDma ch) (fDMA_STAT_STATE.at e) 0
def Dev.engRp (d : Dev) (ch e : Nat) : Nat := d.get (pDma ch) (fDMA_RP_RP.at e) 0
def Dev.engWp (d : Dev) (ch e : Nat) : Nat := d.get (pDma ch) (fDMA_WP_WP.at e) 0
def Dev.engPart (d : Dev) (ch e : Nat) : Nat := d.get (pDma ch) (fDMA_CFG_PART.at e) 0
def Dev.engFn (d : Dev) (ch e : Nat) : Nat := d.get (pDma ch) (fDMA_CFG_FN.at e) 0
def Dev.engDescs (d : Dev) (ch e : Nat) : List Desc := NMap.get d.host.dma (32 * ch + e) []
def Dev.setDescs (d : Dev) (ch e : Nat) (l : List Desc) : Dev :=
  { d with host := { d.host with dma := NMap.put d.host.dma (32 * ch + e) l [] } }
/-- The requests of an engine. -/
def Dev.engReqs (d : Dev) (ch e : Nat) : List Req := d.reqs.filter (fun r => match r.cli with
  | .dma c x => c == ch && x == e
  | _ => false)
/-- The quadrant whose B-die the channel's engines use: the lowest (R358). -/
def Dev.engQuad (d : Dev) (ch : Nat) : Nat := (d.quadsOf ch).headD 0

/-- Partition `part` of a channel is being quiesced or is quiesced (R366). -/
def Dev.quiesced (d : Dev) (ch part : Nat) : Bool := d.quiesces.any (fun x => x.chan == ch && x.part == part)

/-- A request of an engine for a piece of a descriptor. -/
def Dev.engReq (d : Dev) (ch e pos : Nat) (op : ReqOp) (host : Bool) (a n : Nat) : Req :=
  { Req.blank with cli := .dma ch e, op := op, addr := a, tgt := if host then .host a else .addrError,
                   mask := byteMask (a % 128) n, size := n, part := d.engPart ch e, quad := d.engQuad ch,
                   tc := d.get (pDma ch) (fDMA_CFG_TC.at e) 0, group := pos, scope := 2 }

/-- A copy cut so that each piece lies in one line of its source and one of its destination: source, destination, bytes. -/
def copyPieces (src dst len : Nat) : Nat → List (Nat × Nat × Nat)
  | 0 => []
  | fuel + 1 =>
    if len = 0 then []
    else
      let n := min len (min (128 - src % 128) (128 - dst % 128))
      (src, dst, n) :: copyPieces (src + n) (dst + n) (len - n) fuel

/-- A fill cut into lines: destination, first byte of the pattern, bytes. -/
def fillPieces (dst at_ len : Nat) : Nat → List (Nat × Nat × Nat)
  | 0 => []
  | fuel + 1 =>
    if len = 0 then []
    else
      let n := min len (128 - dst % 128)
      (dst, at_, n) :: fillPieces (dst + n) (at_ + n) (len - n) fuel

/-- n bytes of the repeated pattern from its byte `at_`. -/
def pattern (v at_ n : Nat) : Nat := leNat ((List.range n).map (fun i => BitVec.ofNat 8 (byteOf v ((at_ + i) % 8))))

/-- The writes of a fill, or the reads of a copy, are issued. -/
def Dev.startDesc (d : Dev) (ch e pos : Nat) (b : List Byte) : Dev :=
  let fuel := 2 * (dLen b / 128) + 4
  if dOp b = 2 then
    d.issueAll ((fillPieces (dDst b) 0 (dLen b) fuel).map (fun p =>
      { d.engReq ch e pos .wr (dDstH b) p.1 p.2.2 with
        data := pattern (dValue b) p.2.1 p.2.2 * 2 ^ (8 * (p.1 % 128)), ctr := dCtr b }))
  else
    d.issueAll ((copyPieces (dSrc b) (dDst b) (dLen b) fuel).map (fun p =>
      { d.engReq ch e pos .rd (dSrcH b) p.1 p.2.2 with dst := p.2.1 }))

/-! ### From reads to writes -/

/-- The destination line of a read. -/
def Req.dstLine (r : Req) : Nat := r.dst / 128

/-- Every read of a destination line is here: its bytes are written, with their poison. A poisoned read stays, failed, so that
the engine halts (R353); a line with a failed read is not written. -/
def Dev.moveLine (d : Dev) (ch e : Nat) (x : Desc) (line : Nat) : Dev :=
  let rs := (d.engReqs ch e).filter (fun r => r.group == x.pos && r.op == .rd && r.dstLine == line)
  if !rs.all (fun r => r.ready) || rs.any (fun r => r.failed) then d
  else
    let w := rs.foldl (fun (a : Nat × Nat) r =>
      (a.1 ||| byteMask (r.dst % 128) r.size,
       a.2 + ((r.res >>> (8 * (r.addr % 128))) % 2 ^ (8 * r.size)) * 2 ^ (8 * (r.dst % 128)))) (0, 0)
    let psn := rs.any (fun r => r.resPsn)
    let base := d.engReq ch e x.pos .wr (dDstH x.bytes) (line * 128) 128
    let d := rs.foldl (fun d r =>
      if r.resPsn then d.modReq r.id (fun r => { r with failed := true, expect := if r.expect = 0 then 3 else r.expect })
      else d.dropReq r.id) d
    d.issue { base with mask := w.1, data := w.2, psn := psn, ctr := dCtr x.bytes }

/-- An engine writes every line whose reads have returned. -/
def Dev.dmaPump (d : Dev) (ch e : Nat) : Dev :=
  (d.engDescs ch e).foldl (fun d x =>
    (((d.engReqs ch e).filter (fun r => r.group == x.pos && r.op == .rd && r.ready && !r.failed)).map Req.dstLine).eraseDups.foldl
      (fun d l => d.moveLine ch e x l) d) d

/-! ### Halting and completing -/

/-- The cause of a failed request: that recorded on it, else an address error. -/
def failCause (r : Req) : Nat := if r.flag then (if r.expect ≤ 1 then 2 else r.expect) else if r.expect = 0 then 2 else r.expect

/-- An engine of a quiesced partition or page that has nothing in progress halts (R366, R367, Table 15.4). -/
def Dev.restEngine (d : Dev) (ch e : Nat) : Dev :=
  if d.engSt ch e = 1 ∧ (d.quiesced ch (d.engPart ch e) || d.on (pDma ch) fBLK_CTL_QREQ 0) = true ∧ (d.engDescs ch e).isEmpty = true then
    d.haltEngine ch e 6
  else d

/-- The first descriptor in progress is complete: RP, its copy in memory, and IDLE when the ring is empty (R352). -/
def Dev.descDone (d : Dev) (ch e : Nat) (x : Desc) (rest : List Desc) : Dev :=
  let p := pDma ch
  let rp := (d.engRp ch e + 1) % 2 ^ 32
  let d := (d.setDescs ch e rest).set p (fDMA_RP_RP.at e) 0 rp
  let d := if rp = d.engWp ch e then d.set p (fDMA_STAT_STATE.at e) 0 0 else d
  let c := d.get64 p (0x114 + 32 * e) 0
  let host := c.testBit 63
  let a := if host then c % 2 ^ 63 else c % 2 ^ 48
  let r := d.engReq ch e x.pos .wr host a 4
  (d.issue { r with data := rp * 2 ^ (8 * (a % 128)), scope := 3, flag := true, expect := if dIrq x.bytes then 1 else 0 }).restEngine
    ch e

/-- What the engine does with its first descriptor: complete it, or halt at it. A halt waits for the writes the descriptor has
out, so that poison reaches the destination first (R353). -/
def Dev.dmaFront (d : Dev) (ch e : Nat) : Dev :=
  let all := d.engReqs ch e
  match all.find? (fun r => r.failed && r.flag) with
  | some r => d.haltEngine ch e (failCause r)
  | none =>
    match d.engDescs ch e with
    | [] => d.restEngine ch e
    | x :: rest =>
      let mine := all.filter (fun r => r.group == x.pos && !r.flag)
      if mine.isEmpty then d.descDone ch e x rest
      else
        match mine.find? (fun r => r.failed) with
        | some r => if mine.any (fun r => r.op == .wr && !r.failed) then d else d.haltEngine ch e (failCause r)
        | none => d

def execDmaDescriptorComplete (c : Chan) (e : Fin 32) (s : State) : Out :=
  onDev (fun d =>
    if d.engSt c.val e.val ≠ 1 then d
    else (d.dmaPump c.val e.val).dmaFront c.val e.val) s

/-! ### Fetching descriptors -/

/-- An engine may take up its next descriptor: fewer than 4 in progress, none of them failed, and nothing stops it. -/
def Dev.mayStart (d : Dev) (ch e : Nat) : Bool :=
  d.engSt ch e == 1 && decide ((d.engDescs ch e).length < 4) && !(d.engReqs ch e).any (fun r => r.failed) &&
  decide ((d.engDescs ch e).length < (d.engWp ch e + 2 ^ 32 - d.engRp ch e) % 2 ^ 32) &&
  !d.quiesced ch (d.engPart ch e) && !d.on (pDma ch) fBLK_CTL_QREQ 0 && !d.inReset (pDma ch)

/-- The bytes of a fetched descriptor, or the cause it halts the engine with. -/
def Dev.fetchDesc (d : Dev) (ch e pos : Nat) (host : List Byte) (ans : FetchAnswer) : (List Byte ⊕ Nat) × Dev :=
  let part := d.engPart ch e
  let r := d.get64 (pDma ch) (0x100 + 32 * e) 0
  let at_ := 32 * (pos % 2 ^ d.get (pDma ch) (fDMA_CFG_LOGSZ.at e) 0)
  if r.testBit 63 then
    (match d.hostId ch part, ans with
     | none, _ => (.inr 2, d.raise (pQctl (d.engQuad ch)) 10 (part * 256 + 8))
     | some _, .ok => (.inl (host.take 32), d)
     | some _, .poison => (.inr 3, d.raise (pHst ch) 2 part)
     | some _, .err => (.inr 2, d.raise (pHst ch) 1 part)
     | some _, .denied => (.inr 4, d.raise (pHst ch) 0 part)
     | some _, .timeout => (.inr 5, d.raise (pHst ch) 3 part))
  else
    match d.readDevice (d.engQuad ch) part (r % 2 ^ 48 + at_) 32 with
    | some (b, false) => (.inl b, d)
    | some (_, true) => (.inr 3, d)
    | none => (.inr 2, d.raise (pQctl (d.engQuad ch)) 10 (part * 256 + 8))

/-- A fetched descriptor starts, or halts the engine; a FENCE and a halt wait for the earlier descriptors. -/
def Dev.takeDesc (d : Dev) (ch e : Nat) (host : List Byte) (ans : FetchAnswer) : Dev :=
  let ds := d.engDescs ch e
  let pos := (d.engRp ch e + ds.length) % 2 ^ 32
  if d.isSealedOp = false ∧ d.sliceRules = false ∧ d.engFn ch e ≠ d.get (pHst ch) fHST_PTAG_FN (d.engPart ch e) then
    (if ds.isEmpty then d.haltEngine ch e 2 else d)
  else
    match d.fetchDesc ch e pos host ans with
    | (.inr cause, d') => if ds.isEmpty then d'.haltEngine ch e cause else d
    | (.inl b, d') =>
      if descIllegal b then (if ds.isEmpty then d'.haltEngine ch e 1 else d)
      else if dFence b && !ds.isEmpty then d
      else (d'.setDescs ch e (ds ++ [⟨pos, b⟩])).startDesc ch e pos b

/-- The answer can come: from a ring in host memory by the link, but for a timeout (R496), and a denial only of what is translated. -/
def Dev.fetchComes (d : Dev) (ch e : Nat) (ans : FetchAnswer) : Bool :=
  !(d.get64 (pDma ch) (0x100 + 32 * e) 0).testBit 63 ||
  (match ans with
   | .timeout => true
   | .denied => d.hostUp && ((d.hostId ch (d.engPart ch e)).map (fun h => h.translated)).getD false
   | _ => d.hostUp)

def execDmaDescriptorArrival (c : Chan) (e : Fin 32) (host : List Byte) (ans : FetchAnswer) (s : State) : Out :=
  onDevIf (WellFormed.descriptor host ans) (fun d =>
    if d.mayStart c.val e.val && d.fetchComes c.val e.val ans then d.takeDesc c.val e.val host ans else d) s

/-! ### Registers of an engine -/

/-- The path reaches an engine's registers: the DMA page itself, or a VF's window onto the engines it owns (R340, R363). -/
def Dev.reachesEngine (d : Dev) (via : Via) (ch e : Nat) : Bool :=
  match via with
  | .vf v => !d.isSealedOp && ch == 0 && d.fnOf 0 v.val && v.val != 0 && d.engFn ch e == v.val && !d.tdiError via &&
      d.arrives via && !d.inReset (pDma ch)
  | _ => d.writable via (pDma ch)

/-- A write of DMA_WP: an IDLE engine with work becomes ACTIVE; one that reaches RP again goes back. -/
def dmaWp (d : Dev) (ch e val : Nat) : Dev :=
  let d := d.set (pDma ch) (fDMA_WP_WP.at e) 0 val
  if d.engSt ch e = 0 ∧ val % 2 ^ 32 ≠ d.engRp ch e then
    (d.set (pDma ch) (fDMA_STAT_STATE.at e) 0 1).restEngine ch e
  else if d.engSt ch e = 1 ∧ val % 2 ^ 32 = d.engRp ch e ∧ (d.engDescs ch e).isEmpty = true then
    d.set (pDma ch) (fDMA_STAT_STATE.at e) 0 0
  else d

def execDmaWpWrite (via : Via) (c : Chan) (e : Fin 32) (val : Word) (s : State) : Out :=
  onDev (fun d =>
    if d.reachesEngine via c.val e.val && decide (c.val < d.nChan ∧ e.val < d.nEngine) then dmaWp d c.val e.val val.toNat else d) s

/-- A write of DMA_STAT.RESUME: a halted engine goes on at RP (R353). -/
def dmaResume (d : Dev) (ch e : Nat) : Dev :=
  if d.engSt ch e ≠ 2 then d
  else
    (d.set (pDma ch) (fDMA_STAT_STATE.at e) 0 (if d.engRp ch e = d.engWp ch e then 0 else 1)).restEngine ch e

def execDmaResume (via : Via) (c : Chan) (e : Fin 32) (s : State) : Out :=
  onDev (fun d =>
    if d.reachesEngine via c.val e.val && decide (c.val < d.nChan ∧ e.val < d.nEngine) then dmaResume d c.val e.val else d) s

/-! ### Quiescing engines (R366, R367, R369) -/

/-- Every engine of a channel that a test holds of. -/
def Dev.forEngines (d : Dev) (ok : Dev → Nat → Bool) (f : Dev → Nat → Dev) : Dev :=
  (List.range d.nEngine).foldl (fun d e => if ok d e then f d e else d) d

/-- Every ACTIVE engine of a channel halts with a cause. -/
def Dev.haltAll (d : Dev) (ch cause : Nat) (ok : Dev → Nat → Bool) : Dev :=
  d.forEngines (fun d e => d.engSt ch e == 1 && ok d e) (fun d e => d.haltEngine ch e cause)

/-- An engine returns to IDLE with its registers at reset (Table 15.5, R361). -/
def Dev.clearEngine (d : Dev) (ch e : Nat) : Dev :=
  let d := d.setDescs ch e []
  let d := { d with reqs := d.reqs.filter (fun r => match r.cli with
    | .dma c x => !(c == ch && x == e)
    | _ => true) }
  (List.range 8).foldl (fun d i => d.setWord (pDma ch) (0x100 + 32 * e + 4 * i) 0 0) d

end Sys2Proof.Machine
end

