-- ==== Sys2Proof/Machine/Stacks.lean ====
section
/-!
DEFINITION. Stacks and their controllers (chapter 10): issuing, returning, scrubbing and refreshing lines, temperature,
training, and zeroing home units.
-/

namespace Sys2Proof.Machine

open Sys2Proof

/-! ### The order of a channel (R268, R269, R281) -/

/-- The key of a line read for its home's transaction. -/
def Dev.lineKeyOrd (d : Dev) (l : Nat) : Nat :=
  match d.txn l with
  | some t => svcKey (d.svcOf t.req) (((d.req t.req.req).map (fun r => r.lowered)).getD false)
  | none => svcKey ⟨3, 0xFFF, false⟩ false

/-- A bank can take a line: it is not under refresh, and its row is open, or it may be opened: 80 cycles since its last opening, and
fewer than four openings of the channel in the last 13 cycles (R266, R269). -/
def McChan.bankReady (c : McChan) (now l : Nat) : Bool :=
  let few := decide ((c.rows.filter (fun e => match e.2 with | some x => decide (now < x.2 + 13) | none => false)).length < 4)
  (match c.refresh with
   | some (b, till) => b != lineBank l || decide (till ≤ now)
   | none => true) &&
  (match NMap.get c.rows (lineBank l) none with
   | none => few
   | some (row, at_) => row == lineRow l || (decide (at_ + 80 ≤ now) && few))

/-- The line's row is open from now on. -/
def McChan.openRow (c : McChan) (now l : Nat) : McChan :=
  match NMap.get c.rows (lineBank l) none with
  | some (row, _) => if row = lineRow l then c else { c with rows := NMap.put c.rows (lineBank l) (some (lineRow l, now)) none }
  | none => { c with rows := NMap.put c.rows (lineBank l) (some (lineRow l, now)) none }

/-- The first of some items with the least key. -/
def firstLeast {α : Type} (key : α → Nat) : List α → Option α
  | [] => none
  | l :: ls =>
    match firstLeast key ls with
    | none => some l
    | some m => if key m < key l then some m else some l

/-- What stands in the controller's read queue of 48 and write queue of 64 entries (R269); more wait before them. -/
def McChan.readQ (c : McChan) : List Nat := c.reads.take 48
def McChan.writeQ (c : McChan) : List McWrite := c.writes.take 64

/-- A channel turns to writing when WHI writes are queued, or no read is, and serves a batch; then it turns back to the reads that
wait (R268). -/
def McChan.direct (c : McChan) (whi : Nat) : McChan :=
  if c.writing ∧ c.batch ≠ 0 ∧ ¬c.writes.isEmpty then c
  else if c.owed ∧ ¬c.reads.isEmpty then { c with writing := false, batch := 0 }
  else if whi ≤ c.writeQ.length ∨ (c.reads.isEmpty ∧ ¬c.writes.isEmpty) then
    { c with writing := true, batch := min whi c.writeQ.length }
  else { c with writing := false, batch := 0 }

/-- One per-bank refresh begins (R266). -/
def McChan.startRefresh (c : McChan) (now : Nat) : McChan :=
  { c with refresh := some (c.nextBank, now + Config.refreshCycles), nextBank := (c.nextBank + 1) % 32, postponed := c.postponed - 1 }

/-- With empty queues a channel issues a refresh that is due, one bank at a time (R266). -/
def McChan.idleRefresh (c : McChan) (now : Nat) : McChan :=
  let free := match c.refresh with | some (_, till) => decide (till ≤ now) | none => true
  if c.reads.isEmpty ∧ c.writes.isEmpty ∧ 0 < c.postponed ∧ free = true then c.startRefresh now else c

/-- A write is the oldest of its line in the queue. -/
def firstOfLine (ws : List McWrite) (w : McWrite) : Bool := !(ws.takeWhile (fun x => x != w)).any (fun x => x.line == w.line)

/-- A channel issues a request of a stack that is READY, or one that was with it when a retraining began (R271). `caErrs`: tries on
which command or address parity failed; when the first try and four retries have, the request completes as in FAILED (R272). -/
def execMcIssue (q : Quad) (n : Fin 40) (caErrs : Fin 6) (s : State) : Out :=
  onDev (fun d =>
    let t := 5 * q.val + n.val / 8
    let k := mcKey q.val n.val
    let p : Page := .mc q n
    let now := d.now (mcClk q.val)
    let c := (d.mc k).direct (d.get p fMC_CFG_WHI 0)
    if d.stkState t ≠ 2 ∧ d.stkState t ≠ 3 then d
    else if c.reads.isEmpty ∧ c.writes.isEmpty then d.setMc k ((d.mc k).idleRefresh now)
    else
      let lost := caErrs.val == 5
      let err (d : Dev) : Dev :=
        ((List.range (min caErrs.val 4)).foldl (fun d i => d.raise p 4 (i + 1)) d).raiseIf lost (pStk t) 1 (n.val % 8)
      if c.writing then
        match firstLeast (fun w => svcKey w.svc false)
            (c.writeQ.filter (fun w => c.bankReady now w.line && firstOfLine c.writes w)) with
        | none => d
        | some w =>
          let c' := { c.openRow now w.line with writes := dropFirst (fun x => x == w) c.writes, batch := c.batch - 1,
                                                owed := c.owed || c.batch == 1 }
          let d := err (d.setMc k (c'.idleRefresh now))
          if lost then d else d.storeUnder w.line w.tag w.data w.psn
      else
        match firstLeast d.lineKeyOrd (c.readQ.filter (c.bankReady now)) with
        | none => d
        | some l =>
          let c' := { c.openRow now l with reads := dropFirst (fun x => x == l) c.reads, inflight := c.inflight ++ [(l, lost)],
                                           owed := false }
          err (d.setMc k (c'.idleRefresh now))) s

/-! ### What a read finds (R258 to R261, R221) -/

/-- A line is poisoned in memory: the poison pattern, UECNT and the captured address. -/
def Dev.poisonLine (d : Dev) (l kind : Nat) : Dev :=
  (({ d with poisoned := Set.add d.poisoned l }).bump (lineMc l) fMC_UECNT_COUNT 0 1).eaddr l kind

def Dev.countCe (d : Dev) (l symbol : Nat) : Dev :=
  (((d.bump (lineMc l) fMC_CECNT_COUNT 0 1).eaddr l 1)).raise (lineMc l) 0 (lineBank l * 2048 + symbol)

/-- The line of the other copy of an ACTIVE mirrored region (R221). -/
def Dev.mirrorOf (d : Dev) (l : Nat) : Option (Nat × Nat × Nat) :=
  match d.srAt (128 * l) with
  | some (q, e, inMirror) =>
    if d.srState q e = 3 ∧ d.srMen q e then
      (if inMirror then some (q, e, l + d.srBase q e / 128 - d.srMir q e / 128)
       else some (q, e, l - d.srBase q e / 128 + d.srMir q e / 128))
    else none
  | none => none

/-- Syndrome of the stereo sources (R226). -/
def srSynd (e l : Nat) : Nat := l % 512 + 32768 * e

/-- Errors of three and more symbols: detected, or taken for another line's word; which, and what it then reads, is free
(R258; log entry 2). -/
def Dev.beyondEcc (d : Dev) (l : Nat) (ue : Dev → Dev) : Dev :=
  let a := d.free 1
  if a.1 = 0 then ue a.2
  else
    let b := a.2.free 1024
    let c := b.2.free 7
    (c.2.storeLine l b.1 false).countCe l (c.1 % 72)

/-- What a read of a line in the stack meets (R258): nothing where it is poisoned already, where a newer write waits for it, or where
it cannot be read. -/
def Dev.readEcc (d : Dev) (l : Nat) (ecc : Ecc) (ue : Dev → Dev) : Dev :=
  if Set.has d.poisoned l || (d.queuedWrite l).isSome || (d.keyTag l).isNone || d.stkDead (lineStack l) then d
  else
    match ecc with
    | .clean => d
    | .corrected sy => d.countCe l sy.val
    | .uncorrectable => ue d
    | .beyond => d.beyondEcc l ue

/-- An uncorrectable line of an ACTIVE stereo region: repaired from its other copy, or poisoned and counted (R221). `mir` is what the
read of the other copy meets. The Boolean tells whether it was repaired. -/
def Dev.stereoUe (d : Dev) (l : Nat) (mir : Ecc) : Dev × Bool :=
  match d.mirrorOf l with
  | some (q, e, m) =>
    let d := d.readEcc m mir (fun d => (d.poisonLine m 2).raise (lineMc m) 1 (lineBank m * 2048))
    let x := d.dramRead m
    let d := x.2.2
    if !x.2.1 then
      (((d.storeLine l x.1 false).bump (pQctl q) fQCTL_SR_STAT_REPAIRS e 1).raise (pQctl q) 5 (srSynd e l), true)
    else ((d.bump (pQctl q) fQCTL_SR_STAT_POISONED e 1).raise (pQctl q) 6 (srSynd e l), false)
  | none =>
    match d.srAt (128 * l) with
    | some (q, e, _) =>
      if d.srState q e = 3 then ((d.bump (pQctl q) fQCTL_SR_STAT_POISONED e 1).raise (pQctl q) 6 (srSynd e l), false)
      else (d, false)
    | none => (d, false)

/-- A demand read meets an uncorrectable line (R260). -/
def Dev.demandUe (d : Dev) (l : Nat) (mir : Ecc) : Dev :=
  let x := d.stereoUe l mir
  if x.2 then x.1 else (x.1.poisonLine l 2).raise (lineMc l) 1 (lineBank l * 2048)

/-- The level of a stack (R282): from the fullest of its eight channels, queued reads and writes together, out of 112. -/
def levelOf (n : Nat) : Nat := if n < 56 then 0 else if n < 84 then 1 else if n < 101 then 2 else 3
def Dev.stackLevel (d : Dev) (t : Nat) : Nat :=
  levelOf ((List.range 8).foldl (fun m ch =>
    let c := d.mc (mcKey (t / 5) (8 * (t % 5) + ch))
    max m (c.readQ.length + c.writeQ.length)) 0)

/-- A B-die takes note of a stack's level. -/
def Dev.noteLevel (d : Dev) (q t level : Nat) : Dev :=
  let x := NMap.get d.traffic q Traffic.init
  { d with traffic := NMap.put d.traffic q { x with level := NMap.put x.level t level 0 } Traffic.init }

/-- The level travels in every reply from the stack (R282), to the quadrant that asked, which a request of the host agent names. -/
def Dev.replyLevel (d : Dev) (l : Nat) : Dev :=
  match d.txn l with
  | some t =>
    let q := match d.req t.req.req with
      | some r => r.quad
      | none => agentQuad t.req.agent l
    d.noteLevel q (lineStack l) (d.stackLevel (lineStack l))
  | none => d

/-- The oldest read of a channel returns to the home; `mir` is what the read of the other copy meets where R221 asks for it. -/
def execMcReadReturn (q : Quad) (n : Fin 40) (ecc : Ecc) (s : State) (mir : Ecc := .clean) : Out :=
  onDev (fun d =>
    let k := mcKey q.val n.val
    let c := d.mc k
    match c.inflight with
    | [] => d
    | (l, lost) :: rest =>
      let d := (d.setMc k { c with inflight := rest }).replyLevel l
      if lost then d.memReturn l (poisonBytes l) true
      else
        let d := d.readEcc l ecc (fun d => d.demandUe l mir)
        let x := d.dramRead l
        x.2.2.memReturn l x.1 x.2.1) s

/-! ### Scrubbing (R261) -/

/-- Lines of a channel. -/
def chLines : Nat := 75497472

def execPatrolScrub (t : Stack) (s : State) : Out :=
  onDev (fun d =>
    let x := d.stk t.val
    if !d.on (pStk t.val) fSTK_SCRUB_EN 0 || x.scrubbing != 0 || d.stkState t.val != 2 then d
    else
      -- a write that already waits in the channel's queue is newer than what the scrub reads
      let hasOver := (List.range 8).foldl (fun a ch =>
        if (d.queuedWrite (scrubLine t.val ch x.scrubAt)).isSome then a ||| 2 ^ ch else a) 0
      d.setStk t.val { x with scrubbing := 255, overtaken := hasOver }) s

/-- The scrub finds an uncorrectable line: poisoned, or repaired in a stereo region. -/
def Dev.scrubUe (d : Dev) (l : Nat) (mir : Ecc) : Dev :=
  let x := d.stereoUe l mir
  if x.2 then x.1 else (x.1.poisonLine l 3).raise (lineMc l) 2 (lineBank l * 2048)

/-- A scrub read of one channel returns; with the last, the scrub moves to its next line. -/
def execScrubReadDone (t : Stack) (ch : Fin 8) (ecc : Ecc) (s : State) (mir : Ecc := .clean) : Out :=
  onDev (fun d =>
    let x := d.stk t.val
    if !x.scrubbing.testBit ch.val then d
    else
      let l := scrubLine t.val ch.val x.scrubAt
      let hasOver := x.overtaken.testBit ch.val
      let left := x.scrubbing - 2 ^ ch.val
      let d := d.setStk t.val { x with scrubbing := left, scrubAt := if left = 0 then (x.scrubAt + 1) % chLines else x.scrubAt }
      if Set.has d.poisoned l then d
      else
        match ecc with
        | .clean => d
        | .corrected sy => d.countCe l sy.val
        | .uncorrectable => if hasOver then d else d.scrubUe l mir
        | .beyond => if hasOver then d else d.beyondEcc l (fun d => d.scrubUe l mir)) s

/-! ### Refresh and temperature (R266, R267) -/

/-- A refresh falls due: it is issued with empty queues, with those postponed before it, one bank at a time; postponed while requests
are queued and REFPOST allows; otherwise issued at once. -/
def execRefreshDue (q : Quad) (n : Fin 40) (s : State) : Out :=
  onDev (fun d =>
    let k := mcKey q.val n.val
    let c := d.mc k
    let now := d.now (mcClk q.val)
    let c' := { c with postponed := c.postponed + 1 }
    if d.stkState (5 * q.val + n.val / 8) ≠ 2 then d
    else if c.reads.isEmpty ∧ c.writes.isEmpty then d.setMc k (c'.idleRefresh now)
    else if c.postponed < d.get (.mc q n) fMC_CFG_REFPOST 0 then d.setMc k c'
    else d.setMc k (c'.startRefresh now)) s

/-- Above 85 °C: the refresh interval halves and data cycles are limited, which changes times only. -/
def execStackTempHigh (t : Stack) (s : State) : Out :=
  onDev (fun d => d.setStk t.val { d.stk t.val with hot := true }) s
def execStackTempNormal (t : Stack) (s : State) : Out :=
  onDev (fun d => d.setStk t.val { d.stk t.val with hot := false }) s

/-! ### Training (R271, R272) -/

/-- The requests a stack keeps waiting complete as in FAILED: reads with poison, writes discarded. -/
def Dev.failWaiting (d : Dev) (t : Nat) : Dev :=
  (List.range 8).foldl (fun d ch =>
    let k := mcKey (t / 5) (8 * (t % 5) + ch)
    let c := d.mc k
    let d := d.setMc k { c with reads := [], writes := [], waitR := [], waitW := [], inflight := [] }
    (c.inflight.map (·.1) ++ c.reads ++ c.waitR).foldl (fun d l => d.memReturn l (poisonBytes l) true) d) d

def Dev.trainFail (d : Dev) (t mask : Nat) : Dev :=
  ((d.set (pStk t) fSTK_STAT_STATE 0 4).raise (pStk t) 0 mask).failWaiting t

/-- The requests that waited at the home are released in arrival order (R271). -/
def Dev.releaseWaiting (d : Dev) (t : Nat) : Dev :=
  (List.range 8).foldl (fun d ch =>
    let k := mcKey (t / 5) (8 * (t % 5) + ch)
    let c := d.mc k
    d.setMc k { c with reads := c.reads ++ c.waitR, writes := c.writes ++ c.waitW, waitR := [], waitW := [] }) d

/-- A write of STK_CMD: bit 0 TRAIN, bit 1 RETRAIN, bit 2 ZEROU; more than one sets ILL. -/
def stkCmd (d : Dev) (t val : Nat) : Dev :=
  let p := pStk t
  let ill := d.set p fSTK_STAT_ILL 0 1
  let q := t / 5
  match val % 8 with
  | 0 => d
  | 1 => if d.stkState t = 0 then d.set p fSTK_STAT_STATE 0 1 else ill
  | 2 =>
    if d.stkState t = 2 ∧ d.on p fSTK_STAT_ZBUSY 0 = false then
      (List.range 8).foldl (fun d ch =>
        let k := mcKey q (8 * (t % 5) + ch)
        let c := d.mc k
        d.setMc k { c with nextBank := (c.nextBank + c.postponed) % 32, postponed := 0 }) (d.set p fSTK_STAT_STATE 0 3)
    else ill
  | 4 =>
    let u := 72 * (t % 5) + d.get p fSTK_ZUNIT_UNIT 0
    let lo := 128 * unitLine q u
    let rb := (List.range 64).any (fun e => rbState d q e != 0 && overlaps (lo, 2 ^ 30) (rbBase d q e, 384 * rbBlocks d q e))
    let sr := (List.range 2).any (fun e => d.srState q e != 0 && (srRanges d q e).any (overlaps (lo, 2 ^ 30)))
    if rb || sr || d.stkState t != 2 || d.on p fSTK_STAT_ZBUSY 0 then ill
    else
      ((d.set p fSTK_STAT_ZBUSY 0 1).setStk t { d.stk t with zunit := u }).flushRange false (unitLine q u) unitLines
  | _ => ill

def execStkTrain (via : Via) (t : Stack) (s : State) : Out :=
  onDev (fun d => d.viaWrite via (pStk t.val) (fun d => stkCmd d t.val 1)) s
def execRetrain (via : Via) (t : Stack) (s : State) : Out :=
  onDev (fun d => d.viaWrite via (pStk t.val) (fun d => stkCmd d t.val 2)) s
def execZerou (via : Via) (t : Stack) (s : State) : Out :=
  onDev (fun d => d.viaWrite via (pStk t.val) (fun d => stkCmd d t.val 4)) s

/-- Training ends: READY, and the waiting requests are served, or FAILED with TRAIN_FAIL. -/
def execStkTrainDone (t : Stack) (ok : Bool) (mask : Byte) (s : State) : Out :=
  onDev (fun d =>
    if d.stkState t.val ≠ 1 then d
    else if ok then (d.set (pStk t.val) fSTK_STAT_STATE 0 2).releaseWaiting t.val
    else d.trainFail t.val mask.toNat) s

/-- Retraining ends, which it cannot before the controllers have completed what they had (Table 10.3, step 3); every bank has been
refreshed and closed. -/
def execRetrainDone (t : Stack) (ok : Bool) (mask : Byte) (s : State) : Out :=
  onDev (fun d =>
    let idle := (List.range 8).all (fun ch =>
      let c := d.mc (mcKey (t.val / 5) (8 * (t.val % 5) + ch))
      c.reads.isEmpty && c.writes.isEmpty && c.inflight.isEmpty)
    if d.stkState t.val ≠ 3 ∨ idle = false then d
    else
      let d := (List.range 8).foldl (fun d ch =>
        let k := mcKey (t.val / 5) (8 * (t.val % 5) + ch)
        d.setMc k { d.mc k with rows := [], nextBank := 0, refresh := none }) d
      if ok then (d.set (pStk t.val) fSTK_STAT_STATE 0 2).releaseWaiting t.val else d.trainFail t.val mask.toNat) s

/-- The unit is flushed and zeroed under its key (R264). -/
def execZerouDone (t : Stack) (s : State) : Out :=
  onDev (fun d =>
    let lo := unitLine (t.val / 5) (d.stk t.val).zunit
    if !d.on (pStk t.val) fSTK_STAT_ZBUSY 0 || !d.rangeIdle lo unitLines || d.stkWaits t.val then d
    else ((d.flushRange false lo unitLines).zeroLines lo unitLines).set (pStk t.val) fSTK_STAT_ZBUSY 0 0) s

end Sys2Proof.Machine
end

