-- ==== Sys2Proof/Machine/Traffic.lean ====
section
/-!
DEFINITION. Traffic regulation (chapter 11): late requests, level broadcasts, and the windows of regulation and metering; and
the bridges and H-die links the traffic crosses (R12, R16, R395).
-/

namespace Sys2Proof.Machine

open Sys2Proof

/-! ### Bridges and H-die links (R12, R16) -/

/-- One end reaches UP. -/
def Dev.brgUp (d : Dev) (q n : Nat) : Dev :=
  ((d.set (pBrg q n) fBRG_STAT_STATE 0 2).set (pBrg q n) fBRG_STAT_PEER 0 (if n = q then 15 else 8 + n)).bump (pBrg q n)
    fBRG_STAT_TRAINS 0 1

/-- A carrying link that is DOWN trains once both its ends are out of reset; a gated bridge never does. -/
def execBrgLinkTrain (q : Quad) (n : Fin 4) (s : State) : Out :=
  onDev (fun d =>
    if d.brgGated q.val n.val || !d.brgReady q.val n.val || d.brgState q.val n.val == 2 then d
    else if n.val = q.val then (d.brgUp q.val n.val).releaseHost (d.chanOf q.val)
    else (d.brgUp q.val n.val).brgUp n.val q.val) s

/-- One end leaves UP for a cause other than a reset, and raises DOWN. -/
def Dev.brgDown (d : Dev) (q n : Nat) : Dev := (d.set (pBrg q n) fBRG_STAT_STATE 0 1).raise (pBrg q n) 1 0

def execBrgLinkDown (q : Quad) (n : Fin 4) (s : State) : Out :=
  onDev (fun d =>
    if d.brgState q.val n.val != 2 then d
    else if n.val = q.val then d.brgDown q.val n.val
    else (d.brgDown q.val n.val).brgDown n.val q.val) s

/-- A flit of a link fails its check and is resent (R395). -/
def execBridgeRetry (q : Quad) (n : Fin 4) (s : State) : Out :=
  onDev (fun d =>
    if d.brgState q.val n.val = 2 then
      (d.bump (pBrg q.val n.val) fBRG_RETRY_COUNT 0 1).raise (pBrg q.val n.val) 0 0
    else d) s

/-! ### Deadlines (R278, R279) -/

/-- The request waits for a stack in training, a home-unit change, a zeroing, or is a held colophon write: parked (R279). -/
def Dev.parked (d : Dev) (r : Req) : Bool :=
  match r.tgt with
  | .stack s _ => d.stkWaits s || d.lineParked r.line
  | _ => false

/-- Goes on with what a request's line waits for. -/
def Dev.pumpReq (d : Dev) (r : Req) : Dev :=
  match r.tgt with
  | .stack _ _ => d.pump r.agent r.line
  | _ => d

/-- A request whose BUDGET has run down to 0 becomes late, and leaves regulation (R278, R285). -/
def execBudgetExpire (rq : Nat) (s : State) : Out :=
  onDev (fun d =>
    match d.req rq with
    | some r =>
      if r.budget = 0 ∧ r.late = false ∧ d.parked r = false then (d.modReq rq (fun r => { r with late := true })).pumpReq r else d
    | none => d) s

/-! ### Levels and windows (R282, R284, R287) -/

/-- A B-die's levels reach its C-dies and, over the bridges that carry, the other B-dies of its channel. -/
def execLevelBroadcast (q : Quad) (s : State) : Out :=
  onDev (fun d =>
    let dest := (List.range 4).filter (fun k => k == q.val || d.brgState q.val k == 2)
    let d := dest.foldl (fun d k =>
      (List.range 5).foldl (fun d i => d.noteLevel k (5 * q.val + i) (d.stackLevel (5 * q.val + i))) d) d
    d.pumpAll (fun r => dest.contains r.quad)) s

/-- The window count of each master restarts. -/
def execMeterWindowRestart (q : Quad) (s : State) : Out :=
  onDev (fun d =>
    { d with traffic := NMap.put d.traffic q.val { NMap.get d.traffic q.val Traffic.init with bytes := [] } Traffic.init }) s

/-- A window of 16 net cycles begins: the issue slots are whole again, and what regulation held issues. -/
def execIssueSlotWindow (q : Quad) (s : State) : Out :=
  onDev (fun d =>
    let t := NMap.get d.traffic q.val Traffic.init
    ({ d with traffic := NMap.put d.traffic q.val { t with used := [] } Traffic.init }).pumpAll (fun r => r.quad == q.val)) s

end Sys2Proof.Machine
end

