-- ==== Sys2Proof/Machine/Exwin.lean ====
section
/-!
DEFINITION. Exwin ports (chapter 12) and the routing of peer packets (R327 to R330): tags, packets sent and received, refusals,
retry, encryption and training.
-/

namespace Sys2Proof.Machine

open Sys2Proof

/-! ### A request as packets (R295, R296, R307; log entry 19) -/

/-- The pieces of the mask of a 256-byte block as packets can carry them: offset, bytes, and whether a FLAG carries it. Whole
units of 16 go by WR; words go by FLAG, which carries 4 or 8 bytes; a member of a group keeps to WR, since a FLAG with COLO is a
colophon write. -/
def unitPieces (colo : Bool) (u m : Nat) : List (Nat × Nat × Bool) :=
  if m = 0 then []
  else if colo ∨ m = 65535 then [(16 * u, 16, false)]
  else
    (List.range 2).flatMap (fun h =>
      let x := m >>> (8 * h) % 256
      if x = 255 then [(16 * u + 8 * h, 8, true)]
      else (List.range 2).filterMap (fun w =>
        if x >>> (4 * w) % 16 = 0 then none else some (16 * u + 8 * h + 4 * w, 4, true)))

/-- Neighbouring whole units go in one WR. -/
def joinPieces : List (Nat × Nat × Bool) → List (Nat × Nat × Bool)
  | [] => []
  | (o, n, true) :: r => (o, n, true) :: joinPieces r
  | (o, n, false) :: r =>
    match joinPieces r with
    | (o', n', false) :: r' => if o + n = o' then (o, n + n', false) :: r' else (o, n, false) :: (o', n', false) :: r'
    | r' => (o, n, false) :: r'

def wrPieces (colo : Bool) (mask : Nat) : List (Nat × Nat × Bool) :=
  joinPieces ((List.range 16).flatMap (fun u => unitPieces colo u (mask >>> (16 * u) % 65536)))

/-- What an unwritten word of an accumulate-write's packet holds: the reduction's neutral element. -/
def neutralWord (red : Nat) : Nat := match red with | 2 => 0xFF800000 | 3 => 0x7F800000 | _ => 0
def neutralFill (red n : Nat) : Nat := (List.range n).foldl (fun a i => a + neutralWord red * 2 ^ (32 * i)) 0

/-- The first and the last byte of a mask, plus one. -/
def maskSpan (n mask : Nat) : Nat × Nat :=
  match (List.range n).filter (fun i => mask.testBit i) with
  | [] => (0, 0)
  | a :: r => (a, (r.getLast?.getD a) + 1)

/-- A byte range of the address space, cut at 256-byte boundaries: address and bytes. -/
def cut256 (a n : Nat) : List (Nat × Nat) :=
  (List.range 3).filterMap (fun i =>
    let lo := max a ((a / 256 + i) * 256)
    let hi := min (a + n) ((a / 256 + i + 1) * 256)
    if lo < hi then some (lo, hi - lo) else none)

def aopCode : AOp → Nat
  | .add => 0 | .fadd => 1 | .smin => 2 | .smax => 3 | .umin => 4 | .umax => 5 | .and => 6 | .or => 7 | .xor => 8 | .exch => 9
  | .cas => 10
def aopOf : Nat → Option AOp
  | 0 => some .add | 1 => some .fadd | 2 => some .smin | 3 => some .smax | 4 => some .umin | 5 => some .umax | 6 => some .and
  | 7 => some .or | 8 => some .xor | 9 => some .exch | 10 => some .cas | _ => none

/-- The operand of lanes combined into one operation (R143). -/
def lanesOperand (op : AOp) (bytes : Nat) : List (Nat × Nat × Nat × Nat) → Nat
  | [] => 0
  | l :: r => r.foldl (fun a x => match op with | .exch => x.2.2.1 | _ => atomApply op bytes a x.2.2.1 0) l.2.2.1

/-- What a read or write to a peer names of its line: a remote-cache read takes the line whole (R176). -/
def Req.peerMask (r : Req) (rc : Bool) : Nat := if (r.op = .rd ∧ rc = true) ∨ r.mask = 0 then 2 ^ 128 - 1 else r.mask

/-- The bytes of a 256-byte block that a request names, and the data it writes there, with those of the request for the block's
second line where one packet is to serve both. -/
def Req.block (r : Req) (more : Option Req) (a : Nat) (rc : Bool) : Nat × Nat :=
  let off := a % 256 / 128 * 128
  match more with
  | none => (r.peerMask rc * 2 ^ off, r.data * 2 ^ (8 * off))
  | some m => (r.peerMask rc + m.peerMask rc * 2 ^ 128, r.data % 2 ^ 1024 + m.data * 2 ^ 1024)

/-- The poison of a payload's lines: bytes [o, o + n) of a block whose second line has its own poison where two requests share it. -/
def Req.linePsn (r : Req) (more : Option Req) (o n : Nat) : Bool × Bool :=
  let at_ (i : Nat) : Bool := match more with | some m => if i = 0 then r.psn else m.psn | none => r.psn
  (at_ (o / 128), decide (o / 128 < (o + n - 1) / 128) && at_ ((o + n - 1) / 128))

/-- The packets of a request to a peer (with `more`, of the two requests for the lines of a 256-byte block), and the device: a byte
the packet must carry and the request does not write is free. -/
def Dev.packetsOf (d : Dev) (r : Req) (more : Option Req) (dev a : Nat) (rc : Bool) : List Packet × Dev :=
  let k0 (kind : Nat) : Packet :=
    { pktBlank kind dev d.devId 0 (d.gen (.quad (quad r.quad))) r.tc r.budget r.late with
      ctr := BitVec.ofNat 16 r.ctr, group := BitVec.ofNat 16 r.group, colo := r.colo, psn0 := r.psn }
  let base := a - a % 128
  let blk := a - a % 256
  let b := r.block more a rc
  match r.op with
  | .rd =>
    let x := maskSpan 256 b.1
    let lo := x.1 / 16 * 16
    let n := (x.2 + 15) / 16 * 16 - lo
    ([{ k0 4 with addr := BitVec.ofNat 48 (blk + lo), cnt := BitVec.ofNat 8 (n / 16 - 1), psn0 := false }], d)
  | .wr =>
    let isFlag := match r.cli with
      | .delivery _ _ _ _ => r.flag
      | _ => false
    if isFlag then
      let n := maskCount 128 r.mask
      ([pkData { k0 3 with cnt := BitVec.ofNat 8 (n / 4 - 1), arg := BitVec.ofNat 32 (if r.colo then r.expect else 0) } a n
          (r.data >>> (8 * (a % 128)))], d)
    else
      let ps := wrPieces r.colo b.1
      let cover := ps.foldl (fun m e => m ||| byteMask e.1 e.2.1) 0
      let x := if cover = b.1 then (b.2, d)
        else
          let f := d.free 2048
          (mergeBytes 256 f.1 b.1 b.2, f.2)
      (ps.map (fun e =>
        let psn := r.linePsn more e.1 e.2.1
        pkData { k0 (if e.2.2 then 3 else 1) with
                 cnt := BitVec.ofNat 8 (if e.2.2 then e.2.1 / 4 - 1 else e.2.1 / 16 - 1), psn0 := psn.1, psn1 := psn.2 }
          (blk + e.1) e.2.1 ((x.1 >>> (8 * e.1)) % 2 ^ (8 * e.2.1))), x.2)
  | .acc red fs =>
    let unit := if red = 0 then 48 else 16
    -- a Chase block from its own first byte, a line from its 256-byte block's
    let y := if red = 0 then (base, r.mask, r.data) else (blk, b.1, b.2)
    let x := maskSpan 384 y.2.1
    let lo := x.1 / unit * unit
    let hi := (x.2 + unit - 1) / unit * unit
    let v := mergeBytes 384 (neutralFill red 96) y.2.1 y.2.2
    ((cut256 (y.1 + lo) (hi - lo)).map (fun e =>
      let psn := if red = 0 then (r.psn, r.psn && e.1 / 128 != (e.1 + e.2 - 1) / 128) else r.linePsn more (e.1 - blk) e.2
      pkData { k0 2 with cnt := BitVec.ofNat 8 (e.2 / 16 - 1), opx := BitVec.ofNat 8 red, psn0 := psn.1, psn1 := psn.2,
                         arg := BitVec.ofNat 32 (if red = 0 then ofSigned 16 fs else 0) } e.1 e.2
        ((v >>> (8 * (e.1 - y.1))) % 2 ^ (8 * e.2))), d)
  | .atom op w lanes =>
    let n := atomWidth w
    let k := pkData { k0 5 with opx := BitVec.ofNat 8 (aopCode op + 16 * w), arg := BitVec.ofNat 32 r.scope, psn0 := false } a n
      (lanesOperand op n lanes % 2 ^ (8 * n))
    match op with
    | .cas =>
      let b := pkData k a n ((lanes.head?.map (fun l => l.2.2.2)).getD 0 % 2 ^ (8 * n))
      ([{ k with len := 2, data := k.data ++ b.data }], d)
    | _ => ([k], d)

/-! ### Tags and rails (R307, R328) -/

/-- The next n free entries of a tag table, in ascending order from the next to allocate, modulo 16,384. -/
def pickTags (taken : List Nat) : Nat → Nat → Nat → List Nat
  | 0, _, _ => []
  | fuel + 1, e, n =>
    if n = 0 then []
    else if taken.contains e then pickTags taken fuel ((e + 1) % 16384) n
    else e :: pickTags taken fuel ((e + 1) % 16384) (n - 1)

def tagKey (q e : Nat) : Nat := q * 16384 + e
def Dev.takenTags (d : Dev) (q : Nat) : List Nat :=
  d.tags.filterMap (fun e => if e.1 / 16384 = q then some (e.1 % 16384) else none)
def Dev.tagAt (d : Dev) (q e : Nat) : Option TagEnt := NMap.get d.tags (tagKey q e) none
def Dev.setTag (d : Dev) (q e : Nat) (t : Option TagEnt) : Dev := { d with tags := NMap.put d.tags (tagKey q e) t none }

/-- The first-hop port of a peer packet of a quadrant: the rail the pin of the destination's chapel names, or the rails
alternating; sealed channels have one rail. The Boolean: the port is fenced. -/
def Dev.peerRoute (d : Dev) (q dst : Nat) : Option (Nat × Bool) :=
  let pin := d.get .dctl fDCTL_XR_PIN_PIN (dst / 256 / 16) >>> (2 * (dst / 256 % 16)) % 4
  let alt := NMap.get d.rail q 0 % 2
  let rails := if d.isSealedOp then [q / 2] else if pin = 1 then [0] else if pin = 2 then [1] else [alt, 1 - alt]
  let ports := rails.filterMap (d.nextPort dst)
  match ports.find? d.portUp with
  | some p => some (p, false)
  | none => (ports.find? (fun p => d.xlState p == 3)).map (fun p => (p, true))

/-- The first-hop port of a request: what the device controller sends keeps to the rail it names (R332). -/
def Dev.routeOf (d : Dev) (cli : Client) (q dst : Nat) : Option (Nat × Bool) :=
  let fixed (rail : Nat) : Option (Nat × Bool) :=
    (d.nextPort dst rail).bind (fun p => if d.portUp p then some (p, false) else if d.xlState p = 3 then some (p, true) else none)
  match cli with
  | .mailbox rail _ | .chunk rail => fixed rail
  | _ => d.peerRoute q dst

/-- Packets leave the quadrant's B-die, each under its tag, on the rail of its turn; a packet to this device itself takes
none. `t` is what the tags stand for. -/
def Dev.sendPeer (d : Dev) (q dst : Nat) (cli : Client) (t : TagEnt) : List (Packet × Nat) → Dev
  | [] => d
  | (k, e) :: rest =>
    let k := { k with tag := BitVec.ofNat 16 (tagKey q e) }
    let d :=
      if dst = d.devId then
        (d.setTag q e (some { t with port := 4 * q, sentAt := some (d.now (netClk q)) })).modPort (4 * q)
          (fun s => { s with rxq := s.rxq ++ [(16 + pkShare k, k)] })
      else
        match d.routeOf cli q dst with
        | some (p, _) =>
          ({ d with rail := NMap.put d.rail q ((NMap.get d.rail q 0 + 1) % 2) 0 }.setTag q e (some { t with port := p })).enqueuePkt p 0 k
        | none => d
    Dev.sendPeer { d with tagNext := NMap.put d.tagNext q ((e + 1) % 16384) 0 } q dst cli t rest

/-- Two requests of one command. -/
def sameCmd (a b : Client) : Bool :=
  match a, b with
  | .feeder c sl ent _, .feeder c' sl' ent' _ => c == c' && sl == sl' && ent == ent'
  | _, _ => a == b

/-- The request for the other line of a 256-byte block, which one packet serves with this one: read or written by the same command,
the bytes of the two meeting at the line boundary (R296). -/
def Dev.partner (d : Dev) (r : Req) : Option Req :=
  match r.tgt with
  | .peer dev a _ false =>
    let edge (lo hi : Req) : Bool := (lo.peerMask false).testBit 127 && (hi.peerMask false).testBit 0
    d.reqs.find? (fun m =>
      sameCmd m.cli r.cli && m.op == r.op && (match m.op with | .rd | .wr => true | .acc red _ => red != 0 | _ => false) &&
      !m.flag && !r.flag && !m.issued && !m.ready &&
      m.mask < 2 ^ 128 && r.mask < 2 ^ 128 && m.quad == r.quad && m.part == r.part && m.ctr == r.ctr && m.group == r.group &&
      m.colo == r.colo &&
      (match m.tgt with
       | .peer dev' a' _ false =>
         dev' == dev && a' / 256 == a / 256 &&
         ((m.id == r.id + 1 && a' / 128 == a / 128 + 1 && edge r m) || (r.id == m.id + 1 && a / 128 == a' / 128 + 1 && edge m r))
       | _ => false))
  | _ => none

/-- A message waits for what its sender wrote there before: chunks, and messages of which neither copy is performed (R332). -/
def Dev.releaseWaits (d : Dev) (r : Req) : Bool :=
  match r.cli, r.tgt with
  | .mailbox _ seq, .peer dev _ _ _ =>
    let there (x : Req) : Bool := decide (x.id < r.id) && (match x.tgt with | .peer dev' _ _ _ => dev' == dev | _ => false)
    let copy (rail s : Nat) : Bool := d.reqs.any (fun x => there x && x.cli == .mailbox rail s)
    d.reqs.any (fun x => there x &&
      (match x.cli with
       | .chunk _ => true
       | .mailbox 0 s => s != seq && copy 1 s
       | _ => false))
  | _, _ => false

/-- A master beyond its allowance has its peer requests lowered too (R287). -/
def Dev.lowerPeer (d : Dev) (r : Req) : Dev :=
  (d.modReq r.id (fun r => { r with issued := true })).when (d.overAllow r.quad (clientMaster r.cli) && !r.lowered) (fun d =>
    (d.modReq r.id (fun r => { r with lowered := true })).bump (pQctl r.quad) fQCTL_MET_LOWER_COUNT (clientMaster r.cli) 1)

/-- A peer request takes its tag entries and leaves, once enough are free and a first-hop port is UP (R307, R317, R328). -/
def execPeerRequestIssue (q : Quad) (rq : Nat) (s : State) : Out :=
  onDev (fun d =>
    match d.req rq with
    | none => d
    | some r =>
      match r.tgt with
      | .peer dev a _ rc =>
        if r.quad ≠ q.val ∨ r.issued = true ∨ r.ready = true ∨ d.atomWaits rq = true ∨ d.releaseWaits r = true then d
        else
          let m := d.partner r
          let swap := (m.map (fun m => decide (m.id < r.id))).getD false
          let lo := if swap then m.getD r else r
          let hi := if swap then some r else m
          let x := d.packetsOf lo hi dev (if swap then a - a % 256 else a) rc
          let es := pickTags (d.takenTags q.val) 16384 (NMap.get d.tagNext q.val 0) x.1.length
          let t : TagEnt := ⟨lo.id, hi.map (fun h => h.id), 0, d.gen (.quad (quad q.val)), none, false⟩
          let go (d : Dev) : Dev := ((hi.toList.foldl (fun d h => d.lowerPeer h) (d.lowerPeer lo)).sendPeer q.val dev r.cli t (x.1.zip es))
          if es.length < x.1.length then d
          else if dev = d.devId then go x.2
          else
            (match d.routeOf r.cli q.val dev with
             | none => d
             | some (_, true) => d.hostFenced rq
             | some (_, false) => go x.2)
      | _ => d) s

/-! ### Mailbox messages of the device controller (R332) -/

/-- The device is a chapel manager: licensed, and named (DCTL_ROLE.ISMGR); and the top manager (ISTOP). -/
def Dev.isMgr (d : Dev) : Bool := d.on .dctl fDCTL_ROLE_LIC 0 && d.devId == d.get .dctl fDCTL_CHAPEL_MGR 0
def Dev.isTop (d : Dev) : Bool := d.isMgr && d.devId == d.get .dctl fDCTL_CHAPEL_TOP 0
def Dev.mgr (d : Dev) : Nat := d.get .dctl fDCTL_CHAPEL_MGR 0
def Dev.topMgr (d : Dev) : Nat := d.get .dctl fDCTL_CHAPEL_TOP 0


/-- The 256 bytes of a message (Table 13.3). -/
def mboxBytes (src : Nat) (m : SentMsg) : List Byte :=
  [BitVec.ofNat 8 m.kind, 1] ++ leBytes 2 m.payload.length ++ leBytes 4 m.seq ++ leBytes 2 src ++ leBytes 6 0 ++
    (m.payload ++ List.replicate (240 - m.payload.length) 0)

/-- The lane of this device at a receiver: of its own chapel, or 256 of the top manager's. -/
def Dev.laneAt (d : Dev) (dst : Nat) : Nat := if dst / 256 = d.devId / 256 then d.devId % 256 else 256

/-- A write of the device controller to a peer, of 256 bytes, from the B-die its rail's first hop leaves by; to its own device there is
none. -/
def Dev.ctlWr (d : Dev) (cli : Client) (rail dst a v tc ctr : Nat) : Dev :=
  match d.nextPort dst rail with
  | none => d
  | some p =>
    d.issue { Req.blank with cli := cli, op := .wr, addr := a, tgt := .peer dst a tc false, mask := byteMask 0 256, data := v,
                             quad := p / 4, tc := tc, ctr := ctr, scope := 3 }

/-- One copy of a message, on a rail: a 256-byte WR of TC 0 to its slot, counted on the receiver's mailbox counter. -/
def Dev.mboxWr (d : Dev) (m : SentMsg) (rail : Nat) : Dev :=
  let lo := d.word .dctl 0x130 0
  let hi := d.word .dctl 0x134 0
  d.ctlWr (.mailbox rail m.seq) rail m.dst
    (lo / 2 ^ 21 * 2 ^ 21 + hi % 65536 * 2 ^ 32 + d.laneAt m.dst * 4096 + m.seq % 16 * 256) (leNat (mboxBytes d.devId m)) 0
    (0x8000 + hi / 65536 % 4096)

/-- The data of a firmware chunk by ordinary writes to the staging range of a member, over both rails in turn (R333). TC 2: PRESUMED,
that of a STORE, which an ordinary write is (log entry 135). -/
def Dev.sendChunk (d : Dev) (dst a : Nat) (bytes : List Byte) : Dev :=
  (List.range ((bytes.length + 255) / 256)).foldl (fun d i =>
    d.ctlWr (.chunk (i % 2)) (i % 2) dst (a + 256 * i) (leNat ((bytes.drop (256 * i)).take 256)) 2 0) d

/-- Messages of the backlog leave, twice each, while fewer than 16 to their lane are unanswered. An ACK is not answered. -/
def Dev.flushMbox (d : Dev) : Nat → Dev
  | 0 => d
  | fuel + 1 =>
    let ready (m : SentMsg) : Bool := m.kind == 1 || decide ((d.chapel.unanswered.filter (fun u => u.dst == m.dst)).length < 16)
    match d.chapel.backlog.find? ready with
    | none => d
    | some m =>
      let c := d.chapel
      let m' := { m with at_ := d.now ctlClk }
      let d := { d with chapel := { c with backlog := dropFirst (fun x => decide (x = m)) c.backlog,
                                           unanswered := if m.kind = 1 then c.unanswered else c.unanswered ++ [m'] } }
      Dev.flushMbox ((d.mboxWr m' 0).mboxWr m' 1) fuel

/-- Sends a message; the number it goes under is the destination's next. -/
def Dev.sendMbox (d : Dev) (dst kind : Nat) (payload : List Byte) : Dev :=
  let c := d.chapel
  let seq := NMap.get c.seqOut dst 0
  let m : SentMsg := ⟨dst, kind, seq, payload, 0⟩
  let d : Dev := { d with chapel := { c with seqOut := NMap.put c.seqOut dst ((seq + 1) % 2 ^ 32) 0, backlog := c.backlog ++ [m] } }
  d.flushMbox 16

/-- Answers a message. -/
def Dev.sendAck (d : Dev) (dst seq status : Nat) : Dev := d.sendMbox dst 1 (leBytes 4 seq ++ leBytes 1 status)

/-- The device at the other end of a link whose end at `peer` faces port p of that device. -/
def Dev.facing (d : Dev) (peer p : Nat) : Nat :=
  let dim := portDim p
  let n := d.torusLen dim
  let y := peer / 16 ^ dim % 16
  let x := if p % 2 = 0 then (y + n - 1) % n else (y + 1) % n
  peer - y * 16 ^ dim + x * 16 ^ dim

/-- A manager notes a notice, and opens a collection window: for cause 1 about the link of the named port (log entry 21). A link of
dimension 2 or 3 is told by the chapel managers of its ends, through which they are reached; an end whose manager has not been heard is
reached itself (log entry 21). -/
def Dev.noteFault (d : Dev) (src named cause synd : Nat) : Dev :=
  let c := d.chapel
  let now := d.now ctlClk
  let p := synd % 16
  let q := if p % 2 = 0 then p + 1 else p - 1
  let link := cause == 1
  let here := if portDim p < 2 then src else d.facing named p
  let isB (l : LinkCase) : Bool := l.isLink && l.endB == here && l.maskB.testBit p
  let dup := c.links.any (fun l => if link then (l.isLink && l.endA == here && l.maskA.testBit p) || isB l else !l.isLink)
  let win : LinkCase :=
    { isLink := link, endA := here, endB := named, maskA := 2 ^ p, maskB := 2 ^ q, toA := some src,
      toB := some named, seqA := none, seqB := none, step := 0,
      acks := [], since := now }
  let links := if link then replaceAll isB (fun l : LinkCase => { l with toB := some src }) c.links else c.links
  { d with chapel := { c with notices := c.notices ++ [⟨named, src, cause, now⟩], links := if dup then links else links ++ [win] } }

/-- Reports a fault to the chapel manager; a manager notes it itself (R334, R335). -/
def Dev.notice (d : Dev) (named cause synd : Nat) : Dev :=
  if !d.power.running then d
  else if d.isMgr then
    (if cause = 1 ∧ 2 ≤ portDim synd ∧ ¬d.isTop then
       d.sendMbox d.topMgr 5 (leBytes 2 named ++ leBytes 1 cause ++ leBytes 2 synd)
     else d.noteFault d.devId named cause synd)
  else if d.mgr = d.devId then d
  else d.sendMbox d.mgr 5 (leBytes 2 named ++ leBytes 1 cause ++ leBytes 2 synd)

/-! ### Sending (R299, R300, R305, R309) -/

/-- Two requests to one line of a device. -/
def sameLine (a b : Packet) : Bool :=
  a.dst == b.dst && decide (a.addr.toNat / 128 ≤ (b.addr.toNat + pkBytes b - 1) / 128) &&
  decide (b.addr.toNat / 128 ≤ (a.addr.toNat + pkBytes a - 1) / 128)

/-- The packets of a queue that no earlier request of this device to the same line stands before (R280). -/
def firstToLine (before : List Packet) : List (Nat × Packet) → List (Nat × Packet)
  | [] => []
  | e :: r =>
    if e.1 ≠ 0 then e :: firstToLine before r
    else if before.any (sameLine e.2) then firstToLine (e.2 :: before) r
    else e :: firstToLine (e.2 :: before) r

/-- The packets that wait for an output port, and whose way to its B-die is open (R9, R12): (0, source, packet) of its own
queue, then (1 + input port, share, packet) of the first transit packet of each share of each input (R303). -/
def Dev.sendable (d : Dev) (p : Nat) : List (Nat × Nat × Packet) :=
  let from_ (e : Nat × Packet) : Nat := if e.1 = 0 then e.2.tag.toNat / 16384 else (e.1 - 1) / 4
  (((firstToLine [] (d.port p).txq).filter (fun e => d.carries (from_ e) (p / 4))).map (fun e => (0, e.1, e.2))) ++
  ((List.range 16).filter (fun i => d.carries (i / 4) (p / 4))).flatMap (fun i =>
    let mine := (d.port i).rxq.filter (fun e => decide (e.1 < 16) && d.nextPort e.2.dst.toNat (portRail i) == some p)
    (List.range 16).filterMap (fun j => (mine.find? (fun e => e.1 == j)).map (fun e => (1 + i, e.1, e.2))))

/-- The order of service of a packet that waits (R281). -/
def Dev.pktKey (d : Dev) (e : Nat × Nat × Packet) : Nat :=
  let k := e.2.2
  let lowered := e.1 == 0 && e.2.1 == 0 &&
    (((d.tagAt (k.tag.toNat / 16384) (k.tag.toNat % 16384)).bind (fun t => d.req t.req)).map (fun r => r.lowered)).getD false
  svcKey ⟨k.tc.val, k.budget.toNat, k.late⟩ lowered

/-- The packet as port p sends it: DL of its dimension (R300), and a request charged for the link (R309). -/
def Dev.asSent (d : Dev) (p : Nat) (from_ : Nat) (k : Packet) : Packet :=
  let same := decide (0 < from_) && d.get (pXl (from_ - 1)) fXL_CFG_DIM 0 == d.get (pXl p) fXL_CFG_DIM 0
  let dl := d.on (pXl p) fXL_CFG_DLINE 0 || (same && k.dl)
  let b := k.budget.toNat
  let b' := if b = 0xFFF ∨ 6 ≤ k.kind.toNat then b else b - d.get (pXl p) fXL_CHARGE_CHARGE 0
  { k with dl := dl, budget := BitVec.ofNat 12 b', late := k.late || b' == 0 }

/-- Flits a port holds for replay. -/
def PortSt.retained (s : PortSt) : Nat := s.retry.foldl (fun n e => n + pkFlits e.2) 0

/-- A packet may be sent now: credits for all its flits in its share, and room in the retry buffer. -/
def PortSt.maySend (s : PortSt) (k : Packet) : Bool :=
  decide ((pkFlits k : Int) ≤ NMap.get s.credits (pkShare k) 0) && decide (s.retained + pkFlits k ≤ 16384)

/-- The best of the waiting packets that may be sent. -/
def Dev.bestPkt (d : Dev) (p : Nat) : List (Nat × Nat × Packet) → Option (Nat × Nat × Packet)
  | [] => none
  | e :: r =>
    let k := d.asSent p e.1 e.2.2
    match d.bestPkt p r with
    | none => if (d.port p).maySend k then some e else none
    | some b => if (d.port p).maySend k ∧ d.pktKey e ≤ d.pktKey b then some e else some b

/-- A receive share frees the flits of a packet; what the device sent itself held none. -/
def Dev.freeFlits (d : Dev) (p j : Nat) (k : Packet) : Dev :=
  if 16 ≤ j then d
  else d.modPort p (fun s =>
    { s with held := NMap.put s.held j (NMap.get s.held j 0 - pkFlits k) 0,
             freed := NMap.put s.freed j (NMap.get s.freed j 0 + pkFlits k) 0 })

/-- Takes a packet out of its queue. -/
def Dev.unqueue (d : Dev) (p : Nat) (e : Nat × Nat × Packet) : Dev :=
  if e.1 = 0 then d.modPort p (fun s => { s with txq := dropFirst (fun x => decide (x = e.2)) s.txq })
  else (d.modPort (e.1 - 1) (fun s => { s with rxq := dropFirst (fun x => decide (x = e.2)) s.rxq })).freeFlits (e.1 - 1) e.2.1 e.2.2

/-- Slots for the next n flits: those left before the control slot, and then those after it (R294). -/
def PortSt.takeSlots (s : PortSt) (n : Nat) : PortSt :=
  let k := min n (20 - s.slot % 21)
  { s with slot := s.slot + k, carry := s.carry + (n - k) }

/-- The flits of a packet from a given one on take their slots: in clear they leave, encrypted they wait for their block to close. -/
def Dev.emitFlits (d : Dev) (p : Nat) (k : Packet) (from_ : Nat) : Dev :=
  let d := d.modPort p (fun s => s.takeSlots (pkFlits k - from_))
  if d.on (pXl p) fXL_CFG_ENC 0 then d.modPort p (fun s => { s with plain := s.plain ++ (pkFlitBytes k).drop from_ })
  else d.send (.packet p k from_)

/-- A port sends its best packet: not while a replay is due, which goes before any new flit (R305), and not in a control slot. -/
def execPacketSend (p : Port) (s : State) : Out :=
  onDev (fun d =>
    if !d.portUp p.val || d.inReset (pXl p.val) || (d.port p.val).replayDue || (d.port p.val).slot % 21 == 20 then d
    else
      -- with QREQ replies only (Table 15.4)
      match d.bestPkt p.val ((d.sendable p.val).filter (fun e => e.2.2.rpl || !d.on (pXl p.val) fBLK_CTL_QREQ 0)) with
      | none => d
      | some e =>
        let k := d.asSent p.val e.1 e.2.2
        let n := pkFlits k
        let d := d.unqueue p.val e
        let d := d.modPort p.val (fun s =>
          { s with credits := NMap.put s.credits (pkShare k) (NMap.get s.credits (pkShare k) 0 - n) 0,
                   retry := s.retry ++ [(s.fseqTx, k)], fseqTx := (s.fseqTx + n) % 65536 })
        let q := k.tag.toNat / 16384
        let t := k.tag.toNat % 16384
        let d := if e.1 = 0 ∧ e.2.1 = 0 then
            (match d.tagAt q t with
             | some x => d.setTag q t (some { x with sentAt := some (d.now (netClk q)) })
             | none => d)
          else d
        d.emitFlits p.val k 0) s

/-! ### Requests that arrive (R302, R309, R310) -/

/-- Bytes of a reply with n bytes of data. -/
def replySize (n : Nat) : Nat := 32 * (1 + (n + 31) / 32)

/-- Bytes of the reply store that port p's requests have reserved: 32 for each flit of their replies, one reply a packet. -/
def Dev.replyStore (d : Dev) (p : Nat) : Nat :=
  (((d.reqs.map (fun r => r.cli)).eraseDups.filter (fun c => match c with | .peerIn p' _ _ _ _ => p' == p | _ => false)).foldl (fun n c =>
    let rs := d.reqs.filter (fun r => decide (r.cli = c))
    n + (match (rs.head?).map (fun r => r.op) with
      | some .rd => replySize (rs.foldl (fun b r => b + maskCount 128 r.mask) 0)
      | some (.atom _ _ _) => 64
      | _ => 32 * (rs.flatMap Req.peerTags).eraseDups.length)) 0) +
  32 * (d.port p).landings.length + 32 * (d.halves.filter (fun e => e.1 == p)).length +
  (List.range 16).foldl (fun n o => (d.port o).txq.foldl (fun n e => if e.1 = 1 + p then n + 32 * pkFlits e.2 else n) n) 0

def replyBytes (k : Packet) : Nat := match k.kind.toNat with | 4 => replySize (pkBytes k) | 5 => 64 | _ => 32

/-- Why an arriving request is refused (Table 12.6). -/
def Dev.peerRefusal (d : Dev) (p a : Nat) : Option Nat :=
  let s := a / 2 ^ 37
  if 20 ≤ s ∨ 0x1200000000 ≤ a % 2 ^ 37 then some 1
  else if d.chanOf (s / 5) ≠ d.chanOf (p / 4) then some 2
  else if d.domInReset (.quad (quad (s / 5))) || d.on (pXl p) fBLK_CTL_QREQ 0 ||
     d.quiesces.any (fun x => x.infence && x.chan == d.chanOf (p / 4) && x.part == d.owner s (a % 2 ^ 37)) then some 7
  else if (d.srAt a).isSome then some 3
  else none

/-- The payload of an arriving packet by pieces of `size`-byte blocks: block address, mask and data in the block. -/
def blockParts (size a n v : Nat) : List (Nat × Nat × Nat) :=
  (List.range 4).filterMap (fun i =>
    let b := (a / size + i) * size
    let lo := max a b
    let hi := min (a + n) (b + size)
    if lo < hi then some (b, byteMask (lo - b) (hi - lo), (v >>> (8 * (lo - a))) % 2 ^ (8 * (hi - lo)) * 2 ^ (8 * (lo - b)))
    else none)

/-- A request of an arriving packet. -/
def Dev.peerReq (d : Dev) (p : Nat) (k : Packet) : Req :=
  let a := k.addr.toNat
  { Req.blank with
    cli := .peerIn p k.src.toNat k.tag.toNat k.gen.toNat k.tc.val, addr := a, tgt := .stack (a / 2 ^ 37) (a % 2 ^ 37),
    part := d.owner (a / 2 ^ 37) (a % 2 ^ 37), quad := p / 4, tc := k.tc.val, budget := k.budget.toNat, late := k.late,
    ctr := k.ctr.toNat, colo := k.colo, group := k.group.toNat, scope := 3 }

/-- A request for part of an arriving packet. -/
def partReq (r : Req) (k : Packet) (x : Nat × Nat × Nat) : Req :=
  let lo := (maskSpan 384 x.2.1).1
  let a := x.1 + lo
  { r with addr := a, tgt := .stack (a / 2 ^ 37) (a % 2 ^ 37), mask := x.2.1, data := x.2.2,
           psn := if x.1 / 128 = k.addr.toNat / 128 then k.psn0 else k.psn1 }

/-- A Chase block of which a packet brings a part cut at a 256-byte boundary inside an element waits for the packet with the
rest (log entry 19). -/
def isHalf (x : Nat × Nat × Nat) : Bool :=
  let s := maskSpan 384 x.2.1
  let lo := s.1
  let hi := s.2
  (lo % 12 != 0 || hi % 12 != 0) && (lo % 12 == 0 || (x.1 + lo) % 256 == 0) && (hi % 12 == 0 || (x.1 + hi) % 256 == 0)

/-- The waiting packet that completes a part of a Chase block: same sender, block and frame, and together whole elements. -/
def Dev.otherHalf (d : Dev) (k : Packet) (x : Nat × Nat × Nat) : Option (Nat × Packet) :=
  d.halves.find? (fun e =>
    e.2.src == k.src && e.2.gen == k.gen && e.2.arg == k.arg &&
    (blockParts 384 e.2.addr.toNat (pkBytes e.2) (pkPayload e.2)).any (fun y =>
      y.1 == x.1 && isHalf y && y.2.1 &&& x.2.1 == 0 && chaseAligned (x.2.1 ||| y.2.1)))

/-- An accepted request of this device is served. -/
def Dev.servePeer (d : Dev) (p : Nat) (k : Packet) : Dev :=
  let a := k.addr.toNat
  let n := pkBytes k
  let v := pkPayload k % 2 ^ (8 * n)
  let r := d.peerReq p k
  match d.peerRefusal p a with
  | some cause => d.refusePeer p k.src.toNat k.tag.toNat k.gen.toNat k.tc.val k.budget.toNat k.late cause
  | none =>
    match k.kind.toNat with
    | 1 => d.issueAll ((blockParts 128 a n v).map (fun x => { partReq r k x with op := .wr }))
    | 2 =>
      let red := k.opx.toNat
      if red ≠ 0 then d.issueAll ((blockParts 128 a n v).map (fun x => { partReq r k x with op := .acc red 0 }))
      else
        let fs := toSigned 16 (k.arg.toNat % 65536)
        let psn := k.psn0 || k.psn1
        let xs := blockParts 384 a n v
        let whole := xs.filter (fun x => !isHalf x)
        let d := d.issueAll (whole.map (fun x =>
          { partReq r k x with op := .acc 0 fs, psn := psn, addr := x.1, tgt := .stack (x.1 / 2 ^ 37) (x.1 % 2 ^ 37) }))
        (xs.filter isHalf).foldl (fun d x =>
          match d.otherHalf k x with
          | none => { d with halves := d.halves ++ [(p, k)] }
          | some e =>
            let y := ((blockParts 384 e.2.addr.toNat (pkBytes e.2) (pkPayload e.2)).find? (fun y => y.1 == x.1)).getD (x.1, 0, 0)
            ({ d with halves := dropFirst (fun h => decide (h = e)) d.halves }).issue
              { partReq r k x with
                op := .acc 0 fs, addr := x.1, tgt := .stack (x.1 / 2 ^ 37) (x.1 % 2 ^ 37), mask := x.2.1 ||| y.2.1,
                data := x.2.2 + y.2.2, psn := psn || e.2.psn0 || e.2.psn1, expect := e.2.tag.toNat + 1 }) d
    | 3 =>
      d.issueAll ((blockParts 128 a n v).map (fun x =>
        { partReq r k x with op := .wr, flag := true, expect := if k.colo then k.arg.toNat else 0 }))
    | 4 => d.issueAll ((blockParts 128 a n 0).map (fun x => { partReq r k x with op := .rd, data := 0, psn := false }))
    | _ =>
      let w := k.opx.toNat / 16 % 4
      let bytes := atomWidth w
      let b := leNat (k.data.drop (32 + a % 32)) % 2 ^ (8 * bytes)
      (match aopOf (k.opx.toNat % 16) with
       | some op =>
         d.issue { r with op := .atom op w [(0, (a - a % bytes) % 128, pkPayload k % 2 ^ (8 * bytes), b)],
                          mask := byteMask ((a - a % bytes) % 128) bytes, size := bytes }
       | none => d.refusePeer p k.src.toNat k.tag.toNat k.gen.toNat k.tc.val k.budget.toNat k.late 1)

/-- The first packet of a share that is for this device. -/
def Dev.shareHead (d : Dev) (p sh : Nat) : Option (Nat × Packet) :=
  (d.port p).rxq.find? (fun e => e.1 % 16 == sh && e.2.dst.toNat == d.devId)

/-! ### Replies that arrive (R308, R311, R312) -/

/-- The end of a write to a peer: performed at SYSTEM scope once none of its packets is outstanding. -/
def Dev.peerLanded (d : Dev) (rq : Nat) : Dev :=
  if d.tags.any (fun e => match e.2 with | some t => t.names rq | none => false) then d
  else
    match d.req rq with
    | none => d
    | some r =>
      match r.cli with
      | .dma _ _ => d.modReq rq (fun r => { r with dev := true, sys := true })
      | _ => (d.dropReq rq).journalDone r

/-- A read line of a remote-cache window is installed, unless an acquire overtook it (R176, R177). -/
def Dev.installPeer (d : Dev) (r : Req) (data : Nat) (psn : Bool) : Dev :=
  match r.tgt with
  | .peer _ _ _ true =>
    if r.noinstall then d else (d.fillCase r.quad r.part r.line .s false true false data psn).1
  | _ => d

/-- Data of an RDATA or ATOMR goes to its request. -/
def Dev.peerData (d : Dev) (t : TagEnt) (k : Packet) : Dev :=
  let rq := t.req
  match d.req rq with
  | none => d
  | some r =>
    match r.op, r.tgt with
    | .atom op w lanes, _ =>
      let bytes := atomWidth w
      let off := (lanes.head?.map (fun l => l.2.1)).getD 0
      if k.psn0 then d.answered rq 0 true false
      else
        let x := atomLanes op bytes lanes (pkPayload k % 2 ^ (8 * bytes) * 2 ^ (8 * off)) 0 0
        (d.modReq rq (fun r => { r with flags := x.2.2 })).answered rq x.2.1 false false
    | .rd, .peer _ a _ rc =>
      let more := t.more.bind d.req
      let lo := (maskSpan 256 (r.block more a rc).1).1 / 16 * 16
      let v := pkPayload k * 2 ^ (8 * lo) % 2 ^ 2048
      (match more with
       | none =>
         let x := (v >>> (8 * (a % 256 / 128 * 128))) % 2 ^ 1024
         (d.installPeer r x k.psn0).answered rq x k.psn0 false
       | some m => (d.answered rq (v % 2 ^ 1024) k.psn0 false).answered m.id (v >>> 1024) k.psn1 false)
    | _, _ => d

/-- A reply of this device's requests: dropped as stale, or taken (R312). -/
def Dev.takePeerReply (d : Dev) (p : Nat) (k : Packet) : Dev :=
  let q := k.tag.toNat / 16384
  let e := k.tag.toNat % 16384
  let stale (d : Dev) : Dev := (d.bump (pXl p) fXL_STALE_COUNT 0 1).raise (pXl p) 13 0
  match d.tagAt q e with
  | none => stale d
  | some t =>
    if k.gen.toNat ≠ d.gen (.quad (quad q)) then stale d
    else if t.abandoned then stale (d.setTag q e none)
    else
      match k.kind.toNat with
      | 6 | 7 => (d.setTag q e none).peerData t k
      | 8 =>
        let es := e :: ((List.range 32).filter (fun b => k.arg.toNat.testBit b)).map (fun b => (e + 1 + b) % 16384)
        let rqs := es.flatMap (fun x => ((d.tagAt q x).map TagEnt.reqs).getD [])
        rqs.foldl (fun d rq => d.peerLanded rq) (es.foldl (fun d x => d.setTag q x none) d)
      | _ =>
        t.reqs.foldl (fun d rq => d.addrError rq) ((d.setTag q e none).raise (pXl t.port) 12 (k.opx.toNat % 8 + 8 * (e % 8192)))

/-! ### Arrival (R298, R301, R302, R304) -/

/-- Whether a port takes packets from its link: UP or in a state its peer still reaches, not fenced, and not waiting for a
replay. -/
def Dev.receiving (d : Dev) (p : Nat) : Bool := d.xlState p == 2 && !(d.port p).nak && !d.inReset (pXl p)

/-- A request's share is taken as far as the reply store allows. -/
def Dev.acceptShare (d : Dev) (p sh : Nat) : Dev :=
  match d.shareHead p sh with
  | none => d
  | some e =>
    if sh % 2 = 0 ∧ 524288 < d.replyStore p + replyBytes e.2 then d
    else
      let d := (d.modPort p (fun s => { s with rxq := dropFirst (fun x => decide (x = e)) s.rxq })).freeFlits p e.1 e.2
      if sh % 2 = 0 then d.servePeer p e.2 else d.takePeerReply p e.2

/-- A packet of a kind is received: numbered, checked, placed in its share; one for this device is taken out of it as R302 says,
others wait for their next port. An illegal one is discarded, and its credits kept (R298; log entry 20). -/
def Dev.takePkt (d : Dev) (p kind : Nat) (k : Packet) : Dev :=
  let k := { k with kind := BitVec.ofNat 4 kind, rpl := if 1 ≤ kind ∧ kind ≤ 9 then decide (6 ≤ kind) else k.rpl }
  if !d.receiving p then d
  else
    let d := d.modPort p (fun s => { s with fseqRx := (s.fseqRx + pkFlits k) % 65536 })
    let j := pkShare k
    let d := d.modPort p (fun s => { s with held := NMap.put s.held j (NMap.get s.held j 0 + pkFlits k) 0 })
    if pkBad k then d.raise (pXl p) 10 (16 * kind)
    else
      let d := d.modPort p (fun s => { s with rxq := s.rxq ++ [(j, k)] })
      if k.dst.toNat = d.devId then d.acceptShare p j else d

/-- A packet arrives; an encrypted one is released by the check of its block's tag (R314). -/
def Dev.arrivePkt (d : Dev) (p kind : Nat) (k : Packet) : Dev :=
  if !d.receiving p then d
  else if d.on (pXl p) fXL_CFG_ENC 0 then d.modPort p (fun s => { s with unchecked := s.unchecked ++ [(kind, k)] })
  else d.takePkt p kind k

def execWr (p : Port) (k : Packet) (s : State) : Out := onDev (fun d => d.arrivePkt p.val 1 k) s
def execAccw (p : Port) (k : Packet) (s : State) : Out := onDev (fun d => d.arrivePkt p.val 2 k) s
def execFlagPacket (p : Port) (k : Packet) (s : State) : Out := onDev (fun d => d.arrivePkt p.val 3 k) s
def execRd (p : Port) (k : Packet) (s : State) : Out := onDev (fun d => d.arrivePkt p.val 4 k) s
def execAtomPacket (p : Port) (k : Packet) (s : State) : Out := onDev (fun d => d.arrivePkt p.val 5 k) s
def execRdata (p : Port) (k : Packet) (s : State) : Out := onDev (fun d => d.arrivePkt p.val 6 k) s
def execAtomr (p : Port) (k : Packet) (s : State) : Out := onDev (fun d => d.arrivePkt p.val 7 k) s
def execLanded (p : Port) (k : Packet) (s : State) : Out := onDev (fun d => d.arrivePkt p.val 8 k) s
def execRefuse (p : Port) (k : Packet) (s : State) : Out := onDev (fun d => d.arrivePkt p.val 9 k) s

/-- A packet with an illegal KIND, LEN or CNT arrives (R298). -/
def execIllegalPacket (p : Port) (k : Packet) (s : State) : Out :=
  onDev (fun d => if pkBad k then d.arrivePkt p.val k.kind.toNat k else d) s

def execRequestShareAccept (p : Port) (sh : Fin 16) (s : State) : Out := onDev (fun d => d.acceptShare p.val sh.val) s

/-- The oldest acknowledgement of a port leaves as one LANDED, 64 net cycles after it arose, with those that arose meanwhile for the
same source quadrant and class and whose tags its bitmap reaches; late, if one of them is. -/
def execLandedFlush (p : Port) (s : State) : Out :=
  onDev (fun d =>
    match (d.port p.val).landings with
    | [] => d
    | x :: rest =>
      let reach (y : Landing) : Bool :=
        y.dst == x.dst && y.gen == x.gen && y.svc.tc == x.svc.tc && y.tag / 16384 == x.tag / 16384 && decide (y.at_ ≤ x.at_ + 64) &&
        decide (1 ≤ (y.tag + 16384 - x.tag) % 16384 ∧ (y.tag + 16384 - x.tag) % 16384 ≤ 32)
      let bits := (rest.filter reach).foldl (fun m y => m ||| 2 ^ ((y.tag + 16384 - x.tag) % 16384 - 1)) 0
      if d.now (netClk (p.val / 4)) < x.at_ + 64 then d
      else
        (d.modPort p.val (fun s => { s with landings := rest.filter (fun y => !reach y) })).replyPkt p.val
          { pktBlank 8 x.dst d.devId x.tag x.gen x.svc.tc x.svc.budget (x.svc.late || (rest.filter reach).any (fun y => y.svc.late)) with
            arg := BitVec.ofNat 32 bits }) s

/-! ### Timeout (R313) -/

/-- A run whose write is abandoned ends with PTMO: the release of its journal entry, or an earlier one, waits on that write
(Table 17.6). -/
def Dev.runTimeout (d : Dev) (c : CoreId) (sl stn ent : Nat) : Dev := d.endRun c sl 0x84 stn ent (stn == stDlv)

/-- A request to a peer ends without an answer: reads and atomics with poison, writes abandoned. -/
def Dev.abandonPeer (d : Dev) (rq : Nat) : Dev :=
  match d.req rq with
  | none => d
  | some r =>
    match r.op with
    | .rd | .atom _ _ _ => d.answered rq (poisonBytes r.line) true false
    | _ =>
      match r.cli with
      | .delivery c sl ent _ => (d.dropReq rq).runTimeout c sl stDlv ent
      | .inkSt c _ sl ent => (d.dropReq rq).runTimeout c sl stInk ent
      | .journal x q _ => (d.dropReq rq).raiseIf r.flag (pImp x) 2 q
      | .save x q => (d.dropReq rq).raise (pImp x) 2 q
      | .dma _ _ => d.modReq rq (fun r => { r with failed := true, dev := true, sys := true })
      | _ => d.dropReq rq

def execPeerRequestTimeout (q : Quad) (e : Fin 16384) (s : State) : Out :=
  onDev (fun d =>
    match d.tagAt q.val e.val with
    | some t =>
      (match t.sentAt with
       | none => d
       | some at_ =>
         if d.now (netClk q.val) < at_ + 2 ^ d.get (pXl t.port) fXL_PTMO_EXP 0 then d
         else
           let dst := match (d.req t.req).map (fun r => r.tgt) with
             | some (.peer dev _ _ _) => dev
             | _ => d.devId
           (t.reqs.foldl (fun d rq => d.abandonPeer rq) ((d.setTag q.val e.val none).raise (pXl t.port) 14 e.val)).notice dst 2 e.val)
    | none => d) s

/-! ### States of a port (R306, R316, R317, R320, R321) -/

def Dev.setXl (d : Dev) (p st : Nat) : Dev := d.set (pXl p) fXL_STAT_STATE 0 st
def Dev.coord (d : Dev) (p : Nat) : Bool := d.on (pXl p) fXL_CFG_COORD 0

/-- A port goes DOWN other than by command; with COORD = 1 it waits for coordination (R320), unless tag failures put it down. -/
def Dev.portFalls (d : Dev) (p synd : Nat) : Dev :=
  let d := (d.setXl p (if d.coord p && synd != 7 then 4 else 0)).modPort p (fun s =>
    { s with fast := false, rtrn := false, downAt := d.now (netClk (p / 4)), noAuto := decide (synd = 7) })
  if d.xlState p = 4 then d.notice (d.get (pXl p) fXL_PEER_DEV 0) 1 p else d

/-- It leaves UP so, which raises DOWN. -/
def Dev.portDown (d : Dev) (p synd : Nat) : Dev := (d.raise (pXl p) 5 synd).portFalls p synd

/-- Fast retraining (R306): `why` 0 NAK limit, 1 control loss, 2 asked by the peer. -/
def Dev.fastRetrain (d : Dev) (p why : Nat) : Dev :=
  if d.xlState p ≠ 2 then d
  else
    ((d.setXl p 1).modPort p (fun s => { s with fast := true, rtrn := decide (why ≠ 2), lostCtl := 0, nakSame := 0 })).raise
      (pXl p) 4 why

/-- A fence closes a port (R321, Table 16.7): writes that wait to leave are discarded, reads and atomics come back poisoned,
and whatever else waits for the port is dropped. -/
def Dev.fencePort (d : Dev) (p : Nat) : Dev :=
  if d.xlState p = 3 then d
  else
    let mine := d.tags.filterMap (fun e => match e.2 with
      | some t => if t.port = p then some (e.1, t) else none
      | none => none)
    let d := mine.foldl (fun d e =>
      let clear (d : Dev) : Dev := d.setTag (e.1 / 16384) (e.1 % 16384) none
      match d.req e.2.req with
      | none => clear d
      | some r =>
        match r.op with
        | .rd | .atom _ _ _ => e.2.reqs.foldl (fun d rq => d.abandonPeer rq) (clear d)
        | _ => if e.2.sentAt.isSome then d else e.2.reqs.foldl (fun d rq => d.hostFenced rq) (clear d)) d
    let d := (d.sendable p).foldl (fun d e => if e.1 = 0 then d else d.unqueue p e) d
    (d.setXl p 3).modPort p (fun s => { s with txq := [], fast := false, rtrn := false })

/-! ### Retry (R304 to R306) -/

/-- Flits are lost: NAK with the next NAKID, until the replay (R304); eight NAKs in a row at one ACKSEQ retrain the port. -/
def Dev.loseFlits (d : Dev) (p src : Nat) : Dev :=
  let s := d.port p
  let d := d.raise (pXl p) src s.fseqRx
  if s.nak then d
  else
    let same := if s.nakAck = s.fseqRx then s.nakSame + 1 else 1
    let d := d.setPort p { s with nak := true, nakId := (s.nakId + 1) % 16, nakSame := same, nakAck := s.fseqRx }
    if 8 ≤ same then d.fastRetrain p 0 else d

/-- A control slot is lost; after three in a row the port retrains. -/
def Dev.loseControl (d : Dev) (p : Nat) : Dev :=
  let n := (d.port p).lostCtl + 1
  let d := d.modPort p (fun s => { s with lostCtl := n })
  if 3 ≤ n then d.fastRetrain p 1 else d

/-- The tag of an encrypted block fails (R314, R316): the block is lost, and the third failure in a row takes the port DOWN for good
until TRAIN. -/
def Dev.tagFails (d : Dev) (p : Nat) : Dev :=
  if !d.on (pXl p) fXL_CFG_ENC 0 then d
  else
    let n := (d.port p).tagFails + 1
    let d := (d.modPort p (fun s => { s with tagFails := n, unchecked := [] })).loseFlits p 3
    if n < 3 then d else (d.portDown p 7).set (pXl p) fXL_STAT_CAUSE 0 7

def execFecUncorrectable (p : Port) (w : FlitLoss) (s : State) : Out :=
  onDev (fun d =>
    if d.xlState p.val ≠ 2 then d
    else
      match w with
      | .fecCorrected lane => (d.bump (pXl p.val) fXL_FECCE_COUNT 0 1).raise (pXl p.val) 0 lane.val
      | .fec => d.loseFlits p.val 1
      | .crc => d.loseFlits p.val 2
      | .tag => d.tagFails p.val
      | .control => d.loseControl p.val) s

/-- The tag of an encrypted block is checked, and releases its packets if it holds (R314). -/
def execEncryptedBlockCheck (p : Port) (ok : Bool) (s : State) : Out :=
  onDev (fun d =>
    if d.xlState p.val ≠ 2 ∨ d.on (pXl p.val) fXL_CFG_ENC 0 = false then d
    else
      let d := d.modPort p.val (fun s => { s with rxBlock := s.rxBlock + 1 })
      if ok then
        (d.port p.val).unchecked.foldl (fun d e => d.takePkt p.val e.1 e.2)
          (d.modPort p.val (fun s => { s with tagFails := 0, unchecked := [] }))
      else d.tagFails p.val) s

/-- Flits of a retained packet after ACKSEQ. -/
def after (ack first n : Nat) : Nat :=
  let x := (ack + 1 + 65536 - first) % 65536
  if x < 32768 then n - x else n

/-- A link-control flit arrives (R301, R305, R306, R321). -/
def Dev.takeControl (d : Dev) (p : Nat) (f : CtlFlit) : Dev :=
  let ack := f.ackseq.toNat
  let d := d.modPort p (fun s =>
    let cr := (List.range 16).foldl (fun (x : NMap Int × NMap Nat) j =>
      let c := (f.cred.getD j 0).toNat
      let was := NMap.get x.2 j 0
      (NMap.put x.1 j (NMap.get x.1 j 0 + ((c + 256 - was) % 256 : Nat)) 0, NMap.put x.2 j c 0)) (s.credits, s.credSeen)
    let left := s.retry.filter (fun e => after ack e.1 (pkFlits e.2) != 0)
    { s with lostCtl := 0, credits := cr.1, credSeen := cr.2, retry := left, peerFence := f.fence,
             nak := s.nak && !(f.replay && f.nakid.toNat == s.nakId) })
  let s := d.port p
  let d := if f.nak ∧ s.answered ≠ some f.nakid.toNat then
      d.setPort p
        { s with answered := some f.nakid.toNat, replayDue := true, replayFrom := ack,
                 credits := s.retry.foldl (fun m e =>
                   NMap.put m (pkShare e.2) (NMap.get m (pkShare e.2) 0 + (after ack e.1 (pkFlits e.2) : Nat)) 0) s.credits }
    else d
  if f.rtrn then d.fastRetrain p 2 else d

def execLinkControlFlit (p : Port) (f : CtlFlit) (s : State) : Out :=
  onDev (fun d =>
    if d.xlState p.val ≠ 2 then d
    else if !f.checked then d.loseControl p.val
    else d.takeControl p.val f) s

/-- The flits after ACKSEQ are sent again, in order. -/
def Dev.resend (d : Dev) (p ack : Nat) : Dev :=
  (d.port p).retry.foldl (fun d e => d.emitFlits p e.2 (pkFlits e.2 - after ack e.1 (pkFlits e.2))) d

/-- A control slot closes the 20 slots before it, which IDLE flits fill up: encrypted, they leave as one block, whose tag is the
flit's CHECK (R314); in clear the CHECK is a CRC-32. The flits of a packet under way go on in the next slots. -/
def Dev.closeBlock (d : Dev) (p : Nat) (f : CtlFlit) : Dev :=
  let s := d.port p
  let k := min 20 s.carry
  let d := d.setPort p { s with slot := s.slot / 21 * 21 + 21 + k, carry := s.carry - k, plain := s.plain.drop 20,
                                block := s.block + bit01 (d.on (pXl p) fXL_CFG_ENC 0) }
  if d.on (pXl p) fXL_CFG_ENC 0 then
    let nat (l : List Byte) : List Nat := l.map (fun b => b.toNat)
    let text := (s.plain ++ List.replicate 20 idleFlit).take 20
    let x := gcmSeal (natBytes 32 s.keyTx.toNat) (natBytes 4 s.epoch ++ natBytes 8 s.block) (nat (ctlBytes f)) (nat text.flatten)
    (d.send (.block p (x.1.map (BitVec.ofNat 8)))).send (.ctl p f ((x.2.take 12).map (BitVec.ofNat 8)))
  else d.send (.ctl p f (leBytes 4 (crc32 (ctlBytes f)) ++ leBytes 8 0))

/-- The transmitter's control slot (R294, R301, R304, R305): cumulative credits, at most 63 more of each share; ACKSEQ; the NAK
pending, or the answer to the peer's NAK and with it the replay. -/
def execControlSlot (p : Port) (s : State) : Out :=
  onDev (fun d =>
    let st := d.xlState p.val
    let s := d.port p.val
    if st ≠ 2 ∧ st ≠ 3 ∧ ¬(st = 1 ∧ s.rtrn = true) then d
    else
      let sent := (List.range 16).foldl (fun m j =>
        let was := NMap.get m j 0
        NMap.put m j (if st = 3 then was else was + min 63 (NMap.get s.freed j 0 - was)) 0) s.credSent
      let replay := s.replayDue && st == 2
      let f : CtlFlit :=
        { ackseq := BitVec.ofNat 16 s.fseqRx, nak := s.nak && !replay, replay := replay, rtrn := s.rtrn, fence := st == 3,
          nakid := BitVec.ofNat 4 (if replay then s.answered.getD 0 else s.nakId), probe := 0,
          cred := (List.range 16).map (fun j => BitVec.ofNat 8 (NMap.get sent j 0)), checked := true }
      let d := (d.setPort p.val { s with credSent := sent, replayDue := s.replayDue && !replay, rtrn := false }).closeBlock p.val f
      if replay then
        let d := d.bump (pXl p.val) fXL_RETRY_COUNT 0 1
        (d.modPort p.val (fun x =>
          { x with credits := s.retry.foldl (fun m e =>
                     NMap.put m (pkShare e.2) (NMap.get m (pkShare e.2) 0 - after s.replayFrom e.1 (pkFlits e.2)) 0) x.credits })).resend
          p.val s.replayFrom
      else d) s

/-! ### Training (R317, R318, R320; Table 12.7) -/

/-- A write of XL_CMD: bit 0 TRAIN, bit 1 RETRAIN, bit 2 DOWN; more than one, or one the state does not allow, sets ILL. -/
def xlCmd (d : Dev) (p val : Nat) : Dev :=
  let ill := d.set (pXl p) fXL_STAT_ILL 0 1
  let st := d.xlState p
  match val % 8 with
  | 0 => d
  | 1 => if st = 0 ∨ st = 4 then (d.setXl p 1).modPort p (fun s => { s with fast := false, noAuto := false }) else ill
  | 2 => if st = 2 then (d.setXl p 1).modPort p (fun s => { s with fast := true }) else ill
  | 4 =>
    if st = 3 then ill
    else (d.setXl p 0).modPort p (fun s => { s with fast := false, noAuto := true, downAt := d.now (netClk (p / 4)) })
  | _ => ill

def execXlTrain (via : Via) (p : Port) (s : State) : Out :=
  onDev (fun d => d.viaWrite via (pXl p.val) (fun d => xlCmd d p.val 1)) s
def execXlRetrain (via : Via) (p : Port) (s : State) : Out :=
  onDev (fun d => d.viaWrite via (pXl p.val) (fun d => xlCmd d p.val 2)) s
def execXlDown (via : Via) (p : Port) (s : State) : Out :=
  onDev (fun d => d.viaWrite via (pXl p.val) (fun d => xlCmd d p.val 4)) s

/-- Training fails: a failed fast retraining becomes a full one; a failed full one leaves the port DOWN, or with COORD = 1 in
WAITCOORD (R317, R320). -/
def Dev.trainFailed (d : Dev) (p cause : Nat) : Dev :=
  let d := (d.set (pXl p) fXL_STAT_CAUSE 0 cause).raise (pXl p) 6 cause
  if (d.port p).fast then d.modPort p (fun s => { s with fast := false, rtrn := false })
  else
    let d := (d.setXl p (if d.coord p then 4 else 0)).modPort p (fun s => { s with rtrn := false, downAt := d.now (netClk (p / 4)) })
    if d.coord p then d.notice (d.get (pXl p) fXL_PEER_DEV 0) 1 p else d

/-- Shares of this receiver, by share number: XL_VCBUFv holds those of channel v. -/
def Dev.shareSize (d : Dev) (p j : Nat) : Nat :=
  let w := d.word (pXl p) (0x140 + 4 * (j / 2)) 0
  if j % 2 = 0 then w % 65536 else w / 65536

/-- What step 5 finds wrong (Table 12.7): CAUSE 4, 5 or 6. -/
def Dev.step5 (d : Dev) (p : Nat) (i : PeerInfo) : Option Nat :=
  let x := pXl p
  let sum (l : List Nat) : Nat := l.foldl (· + ·) 0
  let mine := (List.range 16).map (d.shareSize p)
  let peer := (List.range 16).map (fun j => (i.shares.getD j 0).toNat)
  if i.dim.val ≠ d.get x fXL_CFG_DIM 0 ∨ i.rail ≠ d.on x fXL_CFG_RAIL 0 ∨ i.coord ≠ d.coord p ∨ i.dir = d.on x fXL_CFG_DIR 0 then some 4
  else if 32768 < sum mine ∨ 32768 < sum peer ∨ (mine ++ peer).any (fun n => decide (n < 9)) = true then some 5
  else if i.enc ≠ d.on x fXL_CFG_ENC 0 then some 6
  else none

/-- Step 6, the peer being of the same generation as at the last UP (R318): credits are the advertised sizes less what the peer
holds and will be sent again, which follows at UP, and a count that differs raises CREDIT. -/
def Dev.auditSame (d : Dev) (p : Nat) (i : PeerInfo) : Dev :=
  let s := d.port p
  let left := s.retry.filter (fun e => after i.fseq.toNat e.1 (pkFlits e.2) != 0)
  let due (j : Nat) : Nat := left.foldl (fun n e => if pkShare e.2 = j then n + after i.fseq.toNat e.1 (pkFlits e.2) else n) 0
  let want (j : Nat) : Int := ((i.shares.getD j 0).toNat : Int) - (i.occupancy.getD j 0).toNat
  let d := (List.range 16).foldl (fun d j =>
    -- a replay that is due has had its flits' credits added back already
    d.raiseIf (decide (NMap.get s.credits j 0 + (if s.replayDue then (0 : Nat) else due j) ≠ want j)) (pXl p) 9 j) d
  d.modPort p (fun s =>
    { s with credits := (List.range 16).foldl (fun m j => NMap.put m j (want j - due j) 0) s.credits, retry := left })

/-- Step 6, the peer having been reset, or never met. -/
def Dev.auditNew (d : Dev) (p : Nat) (i : PeerInfo) : Dev :=
  d.modPort p (fun s =>
    { s with credits := (List.range 16).foldl (fun m j => NMap.put m j ((i.shares.getD j 0).toNat : Int) 0) [], retry := [],
             fseqTx := 0, fseqRx := 0xFFFF, nak := false, nakSame := 0, answered := none, replayDue := false })

/-- Certificates this device sends, and its DEVUID (R438, R440, R455). -/
def Dev.devUid (d : Dev) : Nat := leNat ((List.range 4).flatMap (fun i => leBytes 4 (NMap.get d.boot.idWords (8 + i) (0 : Word)).toNat))

/-- Step 7 (R455): a fresh ephemeral, this end's part of the exchange, and the keys of the two directions. -/
def Dev.linkKeys (d : Dev) (p : Nat) (i : PeerInfo) : Dev :=
  let f := d.free 256
  let d := f.2
  let esk := BitVec.ofNat 256 f.1
  let epk := x25519 esk 9
  let s := d.port p
  let uid := leBytes 16 d.devUid
  let name (t : List Nat) : List Byte := t.map (BitVec.ofNat 8)
  let stmt := name [0x53, 0x4F, 0x52, 0x4F, 0x52, 0x4B, 0x55, 0x2D, 0x53, 0x39, 0x2D, 0x58, 0x4C] ++ uid ++ leBytes 1 p ++
    leBytes 32 epk.toNat
  let d := d.send (.linkKey p (leBytes 4 s.epoch ++ uid ++ leBytes 1 p ++ leBytes 32 epk.toNat ++
    ed25519Sign d.boot.devSeed stmt ++ d.boot.devCert ++ d.boot.caCert))
  let e := (max s.epoch i.epoch.toNat + 1) % 2 ^ 32
  let z := leBytes 32 (x25519 esk i.epk).toNat
  let peer := leBytes 16 i.devuid.toNat
  let key (a b : List Byte) (x y : Nat) : BitVec 256 :=
    BitVec.ofNat 256 (sha512 (name [0x53, 0x4F, 0x52, 0x4F, 0x52, 0x4B, 0x55, 0x2D, 0x53, 0x39, 0x2D, 0x58, 0x4C, 0x4B] ++ z ++
      leBytes 4 e ++ a ++ leBytes 1 x ++ b ++ leBytes 1 y)).toNat
  d.modPort p (fun s => { s with epoch := e, keyed := true, keyTx := key uid peer p i.port.val, keyRx := key peer uid i.port.val p,
                                 peerUid := i.devuid, verified := true })

/-- Training comes to its end with what the peer has sent (steps 5 to 9). `trng`: a randomness test of step 7 that fails, 1
repetition count or 2 adaptive proportion (R452). -/
def execXlTrainComplete (p : Port) (i : PeerInfo) (trng : Fin 3) (s : State) : Out :=
  onDev (fun d =>
    let x := pXl p.val
    if d.xlState p.val ≠ 1 ∨ d.dead x = true then d
    else
      let d := ((d.set x fXL_PEER_VALID 0 1).set x fXL_PEER_PORT 0 i.port.val).set x fXL_PEER_DEV 0 i.dev.toNat
      match d.step5 p.val i with
      | some cause => d.trainFailed p.val cause
      | none =>
        let same := (d.port p.val).peerGen == some i.gen.toNat
        let d := if same then d.auditSame p.val i else d.auditNew p.val i
        let enc := d.on x fXL_CFG_ENC 0
        let d := if enc ∧ trng.val ≠ 0 ∧ d.on .dctl fDCTL_ID_STAT_ENTFAIL 0 = false ∧ d.on .boot fBOOT_STAT_NOID 0 = false then
            (d.set .dctl fDCTL_ID_STAT_ENTFAIL 0 1).raise .dctl 0 trng.val else d
        if enc ∧ (i.chainOk = false ∨ d.on .dctl fDCTL_ID_STAT_ENTFAIL 0 = true ∨ d.on .boot fBOOT_STAT_NOID 0 = true) then d.trainFailed p.val 6
        else
          let d := if enc then d.linkKeys p.val i else d.modPort p.val (fun s => { s with epoch := (s.epoch + 1) % 2 ^ 32 })
          let d := (((d.set x fXL_CHARGE_CHARGE 0 (min ((5 * i.roundTrip + 87) / 88) 0xFFF)).setXl p.val 2).modPort p.val (fun s =>
            { s with peerGen := some i.gen.toNat, slot := 0, carry := 0, plain := [], unchecked := [], block := 0, rxBlock := 0,
                     fast := false, rtrn := false, lostCtl := 0, tagFails := 0, nak := false, answered := none, replayDue := false,
                     peerFence := false, freed := [], credSent := [], credSeen := [], noAuto := false }))
          if same then d.resend p.val i.fseq.toNat else d) s

def execXlTrainFail (p : Port) (cause : Fin 7) (s : State) : Out :=
  onDev (fun d => if d.xlState p.val = 1 then d.trainFailed p.val cause.val else d) s

/-- Every 10 ms (18,000,000 net cycles) a DOWN port with COORD = 0 starts full training by itself (R320). -/
def execXlAutoTrain (p : Port) (s : State) : Out :=
  onDev (fun d =>
    let s := d.port p.val
    if d.xlState p.val ≠ 0 ∨ d.coord p.val = true ∨ s.noAuto = true ∨ d.inReset (pXl p.val) = true ∨
       d.now (netClk (p.val / 4)) < s.downAt + 18000000 then d
    else (d.setXl p.val 1).modPort p.val (fun s => { s with fast := false })) s

end Sys2Proof.Machine
end

