-- ==== Sys2Proof/Machine/Resets.lean ====
section
/-!
DEFINITION. Reset domains (chapter 17): starting a reset, its drain, the reset of its blocks, escalation, and leaving reset; and the
commands of a row's repair.
-/

namespace Sys2Proof.Machine

open Sys2Proof

/-! ### Domains -/

/-- The core whose key is k, for k = coreKey c. -/
def coreOfKey (k : Nat) : CoreId := coreAt (k / 1024) (k % 1024 / 32) (k % 32)

/-- The quadrants a domain holds whole. -/
def Dev.domQuads (d : Dev) : Dom → List Nat
  | .quad q => if d.isSealedOp then d.quadsOf (d.chanOf q.val) else [q.val]
  | .device => [0, 1, 2, 3]
  | _ => []

/-- A partition domain goes by its lowest quadrant (R397). -/
def Dev.normDom (d : Dev) : Dom → Dom
  | .quad q => .quad (quad (d.domQuad q.val))
  | x => x

/-- The next containing domain (R403). -/
def Dev.outerDom (d : Dev) : Dom → Dom
  | .core c => .cluster c.die c.row
  | .cluster x _ => .quad (quad (d.domQuad (x.val / 2)))
  | _ => .device

/-- The management clock a domain's budget runs in. -/
def domClk : Dom → Nat
  | .core c => mgmtClk (c.die.val / 2)
  | .cluster x _ => mgmtClk (x.val / 2)
  | .quad q => mgmtClk q.val
  | .device => ctlClk

/-- The drain budget in management cycles of 1.2 GHz (Table 17.1): 20 µs, 100 µs, 100 ms, 100 ms. -/
def drainBudget : Dom → Nat
  | .core _ => 24000
  | .cluster _ _ => 120000
  | _ => 120000000

/-- The error of the runs a reset ends (Table 17.6). -/
def domCodeErr : Dom → Nat
  | .core _ => 0x80 | .cluster _ _ => 0x81 | .quad _ => 0x82 | .device => 0x83

/-- The runs of the cores of a domain. -/
def Dev.domRuns (d : Dev) (dom : Dom) : List Run :=
  (d.queues.flatMap (fun e => e.2.runs)).filter (fun r => match r.core with
    | some c => d.contains dom (.core c)
    | none => false)

/-! ### What a reset does at its start (steps 1 to 3 of Tables 17.3 and 17.4) -/

/-- Runs bound to the domain's cores and not begun give up their slots; they are bound again later. -/
def Dev.unbindRuns (d : Dev) (dom : Dom) : Dev :=
  let waits (r : Run) : Bool := r.stage == .waiting || r.stage == .ready
  let d := ((d.domRuns dom).filter waits).foldl (fun d r => match r.core with
    | some c => d.abandon c r.slot false
    | none => d) d
  let free (r : Run) : Run := match r.core with
    | some c =>
      if waits r && d.contains dom (.core c) then { r with core := none, slot := 0, stage := .checked, pollOut := false } else r
    | none => r
  { d with queues := NMap.update d.queues Queue.init (fun _ y => { y with runs := y.runs.map free }) }

/-- Begun runs of the domain end with the reset's error. -/
def Dev.endRuns (d : Dev) (dom : Dom) (code : Nat) : Dev :=
  ((d.domRuns dom).filter (fun r => r.stage == .begun)).foldl (fun d r => match r.core with
    | some c => d.endRun c r.slot code 0 0xFFFF false
    | none => d) d

/-- Writes the save area of a queue that is on, as PREEMPT does (Table 17.4 step 3). -/
def Dev.saveQueue (d : Dev) (x q : Nat) : Dev :=
  let b := d.saveArea x q
  d.issueAll ((lineParts (d.qBase x q 0x118) b (b.length + 1)).map (fun e =>
    { Req.blank with cli := .save x q, op := .wr, addr := e.1, mask := e.2.1, data := e.2.2, part := d.qPart x q,
                     quad := x / 2, tc := 0, scope := 3 }))

/-- Every queue of the domain's Imposers that is on: its runs that have not begun are withdrawn and its save area written. -/
def Dev.stopQueues (d : Dev) (qs : List Nat) : Dev :=
  (qs.flatMap (fun q => [2 * q, 2 * q + 1])).foldl (fun d x => (List.range 64).foldl (fun d q =>
    let st := d.qState x q
    if st = 0 then d
    else
      let d := d.withdraw x q
      if st = 4 then d else d.saveQueue x q) d) d

/-- Requests from outside that have not been taken up are absorbed (R401). -/
def Dev.absorbAll (d : Dev) : Dev :=
  ((d.reqs.filter (fun r => !r.issued && d.absorbed r)).map (fun r => r.id)).foldl (fun d id => d.turnAway id 7) d

/-- Positions of a row turn defective (R414, R415, R422). -/
def Dev.addDefects (d : Dev) (x row mask : Nat) : Dev :=
  let m := NMap.get d.boot.defects (rowKey x row) 0 ||| mask
  { d with boot := { d.boot with defects := NMap.put d.boot.defects (rowKey x row) m 0 } }

/-- The word BOOT_FP_ROW of a row (R421, R436). -/
def Dev.fpRow (d : Dev) (x row : Nat) : Nat :=
  NMap.get d.boot.defects (rowKey x row) 0 % 2 ^ 25 + d.nLog x row * 2 ^ 25 + (if d.hasSpare x row then 2 ^ 30 else 0)

/-- The bytes of a digest, byte 0 first. -/
def digestBytes (v : BitVec 512) : List Byte := leBytes 64 v.toNat
def sha (l : List Byte) : List Byte := digestBytes (sha512 l)

/-- Extends a measurement register (R444). -/
def Dev.extendMr (d : Dev) (k : Nat) (e : List Byte) : Dev :=
  let old := NMap.get d.boot.mrs k (0 : BitVec 512)
  { d with boot := { d.boot with mrs := NMap.put d.boot.mrs k (sha512 (digestBytes old ++ e)) 0 } }

/-- MR8 takes the floor plan: the 192 row words, die then row ascending. -/
def Dev.measurePlan (d : Dev) : Dev :=
  d.extendMr 8 (sha ((List.range 192).flatMap (fun i => leBytes 4 (d.fpRow (i / 24) (i % 24)))))

/-- A REPAIR or RETIRE of a row completes (R414, R415): nothing where none is under way. -/
def Dev.repairDone (d : Dev) (x row mask : Nat) : Dev := if mask = 0 then d else (d.addDefects x row mask).measurePlan

/-- Starts a reset of a domain, or merges it into one in progress (R402). The smaller resets it contains are taken over, and a
repair among them is carried out now, its row being in reset. -/
def Dev.startReset (d : Dev) (dom : Dom) (cause : Nat) (esc : Bool) (rpr : Nat) : Dev :=
  let dom := d.normDom dom
  if !d.power.pwrgd || d.domInReset dom || (dom != .device && !d.power.running) then d
  else
    let old := d.rsts.filter (fun r => d.contains dom r.dom)
    let d := old.foldl (fun (d : Dev) (r : Rst) => match r.dom with
      | .cluster x row => d.repairDone x.val row.val r.rpr
      | _ => d) d
    let new : Rst := { dom := dom, phase := 0, cause := cause, esc := esc, forced := false, since := d.now (domClk dom), rpr := rpr }
    let d := { d with rsts := d.rsts.filter (fun r : Rst => !d.contains dom r.dom) ++ [new] }
    match dom with
    | .core _ | .cluster _ _ => (d.unbindRuns dom).endRuns dom (domCodeErr dom)
    | _ =>
      let qs := d.domQuads dom
      let d := ((d.endRuns dom (domCodeErr dom)).stopQueues qs).absorbAll
      -- every quadrant of the channel in reset at once: its peer windows are lost (R494)
      let ch := d.chanOf (qs.headD 0)
      if (d.quadsOf ch).all (fun q => d.domInReset (.quad (quad q))) then
        { d with wtab := NMap.dropIf d.wtab (fun k => d.chanOf (k / 256) == ch || dom == Dom.device) }
      else d

/-! ### The drain (R401, steps 3 and 4) -/

/-- Agents of a set of quadrants. -/
def agentIn (qs : List Nat) (a : Nat) : Bool := if a < 8 then qs.contains (a / 2) else if a < 12 then qs.contains (a - 8) else false

/-- The agent a message is from or to. -/
def msgAgent : WMsg → Nat
  | .snpShr a _ _ | .snpOwn a _ _ _ | .snpInv a _ | .snpCur a _ _ => a
  | .answer a _ _ _ _ _ _ | .reply _ a _ _ _ _ | .ack a _ => a
  | .request r => r.agent

/-- Nothing moves between the quadrants' agents and homes. -/
def Dev.cohIdle (d : Dev) (qs : List Nat) : Bool :=
  let inside (l : Nat) : Bool := isStackLine l && qs.contains (lineQuad l)
  !d.txns.any (fun e => inside e.1) && !d.homeq.any (fun r => inside r.line || agentIn qs r.agent) &&
  !d.wire.any (fun m => inside (msgLine m) || agentIn qs (msgAgent m)) &&
  !d.mshr.any (fun e => e.2.isSome && agentIn qs (keyAgent e.1)) && !d.redq.any (fun e => qs.contains (e.1 / 16))

/-- The drain of a domain has finished: its begun runs have their journal entries, and every write it issued is carried on. Of a
core's writes the Galley has to have accepted each; of a partition's each is performed. -/
def Dev.drained (d : Dev) (dom : Dom) : Bool :=
  !(d.domRuns dom).any (fun r => r.stage == .begun || r.stage == .ended) &&
  (match dom with
   | .core _ | .cluster _ _ =>
     !d.reqs.any (fun r => match r.cli with
       | .delivery c _ _ _ => d.contains dom (.core c)
       | .inkSt c _ _ _ => d.contains dom (.core c)
       | .journal x _ _ => !(r.accepted || r.issued) && d.contains (.cluster (die x) 0) (match dom with
           | .core c => .cluster c.die 0 | .cluster y _ => .cluster y 0 | _ => .device)
       | _ => false)
   | _ =>
     let qs := d.domQuads dom
     !d.reqs.any (fun r => r.isWrite && qs.contains r.quad &&
       (match r.cli with | .dma _ _ => false | _ => true) &&
       (match r.tgt with | .stack _ _ => true | .host _ => true | _ => false)) && d.cohIdle qs)

/-! ### Resetting the blocks -/

/-- A word after a reset: its reset value, but for the RWL fields that a seal keeps (R43). -/
def resetWord (sealed_ : Bool) (p : Page) (off i w : Nat) : Nat :=
  let k := pageKind p
  if sealed_ then
    (fieldsAt k off).foldl (fun a f => if f.acc = .rwl then setBits a f.hi f.lo (bitsOf w f.hi f.lo) else a) (wordReset k off i)
  else wordReset k off i

/-- Registers that no reset but power-up changes, and those a partition reset leaves (R398): QCTL_RSTINFO, ERRC_EPIN,
BOOT_BIST_FAIL (R420), and in a channel's HST page the shadow-journal, attestation and key registers. -/
def survives (device : Bool) (p : Page) (off : Nat) : Bool :=
  match p with
  | .qctl _ => off == 0x3C0
  | .errcDev => off == 0x180
  | .boot => off == 0x130
  | .hstCh _ => !device && ((decide (0x160 ≤ off) && decide (off ≤ 0x170)) || (decide (0x180 ≤ off) && decide (off ≤ 0x1A8)))
  | _ => false

/-- The registers of the pages a test holds of take their values after reset, and the halves of pairs kept aside there are gone. -/
def Dev.erasePages (d : Dev) (device : Bool) (mine : Page → Bool) : Dev :=
  let kept := d.isSealed && !device
  let gone (k : Nat) : Bool := match pageOfNo (k / 16384 / 1024) with
    | some p => mine p && !survives device p (4 * (k / 16384 % 1024))
    | none => false
  let d := { d with rdShadow := NMap.dropIf d.rdShadow gone, wrShadow := NMap.dropIf d.wrShadow gone }
  d.regs.foldl (fun (d : Dev) e =>
    match pageOfNo (e.1 / 16384 / 1024) with
    | none => d
    | some p =>
      let off := 4 * (e.1 / 16384 % 1024)
      if mine p && !survives device p off then
        d.setWord p off (e.1 % 16384) (resetWord kept p off (e.1 % 16384) e.2.toNat)
      else d) d

/-- The requests and the state of the cores of a domain are gone. -/
def Dev.clearCores (d : Dev) (dom : Dom) : Dev :=
  let hit (c : CoreId) : Bool := d.contains dom (.core c)
  let stays (r : Req) : Bool := match r.cli with
    | .feeder c _ _ _ | .prefetch c _ _ | .delivery c _ _ _ | .inkLd c _ _ _ | .inkSt c _ _ _ | .atom c _ _ _ | .poll c _ | .header c _
    | .ifetch c _ => !hit c
    | _ => true
  { d with cores := NMap.dropIf d.cores (fun k => hit (coreOfKey k)), reqs := d.reqs.filter stays }

/-- A line leaves an agent of a domain for its home elsewhere: dirty data goes there, and the home is told (Table 17.4 step 4). -/
def Dev.evictHome (d : Dev) (k : Nat) (c : CLine) : Dev :=
  let a := keyAgent k
  let l := keyLine k
  let d := { d with lines := NMap.put d.lines k none none }
  let m : HomeMsg := { agent := finM 13 (by decide) a, line := BitVec.ofNat 41 l, part := finM 64 (by decide) c.part, req := 0,
                       full := true, data := c.data, psn := c.psn }
  let isAck (w : WMsg) : Bool := match w with | .ack t n => t == a && n == l | _ => false
  let take (kind : HKind) : Dev :=
    let e := d.homeEvict kind m
    { e with wire := dropFirst isAck e.wire }
  if c.peer then d
  else match c.st with
    | .m | .o => take .wb
    | .e => take .eve
    | _ => d

/-- The lines of the quadrants' agents that are homed elsewhere go home; every line homed inside is recalled, and what is newer than
the stack goes to the stack, the writes its controllers hold first. -/
def Dev.flushQuads (d : Dev) (qs : List Nat) : Dev :=
  let inside (l : Nat) : Bool := isStackLine l && qs.contains (lineQuad l)
  let d := (d.mcs.filter (fun e => qs.contains (e.1 / 40))).foldl (fun d e =>
    (e.2.writes ++ e.2.waitW).foldl (fun d w => d.storeUnder w.line w.tag w.data w.psn) d) d
  let d := (d.lines.filter (fun e => agentIn qs (keyAgent e.1) && !inside (keyLine e.1))).foldl (fun d e => match e.2 with
    | some c => d.evictHome e.1 c
    | none => d) d
  let ls := ((d.lines.filter (fun e => inside (keyLine e.1) &&
    (match e.2 with | some c => c.dirty || c.st == .m || c.st == .o | none => false))).map (fun e => keyLine e.1)).eraseDups
  let d := ls.foldl (fun d l => d.storeLine l (d.currentData l).1 (d.currentData l).2) d
  let gone (l : Nat) : Bool := inside l
  { d with lines := NMap.dropIf d.lines (fun k => gone (keyLine k) || agentIn qs (keyAgent k)),
           dir := NMap.dropIf d.dir gone, txns := NMap.dropIf d.txns gone,
           homeq := d.homeq.filter (fun r => !gone r.line && !agentIn qs r.agent),
           wire := d.wire.filter (fun m => !gone (msgLine m) && !agentIn qs (msgAgent m)),
           mshr := NMap.dropIf d.mshr (fun k => gone (keyLine k) || agentIn qs (keyAgent k)) }

/-- The far end of a bridge to a domain in reset reads DOWN and raises nothing (R16). -/
def Dev.bridgesDown (d : Dev) (qs : List Nat) : Dev :=
  qs.foldl (fun d q => (List.range 4).foldl (fun d n => if n = q then d else d.set (pBrg n q) fBRG_STAT_STATE 0 0) d) d

/-- A collector's page is reset: an open episode closes, and the history stays (R388). -/
def Dev.closeColl (d : Dev) (k : Nat) : Dev :=
  let c := d.coll k
  let h := NMap.get c.hist c.ent Hist.init
  d.setColl k { c with isOpen := false, drst := 0, brst := [],
                       hist := if c.isOpen then NMap.put c.hist c.ent { h with opened := false } Hist.init else c.hist }

/-- Stacks retrain and ports train, or wait for coordination (Table 17.4 step 8). -/
def Dev.retrainAll (d : Dev) (qs : List Nat) : Dev :=
  qs.foldl (fun d q =>
    let d := (List.range 5).foldl (fun d n => d.set (pStk (5 * q + n)) fSTK_STAT_STATE 0 3) d
    (List.range 4).foldl (fun d n => d.setXl (4 * q + n) (if d.coord (4 * q + n) then 4 else 1)) d) d

/-- Steps 4 to 6 of Table 17.4 for a set of quadrants: their blocks are reset. `pages` are their pages. -/
def Dev.clearQuads (d : Dev) (qs : List Nat) (device : Bool) : Dev :=
  let d := d.flushQuads qs
  let sealedCh : Option Nat := if d.isSealedOp && !device then some (d.chanOf (qs.headD 0)) else none
  let mine (p : Page) : Bool := match p with
    | .hstCh c | .dmaCh c => sealedCh == some c.val
    | _ => match pageQuad p with
      | some q => qs.contains q
      | none => false
  let qOf (k n : Nat) : Bool := qs.contains (k / n)
  let d := d.erasePages device mine
  let busy (k : Nat) : Bool :=
    if k < 100 then qs.contains k else if k < 200 then qs.contains (k - 100) else if k < 300 then qs.contains (k - 200)
    else qs.contains ((k - 300) / 2)
  let stays (r : Req) : Bool := match r.cli with
    | .dma c _ => !(sealedCh == some c)
    | .mailbox _ _ | .chunk _ | .ctl => true
    | .shadow c => !(qs.contains ((d.quadsOf c).headD 0))
    | .peerIn p _ _ _ _ => !qOf p 4
    | _ => !qs.contains r.quad
  let d : Dev :=
    { d with cores := NMap.dropIf d.cores (fun k => qOf k 2048), queues := NMap.dropIf d.queues (fun k => qOf k 128),
             onset := NMap.dropIf d.onset (fun k => qOf k 2), arr := NMap.dropIf d.arr (fun k => qOf k 4096),
             grps := NMap.dropIf d.grps (fun k => qOf k 4096), srKey := NMap.dropIf d.srKey (fun k => qOf k 1024),
             rbWait := d.rbWait.filter (fun k => !qOf k 2), mcs := NMap.dropIf d.mcs (fun k => qOf k 40),
             stks := NMap.dropIf d.stks (fun k => qOf k 5), traffic := NMap.dropIf d.traffic (fun k => qs.contains k),
             ports := NMap.dropIf d.ports (fun k => qOf k 4), tags := NMap.dropIf d.tags (fun k => qOf k 16384),
             tagNext := NMap.dropIf d.tagNext (fun k => qs.contains k), rail := NMap.dropIf d.rail (fun k => qs.contains k),
             halves := d.halves.filter (fun e => !qOf e.1 4), redq := d.redq.filter (fun e => !qOf e.1 16),
             redMc := d.redMc.filter (fun e => !qOf e.1 16), hmapBusy := NMap.dropIf d.hmapBusy busy,
             reqs := d.reqs.filter stays }.settleRefused
  let d := (d.bridgesDown qs)
  let d := qs.foldl (fun d q => d.closeColl q) d
  match sealedCh with
  | some c =>
    let d := d.set (.errcCh (chan c)) fERRC_FENCE_FENCED 0 0
    let h := { d.host with dma := NMap.dropIf d.host.dma (fun k => k / 32 == c) }
    { d with quiesces := d.quiesces.filter (fun x => x.chan != c), host := h }
  | none => d

/-- Every block of the device is reset but for what R398 and R434 keep; Pyruno runs INIT again, which WARM records. -/
def Dev.clearDevice (d : Dev) : Dev :=
  let d := d.clearQuads [0, 1, 2, 3] true
  let d := (d.erasePages true (fun _ => true)).set .boot fBOOT_STAT_WARM 0 1
  let d := (List.range 9).foldl (fun d k => d.closeColl k) d
  let t := d.trust
  let trust : Trust := { Trust.init with keys := t.keys, loaded := t.loaded, attCount := t.attCount, lastArr := t.lastArr }
  { Dev.reset with
      regs := d.regs, mem := d.mem, poisoned := d.poisoned, lineKey := d.lineKey, useCtr := d.useCtr, nextReq := d.nextReq,
      evq := d.evq, colls := d.colls, rsts := d.rsts, gens := d.gens, clk := d.clk, out := d.out, freeCtr := d.freeCtr,
      boot := { Boot.init with defects := d.boot.defects, committed := d.boot.committed },
      trust := trust,
      power := { d.power with running := false, learned := [] }, host := { HostPort.init with perst := d.host.perst } }

/-- The end of a drain finds miss-handling entries or Stone granules out of balance (R289): more in use than a slice or a core has, or
a granule in use twice. The instance is the C-die's, or the slice's. -/
def Dev.drainLedger (d : Dev) (dom : Dom) : Dev :=
  let qs := d.domQuads dom
  let d := (qs.flatMap (fun q => (List.range 16).map (fun s => (q, s)))).foldl (fun d e =>
    d.raiseIf (decide (256 < d.missUsed e.1 e.2)) (pQctl e.1) 9 (1 + 256 * e.2)) d
  (d.cores.filter (fun e => d.contains dom (.core (coreOfKey e.1)))).foldl (fun d e =>
    let c := coreOfKey e.1
    let g := d.usedGrans c
    d.raiseIf (decide (g.eraseDups.length ≠ g.length) || g.any (fun x => decide (256 ≤ x))) (pQctl (c.die.val / 2)) 9
      (4 + 256 * c.die.val)) d

/-- The blocks of a drained domain are reset. -/
def Dev.clearDom (d : Dev) (r : Rst) : Dev :=
  let d := match r.dom with
    | .core c => (d.clearCores r.dom).erasePages false (fun p => decide (p = Page.core c))
    | .cluster x row =>
      let d := (d.clearCores r.dom).erasePages false (fun p => match p with
        | .core c => c.die == x && c.row == row
        | _ => false)
      d.repairDone x.val row.val r.rpr
    | .quad _ => (d.clearQuads (d.domQuads r.dom) false).retrainAll (d.domQuads r.dom)
    | .device => d.clearDevice
  { d with rsts := d.rsts.map (fun x : Rst => if x.dom = r.dom then { x with phase := 1, forced := r.forced } else x) }

def Dev.rstOf (d : Dev) (dom : Dom) : Option Rst := d.rsts.find? (fun r => decide (r.dom = d.normDom dom))

/-- The runs of a domain let go of every Delivery that still issues. -/
def Dev.cutDeliveries (d : Dev) (dom : Dom) : Dev :=
  (d.domRuns dom).foldl (fun d y => match y.core with
    | some c => d.abandon c y.slot false
    | none => d) d

/-- In a partition or device drain a Delivery command has 8 µs, 9,600 management cycles, to finish issuing (Table 17.2). -/
def Dev.dlvLate (d : Dev) (r : Rst) : Bool :=
  match r.dom with
  | .core _ | .cluster _ _ => false
  | _ => decide (r.since + 9600 ≤ d.now (domClk r.dom))

def execResetDrainDone (dom : Dom) (s : State) : Out :=
  onDev (fun d =>
    match d.rstOf dom with
    | some r =>
      if r.phase ≠ 0 then d
      else
        let d := d.when (d.dlvLate r) (fun d => d.cutDeliveries r.dom)
        if d.drained r.dom then (d.drainLedger r.dom).clearDom r else d
    | none => d) s

/-- A drain budget expires (R403): the reset widens to the next domain, Deliveries that still issue are abandoned; a device drain is
forced. -/
def execDrainEscalate (dom : Dom) (s : State) : Out :=
  onDev (fun d =>
    match d.rstOf dom with
    | none => d
    | some r =>
      if r.phase ≠ 0 ∨ d.now (domClk r.dom) < r.since + drainBudget r.dom then d
      else
        let d := d.cutDeliveries r.dom
        match r.dom with
        | .device => d.clearDom { r with forced := true }
        | x => d.startReset (d.outerDom x) 4 true 0) s

/-! ### Leaving reset (steps 7 to 9) -/

/-- Slots of a core for the queues that are on and whose target set holds it, in ascending order. -/
def Dev.rebindCore (d : Dev) (c : CoreId) : Dev :=
  let x := c.die.val
  (List.range 64).foldl (fun d q =>
    if d.qState x q ≠ 0 ∧ (d.targetCores x q).contains c ∧ (d.slotOf c q).isNone then
      match (d.core c).freeSlot with
      | some sl => d.modCore c (fun k => k.setBind sl (some ⟨q, d.qTag x q, d.qPrio x q, [0, 0, 0, 0], 0⟩))
      | none => d
    else d) d

/-- QCTL_RSTINFO of a quadrant after a partition or device reset. -/
def Dev.rstInfo (d : Dev) (q : Nat) (r : Rst) : Dev :=
  let p := pQctl q
  let d := d.wrapAdd p fQCTL_RSTINFO_COUNT 0 1
  let d := (d.set p fQCTL_RSTINFO_DOM 0 (match r.dom with | .device => 3 | _ => 2)).set p fQCTL_RSTINFO_CAUSE 0 r.cause
  (d.set p fQCTL_RSTINFO_ESC 0 (if r.esc then 1 else 0)).set p fQCTL_RSTINFO_FORCED 0 (if r.forced then 1 else 0)

/-- A quadrant that leaves reset copies its channel's peer windows from one that was not in reset (R494). -/
def Dev.reloadWtab (d : Dev) (q : Nat) : Dev :=
  match (d.quadsOf (d.chanOf q)).find? (fun y => y != q && !d.domInReset (.quad (quad y))) with
  | none => d
  | some y =>
    let rest := NMap.dropIf d.wtab (fun k => k / 256 == q)
    let t := (d.wtab.filter (fun e => e.1 / 256 == y)).foldl (fun m e => NMap.put m (q * 256 + e.1 % 256) e.2 Window.init) rest
    { d with wtab := t }

/-- Trips in force are kept as one number each: dies by Table 2.8, stacks from 32, PLLs without lock from 128 (R473, R475). -/
def tripStack (t : Nat) : Nat := 32 + t
def tripPll (k : Nat) : Nat := 128 + k

/-- The domain of a die (Table 2.8). -/
def dieDom (x : Nat) : Dom := if x < 8 then .quad (quad (x / 2)) else if x < 12 then .quad (quad (x - 8)) else .device

/-- The domain a trip holds in reset. -/
def tripDom (x : Nat) : Dom :=
  if x < 32 then dieDom x
  else if x < 128 then .quad (quad ((x - 32) / 5))
  else if x < 136 then .quad (quad ((x - 128) / 2))
  else if x < 148 then .quad (quad ((x - 136) % 4))
  else .device

/-- The smallest domain of the block that issued a request. -/
def Dev.cliDom (d : Dev) (r : Req) : Dom :=
  match r.cli with
  | .feeder c _ _ _ | .prefetch c _ _ | .delivery c _ _ _ | .inkLd c _ _ _ | .inkSt c _ _ _ | .atom c _ _ _ | .poll c _ | .header c _
  | .ifetch c _ => .core c
  | .dma ch _ => d.pageDom (pDma ch)
  | .shadow ch => d.pageDom (pHst ch)
  | .mailbox _ _ | .chunk _ | .ctl => .device
  | _ => .quad (quad r.quad)

/-- The counts of GEN that a domain's leaving adds 1 to: a partition domain's in each of its quadrants, and in sealed operation in
its channel's HST and DMA pages (R397, R400). -/
def Dev.genKeys (d : Dev) : Dom → List Nat
  | .quad q => (d.domQuads (.quad q)).map (fun k => 1 + k) ++ (if d.isSealedOp then [chanGenKey (d.chanOf q.val)] else [])
  | x => [domKey x]

def Dev.gensAfter (d : Dev) (x : Dom) : NMap Nat :=
  (d.genKeys x).foldl (fun m k => NMap.put m k ((NMap.get m k 0 + 1) % 256) 0) d.gens

/-- A domain may leave reset: nothing holds it (R473, R475), its stacks and ports have finished training (step 8), and no request
tagged with the generation to come is outstanding (R400). -/
def Dev.mayLeave (d : Dev) (r : Rst) : Bool :=
  let qs := d.domQuads r.dom
  r.phase == 1 && !d.power.tripped.any (fun x => d.contains r.dom (tripDom x)) &&
  (match r.dom with
   | .quad _ =>
     !qs.any (fun q => (List.range 5).any (fun n => d.stkWaits (5 * q + n)) || (List.range 4).any (fun n => d.xlState (4 * q + n) == 1)) &&
     true
   | _ => true) &&
  !d.reqs.any (fun x => d.contains r.dom (d.cliDom x) && x.gen == (d.cliGen x.quad x.cli + 1) % 256)

def execDomainLeaveReset (dom : Dom) (s : State) : Out :=
  onDev (fun d =>
    match d.rstOf dom with
    | none => d
    | some r =>
      if !d.mayLeave r then d
      else
        let d := { d with rsts := d.rsts.filter (fun x => !decide (x.dom = r.dom)), gens := d.gensAfter r.dom }
        match r.dom with
        | .core c => d.rebindCore c
        | .cluster x row => (List.range 25).foldl (fun d col => d.rebindCore ⟨x, row, finM 25 (by decide) col⟩) d
        | .quad _ =>
          let qs := d.domQuads r.dom
          qs.foldl (fun d q => d.rstInfo q r) (if d.isSealedOp then d else qs.foldl (fun d q => d.reloadWtab q) d)
        | .device => [0, 1, 2, 3].foldl (fun d q => d.rstInfo q r) d) s

/-! ### Starting resets -/

def execCoreReset (c : CoreId) (s : State) : Out := onDev (fun d => d.startReset (.core c) 1 false 0) s

/-- Software writes IMP_CRST: ROW if it names a row, and with GO the reset of that row; while another row's reset is in progress GO
is discarded. -/
def crstWrite (d : Dev) (x val : Nat) : Dev :=
  let p := pImp x
  let row := bitsOf val 28 24
  let d := if row < 24 then d.set p fIMP_CRST_ROW 0 row else d
  let row := d.get p fIMP_CRST_ROW 0
  let dom : Dom := .cluster (die x) (finM 24 (by decide) row)
  let other := d.rsts.any (fun r => match r.dom with
    | .cluster y t => y.val == x && t.val != row
    | _ => false)
  if val.testBit 0 ∧ other = false then d.startReset dom 1 false 0 else d

def execClusterReset (via : Via) (x : Die) (r : Fin 24) (s : State) : Out :=
  onDev (fun d => d.viaWrite via (pImp x.val) (fun d => crstWrite d x.val (r.val * 2 ^ 24 + 1))) s

/-- No reset has cause 0, which stands for power-up. -/
def execPartitionReset (q : Quad) (cause : Fin 7) (s : State) : Out :=
  onDev (fun d => if cause.val = 0 then d else d.startReset (.quad q) cause.val false 0) s
def execDeviceReset (cause : Fin 7) (s : State) : Out :=
  onDev (fun d => if cause.val = 0 then d else d.startReset .device cause.val false 0) s

/-- A quadrant's or the device's controller has not restarted its watchdog for 2^24 management cycles (R407). -/
def execControllerWatchdogExpire (q : Option Quad) (s : State) : Out :=
  onDev (fun d =>
    if !d.power.running then d
    else match q with
      | some q => d.startReset (.quad q) 5 false 0
      | none => d.startReset .device 5 false 0) s

/-- A write of BLK_CTL.BRST starts a reset of the page's smallest domain; it is accepted in reset too, where it is merged (R42,
R402). -/
def brst (d : Dev) (p : Page) : Dev := d.startReset (d.pageDom p) 1 false 0

/-- A write of BLK_CTL reaches a page: it does so in reset too (R42). -/
def Dev.ctlWritable (d : Dev) (via : Via) (p : Page) : Bool :=
  d.arrives via && d.reaches via p && !d.tdiError via && !d.deadPage p

def execBlkCtlBrst (via : Via) (p : Page) (s : State) : Out :=
  onDev (fun d => if d.ctlWritable via p then brst d p else d) s

/-! ### Spares (R414, R415) -/

/-- The queues of an Imposer whose target set holds a core of a row. -/
def Dev.rowQueues (d : Dev) (x row : Nat) : List Nat :=
  (List.range 64).filter (fun q => d.qState x q != 0 && (d.targetCores x q).any (fun c => c.row.val == row))

/-- A write of IMP_RPR. The failed position turns defective while its row is in reset; the numbering of R421 then moves every
logical column to its right, onto the spare if there is one. -/
def rprWrite (d : Dev) (x val : Nat) : Dev :=
  let p := pImp x
  let d := (d.set p fIMP_RPR_ROW 0 (bitsOf val 28 24)).set p fIMP_RPR_PCOL 0 (bitsOf val 20 16)
  let ill := d.set p fIMP_RPR_ILL 0 1
  let row := bitsOf val 28 24
  let col := bitsOf val 20 16
  let repair := val.testBit 0
  let retire := val.testBit 1
  if !repair && !retire then d
  else if repair && retire || decide (24 ≤ row ∨ 25 ≤ col) || (d.logCol x row col).isNone then ill
  else if d.rsts.any (fun r => r.rpr != 0 && (match r.dom with | .cluster y _ => y.val == x | _ => false)) then ill
  else
    let qs := d.rowQueues x row
    let ok := if repair then d.hasSpare x row && qs.all (fun q => d.qState x q == 3 && d.qBegun x q == 0)
      else !d.hasSpare x row && qs.isEmpty
    let dom : Dom := .cluster (die x) (finM 24 (by decide) row)
    if !ok then ill
    else match d.rstOf dom with
      | some r =>
        if r.phase = 0 then { d with rsts := d.rsts.map (fun r => if r.dom = dom then { r with rpr := 2 ^ col } else r) }
        else d.repairDone x row (2 ^ col)
      | none => d.startReset dom 1 false (2 ^ col)

def execRepair (via : Via) (x : Die) (r : Fin 24) (col : Fin 25) (s : State) : Out :=
  onDev (fun d => d.viaWrite via (pImp x.val) (fun d => rprWrite d x.val (r.val * 2 ^ 24 + col.val * 2 ^ 16 + 1))) s
def execRetire (via : Via) (x : Die) (r : Fin 24) (col : Fin 25) (s : State) : Out :=
  onDev (fun d => d.viaWrite via (pImp x.val) (fun d => rprWrite d x.val (r.val * 2 ^ 24 + col.val * 2 ^ 16 + 2))) s

end Sys2Proof.Machine
end

