-- ==== Sys2Proof/Machine/Channels.lean ====
section
/-!
DEFINITION. Arrangement, tenant mode, counter blocks, quiescing and function-level resets (chapter 15).
-/

namespace Sys2Proof.Machine

open Sys2Proof

/-! ### Arrangement (R356) -/

/-- BLK_STAT.READY of a page. -/
def Dev.ready (d : Dev) (p : Page) : Bool := !d.inReset p

/-- A write of DCTL_ARRANGE: refused while any quadrant is out of reset, and with ARR = 3. -/
def arrangeWrite (d : Dev) (val : Nat) : Dev :=
  let p : Page := .dctl
  let d := d.swField p fDCTL_ARRANGE_ILL 0 val
  if d.power.running || (List.range 4).any (fun q => d.ready (pQctl q)) || bitsOf val 9 8 == 3 then d.set p fDCTL_ARRANGE_ILL 0 1
  else
    let d1 := (d.swField p fDCTL_ARRANGE_ARR 0 val).swField p fDCTL_ARRANGE_TMODE 0 val
    -- the cap controller's learned tables restart empty (R464)
    if d1.arr? = d.arr? then d1 else { d1 with power := { d1.power with learned := [] } }

def execDctlArrangeWrite (via : Via) (val : Word) (s : State) : Out :=
  onDev (fun d => d.viaWrite via .dctl (fun d => arrangeWrite d val.toNat)) s

/-! ### Counter blocks (R360, R357) -/

/-- Group entry k is cleared as QCTL_GRP_CMD.CLEAR does. -/
def Dev.clearGroup (d : Dev) (k : Nat) : Dev :=
  let e := d.grp k
  let d := d.setGrp k { e with tally := 0, held := none }
  match e.held with
  | some (r, _) => d.answerColo r 6
  | none => d

/-- A write of QCTL_CTRMAP: a change of a block's partition zeroes its counters and clears its groups. -/
def ctrmapWrite (d : Dev) (q val : Nat) : Dev :=
  let p := pQctl q
  let b := d.get p fQCTL_CTRMAP_IDX_BLK 0
  let d := d.swField p fQCTL_CTRMAP_ILL b val
  let part := bitsOf val 5 0
  if d.nPart ≤ part then d.set p fQCTL_CTRMAP_ILL b 1
  else if d.get p fQCTL_CTRMAP_PART b = part then d
  else
    let d := d.set p fQCTL_CTRMAP_PART b part
    let lo := arrKey q (64 * b)
    let d := { d with arr := NMap.dropIf d.arr (fun k => decide (lo ≤ k ∧ k < lo + 64)) }
    (List.range 64).foldl (fun d i => d.clearGroup (lo + i)) d

def execCtrmapWrite (via : Via) (q : Quad) (val : Word) (s : State) : Out :=
  onDev (fun d => d.viaWrite via (pQctl q.val) (fun d => ctrmapWrite d q.val val.toNat)) s

/-! ### Quiescing (R366 to R368) -/

/-- The queues of a partition that are on: Imposer and queue. -/
def Dev.partQueues (d : Dev) (ch part : Nat) : List (Nat × Nat) :=
  ((d.quadsOf ch).flatMap (fun q => [2 * q, 2 * q + 1])).flatMap (fun x =>
    ((List.range 64).filter (fun q => d.qState x q != 0 && d.qPart x q == part)).map (fun q => (x, q)))

/-- Outstanding tag-table entries of a partition across its channel, and its host-window non-posted requests (OUTX, OUTH). -/
def Dev.outX (d : Dev) (ch part : Nat) : Nat :=
  (d.tags.filter (fun e => match e.2 with
    | some t => !t.abandoned && d.chanOf (e.1 / 16384) == ch && (match d.req t.req with
        | some r => r.part == part && (match r.cli with | .mailbox _ _ | .chunk _ => false | _ => true)
        | none => false)
    | none => false)).length
def Dev.outH (d : Dev) (ch part : Nat) : Nat :=
  (d.reqs.filter (fun r => !r.ready && r.part == part && d.chanOf r.quad == ch &&
    (match r.tgt, r.op with
     | .host _, .rd => r.issued
     | .host _, .atom _ _ _ => r.issued
     | _, _ => false))).length

/-- HST_PQSTAT.STATE of a partition: 0 RUN, 1 QUIESCING, 2 QUIESCED. -/
def Dev.pqState (d : Dev) (ch part : Nat) : Nat :=
  if !d.quiesced ch part then 0
  else if (d.partQueues ch part).all (fun e => d.qState e.1 e.2 == 3) &&
      (List.range d.nEngine).all (fun e => d.engSt ch e != 1 || d.engPart ch e != part) && d.outX ch part == 0 &&
      d.outH ch part == 0 then 2
  else 1

/-- Quiesces a partition. -/
def Dev.quiescePart (d : Dev) (ch part : Nat) (urgent infence : Bool) (flr : Option Nat) : Dev :=
  let new : Quiesce := ⟨ch, part, urgent, infence, flr⟩
  let d := { d with quiesces := d.quiesces.filter (fun x : Quiesce => !(x.chan == ch && x.part == part)) ++ [new] }
  let d := (d.partQueues ch part).foldl (fun d e =>
    let st := d.qState e.1 e.2
    if st = 1 ∨ (st = 2 ∧ urgent = true) then d.holdQueue e.1 e.2 urgent else d) d
  if urgent then d.haltAll ch 6 (fun d e => d.engPart ch e == part)
  else d.forEngines (fun d e => d.engPart ch e == part) (fun d e => d.restEngine ch e)

/-- A write of HST_PQCMD: 11 RESUME, 10 INFENCE, 9 URGENT, 8 QUIESCE, 5:0 PART. -/
def pqCmd (d : Dev) (ch val : Nat) : Dev :=
  let p := pHst ch
  let part := bitsOf val 5 0
  if d.nPart ≤ part then d.set p fHST_PQSTAT_ILL (d.get p fHST_PQCMD_PART 0) 1
  else
    let d := d.set p fHST_PQCMD_PART 0 part
    let ill := d.set p fHST_PQSTAT_ILL part 1
    match val.testBit 8, val.testBit 11 with
    | true, true => ill
    | true, false => if d.quiesced ch part then ill else d.quiescePart ch part (val.testBit 9) (val.testBit 10) none
    | false, true => { d with quiesces := d.quiesces.filter (fun x => !(x.chan == ch && x.part == part)) }
    | _, _ => d

def pqCmdVia (via : Via) (c : Chan) (val : Nat) (s : State) : Out :=
  onDev (fun d => d.viaWrite via (pHst c.val) (fun d => pqCmd d c.val val)) s

def execQuiesce (via : Via) (c : Chan) (p : Fin 64) (s : State) : Out := pqCmdVia via c (p.val + 0x100) s
def execQuiesceUrgent (via : Via) (c : Chan) (p : Fin 64) (s : State) : Out := pqCmdVia via c (p.val + 0x300) s
def execQuiesceInfence (via : Via) (c : Chan) (p : Fin 64) (urgent : Bool) (s : State) : Out :=
  pqCmdVia via c (p.val + 0x500 + (if urgent then 0x200 else 0)) s
def execPqResume (via : Via) (c : Chan) (p : Fin 64) (s : State) : Out := pqCmdVia via c (p.val + 0x800) s

/-! ### BLK_CTL.QREQ (R369) -/

/-- A write of BLK_CTL.QREQ (Table 15.4). -/
def blkQreq (d : Dev) (p : Page) (on : Bool) : Dev :=
  let d := d.set p fBLK_CTL_QREQ 0 (if on then 1 else 0)
  match p with
  | .imp x =>
    if on then (List.range 64).foldl (fun d q =>
        let st := d.qState x.val q
        if st = 1 ∨ st = 2 then d.holdQueue x.val q true else d) d
    else d
  | .dmaCh c => if on then d.haltAll c.val 6 (fun _ _ => true) else d
  | .hstCh c => if on then d else d.releaseHost c.val
  | _ => d

def execBlkCtlQreq (via : Via) (p : Page) (on : Bool) (s : State) : Out :=
  onDev (fun d => if d.ctlWritable via p then blkQreq d p on else d) s

/-- BLK_STAT.QDONE. -/
def Dev.qdone (d : Dev) (p : Page) : Bool :=
  d.on p fBLK_CTL_QREQ 0 &&
  (match p with
   | .imp x => (List.range 64).all (fun q => d.qState x.val q == 0 || d.qState x.val q == 3)
   | .dmaCh c => (List.range d.nEngine).all (fun e => d.engSt c.val e != 1)
   | .xl q n => !d.tags.any (fun e => match e.2 with
       | some t => t.port == 4 * q.val + n.val
       | none => false)
   | .hstCh c => (List.range d.nPart).all (fun i => d.outH c.val i == 0)
   | _ => true)

/-! ### Function-level resets (R370, Table 15.5) -/

/-- The channel and partitions of a function: of a VF those whose HST_PTAG names it, of a sealed PF every one of its channel. -/
def Dev.fnParts (d : Dev) (f : Nat) : Nat × List Nat :=
  if d.isSealedOp then (f, List.range d.nPart)
  else (0, (List.range 64).filter (fun i => d.get (pHst 0) fHST_PTAG_FN i == f))

/-- The functions a reset can act on: VFs, and the PFs of sealed operation. -/
def Dev.flrAble (d : Dev) (f : Nat) : Bool :=
  d.power.running && (if d.isSealedOp then decide (f < d.nChan) else f != 0 && decide (f ≤ (d.func 0).numVfs))

/-- Steps 1 and 2: the function's partitions quiesce, and their queues are disabled as they reach HELD. -/
def Dev.flrStart (d : Dev) (f : Nat) : Dev :=
  let x := d.fnParts f
  let d := d.setFunc f { d.func f with flr := some (d.now ctlClk) }
  x.2.foldl (fun d part =>
    let d := d.quiescePart x.1 part true true (some f)
    (d.partQueues x.1 part).foldl (fun d e =>
      if d.qState e.1 e.2 = 4 then d else d.endQueue e.1 e.2 2 true) d) d

def execFunctionLevelReset (f : Fin 64) (s : State) : Out :=
  onDev (fun d => if d.flrAble f.val && (d.func f.val).flr.isNone then d.flrStart f.val else d) s

/-- Clearing VF Enable acts on every VF by the same steps (R370). -/
def clearVfs (d : Dev) : Dev :=
  if (d.func 0).vfEnable then
    let n := (d.func 0).numVfs
    let d := (List.range n).foldl (fun d i => if (d.func (i + 1)).flr.isNone then d.flrStart (i + 1) else d) d
    d.setFunc 0 { d.func 0 with vfEnable := false }
  else d

def execVfEnableClear (s : State) : Out := onDev clearVfs s

/-- Step 3: what a partition still has outstanding is abandoned: reads and atomics end poisoned, writes are given up. -/
def Dev.abandonPart (d : Dev) (ch part : Nat) : Dev :=
  let mine (r : Req) : Bool := r.part == part && d.chanOf r.quad == ch && !r.ready &&
    (match r.cli with | .dma _ _ | .mailbox _ _ | .chunk _ | .ctl | .shadow _ => false | .peerIn _ _ _ _ _ => false | _ => true) &&
    (match r.tgt with | .host _ => true | .peer _ _ _ _ => true | _ => false)
  let ids := (d.reqs.filter mine).map (fun r => r.id)
  let d := { d with tags := NMap.update d.tags none (fun _ t => t.map (fun t : TagEnt =>
      if ids.any t.names then { t with abandoned := true } else t)) }
  let h := { d.host with sent := d.host.sent.filter (fun i => !ids.contains i),
                         heldReqs := d.host.heldReqs.filter (fun i => !ids.contains i) }
  ids.foldl (fun d id => match d.req id with
    | some r => if r.isWrite then d.dropReq id else d.answered id (poisonBytes r.line) true false
    | none => d) { d with host := h }

/-- Steps 3 and 4, 50 ms (60,000,000 management cycles) after step 1, or sooner where none of the function's queues is on and nothing
of its partitions remains; a sealed PF's channel is then reset. -/
def execFlrAbandon (f : Fin 64) (s : State) : Out :=
  onDev (fun d =>
    let f := f.val
    match (d.func f).flr with
    | none => d
    | some t =>
      let x := d.fnParts f
      if d.now ctlClk < t + 60000000 ∧
          x.2.all (fun part => d.pqState x.1 part == 2 && (d.partQueues x.1 part).isEmpty) = false then d
      else
        let d := x.2.foldl (fun d part => d.abandonPart x.1 part) d
        let d := d.forEngines (fun d e => d.isSealedOp || d.engFn x.1 e == f) (fun d e => d.clearEngine x.1 e)
        let d := x.2.foldl (fun d part => d.set (pHst x.1) fHST_PTAG_VALID part 0) d
        let d := d.setFunc f { d.func f with flr := none, msixOn := false, maskAll := false, table := [], pendingVec := [] }
        if d.isSealedOp then d.startReset (.quad (quad ((d.quadsOf x.1).headD 0))) 3 false 0 else d) s

end Sys2Proof.Machine
end

