-- ==== Sys2Proof/Machine/HostPort.lean ====
section
/-!
DEFINITION. The PCIe host port (chapter 14): functions and their configuration, doorbells of VFs, completions, address
translation, the link, MSI-X and TDISP.
-/

namespace Sys2Proof.Machine

open Sys2Proof

/-! ### Functions (R339, R354) -/

/-- The port presents the function: PF0 and its enabled VFs, or from START in sealed operation a channel's PF (R46, R339). -/
def Dev.presents (d : Dev) (f : Nat) : Bool :=
  if d.isSealedOp && d.started then decide (f < d.nChan)
  else f == 0 || (!d.isSealedOp && (d.func 0).vfEnable && decide (f ≤ (d.func 0).numVfs))

/-- The function may be a TDI: a PF of sealed operation or a VF. -/
def Dev.isTdi (d : Dev) (f : Nat) : Bool := d.presents f && (d.isSealedOp && d.started || f != 0)

/-- Vectors of a function's MSI-X table (Table 14.2). -/
def Dev.vecCount (d : Dev) (f : Nat) : Nat := if f = 0 ∨ d.isSealedOp = true then 512 else 16

/-- Size of a BAR of a function, 0 where it has none (Table 14.2). -/
def Dev.barSize (d : Dev) (f n : Nat) : Nat :=
  if f = 0 ∨ d.isSealedOp = true then (if n = 0 then 2 ^ 27 else if n = 2 then 2 ^ 16 else 0)
  else if n = 0 then 2 ^ 14 else 0

/-- What a configuration request makes of a function's own state. -/
def Dev.cfgFunc (d : Dev) (f : Nat) (w : CfgWrite) (x : Func) : Func :=
  match w with
  | .busMaster on => { x with busMaster := on }
  | .msixEnable on => { x with msixOn := on }
  | .msixMaskAll on => { x with maskAll := on }
  | .msixMask vec on =>
    if d.vecCount f ≤ vec.val then x
    else
      let e := NMap.get x.table vec.val (0, 0, true)
      { x with table := NMap.put x.table vec.val (e.1, e.2.1, on) (0, 0, true) }
  | .msixEntry vec addr data =>
    if d.vecCount f ≤ vec.val then x
    else
      let e := NMap.get x.table vec.val (0, 0, true)
      { x with table := NMap.put x.table vec.val (addr.toNat, data.toNat, e.2.2) (0, 0, true) }
  | .bar n value =>
    let size := d.barSize f n.val
    if size = 0 then x else { x with bars := NMap.put x.bars n.val (value.toNat / size * size) 0 }
  | .pasidCtl on => { x with pasid := on }
  | .atsCtl on => { x with ats := on }
  | .atomicEnable on => { x with atomics := on }
  | .vfEnable _ _ | .other => x

/-- The requests that move a locked TDI to ERROR where they change something; the MSI-X table and its masks are memory of a BAR
(R354). -/
def cfgGuarded : CfgWrite → Bool
  | .bar _ _ | .msixEnable _ | .msixMaskAll _ | .pasidCtl _ | .atsCtl _ => true
  | _ => false

/-- A request that goes to a BAR of the function, discarded while its TDI is in ERROR. -/
def cfgMmio : CfgWrite → Bool
  | .msixMask _ _ | .msixEntry _ _ _ => true
  | _ => false

/-- VF Enable and NumVFs, in PF0 of mediated mode only (R339, R364). -/
def Dev.cfgVfs (d : Dev) (on : Bool) (n : Nat) : Dev :=
  if d.sliceRules then d
  else if on then
    (if (d.func 0).vfEnable then d else d.setFunc 0 { d.func 0 with vfEnable := decide (0 < n), numVfs := n })
  else if (d.func 0).vfEnable then clearVfs d
  else d.setFunc 0 { d.func 0 with numVfs := n }

def cfgWrite (d : Dev) (f : Nat) (w : CfgWrite) : Dev :=
  if !d.arrives (.pf 0) || !d.presents f then d
  else
    match w with
    | .vfEnable on n => if f = 0 then d.cfgVfs on n.val else d
    | _ =>
      let x := d.func f
      let y := d.cfgFunc f w x
      if cfgMmio w && x.tdi == 3 then d
      else
        let d := d.setFunc f y
        if cfgGuarded w && (x.tdi == 1 || x.tdi == 2) && decide (y ≠ x) then d.tdiToError f else d

def execPcieConfigWrite (f : Fin 64) (w : CfgWrite) (s : State) : Out := onDev (fun d => cfgWrite d f.val w) s

/-! ### Doorbells of VFs (R340, R363) -/

def vfDoorbell (d : Dev) (v k val : Nat) : Dev :=
  let i := (v - 1) * 16 + k
  let x := d.get (pHst 0) fHST_DBMAP_DIE i
  let q := d.get (pHst 0) fHST_DBMAP_Q i
  if !d.arrives (.pf 0) || v == 0 || !d.presents v || d.isSealedOp || (d.func v).tdi == 3 ||
     !d.on (pHst 0) fHST_DBMAP_VALID i || d.get (pHst 0) fHST_PTAG_FN (d.qPart x q) != v || d.inReset (pImp x) then d
  else doorbell d x q val

def execVfDoorbellWrite (v : Fin 64) (k : Fin 16) (val : Word) (s : State) : Out :=
  onDev (fun d => vfDoorbell d v.val k.val val.toNat) s

/-! ### Answers of the host (R343, R496) -/

/-- The request has left by the link and waits for its completion; or it is held at the port. -/
def Dev.hostWaits (d : Dev) (id : Nat) : Bool := d.host.sent.contains id
def Dev.hostHeld (d : Dev) (id : Nat) : Bool := d.host.heldReqs.contains id

/-- The port forgets a request. -/
def Dev.hostForget (d : Dev) (id : Nat) : Dev :=
  { d with host := { d.host with sent := d.host.sent.filter (fun i => i != id),
                                 heldReqs := d.host.heldReqs.filter (fun i => i != id),
                                 posted := d.host.posted.filter (fun i => i != id) } }

/-- Atomics that waited for this one of their group go on (R143). -/
def Dev.atomNext (d : Dev) (r : Req) : Dev :=
  match r.op with
  | .atom _ _ _ =>
    (match d.reqs.find? (fun x => decide (x.cli = r.cli) && x.addr == r.addr && decide (r.id < x.id) && !x.issued && !x.ready) with
     | some x => if d.atomWaits x.id then d else d.hostIssue x.id
     | none => d)
  | _ => d

/-- What follows an answer: an engine goes on with its reads, a group with its atomics. -/
def Dev.hostAfter (d : Dev) (r : Req) : Dev :=
  match r.cli with
  | .dma ch e => d.dmaPump ch e
  | _ => d.atomNext r

/-- The first byte a read asked for, and how many. -/
def Req.span (r : Req) : Nat × Nat :=
  match runsOf r.mask with
  | e :: rest => (e.1, (let l := (e :: rest).getLast?.getD e; l.1 + l.2 - e.1))
  | [] => (r.addr % 128, r.size)

/-- The bytes a completion carries. -/
def Req.answerLen (r : Req) : Nat :=
  match r.op with
  | .atom _ w _ => atomWidth w
  | _ => r.span.2

/-- A completion with data. -/
def Dev.hostData (d : Dev) (r : Req) (data : List Byte) : Dev :=
  match r.op with
  | .atom op w lanes =>
    let off := (lanes.head?.map (fun l => l.2.1)).getD 0
    let x := atomLanes op (atomWidth w) lanes (leNat data * 2 ^ (8 * off)) 0 0
    (d.modReq r.id (fun r => { r with flags := x.2.2 })).answered r.id x.2.1 false false
  | _ => d.answered r.id (leNat data * 2 ^ (8 * r.span.1)) false false

def hostCompletion (d : Dev) (rq : Nat) (ans : Answer) (data : List Byte) : Dev :=
  match d.req rq with
  | none => d.hostForget rq
  | some r =>
    if !d.hostUp || !d.hostWaits rq then d
    else
      let p := pHst (d.chanOf r.quad)
      match ans with
      | .ok => if data.length = r.answerLen then ((d.hostForget rq).hostData r data).hostAfter r else d
      | .poison => (((d.hostForget rq).raise p 2 r.part).answered rq (poisonBytes (r.addr / 128)) true false).hostAfter r
      | .err => (((d.hostForget rq).raise p 1 r.part).addrError rq).hostAfter r

def execHostCompletion (rq : Nat) (ans : Answer) (data : List Byte) (s : State) : Out :=
  onDev (fun d => hostCompletion d rq ans data) s

/-- The completion timeout: poisoned data, whether the request was sent or held (R343, R496); an engine halts with CAUSE 5. -/
def cplTimeout (d : Dev) (rq : Nat) : Dev :=
  match d.req rq with
  | none => d.hostForget rq
  | some r =>
    if !d.hostWaits rq && !d.hostHeld rq then d
    else
      let d := (d.hostForget rq).raise (pHst (d.chanOf r.quad)) 3 r.part
      let d := match r.cli with
        | .dma _ _ => d.modReq rq (fun r => { r with expect := 5 })
        | _ => d
      (d.answered rq (poisonBytes (r.addr / 128)) true false).hostAfter r

def execCplTimeout (rq : Nat) (s : State) : Out := onDev (fun d => cplTimeout d rq) s

/-! ### Address translation (R342) -/

/-- The request waits for its translation. -/
def Dev.atsWaits (d : Dev) (r : Req) : Option (HostId × Nat) :=
  match d.hostReq r.id, d.hostId (d.chanOf r.quad) r.part with
  | some (_, addr), some h =>
    if r.issued && !r.ready && !r.failed && h.translated && (d.atcEnt h addr).isNone && !d.hostWaits r.id && !d.hostHeld r.id then
      some (h, addr)
    else none
  | _, _ => none

/-- The cache takes a translation; where all 4,096 entries are in use one of them goes. -/
def Dev.atcAdd (d : Dev) (x : AtcEnt) : Dev :=
  if d.host.atc.length < 4096 then { d with host := { d.host with atc := d.host.atc ++ [x] } }
  else
    let f := d.free 12
    let d := f.2
    { d with host := { d.host with atc := d.host.atc.eraseIdx f.1 ++ [x] } }

/-- Requests for the same page that wait for it too go on; writes in their order. -/
def Dev.atsRelease (d : Dev) (h : HostId) (page : Nat) : Dev :=
  Dev.sendPosted <| ((d.reqs.filter (fun r => r.issued && !r.isWrite && !r.ready && !r.failed && !d.hostWaits r.id && !d.hostHeld r.id &&
    decide (d.hostId (d.chanOf r.quad) r.part = some h) &&
    (match r.tgt with
     | .host a => a / 4096 == page
     | _ => false))).map (fun r => r.id)).foldl (fun d id => d.hostGo id h) d

def atsCompletion (d : Dev) (rq : Nat) (granted : Bool) (page : Nat) : Dev :=
  match d.req rq with
  | none => d
  | some r =>
    match d.atsWaits r with
    | none => d
    | some (h, addr) =>
      if !d.hostUp then d
      else if granted then (d.atcAdd ⟨h.fn, h.pasid.getD 0, addr / 4096, page⟩).atsRelease h (addr / 4096)
      else
        let d := d.raise (pHst (d.chanOf r.quad)) 0 r.part
        let d := match r.cli with
          | .dma _ _ => d.modReq rq (fun r => { r with expect := 4 })
          | _ => d
        (((d.hostForget rq).addrError rq).hostAfter r).sendPosted

def execAtsTranslationCompletion (rq : Nat) (granted : Bool) (page : BitVec 52) (s : State) : Out :=
  onDev (fun d => atsCompletion d rq granted page.toNat) s

/-- An Invalidation Request: the entries are used no more, and the requests sent under them are noted. -/
def atsInvalidate (d : Dev) (f pasid page tag : Nat) : Dev :=
  if !d.hostUp then d
  else
    let mine (r : Req) : Bool :=
      d.hostWaits r.id &&
      (match r.tgt, d.hostId (d.chanOf r.quad) r.part with
       | .host a, some h => h.translated && h.fn == f && h.pasid.getD 0 == pasid && a / 4096 == page
       | _, _ => false)
    let waits := (d.reqs.filter mine).map (fun r => r.id)
    { d with host := { d.host with
        atc := d.host.atc.filter (fun e => !(e.fn == f && e.pasid == pasid && e.page == page)),
        invals := d.host.invals ++ [⟨f, tag, waits⟩] } }

def execAtsInvalidationRequest (f : Fin 64) (pasid : BitVec 20) (page : BitVec 52) (tag : Fin 32) (s : State) : Out :=
  onDev (fun d => atsInvalidate d f.val pasid.toNat page.toNat tag.val) s

/-- The Invalidation Completion goes once those requests have completed. -/
def atsInvDone (d : Dev) (tag : Nat) : Dev :=
  let due (x : Inval) : Bool := x.tag == tag && x.waits.all (fun i => !d.hostWaits i)
  match d.host.invals.find? due with
  | some x =>
    if d.hostUp then
      ({ d with host := { d.host with invals := dropFirst due d.host.invals } }).send (.atsInvDone x.fn x.tag)
    else d
  | none => d

def execAtsInvalidationComplete (tag : Fin 32) (s : State) : Out := onDev (fun d => atsInvDone d tag.val) s

/-! ### The link (R338, R496) -/

/-- Writes that still wait for a translation are discarded (R496). -/
def linkDown (d : Dev) : Dev := ((d.set .hst fHST_LINK_UP 0 0).set .hst fHST_LINK_WIDTH 0 0).sendPosted

def execHostLinkDown (s : State) : Out := onDev (fun d => if d.hostUp then linkDown d else d) s

/-- The rates and widths of R338: ×4, ×8 or ×16, and flit mode always at 64 and 128 GT/s. -/
def linkAllowed (rate width : Nat) (flit : Bool) : Bool := rate != 0 && width != 0 && (flit || decide (rate < 6))

/-- The link is in L0: what the port holds is sent, each request with its identity as it stands now. -/
def linkUp (d : Dev) (rate width : Nat) (flit : Bool) : Dev :=
  let d := (((d.set .hst fHST_LINK_UP 0 1).set .hst fHST_LINK_WIDTH 0 width).set .hst fHST_LINK_RATE 0 rate).set .hst
    fHST_LINK_FLIT 0 (if flit then 1 else 0)
  let d := d.raiseIf (decide (width < 3) || decide (rate < 7)) .hst 0 (rate + 256 * width)
  let ids := (served Req.key (d.host.heldReqs.filterMap d.req)).map (fun r => r.id)
  let d := { d with host := { d.host with heldReqs := [] } }
  ids.foldl (fun d id => match d.req id with
    | some r =>
      (match d.hostId (d.chanOf r.quad) r.part with
       | some h => d.hostGo id h
       | none => d.addrError id)
    | none => d) d

def execHostLinkUp (rate : Fin 8) (width : Fin 4) (flit : Bool) (s : State) : Out :=
  onDev (fun d =>
    if !d.inReset .hst && !d.host.perst && !d.hostUp && linkAllowed rate.val width.val flit then linkUp d rate.val width.val flit
    else d) s

/-! ### MSI-X (R349, R350, Table 16.7) -/

/-- Vectors of a channel's collector carry 512 in the pending list: a fence lets them pass. -/
def ercVec (vec : Nat) : Nat := 512 + vec

/-- The function belongs to a fenced channel. -/
def Dev.fencedFn (d : Dev) (f : Nat) : Bool := d.isSealedOp && d.on (.errcCh (chan f)) fERRC_FENCE_FENCED 0

def msixSend (d : Dev) (f vec : Nat) : Dev :=
  let x := d.func f
  let e := NMap.get x.table vec (0, 0, true)
  let own := x.pendingVec.contains (ercVec vec)
  if !d.hostUp || !d.presents f || !x.msixOn || x.maskAll || e.2.2 || d.vecCount f ≤ vec ||
     (!own && !x.pendingVec.contains vec) then d
  else
    let d1 := d.setFunc f { x with pendingVec := Set.del (Set.del x.pendingVec vec) (ercVec vec) }
    if d.fencedFn f && !own then d1 else d1.send (.msix f vec e.1 e.2.1)

def execMsixSend (f : Fin 64) (vec : Fin 512) (s : State) : Out := onDev (fun d => msixSend d f.val vec.val) s

/-! ### Identity and interrupt maps (R341, R350) -/

def ptagWrite (d : Dev) (ch val : Nat) : Dev :=
  let p := pHst ch
  let i := d.get p fHST_PTAG_IDX_PART 0
  let d := d.swField p fHST_PTAG_ILL i val
  if d.isSealedOp && val.testBit 31 && bitsOf val 5 0 != ch then d.set p fHST_PTAG_ILL i 1
  else
    (((d.swField p fHST_PTAG_VALID i val).swField p fHST_PTAG_ATS i val).swField p fHST_PTAG_PASIDEN i val).swField p
      fHST_PTAG_FN i val

def execHstPtagWrite (via : Via) (c : Chan) (val : Word) (s : State) : Out :=
  onDev (fun d => d.viaWrite via (pHst c.val) (fun d => ptagWrite d c.val val.toNat)) s

def qirqWrite (d : Dev) (ch val : Nat) : Dev :=
  let p := pHst ch
  let x := d.get p fHST_QIRQ_IDX_DIE 0
  let i := x * 64 + d.get p fHST_QIRQ_IDX_Q 0
  let d := d.swField p fHST_QIRQ_ILL i val
  if d.chanOf (x / 2) != ch || !d.fnOf ch (bitsOf val 21 16) then d.set p fHST_QIRQ_ILL i 1
  else
    (((d.swField p fHST_QIRQ_EN i val).swField p fHST_QIRQ_MODE i val).swField p fHST_QIRQ_FN i val).swField p fHST_QIRQ_VEC i val

def execHstQirqWrite (via : Via) (c : Chan) (val : Word) (s : State) : Out :=
  onDev (fun d => d.viaWrite via (pHst c.val) (fun d => qirqWrite d c.val val.toNat)) s

/-! ### TDISP (R354). The codes of its messages are the PCIe specification's (log entry 22). -/

/-- A TDISP response of a function: code and contents. -/
def Dev.tdisp (d : Dev) (f code : Nat) (body : List Byte) : Dev := d.send (.spdm f 0x7E (BitVec.ofNat 8 code :: body))
def tdispLocked : Nat := 0x03
def tdispReport : Nat := 0x04
def tdispStarted : Nat := 0x06
def tdispStopped : Nat := 0x07
def tdispError : Nat := 0x7F

def lockTdi (d : Dev) (f : Nat) : Dev :=
  if !d.arrives (.pf 0) || !d.presents f then d
  else if d.isTdi f && d.isSealed && (d.func f).tdi == 0 then (d.setFunc f { d.func f with tdi := 1 }).tdisp f tdispLocked []
  else d.tdisp f tdispError []

def execLockInterfaceRequest (f : Fin 64) (s : State) : Out := onDev (fun d => lockTdi d f.val) s

def startTdi (d : Dev) (f : Nat) : Dev :=
  if !d.arrives (.pf 0) || !d.presents f then d
  else if d.isTdi f && (d.func f).tdi == 1 then (d.setFunc f { d.func f with tdi := 2 }).tdisp f tdispStarted []
  else d.tdisp f tdispError []

def execStartInterfaceRequest (f : Fin 64) (s : State) : Out := onDev (fun d => startTdi d f.val) s

/-- The report: base and size of each BAR, 8 bytes each, then the vectors of the MSI-X table, 2 bytes (log entry 22). -/
def Dev.ifReport (d : Dev) (f : Nat) : List Byte :=
  ([0, 2].filter (fun n => d.barSize f n != 0)).flatMap (fun n =>
    leBytes 8 (NMap.get (d.func f).bars n 0) ++ leBytes 8 (d.barSize f n)) ++ leBytes 2 (d.vecCount f)

def reportTdi (d : Dev) (f : Nat) : Dev :=
  if !d.arrives (.pf 0) || !d.presents f then d
  else if d.isTdi f then d.tdisp f tdispReport (d.ifReport f)
  else d.tdisp f tdispError []

def execInterfaceReport (f : Fin 64) (s : State) : Out := onDev (fun d => reportTdi d f.val) s

def unlockTdi (d : Dev) (f : Nat) : Dev :=
  if !d.arrives (.pf 0) || !d.presents f then d
  else if d.isTdi f then (d.setFunc f { d.func f with tdi := 0 }).tdisp f tdispStopped []
  else d.tdisp f tdispError []

def execTdiUnlock (f : Fin 64) (s : State) : Out := onDev (fun d => unlockTdi d f.val) s

end Sys2Proof.Machine
end

