-- ==== Sys2Proof/Machine/Errors.lean ====
section
/-!
DEFINITION. Error collection and reactions (chapter 16): event messages, episodes, the reactions they take, fences, and the clearing
of errors.
-/

namespace Sys2Proof.Machine

open Sys2Proof

/-! ### Causes that persist (notes of R7, R41) -/

/-- The minimum of Table 20.4 for a FREQ, in units of 50 W. -/
def freqMin (f : Nat) : Nat := match f with | 0 => 55 | 1 => 67 | 2 => 76 | _ => 88

/-- The fast power-limit input holds issue in fixed-frequency mode (R469). -/
def Dev.fplHolds (d : Dev) : Bool :=
  d.power.fpl && d.on .pwr fPWR_MODE_FIXED 0 &&
  decide (min (d.get .pwr fPWR_CAP_UNITS 0) (d.get .pwr fPWR_FPL_UNITS 0) < freqMin (d.get .pwr fPWR_MODE_FREQ 0))

/-- The syndrome of a source whose cause is still present. -/
def Dev.cause (d : Dev) (p : Page) (src : Nat) : Option Nat :=
  match p, src with
  | .pwr, 0 => d.power.tripped.find? (fun x => decide (x < 16))
  | .pwr, 2 => if d.fplHolds then some 0 else none
  | .clk, 0 => (d.power.tripped.find? (fun x => decide (128 ≤ x))).map (fun x => x - 128)
  | .stk q n, 2 => if d.power.tripped.contains (tripStack (5 * q.val + n.val)) then some 0 else none
  | _, _ => none

/-- A write of ERR_STAT (R41). -/
def errStatW (d : Dev) (p : Page) (val : Nat) : Dev :=
  let old := d.get p fERR_STAT_SRC 0
  let d := d.swField p fERR_STAT_SRC 0 val
  let open_ := (List.range 16).any (fun i => (d.get p fERR_STAT_SRC 0).testBit i && !(d.get p fERR_MASK_MASK 0).testBit i)
  let d := if open_ then d else d.set p fERR_FIRST_VALID 0 0
  (List.range 16).foldl (fun d i =>
    if val.testBit i && old.testBit i then
      (match d.cause p i with
       | some synd => d.raise p i synd
       | none => d)
    else d) d

def execErrStatWrite (via : Via) (p : Page) (val : Word) (s : State) : Out :=
  onDev (fun d => d.viaWrite via p (fun d => errStatW d p val.toNat)) s

/-! ### Collectors -/

/-- The page of a collector: 0-3 quadrants, 4-7 channels, 8 device. -/
def collPage (k : Nat) : Page :=
  if k < 4 then .errcQ (quad k) else if k < 8 then .errcCh (chan (k - 4)) else .errcDev

/-- The status word and the status mask, and setting the word. -/
def Dev.collStat (d : Dev) (k : Nat) : Nat := d.get64 (collPage k) 0x100 0
def Dev.collMask (d : Dev) (k : Nat) : Nat := d.get64 (collPage k) 0x108 0
def Dev.setStat (d : Dev) (k v : Nat) : Dev :=
  (d.setWord (collPage k) 0x100 0 (v % 2 ^ 32)).setWord (collPage k) 0x104 0 (v / 2 ^ 32)

/-- The collector above, and the summary bit there (Table 16.3). -/
def Dev.collUp (d : Dev) (k : Nat) : Option (Nat × Nat) :=
  if k < 4 then some (4 + d.chanOf k, 4 + k) else if k < 8 then some (8, 8 + (k - 4)) else none

/-- A page's error pin (R376, R377). -/
def Dev.pin (d : Dev) (p : Page) : Bool :=
  !d.inReset p &&
  (List.range 16).any (fun i => (d.get p fERR_STAT_SRC 0).testBit i && !(d.get p fERR_MASK_MASK 0).testBit i)

/-- A status bit's pin: that of a page mapped to it, or of a lower collector with an open episode (R379, R380). -/
def Dev.bitPin (d : Dev) (k b : Nat) : Bool :=
  d.regs.any (fun e => e.1 / 16384 % 1024 == 8 &&
    (match pageOfNo (e.1 / 16384 / 1024) with
     | some p => decide (pageColl p = (k, b)) && d.pin p
     | none => false)) ||
  (List.range 8).any (fun j => decide (d.collUp j = some (k, b)) && (d.coll j).isOpen && !d.inReset (collPage j))

/-! ### Reactions (R382, R383) -/

/-- The function a collector's vectors go to, in the arrangement the host port presents (R418); none where they are a sideband
alert instead. -/
def Dev.collFn (d : Dev) (k : Nat) : Option Nat :=
  if !(d.isSealedOp && d.started) then some 0 else if k < 4 then some (d.chanOf k) else if k < 8 then some (k - 4) else none

/-- A sideband alert: SB_ALERT# stays low until it is answered (R488); in I3C mode an in-band interrupt takes its place (R485). -/
def Dev.alert (d : Dev) : Dev :=
  if d.power.i3c then d.send (.sbIbi 0) else { d with power := { d.power with alert := true } }

/-- Sends a collector's vector. -/
def Dev.collVec (d : Dev) (k vec : Nat) : Dev :=
  match d.collFn k with
  | some f => d.raiseVec f (if 4 ≤ k then ercVec vec else vec)
  | none => d.alert

/-- Requests of the channel that would leave by the host port are discarded or aborted (Table 16.7). -/
def Dev.fenceHost (d : Dev) (ch : Nat) : Dev :=
  ((d.reqs.filter (fun r => !r.ready && !r.failed && d.chanOf r.quad == ch &&
    (match r.tgt with | .host _ => true | _ => false))).map (fun r => r.id)).foldl
    (fun d id => (d.hostForget id).hostFenced id) d

/-- Fences a channel of sealed operation (R390, R391). -/
def Dev.fence (d : Dev) (ch : Nat) : Dev :=
  let p : Page := .errcCh (chan ch)
  if !d.isSealedOp || d.on p fERRC_FENCE_FENCED 0 then d
  else
    let d := (d.quadsOf ch).foldl (fun d q => (List.range 4).foldl (fun d n => d.fencePort (4 * q + n)) d) d
    let d := d.haltAll ch 7 (fun _ _ => true)
    (d.fenceHost ch).set p fERRC_FENCE_FENCED 0 1

/-- The channel a collector belongs to. -/
def Dev.collChan (d : Dev) (k : Nat) : Nat := if k < 4 then d.chanOf k else k - 4

/-- Bits of REACT. -/
def rINT : Nat := 5
def rNMI : Nat := 4
def rBRST : Nat := 3
def rDRST : Nat := 2
def rEPIN : Nat := 1
def rFENCE : Nat := 0

/-- The reactions of an event, by REACT's bits: its profile's, and those its severity forces (Table 16.4). -/
def Dev.wants (d : Dev) (k : Nat) (e : Event) : Nat :=
  let prof := bitsOf (d.word (collPage k) (0x120 + 4 * e.act) 0) 31 26
  let prof := if 2 ≤ e.sev then prof ||| 2 ^ rNMI else prof
  let prof := if e.sev = 3 then prof ||| 2 ^ rEPIN ||| 2 ^ rFENCE else prof
  if d.isSealedOp && k != 8 then prof else prof &&& 62

/-- The scope of a DRST reaction: 1 the partition domain that holds the page, 2 the device. -/
def Dev.drstScope (d : Dev) (k : Nat) (p : Page) (e : Event) : Nat :=
  let wide := (d.word (collPage k) (0x120 + 4 * e.act) 0).testBit 24
  if k = 8 then 2
  else if d.isSealedOp then 1
  else if wide || (pageQuad p).isNone then 2 else 1

/-- The partition domain of a page of a collector. -/
def Dev.collDom (d : Dev) (k : Nat) (p : Page) : Dom :=
  match pageQuad p with
  | some q => .quad (quad q)
  | none => .quad (quad ((d.quadsOf (d.collChan k)).headD 0))

/-- One reaction, if the episode has not taken it (R385); its bit is noted in the open entry. -/
def Dev.mark (d : Dev) (k bit : Nat) : Dev :=
  let c := d.coll k
  let h := NMap.get c.hist c.ent Hist.init
  d.setColl k { c with hist := NMap.put c.hist c.ent { h with react := h.react ||| 2 ^ bit } Hist.init }

def Dev.taken (d : Dev) (k bit : Nat) : Bool := (NMap.get (d.coll k).hist (d.coll k).ent Hist.init).react.testBit bit

def Dev.once (d : Dev) (k want bit : Nat) (f : Dev → Dev) : Dev :=
  if want.testBit bit && !d.taken k bit then f (d.mark k bit) else d

/-- The reactions of an event are taken. -/
def Dev.react (d : Dev) (k : Nat) (e : Event) : Dev :=
  match pageOfNo e.page with
  | none => d
  | some p =>
    let w := d.wants k e
    let cp := collPage k
    let vec := bitsOf (d.word cp (0x120 + 4 * e.act) 0) 8 0
    let d := d.once k w rINT (fun d => d.collVec k vec)
    let d := d.once k w rNMI (fun d =>
      let d := (d.send (.nmi k)).alert
      match d.collFn k with
      | some _ => d.collVec k (d.get cp fERRC_NMIV_VEC 0)
      | none => d)
    let d := d.once k w rEPIN (fun d => d.set .errcDev fERRC_EPIN_ASSERTED 0 1)
    let d := d.once k w rFENCE (fun d =>
      let ch := d.collChan k
      let d := d.fence ch
      -- the channel ERRC's NMI vector (Table 16.8 step 5), once an episode
      if 4 ≤ k && d.taken k rNMI then d else d.collVec (4 + ch) (d.get (.errcCh (chan ch)) fERRC_NMIV_VEC 0))
    let d := if w.testBit rBRST && !(d.coll k).brst.contains e.page && !d.domInReset (d.pageDom p) then
        (let d := d.mark k rBRST
         let d := d.setColl k { d.coll k with brst := Set.add (d.coll k).brst e.page }
         d.startReset (d.pageDom p) 1 false 0)
      else d
    let sc := d.drstScope k p e
    if w.testBit rDRST && decide ((d.coll k).drst < sc) then
      (let d := d.mark k rDRST
       let d := d.setColl k { d.coll k with drst := sc }
       d.startReset (if sc = 2 then .device else d.collDom k p) 2 false 0)
    else d

/-! ### Episodes (R384 to R388) -/

/-- An event opens an episode, in the history entry NEXT. -/
def Dev.openEp (d : Dev) (k : Nat) (e : Event) : Dev :=
  let c := d.coll k
  let n := c.next
  let old := NMap.get c.hist n Hist.init
  let h : Hist := { valid := true, opened := true, ack := false, sev := e.sev, clk := e.clk, bit := e.bit, merge := 0,
                    blkId := e.blkId, react := 0, src := e.src, synd := e.synd, stamp := e.stamp, seq := c.seq, merged := 2 ^ e.bit }
  let d := d.setColl k { hist := NMap.put c.hist n h Hist.init, next := (n + 1) % 16, seq := (c.seq + 1) % 65536, isOpen := true,
                         ent := n, drst := 0, brst := [] }
  let cp := collPage k
  let d := ((d.set cp fERRC_FAULT_OPEN 0 1).set cp fERRC_FAULT_SEV 0 e.sev).set cp fERRC_FAULT_ENT 0 n
  let d := d.raiseIf (old.valid && !old.ack) cp 0 n
  match d.collUp k with
  | none => d
  | some (u, b) =>
    if d.inReset cp then d
    else
      let up : Event :=
        { found := d.now (collClock u), blkId := BitVec.ofNat 32 (d.blkId cp), src := 0, synd := 0, sev := e.sev, act := 0, clk := (pageClock cp).1,
          stamp := d.now (pageClock cp).2 % 2 ^ 48, page := pageNo cp, coll := u, bit := b, summary := true }
      { d with evq := d.evq ++ [up] }

/-- An event is merged into the open episode. -/
def Dev.mergeEp (d : Dev) (k : Nat) (e : Event) : Dev :=
  let c := d.coll k
  let h := NMap.get c.hist c.ent Hist.init
  let full := h.merge == 0xFFFF
  let g : Hist := { h with merged := h.merged ||| 2 ^ e.bit, merge := if full then h.merge else h.merge + 1, sev := max h.sev e.sev }
  let d := d.setColl k { c with hist := NMap.put c.hist c.ent g Hist.init }
  let d := d.set (collPage k) fERRC_FAULT_SEV 0 g.sev
  d.raiseIf full (collPage k) 1 c.ent

/-- A collector takes an event. -/
def Dev.takeEvent (d : Dev) (k : Nat) (e : Event) : Dev :=
  let d := d.setStat k (d.collStat k ||| 2 ^ e.bit)
  if e.sev = 0 || (d.collMask k).testBit e.bit then d
  else
    let d := if (d.coll k).isOpen then d.mergeEp k e else d.openEp k e
    if e.summary then d else d.react k e

/-- The event a collector takes first: the oldest, and of those of its cycle the one of lowest status bit, then page, then source
(R384). -/
def nextEvent (k : Nat) (evq : List Event) : Option Event :=
  let mine := evq.filter (fun e => e.coll == k)
  match mine with
  | [] => none
  | e :: _ =>
    let key (x : Event) : Nat := (x.bit * 65536 + x.page) * 16 + x.src % 16
    some ((mine.filter (fun x => x.found == e.found)).foldl (fun b x => if key x < key b then x else b) e)

/-- The next message of a collector arrives. One that fails its check is lost: its status bit sets, and MSG is raised
(Table 16.9). -/
def eventMessage (d : Dev) (k : Nat) (good : Bool) : Dev :=
  match nextEvent k d.evq with
  | none => d
  | some e =>
    let d := { d with evq := dropFirst (fun x => decide (x = e)) d.evq }
    if !d.power.pwrgd then d
    else if good then d.takeEvent k e
    else (d.setStat k (d.collStat k ||| 2 ^ e.bit)).raise (collPage k) 2 e.bit

def execEventMessage (k : Fin 9) (good : Bool) (s : State) : Out := onDev (fun d => eventMessage d k.val good) s

/-- The bits a write of a status word leaves: those not written, and those whose pin is high (R379). -/
def Dev.statLeft (d : Dev) (k val : Nat) : Nat :=
  (List.range 64).foldl (fun a b =>
    if (d.collStat k).testBit b && (!val.testBit b || d.bitPin k b) then a ||| 2 ^ b else a) 0

/-- A write of ERRC_STAT; the episode closes when every bit of its MERGED mask is clear (R386). -/
def errcStatW (d : Dev) (k val : Nat) : Dev :=
  let d := d.setStat k (d.statLeft k val)
  let c := d.coll k
  let h := NMap.get c.hist c.ent Hist.init
  if c.isOpen && h.merged &&& d.collStat k == 0 then
    (d.setColl k { c with isOpen := false, drst := 0, brst := [], hist := NMap.put c.hist c.ent { h with opened := false } Hist.init }).set
      (collPage k) fERRC_FAULT_OPEN 0 0
  else d

def execErrcStatWrite (via : Via) (k : Fin 9) (val : BitVec 64) (s : State) : Out :=
  onDev (fun d => d.viaWrite via (collPage k.val) (fun d => errcStatW d k.val val.toNat)) s

/-! ### Fence and external error output -/

def execErrcFence (via : Via) (c : Chan) (s : State) : Out :=
  onDev (fun d => d.viaWrite via (.errcCh c) (fun d => if c.val < d.nChan then d.fence c.val else d)) s

/-- A write of ERRC_EPIN.CLR (R396). -/
def epinClr (d : Dev) : Dev :=
  if (List.range 9).any (fun k => (d.coll k).isOpen && d.taken k rEPIN) then d else d.set .errcDev fERRC_EPIN_ASSERTED 0 0

def execEpinClr (via : Via) (s : State) : Out := onDev (fun d => d.viaWrite via .errcDev epinClr) s

end Sys2Proof.Machine
end

