-- ==== Sys2Proof/Machine/Power.lean ====
section
/-!
DEFINITION. Supply, power cap, clocks and temperature (chapter 20).
-/

namespace Sys2Proof.Machine

open Sys2Proof

def Dev.modPower (d : Dev) (f : Power → Power) : Dev := { d with power := f d.power }

/-! ### Input (R459, R460) -/

def execInputRise (s : State) : Out := onDev (fun d => if d.power.vin then d else d.modPower (fun p => { p with vin := true })) s

/-- Power-good is taken: the straps are sampled, the H-die's PLLs lock and Pyruno starts (Table 18.1 step 2, R485). -/
def Dev.powerGood (d : Dev) (i3c : Bool) (strap : Nat) : Dev :=
  d.modPower (fun p => { p with
    pwrgd := true, early := none, i3c := i3c, strap := strap, sbOff := none, sbDyn := none,
    locked := NMap.put (NMap.put p.locked 20 true false) 21 true false })

/-- Soft start completes; an edge of PWRGD during soft start takes effect now (R459, R484). -/
def softStartDone (d : Dev) : Dev :=
  if !d.power.vin || d.power.softStart then d
  else
    let d := d.modPower (fun p => { p with softStart := true })
    match d.power.early with
    | some e => d.powerGood e.1 e.2
    | none => d

def execSoftStartDone (s : State) : Out := onDev softStartDone s

/-- A rise of PWRGD. -/
def pwrgdRise (d : Dev) (x : Straps) : Dev :=
  if d.power.pwrgd then d
  else if d.power.vin && d.power.softStart then d.powerGood x.i3c x.addr.val
  else d.modPower (fun p => { p with early := some (x.i3c, x.addr.val) })

def execPwrgdRise (straps : Straps) (s : State) : Out := onDev (fun d => pwrgdRise d straps) s

/-- An input fault: no state survives it. The levels of the input pins are the platform's, and what has been sent has been sent. -/
def inputFault (d : Dev) (why : InputFault) : Dev :=
  let hit := match why with
    | .pwrgdLow => d.power.vin && d.power.pwrgd
    | _ => d.power.vin
  if !hit then d
  else
    { Dev.reset with
        out := d.out, freeCtr := d.freeCtr,
        host := { HostPort.init with perst := d.host.perst },
        power := { Power.init with vin := decide (why = .pwrgdLow), fpl := d.power.fpl } }

def execInputFault (why : InputFault) (s : State) : Out := onDev (fun d => inputFault d why) s

/-! ### The cap and fixed-frequency mode (R463 to R469) -/

/-- The cap in force, in units of 50 W. -/
def Dev.capInForce (d : Dev) : Nat :=
  let c := d.get .pwr fPWR_CAP_UNITS 0
  if d.power.fpl then min c (d.get .pwr fPWR_FPL_UNITS 0) else c

/-- The share of a channel, in watts: the whole cap, or in sealed operation in proportion to its quadrants (R465). -/
def Dev.capShare (d : Dev) (ch : Nat) : Nat :=
  if d.isSealedOp then 50 * d.capInForce * (d.quadsOf ch).length / 4 else 50 * d.capInForce

/-- The press clock of Table 20.4, in units of 50 MHz. -/
def freqClock (f : Nat) : Nat := match f with | 0 => 30 | 1 => 36 | 2 => 40 | _ => 45

def Dev.fixed (d : Dev) : Bool := d.on .pwr fPWR_MODE_FIXED 0

/-- FPL is raised when a change makes the fast power-limit input hold issue (R469). -/
def Dev.fplAfter (d old : Dev) : Dev := d.raiseIf (d.fplHolds && !old.fplHolds) .pwr 2 0

/-- A write of PWR_CAP: one that R468 refuses sets the ILL of both registers, as the rule and Table 0x100 say. -/
def pwrCapWrite (d : Dev) (val : Nat) : Dev :=
  let d := d.swField .pwr fPWR_CAP_ILL 0 val
  let u := bitsOf val 6 0
  if u < 24 ∨ 88 < u then d.set .pwr fPWR_CAP_ILL 0 1
  else if d.fixed = true ∧ u < freqMin (d.get .pwr fPWR_MODE_FREQ 0) then
    (d.set .pwr fPWR_CAP_ILL 0 1).set .pwr fPWR_MODE_ILL 0 1
  else (d.set .pwr fPWR_CAP_UNITS 0 u).fplAfter d

def execPwrCapWrite (via : Via) (val : Word) (s : State) : Out :=
  onDev (fun d => d.viaWrite via .pwr (fun d => pwrCapWrite d val.toNat)) s

/-- Every C-die runs at the mode's clock, unstretched and without issue limits (R468). -/
def Dev.pressFixed (d : Dev) : Dev :=
  let f := freqClock (d.get .pwr fPWR_MODE_FREQ 0)
  d.modPower (fun p => { p with
    press := (List.range 8).foldl (fun m x => NMap.put m x f 45) p.press, limit := [], stretch := [] })

/-- A write of PWR_MODE. -/
def pwrModeWrite (d : Dev) (val : Nat) : Dev :=
  let d := d.swField .pwr fPWR_MODE_ILL 0 val
  if val.testBit 8 ∧ d.get .pwr fPWR_CAP_UNITS 0 < freqMin (bitsOf val 1 0) then d.set .pwr fPWR_MODE_ILL 0 1
  else
    let d1 := (d.swField .pwr fPWR_MODE_FIXED 0 val).swField .pwr fPWR_MODE_FREQ 0 val
    (if d1.fixed then d1.pressFixed else d1).fplAfter d

def execPwrModeWrite (via : Via) (val : Word) (s : State) : Out :=
  onDev (fun d => d.viaWrite via .pwr (fun d => pwrModeWrite d val.toNat)) s

/-- A write of PWR_FPL. -/
def pwrFplWrite (d : Dev) (val : Nat) : Dev :=
  let d := d.swField .pwr fPWR_FPL_ILL 0 val
  let u := bitsOf val 6 0
  if u < 24 ∨ 88 < u then d.set .pwr fPWR_FPL_ILL 0 1 else (d.set .pwr fPWR_FPL_UNITS 0 u).fplAfter d

def execFplAssert (s : State) : Out := onDev (fun d => (d.modPower (fun p => { p with fpl := true })).fplAfter d) s
def execFplRelease (s : State) : Out := onDev (fun d => d.modPower (fun p => { p with fpl := false })) s

/-- A C-die's press clock and issue limit as the controller sets them: within the bounds of R464, otherwise unstated. -/
def Dev.capDie (d : Dev) (x : Nat) : Dev :=
  if d.inReset (pImp x) then d
  else
    let a := d.free 16
    let b := a.2.free 16
    b.2.modPower (fun p => { p with press := NMap.put p.press x (16 + a.1 % 30) 45, limit := NMap.put p.limit x b.1 0 })

/-- One sample of a quadrant: its phase, the learned entry, and what is set from the tables. -/
def capSample (d : Dev) (q : Nat) : Dev :=
  if d.fixed || !d.power.running then d
  else
    let ph := d.free 5
    let v := ph.2.free 32
    let d := v.2.modPower (fun p => { p with learned := NMap.put p.learned (32 * q + ph.1) v.1 0 })
    let d := (d.capDie (2 * q)).capDie (2 * q + 1)
    (List.range 5).foldl (fun d n =>
      let l := d.free 16
      l.2.modPower (fun p => { p with limit := NMap.put p.limit (8 + 5 * q + n) l.1 0 })) d

def execCapControllerSample (q : Quad) (s : State) : Out := onDev (fun d => capSample d q.val) s

/-- A droop stretches the die's press clock, outside fixed-frequency mode (R471); the stretch ends by itself (log entry 3). -/
def execDroopDetect (x : Die) (s : State) : Out :=
  onDev (fun d =>
    if d.fixed || !d.quadsClocked then d
    else d.modPower (fun p => { p with stretch := NMap.put p.stretch x.val true false })) s

/-! ### Trips (R472, R473) -/

/-- The number of a die (Table 2.8). -/
def dieNo : DieRef → Nat
  | .cdie x => x.val
  | .bdie q => 8 + q.val
  | .hdie => 15

def execUndervoltage (w : DieRef) (s : State) : Out :=
  onDev (fun d =>
    if d.power.pwrgd then (d.raise .pwr 1 (dieNo w)).startReset (dieDom (dieNo w)) 2 false 0 else d) s

def Dev.addTrip (d : Dev) (x : Nat) : Dev := d.modPower (fun p => { p with tripped := Set.add p.tripped x })
def Dev.delTrip (d : Dev) (x : Nat) : Dev := d.modPower (fun p => { p with tripped := Set.del p.tripped x })

def execJtrip (w : DieRef) (s : State) : Out :=
  onDev (fun d =>
    if d.power.pwrgd then ((d.addTrip (dieNo w)).raise .pwr 0 (dieNo w)).startReset (dieDom (dieNo w)) 2 false 0 else d) s

def execTherm (t : Stack) (s : State) : Out :=
  onDev (fun d =>
    if d.power.pwrgd then
      ((d.addTrip (tripStack t.val)).raise (pStk t.val) 2 0).startReset (tripDom (tripStack t.val)) 2 false 0
    else d) s

/-- Every die and stack of the domain is below its re-arm temperature. -/
def execTripRearm (dom : Dom) (s : State) : Out :=
  onDev (fun d =>
    d.modPower (fun p => { p with tripped := p.tripped.filter (fun x => decide (128 ≤ x) || !d.contains dom (tripDom x)) })) s

/-! ### PLLs and crossings (R475) -/

def execPllLockLoss (p : Pll) (s : State) : Out :=
  onDev (fun d =>
    if d.power.pwrgd then
      ((d.modPower (fun w => { w with locked := NMap.put w.locked p.val false false })).addTrip (tripPll p.val)).raise .clk 0 p.val
    else d) s

def execPllRelock (p : Pll) (s : State) : Out :=
  onDev (fun d =>
    if d.power.tripped.contains (tripPll p.val) then
      (d.modPower (fun w => { w with locked := NMap.put w.locked p.val true false })).delTrip (tripPll p.val)
    else d) s

/-- A crossing of a port times out: the port goes DOWN (R319). -/
def Dev.xlTimeout (d : Dev) (p side : Nat) : Dev :=
  if d.inReset (pXl p) then d
  else
    let d := d.raise (pXl p) 7 side
    if d.xlState p = 2 then d.portDown p 8 else if d.xlState p = 1 then d.portFalls p 8 else d

/-- A crossing of a bridge or H-die link times out: the link goes down at both ends, and the domain of the side whose clock has
stopped, the far one, is reset (R475), which turns away what crosses to it (R401; log entry 121). -/
def Dev.brgTimeout (d : Dev) (q n side : Nat) : Dev :=
  if d.brgGated q n || !d.brgReady q n then d
  else
    let d := d.raise (pBrg q n) 2 side
    let d := if d.brgState q n != 2 then d
      else if n = q then d.brgDown q n
      else (d.brgDown q n).brgDown n q
    d.startReset (if n = q then .device else .quad (quad n)) 2 false 0

/-- A die of Table 2.8. -/
def isDie (x : Nat) : Bool := decide (x < 12) || x == 15

/-- Any other crossing: recorded in the CLK page, and the domain of the stopped side is reset. -/
def Dev.dieTimeout (d : Dev) (live xid stopped : Nat) : Dev :=
  if !d.power.pwrgd || !isDie live || !isDie stopped then d
  else
    let p : Page := .clk
    let d := (((d.set p fCLK_CDC_VALID 0 1).set p fCLK_CDC_KIND 0 0).set p fCLK_CDC_DIE 0 live).set p fCLK_CDC_XID 0 xid
    (d.raise p 1 (live * 4096 + xid)).startReset (dieDom stopped) 2 false 0

/-- A pulse crossing overruns: its flag sets and CDC_OVR is raised; only counts are lost (R319, R475, Table 16.9). -/
def Dev.xlOverrun (d : Dev) (p : Nat) : Dev :=
  if d.inReset (pXl p) then d else (d.set (pXl p) fXL_STAT_OVR 0 1).raise (pXl p) 8 0

def Dev.brgOverrun (d : Dev) (q n : Nat) : Dev :=
  if d.brgGated q n || !d.brgReady q n then d else (d.set (pBrg q n) fBRG_STAT_OVR 0 1).raise (pBrg q n) 3 0

def Dev.dieOverrun (d : Dev) (live xid : Nat) : Dev :=
  if !d.power.pwrgd || !isDie live then d
  else
    let p : Page := .clk
    ((((d.set p fCLK_CDC_VALID 0 1).set p fCLK_CDC_KIND 0 1).set p fCLK_CDC_DIE 0 live).set p fCLK_CDC_XID 0 xid).raise p 2
      (live * 4096 + xid)

def execCdcTimeout (x : Crossing) (s : State) : Out :=
  onDev (fun d => match x with
    | .xlRx p => d.xlTimeout p.val 0
    | .xlTx p => d.xlTimeout p.val 1
    | .brgRx q n => d.brgTimeout q.val n.val 0
    | .brgTx q n => d.brgTimeout q.val n.val 1
    | .die live xid stopped => d.dieTimeout live.val xid.val stopped.val
    | .xlOvr p => d.xlOverrun p.val
    | .brgOvr q n => d.brgOverrun q.val n.val
    | .dieOvr live xid => d.dieOverrun live.val xid.val) s

end Sys2Proof.Machine
end

