-- ==== Sys2Proof/Machine/BringUp.lean ====
section
/-!
DEFINITION. Bring-up (chapter 18) and the identity it derives (R438 to R445): INIT, self-test and the floor plan, images and the
manifest, licences, and START.
-/

namespace Sys2Proof

/-! ### External flash (R442, Table 19.3) -/

/-- The entries of the directory: item, offset, length. An entry whose last word is not 0, or of item 0, is none. -/
def Flash.entries (fl : Flash) : List (Nat × Nat × Nat) :=
  let w (o : Nat) : Nat := Machine.fieldLE fl.bytes o 4
  if w 0 ≠ 0x4853414C then []
  else (((List.range 16).map (fun i => 4 + 16 * i)).filter (fun o => w o != 0 && w (o + 12) == 0)).map (fun o => (w o, w (o + 4), w (o + 8)))

/-- Two ranges of flash share a byte. -/
def flashOverlap (a m b n : Nat) : Bool := decide (a < b + n ∧ b < a + m)

/-- The bytes of an item; none where it is absent, overlaps the directory or another item, or cannot be read. -/
def Flash.item (fl : Flash) (i : Nat) : Option (List Byte) :=
  let es := fl.entries
  match es.findIdx? (fun e => e.1 == i) with
  | none => none
  | some k =>
    let e := es.getD k (0, 0, 0)
    let others := es.take k ++ es.drop (k + 1)
    if e.2.1 < 4096 ∨ fl.bytes.length < e.2.1 + e.2.2 ∨ others.any (fun o => flashOverlap e.2.1 e.2.2 o.2.1 o.2.2) = true ∨
       fl.unread.contains i = true then none
    else some ((fl.bytes.drop e.2.1).take e.2.2)

def Flash.helper (fl : Flash) : Option (List Byte) := fl.item 1
def Flash.devCert (fl : Flash) : Option (List Byte) := fl.item 2
def Flash.caCert (fl : Flash) : Option (List Byte) := fl.item 3
def Flash.manifest (fl : Flash) : Option (List Byte) := fl.item 4

end Sys2Proof

namespace Sys2Proof.Machine

open Sys2Proof

/-! ### Status (Tables 18.2 and 18.6) -/

def cHDR : Nat := 0x01
def cSIZE : Nat := 0x02
def cKEY : Nat := 0x03
def cSIG : Nat := 0x04
def cDIGEST : Nat := 0x05
def cINCOMPAT : Nat := 0x06
def cNOMANIFEST : Nat := 0x07
def cACTIVE : Nat := 0x08
def cMISSING : Nat := 0x09
def cFETCH : Nat := 0x0A
def cSTATE : Nat := 0x0B
def cSEALED : Nat := 0x0C
def cLICSIG : Nat := 0x0D
def cLICBIND : Nat := 0x0E
def cLICKIND : Nat := 0x0F
def cMANOLD : Nat := 0x10
def cBISTFAIL : Nat := 0x11

def bootFld (d : Dev) (f : FieldDef) (v : Nat) : Dev := d.set .boot f 0 v
def bootCode (d : Dev) (c : Nat) : Dev := bootFld d fBOOT_STAT_CODE c
def bootIll (d : Dev) : Dev := bootFld d fBOOT_STAT_ILL 1
def bootSt (d : Dev) (st : Nat) : Dev := bootFld d fBOOT_STAT_STATE st

/-- A command is in progress, or is no more. -/
def bootBusy (d : Dev) (n : Nat) : Dev :=
  { bootFld d fBOOT_STAT_BUSY (if n = 0 then 0 else 1) with boot := { d.boot with busy := n } }

/-- A command ends with a code. -/
def bootDone (d : Dev) (code : Nat) : Dev := bootCode (bootBusy d 0) code

/-- A STAGE or LICENCE is refused. -/
def bootRefuse (d : Dev) (code : Nat) : Dev := (bootDone d code).raise .boot 0 code

/-! ### Identity (R438 to R442). Labels are their ASCII bytes. -/

def ascii (l : List Nat) : List Byte := l.map (BitVec.ofNat 8)
/-- "SORORKU-S9-" -/
def labelS9 : List Nat := [0x53, 0x4F, 0x52, 0x4F, 0x52, 0x4B, 0x55, 0x2D, 0x53, 0x39, 0x2D]
def labelCHK : List Byte := ascii (labelS9 ++ [0x43, 0x48, 0x4B])
def labelID : List Byte := ascii (labelS9 ++ [0x49, 0x44])
def labelATT : List Byte := ascii (labelS9 ++ [0x41, 0x54, 0x54])

/-- The seed, if the helper data is there and passes its check. -/
def deriveSeed (raw : BitVec 4096) (helper : Option (List Byte)) : Option (BitVec 256) :=
  match helper with
  | none => none
  | some h =>
    if h.length ≠ 2112 then none
    else match Config.pufExtract raw (h.take 2048) with
      | none => none
      | some k =>
        if sha (labelCHK ++ leBytes 32 k.toNat) = h.drop 2048 then
          some (BitVec.ofNat 256 (sha512 (labelID ++ leBytes 32 k.toNat)).toNat)
        else none

/-- The identity words: the public key, then DEVUID. -/
def idWordsOf (pk : List Byte) : NMap Word :=
  let l := pk.take 32 ++ (sha pk).take 16
  (List.range 12).foldl (fun m i => NMap.put m i (BitVec.ofNat 32 (fieldLE l (4 * i) 4)) 0) []

/-- The identity, or NOID with IDFAIL (R439). -/
def Dev.takeIdentity (d : Dev) (fl : Flash) (raw : BitVec 4096) : Dev :=
  match deriveSeed raw fl.helper with
  | some seed =>
    let b := d.boot
    { d with boot := { b with devSeed := seed, idWords := idWordsOf (ed25519Public seed) } }
  | none =>
    let d := (bootFld d fBOOT_STAT_NOID 1).set .dctl fDCTL_ID_STAT_NOID 0 1
    (d.raise .boot 2 0).raise .boot 3 0

/-- The chain of certificates is copied and checked (R440, R443). -/
def Dev.takeCerts (d : Dev) (fl : Flash) : Dev :=
  let dev := fl.devCert.getD []
  let ca := fl.caCert.getD []
  let d : Dev := { d with boot := { d.boot with devCert := dev, caCert := ca } }
  let good : Bool := fl.devCert.isSome && fl.caCert.isSome && decide (dev.length ≤ 2048) && decide (ca.length ≤ 2048) &&
    !d.on .boot fBOOT_STAT_NOID 0 && decide (Config.chainKey ca dev = some (ed25519Public d.boot.devSeed))
  if good then d.set .dctl fDCTL_ID_STAT_CERTLEN 0 (dev.length + ca.length)
  else
    let d := d.set .dctl fDCTL_ID_STAT_NOCERT 0 1
    -- the flash is at fault where an item is missing or its chain fails
    d.raiseIf (decide (fl.devCert.isNone ∨ fl.caCert.isNone ∨ (Config.chainKey ca dev).isNone)) .boot 2 1

/-! ### Images (R423 to R429) -/

def iComp (b : List Byte) : Nat := fieldLE b 5 1
def iVer (b : List Byte) : Nat := fieldLE b 6 2
def iEpoch (b : List Byte) : Nat := fieldLE b 8 1
def iKey (b : List Byte) : Nat := fieldLE b 9 1
def iBody (b : List Byte) : List Byte := b.drop 256

/-- Body limits of Table 18.4; none for a COMP a header may not hold. -/
def bodyLimit (c : Nat) : Option Nat :=
  match c with
  | 2 => some (2 ^ 25) | 3 => some (2 ^ 25) | 4 => some (2 ^ 22) | 5 => some (2 ^ 22) | 6 => some (2 ^ 20) | 15 => some (2 ^ 20)
  | _ => none

/-- Every byte is 0. -/
def allZero (l : List Byte) : Bool := l.all (fun b => b == 0)

/-- A combination has zeros where R427 has them. -/
def comboOk (m : List Byte) : Bool :=
  allZero ((m.drop 2).take 4) && (List.range 7).all (fun c => allZero ((m.drop (11 + 6 * c)).take 1))

/-- A manifest body is as R427 has it, its bytes of zeros included. -/
def manBody (b : List Byte) : Bool :=
  let n := fieldLE b 2 2
  decide (1 ≤ n ∧ n ≤ 4095) && b.length == 16 + 48 * n && allZero ((b.drop 4).take 12) &&
    (List.range n).all (fun i => comboOk ((b.drop (16 + 48 * i)).take 48))

/-- Checks 3 to 6 of Table 18.5 on an image: the code of the first to fail. -/
def imageErr (b : List Byte) : Option Nat :=
  let c := iComp b
  let n := fieldLE b 0x0C 4
  let hdr : Bool := fieldLE b 0 4 == 0x4D49534B && fieldLE b 4 1 == 1 && (bodyLimit c).isSome && 256 + n == b.length &&
    decide (n ≤ (bodyLimit c).getD 0) && allZero ((b.drop 0x0A).take 2) && allZero ((b.drop 0x50).take 48) &&
    allZero ((b.drop 0xC0).take 64) && (c != 15 || manBody (iBody b))
  if !hdr then some cHDR
  else if iKey b ≠ 1 ∧ iKey b ≠ 2 then some cKEY
  else if !ed25519Verify (Config.romKey (iKey b)) (b.take 0x80) ((b.drop 0x80).take 64) then some cSIG
  else if sha (iBody b) ≠ (b.drop 0x10).take 64 then some cDIGEST
  else none

/-- The combinations of a manifest body. -/
def manCombos (b : List Byte) : List (List Byte) :=
  (List.range (fieldLE b 2 2)).map (fun i => (b.drop (16 + 48 * i)).take 48)

/-- A manifest comes into force (R429, R444). -/
def Dev.setManifest (d : Dev) (b : List Byte) (host : Bool) : Dev :=
  let body := iBody b
  let d : Dev := { d with boot := { d.boot with combos := manCombos body } }
  let d := ((bootFld d fBOOT_MAN_VALID 1).set .boot fBOOT_MAN_HOSTSRC 0 (if host then 1 else 0))
  let d := (d.set .boot fBOOT_MAN_NCOMB 0 (fieldLE body 2 2)).set .boot fBOOT_MAN_MVER 0 (fieldLE body 0 2)
  d.extendMr 1 (sha (b.take 0x80))

/-- The flash manifest, or NOMAN. -/
def Dev.takeManifest (d : Dev) (fl : Flash) : Dev :=
  match fl.manifest with
  | some b =>
    if (imageErr b).isNone && iComp b == 15 then d.setManifest b false
    else (bootFld d fBOOT_STAT_NOMAN 1).raise .boot 2 2
  | none => (bootFld d fBOOT_STAT_NOMAN 1).raise .boot 2 2

/-- Table 18.1 step 4 ends: READY, or after a device reset STAGING (R434); a device whose self-test failed stays FAILED until the next
power-up (R420). -/
def initDone (d : Dev) (fl : Flash) (raw : BitVec 4096) : Dev :=
  if d.bootState ≠ 0 ∨ d.inReset .boot = true then d
  else
    let d := d.extendMr 0 (sha Config.romImage)
    let d := ((d.takeIdentity fl raw).takeCerts fl).takeManifest fl
    if d.on .boot fBOOT_BIST_FAIL_VALID 0 then bootSt d 6
    else if d.on .boot fBOOT_STAT_WARM 0 then bootSt d.measurePlan 4 else bootSt d 1

def execPyrunoInitDone (fl : Flash) (raw : BitVec 4096) (s : State) : Out := onDev (fun d => initDone d fl raw) s

/-! ### Component state (R424, R428) -/

def Dev.compLoaded (d : Dev) (c : Nat) : Bool := decide (c < 2) || d.on .boot fBOOT_COMP_LOADED c
def Dev.compVer (d : Dev) (c : Nat) : Nat :=
  if c = 0 then 0x4101 else if c = 1 then Config.romVersion % 65536 else d.get .boot fBOOT_COMP_VERSION c
def Dev.compEpoch (d : Dev) (c : Nat) : Nat :=
  if c = 0 then 1 else if c = 1 then Config.romEpoch % 256 else d.get .boot fBOOT_COMP_EPOCH c

/-- A set of components, as (component, version, epoch). -/
abbrev CompSet := List (Nat × Nat × Nat)

/-- The combination fits every component of the set. -/
def fits (cmb : List Byte) (set : CompSet) : Bool :=
  set.all (fun e =>
    let o := 6 + 6 * e.1
    e.2.2 == fieldLE cmb (o + 4) 1 && decide (fieldLE cmb o 2 ≤ e.2.1) && decide (e.2.1 ≤ fieldLE cmb (o + 2) 2))

/-- The set checked at a STAGE: everything loaded, and the candidate in place of its own component. -/
def Dev.setWith (d : Dev) (b : List Byte) : CompSet :=
  ((List.range 7).filter (fun c => d.compLoaded c && c != iComp b)).map (fun c => (c, d.compVer c, d.compEpoch c)) ++
    [(iComp b, iVer b, iEpoch b)]

/-- The boot buffer's bytes with an image in place of its component's. -/
def Dev.bufferWith (d : Dev) (b : List Byte) : Nat :=
  (d.boot.images.filter (fun x : Image => x.comp != iComp b)).foldl (fun n x => n + x.bytes.length) b.length

/-- Checks 7 to 11 of Table 18.5. -/
def Dev.admitErr (d : Dev) (b : List Byte) : Option Nat :=
  let c := iComp b
  if c ≠ 15 ∧ d.on .boot fBOOT_COMP_STARTED c = true then some cACTIVE
  else
    let e :=
      if c = 15 then
        (if (List.range 5).any (fun i => d.compLoaded (i + 2)) then some cSTATE
         else if d.on .boot fBOOT_MAN_VALID 0 = true ∧ fieldLE (iBody b) 0 2 < d.get .boot fBOOT_MAN_MVER 0 then some cMANOLD
         else none)
      else if !d.on .boot fBOOT_MAN_VALID 0 then some cNOMANIFEST
      else if (d.boot.combos ++ d.boot.overrides).any (fun m => fits m (d.setWith b)) then none
      else some cINCOMPAT
    match e with
    | some x => some x
    | none => if 2 ^ 26 < d.bufferWith b then some cSIZE else none

/-- The image is accepted, measured, and broadcast at once if it is the runtime of a running device (R431, R444). -/
def Dev.acceptImage (d : Dev) (b : List Byte) : Dev :=
  let c := iComp b
  let hasOver := !d.boot.combos.any (fun m => fits m (d.setWith b))
  let set := d.setWith b
  let kept := d.boot.images.filter (fun x : Image => x.comp != c)
  let d : Dev := { d with boot := { d.boot with images := kept ++ [⟨c, b⟩] } }
  if c = 15 then d.setManifest b true
  else
    let d := ((d.set .boot fBOOT_COMP_LOADED c 1).set .boot fBOOT_COMP_VERSION c (iVer b)).set .boot fBOOT_COMP_EPOCH c (iEpoch b)
    let d := if hasOver then set.foldl (fun d e => d.set .boot fBOOT_COMP_OVR e.1 1) d else d
    let d := d.extendMr c (sha (b.take 0x80))
    if c = 6 ∧ d.bootState = 5 then
      (let d := d.set .boot fBOOT_COMP_STARTED 6 1
       { d with boot := { d.boot with rtStore := true } })
    else d

/-! ### The source of a command -/

/-- The command's source: a PCIe address, or a device address; and its length. -/
def Dev.bootSrc (d : Dev) : Bool × Nat := (d.boot.src.testBit 63, d.boot.src % 2 ^ 63)
def Dev.bootLen (d : Dev) : Nat := d.boot.len

/-- The source lies wholly in one staging range (R426). -/
def inStaging (a n : Nat) : Bool :=
  let s := a / 2 ^ 37
  decide (s < 20) && s % 5 == 0 && decide (0x11FC000000 ≤ a % 2 ^ 37) && decide (a % 2 ^ 37 + n ≤ 0x1200000000)

/-- The identity of the device controller's own reads and writes of host memory (R425, R448). -/
def pfId (f : Nat) : HostId := { fn := f, pasid := none, translated := false }

/-- The bytes read: those that have come from the host, or those of device memory as they stand. -/
def Dev.bootData (d : Dev) (data : List Byte) (ans : Answer) : Option (List Byte) :=
  let src := d.bootSrc
  let n := d.bootLen
  if src.1 then (if ans = .ok ∧ data.length = n ∧ (d.func 0).busMaster = true then some data else none)
  else if !inStaging src.2 n || d.inReset (pStk (src.2 / 2 ^ 37)) || d.get (pStk (src.2 / 2 ^ 37)) fSTK_STAT_STATE 0 != 2 then none
  else match d.readCoherent src.2 n with
    | (b, false) => some b
    | (_, true) => none

/-! ### Commands (R419) -/

/-- Whether a command is taken: not after the seal, and only in a state that allows it. -/
def bootTake (d : Dev) (states : List Nat) (f : Dev → Dev) : Dev :=
  if d.isSealed then bootCode d cSEALED
  else if states.contains d.bootState then f d
  else bootCode d cSTATE

/-- Clocks start, at 1.50 GHz (R420). -/
def selftestStart (d : Dev) : Dev :=
  let d := d.modPower (fun p => { p with
    locked := (List.range 20).foldl (fun m k => NMap.put m k true false) p.locked,
    press := (List.range 8).foldl (fun m x => NMap.put m x 30 45) p.press })
  bootSt (bootBusy (bootCode d 0) 1) 2

/-- The floor plan is committed (R421). -/
def fpCommit (d : Dev) : Dev :=
  let d : Dev := { d with boot := { d.boot with committed := true } }
  bootSt (bootCode d.measurePlan 0) 4

/-- The length and source of a STAGE are legal (check 1 of Table 18.5). -/
def Dev.stageSizeOk (d : Dev) : Bool :=
  decide (272 ≤ d.bootLen ∧ d.bootLen ≤ 256 + 2 ^ 25) && (d.bootSrc.1 || inStaging d.bootSrc.2 d.bootLen)

/-- STAGE or LICENCE is accepted: its source is read, unless its length already refuses it. -/
def bootRead (d : Dev) (busy : Nat) : Dev :=
  let d := bootBusy (bootCode d 0) busy
  let d : Dev := { d with boot := { d.boot with src := d.get64 .boot 0x108 0, len := d.get .boot fBOOT_LEN_LEN 0 } }
  let src := d.bootSrc
  let sized := if busy = 3 then d.stageSizeOk else decide (d.bootLen ≤ 4096)
  if sized && src.1 && (d.func 0).busMaster && d.hostUp then
    { d.send (.hostRead d.nextReq (pfId 0) src.2 d.bootLen) with nextReq := d.nextReq + 1 }
  else d

/-- START is accepted, or refused for a missing image; in a sealed arrangement the host link retrains (R418, R431). -/
def bootStart (d : Dev) : Dev :=
  if !(List.range 4).all (fun i => d.compLoaded (i + 2)) then bootCode d cMISSING
  else
    let d := bootBusy (bootCode d 0) 5
    if d.isSealedOp then linkDown d else d

/-- A write of BOOT_CMD. -/
def bootCmd (d : Dev) (val : Nat) : Dev :=
  let v := val % 32
  if v = 0 then d
  else if d.boot.busy ≠ 0 ∨ (v ≠ 1 ∧ v ≠ 2 ∧ v ≠ 4 ∧ v ≠ 8 ∧ v ≠ 16) then bootIll d
  else match v with
    | 1 => bootTake d [1] selftestStart
    | 2 => bootTake d [3] fpCommit
    | 4 => bootTake d [4, 5] (fun d => bootRead d 3)
    | 8 => bootTake d [4, 5] (fun d => bootRead d 4)
    | _ => bootTake d [4] bootStart

def bootVia (via : Via) (val : Nat) (s : State) : Out := onDev (fun d => d.viaWrite via .boot (fun d => bootCmd d val)) s
def execSelftest (via : Via) (s : State) : Out := bootVia via 1 s
def execFpcommit (via : Via) (s : State) : Out := bootVia via 2 s
def execStage (via : Via) (s : State) : Out := bootVia via 4 s
def execLicence (via : Via) (s : State) : Out := bootVia via 8 s
def execStart (via : Via) (s : State) : Out := bootVia via 16 s

/-- A write of BOOT_FP_MARK (R422). -/
def markWrite (d : Dev) (val : Nat) : Dev :=
  let col := bitsOf val 20 16
  if !val.testBit 0 then d
  else if d.boot.busy ≠ 0 ∨ 24 < col then bootIll d
  else bootTake d [3] (fun d =>
    bootCode (d.addDefects (d.get .boot fBOOT_FP_IDX_DIE 0) (d.get .boot fBOOT_FP_IDX_ROW 0) (2 ^ col)) 0)

def execMark (via : Via) (col : Fin 32) (s : State) : Out :=
  onDev (fun d => d.viaWrite via .boot (fun d => markWrite d (col.val * 65536 + 1))) s

/-! ### Completions -/

/-- Self-test ends: FLOORPLAN with the defects found, or FAILED. -/
def selftestDone (d : Dev) (defects : List CoreId) (fail : Option (DieRef × Byte)) (nfail : Nat) : Dev :=
  if d.boot.busy ≠ 1 then d
  else
    let d := defects.foldl (fun d c => d.addDefects c.die.val c.row.val (2 ^ c.col.val)) d
    let d := d.modPower (fun p => { p with press := [] })
    match fail with
    | none => bootSt (bootDone d 0) 3
    | some (w, t) =>
      let d := ((bootFld d fBOOT_BIST_FAIL_VALID 1).set .boot fBOOT_BIST_FAIL_COUNT 0 (min nfail 255)).set .boot
        fBOOT_BIST_FAIL_DIE 0 (dieNo w)
      let d := d.set .boot fBOOT_BIST_FAIL_TYPE 0 t.toNat
      (bootSt (bootDone d cBISTFAIL) 6).raise .boot 1 (dieNo w * 4096 + t.toNat)

def execSelftestDone (defects : List CoreId) (fail : Option (DieRef × Byte)) (nfail : Byte) (s : State) : Out :=
  onDev (fun d => selftestDone d defects fail nfail.toNat) s

/-- The chunk of a broadcast image that waited for its check is answered (R333). -/
def Dev.ackStage (d : Dev) (status : Nat) : Dev :=
  match d.chapel.stageAck with
  | none => d
  | some (dst, seq) => ({ d with chapel := { d.chapel with stageAck := none } }).sendAck dst seq status

/-! ### The broadcast of an image (R333) -/

/-- The staging range broadcasts are assembled in: of Q0, or of the lowest quadrant of the channel that holds the mailbox (R426). -/
def Dev.stagingBase (d : Dev) : Nat :=
  let q := if d.isSealedOp then (d.quadsOf (d.chanOf (d.get64 .dctl 0x130 0 % 2 ^ 48 / 2 ^ 37 / 5))).headD 0 else 0
  5 * q * 2 ^ 37 + 0x11FC000000

/-- The other members of this device's ring of dimension 0, and of dimension 1. -/
def Dev.ring0 (d : Dev) : List Nat :=
  ((List.range (d.torusLen 0)).map (fun y => d.devId / 16 * 16 + y)).filter (fun z => z != d.devId)
def Dev.ring1 (d : Dev) : List Nat :=
  let x := d.devId
  ((List.range (d.torusLen 1)).map (fun y => x - x / 16 % 16 * 16 + y * 16)).filter (fun z => z != x)

/-- The payload of FW_CHUNK. -/
def chunkBody (comp off len relay : Nat) : List Byte := leBytes 4 comp ++ leBytes 8 off ++ leBytes 4 len ++ leBytes 1 relay

/-- One chunk and its announcement go to some members. -/
def Dev.passChunk (d : Dev) (to_ : List Nat) (comp off relay : Nat) (bytes : List Byte) : Dev :=
  to_.foldl (fun d x => (d.sendChunk x (d.stagingBase + off) bytes).sendMbox x 2 (chunkBody comp off bytes.length relay)) d

/-- The chunks of 1 MiB an image takes. -/
def chunksOf (b : List Byte) : Nat := (b.length + 2 ^ 20 - 1) / 2 ^ 20

/-- One chunk of an image a manager delivers: to the dimension 0 neighbours, which relay it, and to those of dimension 1. The
last chunk's messages are what the delivery waits for. -/
def Dev.castChunk (d : Dev) (comp off : Nat) (last : Bool) (bytes : List Byte) : Dev :=
  let seqs := (d.ring0 ++ d.ring1).map (fun x => (x, NMap.get d.chapel.seqOut x 0))
  let d := (d.passChunk d.ring0 comp off 1 bytes).passChunk d.ring1 comp off 0 bytes
  if last then { d with chapel := { d.chapel with casts := d.chapel.casts ++ [(comp, seqs)] } } else d

/-- A manager delivers an image to its chapel, chunk by chunk of 1 MiB (Table 13.5, step 1). When it does so is the model's choice: as
it accepts an image itself (log entry 136). -/
def Dev.castImage (d : Dev) (comp : Nat) (b : List Byte) : Dev :=
  if !d.isMgr || !d.power.running then d
  else
    (List.range (chunksOf b)).foldl (fun d i =>
      d.castChunk comp (i * 2 ^ 20) (decide (b.length ≤ (i + 1) * 2 ^ 20)) ((b.drop (i * 2 ^ 20)).take (2 ^ 20))) d

/-- STAGE ends (Table 18.5). -/
def stageEnd (d : Dev) (data : List Byte) (ans : Answer) : Dev :=
  if d.boot.busy ≠ 3 then d
  else
    let err :=
      if !d.stageSizeOk then Sum.inl cSIZE
      else match d.bootData data ans with
        | none => Sum.inl cFETCH
        | some b => match imageErr b with
          | some e => Sum.inl e
          | none => match d.admitErr b with
            | some e => Sum.inl e
            | none => Sum.inr b
    match err with
    | .inl e => (bootRefuse d e).ackStage 1
    | .inr b => ((bootDone (d.acceptImage b) 0).ackStage 0).castImage (iComp b) b

def execStageComplete (data : List Byte) (ans : Answer) (s : State) : Out := onDev (fun d => stageEnd d data ans) s

/-! ### Licences (R430, R450, R451) -/

/-- The token's bytes, by its own length. -/
def licLen (b : List Byte) : Nat := fieldLE b 8 2

/-- The checks of a token: the code of the first to fail. -/
def Dev.licErr (d : Dev) (b : List Byte) : Option Nat :=
  let n := licLen b
  let t := b.take n
  let kind := fieldLE b 5 1
  if n < 64 ∨ b.length < n ∨ fieldLE b 6 1 ≠ 0x10 ∨
     ed25519Verify (Config.romKey 0x10) (t.take (n - 64)) (t.drop (n - 64)) = false then some cLICSIG
  else if d.on .boot fBOOT_STAT_NOID 0 = true ∨ fieldLE b 0x10 16 ≠ d.devUid then some cLICBIND
  else if fieldLE b 0 4 ≠ 0x43494C4B ∨ fieldLE b 4 1 ≠ 1 ∨ ¬((kind = 1 ∧ n = 96) ∨ (kind = 2 ∧ n = 144)) then some cLICKIND
  else none

/-- A token is applied for the first time. -/
def Dev.applyLic (d : Dev) (t : List Byte) : Dev :=
  let d : Dev := { d with boot := { d.boot with licences := d.boot.licences ++ [sha t] } }
  let d := d.extendMr 7 (sha t)
  if fieldLE t 5 1 = 1 then (d.set .dctl fDCTL_ROLE_LIC 0 1).set .boot fBOOT_LIC_MGR 0 1
  else
    let d : Dev := { d with boot := { d.boot with overrides := d.boot.overrides ++ [(t.drop 0x20).take 48] } }
    d.bump .boot fBOOT_LIC_NOVR 0 1

/-- LICENCE ends. -/
def licenceEnd (d : Dev) (data : List Byte) (ans : Answer) : Dev :=
  if d.boot.busy ≠ 4 then d
  else if 4096 < d.bootLen then bootRefuse d cSIZE
  else match d.bootData data ans with
    | none => bootRefuse d cFETCH
    | some b => match d.licErr b with
      | some e => bootRefuse d e
      | none =>
        let t := b.take (licLen b)
        if d.boot.licences.contains (sha t) then bootDone d 0
        else if 30 ≤ d.boot.licences.length then bootRefuse d cSIZE
        else bootDone (d.applyLic t) 0

def execLicenceComplete (data : List Byte) (ans : Answer) (s : State) : Out := onDev (fun d => licenceEnd d data ans) s

/-! ### START (R431, R454) -/

def startEnd (d : Dev) : Dev :=
  if d.boot.busy ≠ 5 then d
  else
    let d := [2, 3, 4, 5].foldl (fun d c => d.set .boot fBOOT_COMP_STARTED c 1) d
    let rt := d.compLoaded 6
    let d := if rt then d.set .boot fBOOT_COMP_STARTED 6 1 else d
    let d : Dev := { d with boot := { d.boot with rtStore := rt }, power := { d.power with running := true } }
    let t := d.trust
    let same := match t.lastArr with
      | some a => a == d.arr?
      | none => true
    let t' : Trust := { t with lastArr := some d.arr?, keys := if same then t.keys else [], loaded := if same then t.loaded else [] }
    bootSt (bootDone { d with trust := t' } 0) 5

def execStartComplete (s : State) : Out := onDev startEnd s

end Sys2Proof.Machine
end

