-- ==== Sys2Proof/Machine/Chapel.lean ====
section
/-!
DEFINITION. Management between devices (chapter 13, R331 to R335): the messages of the mailbox, the firmware broadcast, the
coordinated restart of links and the arbitration of faults.
-/

namespace Sys2Proof.Machine

open Sys2Proof

def Dev.modChapel (d : Dev) (f : Chapel → Chapel) : Dev := { d with chapel := f d.chapel }

/-- The first copy of a message is acted on, the second discarded (R332): SEQ counts per sender and lane. -/
def Dev.receive (d : Dev) (m : MboxMsg) (f : Dev → Dev) : Dev :=
  if !d.power.running then d
  else
    let k := m.lane.val * 65536 + m.src.toNat
    let seen := NMap.get d.chapel.seen k []
    if seen.contains m.seq.toNat then d
    else f (d.modChapel (fun c => { c with seen := NMap.put c.seen k ((m.seq.toNat :: seen).take 16) [] }))

/-- Answers a message. -/
def Dev.answerMsg (d : Dev) (m : MboxMsg) (status : Nat) : Dev := d.sendAck m.src.toNat m.seq.toNat status

/-- A field of a payload. -/
def msgFld (m : MboxMsg) (off n : Nat) : Nat := fieldLE m.payload off n

/-! ### Members and failures (R335) -/

/-- The devices of this device's chapel but itself. -/
def Dev.members (d : Dev) : List Nat :=
  let base := d.devId / 256 * 256
  ((List.range 256).filter (fun i => decide (i % 16 < d.torusLen 0) && decide (i / 16 < d.torusLen 1))).map (fun i => base + i)
    |>.filter (fun x => x != d.devId)

/-- A manager records a device as failed: the other members are told, and the top manager, each time (log entry 24). -/
def Dev.recordFailed (d : Dev) (dev : Nat) : Dev :=
  let d := d.modChapel (fun c => { c with failed := Set.add c.failed dev })
  let d := (d.members.filter (fun x => x != dev)).foldl (fun d x => d.sendMbox x 6 (leBytes 2 dev ++ leBytes 1 3)) d
  let f := d.free 16
  if d.isTop then d else f.2.sendMbox d.topMgr 5 (leBytes 2 dev ++ leBytes 1 3 ++ leBytes 2 f.1)

def execFaultNotice (m : MboxMsg) (s : State) : Out :=
  onDev (fun d => d.receive m (fun d =>
    if !d.isMgr then d.answerMsg m 1
    else
      let named := msgFld m 0 2
      let cause := msgFld m 2 1
      let synd := msgFld m 3 2
      let d := if cause = 1 ∧ 2 ≤ portDim (synd % 16) ∧ d.isTop = false then
          -- passed on, and kept: its sender has sent a notice (R335)
          (d.modChapel (fun c => { c with notices := c.notices ++ [⟨named, m.src.toNat, cause, d.now ctlClk⟩] })).sendMbox d.topMgr 5
            (leBytes 2 named ++ leBytes 1 cause ++ leBytes 2 synd)
        else d.noteFault m.src.toNat named cause synd
      d.answerMsg m 0)) s

def execFaultRecord (m : MboxMsg) (s : State) : Out :=
  onDev (fun d => d.receive m (fun d =>
    (d.modChapel (fun c => { c with failed := Set.add c.failed (msgFld m 0 2) })).answerMsg m 0)) s

def execPlan (m : MboxMsg) (s : State) : Out :=
  onDev (fun d => d.receive m (fun d =>
    (d.modChapel (fun c => { c with plans := c.plans ++ [m.payload] })).answerMsg m 0)) s

/-- A KIND outside Table 13.4. -/
def execMailboxUnknownKind (m : MboxMsg) (kind : Byte) (s : State) : Out :=
  onDev (fun d => if 1 ≤ kind.toNat ∧ kind.toNat ≤ 7 then d else d.receive m (fun d => d.answerMsg m 1)) s

/-! ### Ends of a link (R334) -/

/-- Ports of a mask. -/
def maskPorts (mask : Nat) : List Nat := (List.range 16).filter (fun p => mask.testBit p)

/-- Step 4: each port waits for coordination and faces the device named. -/
def Dev.prepOk (d : Dev) (mask peer : Nat) : Bool :=
  (maskPorts mask).all (fun p => d.xlState p == 4 && d.get (pXl p) fXL_PEER_DEV 0 == peer)

/-- Step 6. -/
def Dev.goPorts (d : Dev) (mask : Nat) : Dev := (maskPorts mask).foldl (fun d p => xlCmd d p 1) d

/-- The number the next message to a device will have. -/
def Dev.nextSeq (d : Dev) (dst : Nat) : Nat := NMap.get d.chapel.seqOut dst 0

def linkPrep (d : Dev) (m : MboxMsg) : Dev :=
  let mask := msgFld m 0 2
  let peer := msgFld m 2 2
  let end_ := d.facing peer ((maskPorts mask).headD 0)
  let st := if d.prepOk mask peer then 0 else 1
  if m.lane.val = 256 ∧ d.isMgr = true then
    if end_ = d.devId then
      let d := d.answerMsg m st
      if st = 1 then d
      else d.modChapel (fun c => { c with relays := c.relays ++ [⟨m.src.toNat, m.seq.toNat, end_, 0, mask, 1⟩] })
    else
      let n := d.nextSeq end_
      (d.modChapel (fun c => { c with relays := c.relays ++ [⟨m.src.toNat, m.seq.toNat, end_, n, mask, 0⟩] })).sendMbox end_ 3
        (leBytes 2 mask ++ leBytes 2 peer)
  else d.answerMsg m st

def execLinkPrep (m : MboxMsg) (s : State) : Out := onDev (fun d => d.receive m (fun d => linkPrep d m)) s

def linkGo (d : Dev) (m : MboxMsg) : Dev :=
  let mask := msgFld m 0 2
  let mine (r : Relay) : Bool := r.mask == mask && r.phase == 1
  match (if m.lane.val = 256 ∧ d.isMgr = true then d.chapel.relays.find? mine else none) with
  | some r =>
    if r.dev = d.devId then ((d.modChapel (fun c => { c with relays := dropFirst mine c.relays })).goPorts mask).answerMsg m 0
    else
      let n := d.nextSeq r.dev
      let r' : Relay := { r with topSeq := m.seq.toNat, seq := n, phase := 2 }
      (d.modChapel (fun c => { c with relays := replaceFirst mine (fun _ => r') c.relays })).sendMbox r.dev 4 (leBytes 2 mask)
  | none => (d.goPorts mask).answerMsg m 0

def execLinkGo (m : MboxMsg) (s : State) : Out := onDev (fun d => d.receive m (fun d => linkGo d m)) s

/-! ### The coordinator (Table 13.6) -/

/-- LINK_GO to one end. -/
def Dev.goEnd (d : Dev) (dest : Option Nat) (mask : Nat) : Dev :=
  match dest with
  | none => d
  | some t => if t = d.devId then d.goPorts mask else d.sendMbox t 4 (leBytes 2 mask)

/-- An answer to a LINK_PREP has come for end `e` of case k: a refusal stops the coordinator, the second acceptance sends LINK_GO. -/
def Dev.endAnswers (d : Dev) (k e status : Nat) : Dev :=
  match d.chapel.links[k]? with
  | none => d
  | some l =>
    let acks := Set.add l.acks e
    if status ≠ 0 then d.modChapel (fun c => { c with links := c.links.eraseIdx k })
    else if acks.length = 2 then
      ((d.modChapel (fun c => { c with links := c.links.eraseIdx k })).goEnd l.toA l.maskA).goEnd l.toB l.maskB
    else d.modChapel (fun c => { c with links := c.links.set k { l with acks := acks } })

/-- LINK_PREP to one end of case k; the coordinator's own end checks at once. -/
def Dev.prepEnd (d : Dev) (k e : Nat) : Dev :=
  match d.chapel.links[k]? with
  | none => d
  | some l =>
    let dest := if e = 0 then l.toA else l.toB
    let mask := if e = 0 then l.maskA else l.maskB
    let peer := if e = 0 then l.endB else l.endA
    match dest with
    | none => d
    | some t =>
      if t = d.devId ∧ (if e = 0 then l.endA else l.endB) = d.devId then d.endAnswers k e (if d.prepOk mask peer then 0 else 1)
      else
        let n := d.nextSeq t
        let l' : LinkCase := if e = 0 then { l with seqA := some n } else { l with seqB := some n }
        (d.modChapel (fun c => { c with links := c.links.set k l' })).sendMbox t 3 (leBytes 2 mask ++ leBytes 2 peer)

/-- Members that two or more others have named within the window, and that have sent nothing themselves (R335). -/
def Dev.accused (d : Dev) (since : Nat) : List Nat :=
  let ns := d.chapel.notices.filter (fun n => decide (since ≤ n.at_) && n.src / 256 == d.devId / 256)
  let names := (ns.map (fun n => n.named)).eraseDups
  names.filter (fun x => x / 256 == d.devId / 256 && !ns.any (fun n => n.src == x) &&
    decide (2 ≤ ((ns.filter (fun n => n.named == x)).map (fun n => n.src)).eraseDups.length))

/-- A collection window of 10 ms (12,000,000 management cycles) ends. -/
def collectExpire (d : Dev) (k : Nat) : Dev :=
  match d.chapel.links[k]? with
  | none => d
  | some l =>
    let now := d.now ctlClk
    if l.step ≠ 0 ∨ now < l.since + 12000000 then d
    else
      let d := (d.accused l.since).foldl (fun d x => d.recordFailed x) d
      let d := d.modChapel (fun c => { c with notices := c.notices.filter (fun n => decide (now < n.at_ + 12000000)) })
      if !l.isLink then d.modChapel (fun c => { c with links := c.links.eraseIdx k })
      else
        let n := d.chapel.links.length
        let d := (d.modChapel (fun c => { c with links := c.links.set k { l with step := 1, since := now } })).prepEnd k 0
        if d.chapel.links.length = n then d.prepEnd k 1 else d

def execCoordCollectExpire (k : Nat) (s : State) : Out := onDev (fun d => collectExpire d k) s

/-- An answer is missing 50 ms (60,000,000 management cycles) after LINK_PREP: the coordinator stops, and records the silent
ends. -/
def ackTimeout (d : Dev) (k : Nat) : Dev :=
  match d.chapel.links[k]? with
  | none => d
  | some l =>
    if l.step ≠ 1 ∨ d.now ctlClk < l.since + 60000000 then d
    else
      let d := d.modChapel (fun c => { c with links := c.links.eraseIdx k })
      let d := if l.acks.contains 0 then d else d.recordFailed l.endA
      if l.acks.contains 1 then d else d.recordFailed l.endB

def execCoordAckTimeout (k : Nat) (s : State) : Out := onDev (fun d => ackTimeout d k) s

/-- A member has not answered a manager's message for 50 ms. -/
def memberTimeout (d : Dev) (k : Nat) : Dev :=
  match d.chapel.unanswered[k]? with
  | none => d
  | some m =>
    if d.now ctlClk < m.at_ + 60000000 ∨ d.isMgr = false ∨ m.dst / 256 ≠ d.devId / 256 then d
    else ((d.modChapel (fun c => { c with unanswered := c.unanswered.eraseIdx k })).recordFailed m.dst).flushMbox 16

def execMemberAckTimeout (k : Nat) (s : State) : Out := onDev (fun d => memberTimeout d k) s

/-- The index of the first case whose LINK_PREP a message answers, and the end. -/
def Dev.caseOf (d : Dev) (src seq : Nat) : Option (Nat × Nat) :=
  (List.range d.chapel.links.length).findSome? (fun k =>
    match d.chapel.links[k]? with
    | some l =>
      if l.step = 1 ∧ l.toA = some src ∧ l.seqA = some seq then some (k, 0)
      else if l.step = 1 ∧ l.toB = some src ∧ l.seqB = some seq then some (k, 1)
      else none
    | none => none)

/-- An ACK arrives: the message it answers is done; it is passed on to the top manager, or is an end's answer to the coordinator. -/
def ackMsg (d : Dev) (m : MboxMsg) : Dev :=
  let src := m.src.toNat
  let seq := msgFld m 0 4
  let status := msgFld m 4 1
  let d := d.modChapel (fun c => { c with unanswered := dropFirst (fun u => u.dst == src && u.seq == seq) c.unanswered })
  let mine (r : Relay) : Bool := r.dev == src && r.seq == seq && r.phase != 1
  let d := match d.chapel.relays.find? mine with
    | some r =>
      let keep := r.phase == 0 && status == 0
      let rs (l : List Relay) : List Relay := if keep then replaceFirst mine (fun r => { r with phase := 1 }) l else dropFirst mine l
      (d.modChapel (fun c => { c with relays := rs c.relays })).sendAck r.top r.topSeq status
    | none => d
  let d := d.modChapel (fun c =>
    let casts := c.casts.map (fun e => (e.1, dropFirst (fun x => x == (src, seq)) e.2))
    -- an image is delivered with the last answer (Table 13.5, step 4)
    { c with casts := casts.filter (fun e => !e.2.isEmpty),
             delivered := (casts.filter (fun e => e.2.isEmpty)).foldl (fun l e => Set.add l e.1) c.delivered })
  let d := match d.caseOf src seq with
    | some (k, e) => d.endAnswers k e status
    | none => d
  d.flushMbox 16

def execAck (m : MboxMsg) (s : State) : Out := onDev (fun d => d.receive m (fun d => ackMsg d m)) s

/-! ### Firmware broadcast (R333) -/

/-- The chunks of a component cover its first n bytes. -/
def covered (cs : List (Nat × Nat × Nat)) (comp n : Nat) : Nat → Nat → Bool
  | 0, at_ => decide (n ≤ at_)
  | fuel + 1, at_ =>
    if n ≤ at_ then true
    else match cs.find? (fun c => c.1 == comp && decide (c.2.1 ≤ at_) && decide (at_ < c.2.1 + c.2.2)) with
      | some c => covered cs comp n fuel (c.2.1 + c.2.2)
      | none => false

/-- A chunk is announced: a ring member passes it on; after the last, the image is staged, and its check is the answer. -/
def fwChunk (d : Dev) (m : MboxMsg) : Dev :=
  let comp := msgFld m 0 4
  let off := msgFld m 4 8
  let len := msgFld m 12 4
  let relay := msgFld m 16 1
  let base := d.stagingBase
  if 2 ^ 26 < off + len then d.answerMsg m 1
  else
    let d := if relay = 1 then d.passChunk d.ring1 comp off 0 (d.readCoherent (base + off) len).1 else d
    let d := d.modChapel (fun c => { c with chunks := c.chunks ++ [(comp, off, len)] })
    let cs := d.chapel.chunks
    let total := 256 + leNat (d.readCoherent (base + 0x0C) 4).1
    if covered cs comp 256 cs.length 0 && covered cs comp total cs.length 0 then
      let d := d.modChapel (fun c => { c with chunks := c.chunks.filter (fun e => e.1 != comp) })
      if d.boot.busy ≠ 0 ∨ d.isSealed = true ∨ (d.bootState ≠ 4 ∧ d.bootState ≠ 5) then d.answerMsg m 1
      else
        let d := (d.setWord .boot 0x108 0 (base % 2 ^ 32)).setWord .boot 0x10C 0 (base / 2 ^ 32)
        let d := bootCmd (d.set .boot fBOOT_LEN_LEN 0 total) 4
        d.modChapel (fun c => { c with stageAck := some (m.src.toNat, m.seq.toNat) })
    else d.answerMsg m 0

def execFwChunk (m : MboxMsg) (s : State) : Out := onDev (fun d => d.receive m (fun d => fwChunk d m)) s

/-! ### DCTL_CHAPEL (R331) -/

def chapelWrite (d : Dev) (val : Nat) : Dev :=
  if bitsOf val 15 8 ≠ d.devId / 256 then d.set .dctl fDCTL_ROLE_ILL 0 1
  else (d.swField .dctl fDCTL_CHAPEL_TOP 0 val).swField .dctl fDCTL_CHAPEL_MGR 0 val

def execDctlChapelWrite (via : Via) (val : Word) (s : State) : Out :=
  onDev (fun d => d.viaWrite via .dctl (fun d => chapelWrite d val.toNat)) s

end Sys2Proof.Machine
end

