-- ==== Sys2Proof/Machine/Identity.lean ====
section
/-!
DEFINITION. Attestation reports, certificates and measurements on command (R440 to R448), the key stores (R452 to R454) and the
SPDM responder of the DOE mailboxes (R449, R456).
-/

namespace Sys2Proof.Machine

open Sys2Proof

def Dev.modTrust (d : Dev) (f : Trust → Trust) : Dev := { d with trust := f d.trust }

/-- The device has derived an identity (R438, R439). -/
def Dev.hasId (d : Dev) : Bool := d.bootState != 0 && !d.on .boot fBOOT_STAT_NOID 0

/-- The chain of R440 as CERT writes it: the CA certificate, then the device certificate. -/
def Dev.chain (d : Dev) : List Byte := d.boot.caCert ++ d.boot.devCert
def Dev.noCert (d : Dev) : Bool := d.bootState == 0 || d.on .dctl fDCTL_ID_STAT_NOCERT 0

/-- The key under which measurement register m of a channel stands: MR9 and MR12 to MR15 exist once per channel (R444). -/
def mrKey (ch m : Nat) : Nat := if m = 9 ∨ 12 ≤ m then 16 * (ch + 1) + m else m
def Dev.mr (d : Dev) (ch m : Nat) : BitVec 512 := NMap.get d.boot.mrs (mrKey ch m) 0

/-! ### The report (Table 19.5) -/

/-- A bit of a byte. -/
def bit (b : Bool) (i : Nat) : Nat := if b then 2 ^ i else 0

/-- BOOT_FP_SUM: logical cores and standby spares of the floor plan in force. -/
def Dev.fpLogical (d : Dev) : Nat := (List.range 192).foldl (fun n i => n + d.nLog (i / 24) (i % 24)) 0
def Dev.fpSpares (d : Dev) : Nat := ((List.range 192).filter (fun i => d.hasSpare (i / 24) (i % 24))).length

/-- FLAGS. -/
def Dev.repFlags (d : Dev) : Nat :=
  bit d.isSealed 0 + bit (d.on .boot fBOOT_STAT_WARM 0) 1 + bit (d.on .boot fBOOT_STAT_NOMAN 0) 2 +
  bit (d.on .boot fBOOT_MAN_HOSTSRC 0) 3 + bit ((List.range 7).any (fun c => d.on .boot fBOOT_COMP_OVR c)) 4 + bit d.noCert 5

/-- COMPS: the entry of a component. -/
def Dev.repComp (d : Dev) (c : Nat) : List Byte :=
  leBytes 1 c ++ leBytes 1 (bit (d.compLoaded c) 0 + bit (d.on .boot fBOOT_COMP_STARTED c) 1 + bit (d.on .boot fBOOT_COMP_OVR c) 2) ++
    leBytes 2 (d.compVer c) ++ leBytes 1 (d.compEpoch c) ++ leBytes 3 0

/-- PORTS: the entry of a port, zero outside the channel. -/
def Dev.repPort (d : Dev) (ch p : Nat) : List Byte :=
  if d.chanOf (p / 4) ≠ ch then leBytes 24 0
  else
    let s := d.port p
    leBytes 1 (d.get (pXl p) fXL_STAT_STATE 0) ++
      leBytes 1 (bit (d.on (pXl p) fXL_CFG_ENC 0) 0 + bit (d.on (pXl p) fXL_CFG_COORD 0) 1 + bit s.verified 2) ++ leBytes 6 0 ++
      leBytes 16 s.peerUid.toNat

/-- STACKS: the byte of a stack, zero outside the channel. -/
def Dev.repStack (d : Dev) (ch t : Nat) : Nat :=
  if d.chanOf (t / 5) ≠ ch then 0
  else
    d.get (pStk t) fSTK_ENC_EN 0 + 2 * d.get (pStk t) fSTK_ENC_MODE 0 + 4 * d.get (pStk t) fSTK_STAT_STATE 0 + 128

/-- Home units, counter blocks and Case slices of a partition of a channel. -/
def Dev.unitsOf (d : Dev) (ch part : Nat) : Nat :=
  (d.quadsOf ch).foldl (fun n q => n + ((List.range 360).filter (fun u => d.get (pQctl q) fQCTL_HMAP_PART u == part)).length) 0
def Dev.cblksOf (d : Dev) (ch part : Nat) : Nat :=
  (d.quadsOf ch).foldl (fun n q => n + ((List.range 64).filter (fun b => d.get (pQctl q) fQCTL_CTRMAP_PART b == part)).length) 0
def Dev.slicesOf (d : Dev) (ch part : Nat) : Nat :=
  (d.quadsOf ch).foldl (fun n q => n + ((List.range 16).filter (fun s => d.get (pCase q s) fCASE_PART_PART 0 == part)).length) 0

/-- PARTS: the entry of a partition, zero for a number the channel does not have. -/
def Dev.repPart (d : Dev) (ch part : Nat) : List Byte :=
  if d.nPart ≤ part then leBytes 8 0
  else
    let p := pHst ch
    leBytes 2 (d.unitsOf ch part) ++ leBytes 2 (d.cblksOf ch part) ++ leBytes 1 (d.slicesOf ch part) ++
      leBytes 1 (d.get p fHST_PTAG_VALID part + 2 * d.get p fHST_PTAG_ATS part + 4 * d.get p fHST_PTAG_PASIDEN part) ++
      leBytes 1 (d.get p fHST_PTAG_FN part) ++ leBytes 1 0

/-- Bytes 0x480 to 0x81F: ports, stacks and partitions of a channel; MR9's event (Table 19.4). -/
def Dev.repConfig (d : Dev) (ch : Nat) : List Byte :=
  (List.range 16).flatMap (fun p => d.repPort ch p) ++ (List.range 20).flatMap (fun t => leBytes 1 (d.repStack ch t)) ++
    leBytes 4 0 ++ leBytes 8 0 ++ (List.range 64).flatMap (fun k => d.repPart ch k)

/-- The report of a channel but for its signature: `nonce`, and the number of this report (R446). -/
def Dev.repBody (d : Dev) (ch : Nat) (nonce : BitVec 256) (count : Nat) : List Byte :=
  let n := d.boot.licences.length
  leBytes 4 0x54413953 ++ leBytes 1 1 ++ leBytes 1 d.repFlags ++ leBytes 2 (2144 + 64 * n) ++ leBytes 1 ch ++ leBytes 1 d.arr? ++
    leBytes 1 (d.get .dctl fDCTL_ARRANGE_TMODE 0) ++ leBytes 1 n ++ leBytes 2 (d.get .dctl fDCTL_DEVID_DEV 0) ++
    leBytes 2 (d.get .boot fBOOT_MAN_MVER 0) ++ leBytes 16 d.devUid ++ leBytes 32 nonce.toNat ++ leBytes 4 count ++
    leBytes 2 (d.compVer 0) ++ leBytes 2 (d.compVer 1) ++ leBytes 2 d.fpLogical ++ leBytes 1 d.fpSpares ++ leBytes 5 0 ++
    (List.range 5).flatMap (fun i => d.repComp (i + 2)) ++ leBytes 8 0 ++
    (List.range 16).flatMap (fun m => digestBytes (d.mr ch m)) ++ d.repConfig ch ++ d.boot.licences.flatMap (fun x => x)

/-- The report with its signature (R447). -/
def Dev.signReport (d : Dev) (body : List Byte) : List Byte := body ++ ed25519Sign d.boot.devSeed (labelATT ++ body)

/-- A report of a channel is made and counted (R448). -/
def Dev.makeReport (d : Dev) (ch : Nat) (nonce : BitVec 256) : List Byte × Dev :=
  let n := NMap.get d.trust.attCount ch 0 + 1
  (d.signReport (d.repBody ch nonce n), d.modTrust (fun t => { t with attCount := NMap.put t.attCount ch n 0 }))

/-! ### HST_ATT_CMD -/

/-- NONCE as the requester has written it. -/
def Dev.attNonce (d : Dev) (ch : Nat) : BitVec 256 :=
  BitVec.ofNat 256 (leNat ((List.range 8).flatMap (fun i => leBytes 4 (d.get (pHst ch) fHST_ATT_NONCE_DATA i))))
def Dev.attAddr (d : Dev) (ch : Nat) : Nat := d.get64 (pHst ch) 0x188 0 / 64 * 64

/-- A command ends. -/
def Dev.attEnd (d : Dev) (ch code len : Nat) : Dev :=
  let p := pHst ch
  let d := ((d.set p fHST_ATT_STAT_BUSY 0 0).set p fHST_ATT_STAT_CODE 0 code).set p fHST_ATT_STAT_LEN 0 len
  d.modTrust (fun t => { t with att := NMap.put t.att ch 0 0, attBytes := NMap.put t.attBytes ch [] [], attTo := NMap.put t.attTo ch 0 0 })

/-- A command is accepted: `n` as in `Trust.att`, the bytes it will write, and the address as it stands (R448). -/
def Dev.attBegin (d : Dev) (ch n : Nat) (bytes : List Byte) : Dev :=
  (d.set (pHst ch) fHST_ATT_STAT_BUSY 0 1).modTrust (fun t =>
    { t with att := NMap.put t.att ch n 0, attBytes := NMap.put t.attBytes ch bytes [], attTo := NMap.put t.attTo ch (d.attAddr ch) 0 })

/-- EXTEND asks for its 64 bytes under the identity of the channel's physical function. -/
def Dev.attExtend (d : Dev) (ch m : Nat) : Dev :=
  let d := d.attBegin ch (3 + m) []
  if d.hostUp then { d.send (.hostRead d.nextReq (pfId (if d.isSealedOp then ch else 0)) (d.attAddr ch) 64) with nextReq := d.nextReq + 1 } else d

/-- A write of HST_ATT_CMD: 9:8 MRIDX, 2 EXTEND, 1 CERT, 0 REPORT. -/
def attWrite (d : Dev) (ch val : Nat) : Dev :=
  let p := pHst ch
  let v := val % 8
  if d.on p fHST_ATT_STAT_BUSY 0 || (v != 0 && v != 1 && v != 2 && v != 4) then d.set p fHST_ATT_STAT_ILL 0 1
  else
    let d := d.swField p fHST_ATT_CMD_MRIDX 0 val
    match v with
    | 1 =>
      if !d.hasId then d.attEnd ch 1 0
      else
        let x := d.makeReport ch (d.attNonce ch)
        x.2.attBegin ch 1 x.1
    | 2 => if d.noCert then d.attEnd ch 2 0 else d.attBegin ch 2 d.chain
    | 4 => d.attExtend ch (bitsOf val 9 8)
    | _ => d

def attVia (via : Via) (c : Chan) (val : Nat) (s : State) : Out :=
  onDev (fun d => d.viaWrite via (pHst c.val) (fun d => attWrite d c.val val)) s

def execReport (via : Via) (c : Chan) (s : State) : Out := attVia via c 1 s
def execCert (via : Via) (c : Chan) (s : State) : Out := attVia via c 2 s
def execExtend (via : Via) (c : Chan) (mr : Fin 4) (s : State) : Out := attVia via c (mr.val * 256 + 4) s

/-- The host access of a command ends: the bytes are written, or the 64 bytes read extend the register (R444, R448). -/
def attDone (d : Dev) (ch : Nat) (data : List Byte) (ans : Answer) : Dev :=
  let n := NMap.get d.trust.att ch 0
  let f := if d.isSealedOp then ch else 0
  let ok : Bool := decide (ans = .ok) && d.hostUp && (d.func f).tdi != 3 && !d.fencedFn f
  if n = 0 then d
  else if !ok then d.attEnd ch 3 0
  else if n < 3 then
    let b := NMap.get d.trust.attBytes ch []
    (d.send (.hostWrite (pfId f) (NMap.get d.trust.attTo ch 0) b false false)).attEnd ch 0 b.length
  else if data.length ≠ 64 then d.attEnd ch 3 0
  else (d.extendMr (mrKey ch (12 + (n - 3))) data).attEnd ch 0 0

def execAttCommandComplete (c : Chan) (data : List Byte) (ans : Answer) (s : State) : Out :=
  onDev (fun d => attDone d c.val data ans) s

/-! ### Memory keys (R452, R453) -/

/-- The slot keys data: RENEW is refused. -/
def Dev.keyInUse (d : Dev) (ch k : Nat) : Bool :=
  (List.range 20).any (fun t => d.chanOf (t / 5) == ch && d.on (pStk t) fSTK_ENC_EN 0 &&
    (if d.on (pStk t) fSTK_ENC_MODE 0 then
      (List.range 72).any (fun u => d.get (pQctl (t / 5)) fQCTL_HMAP_PART (72 * (t % 5) + u) == k)
     else k == ch)) ||
  d.srKey.any (fun e => d.chanOf (e.1 / 1024) == ch && e.2 == k + 1 && d.srState (e.1 / 1024) (e.1 / 512 % 2) != 0)

def Dev.keyOf (d : Dev) (ch k : Nat) : Option Key := d.trust.keys.find? (fun x => x.chan == ch && x.slot == k)

/-- A test of randomness has failed (R452): until a device reset nothing is drawn. -/
def Dev.entFail (d : Dev) (test : Nat) : Dev := (d.set .dctl fDCTL_ID_STAT_ENTFAIL 0 1).raise .dctl 0 test

/-- Key k takes a fresh value. -/
def Dev.drawKey (d : Dev) (ch k : Nat) : Dev :=
  let x := d.free 512
  x.2.modTrust (fun t => { t with
    keys := t.keys.filter (fun y : Key => !(y.chan == ch && y.slot == k)) ++ [⟨ch, k, BitVec.ofNat 512 x.1⟩] })

/-- A write of HST_KEY_CMD: 1 RENEW, 0 LOAD. `trng`: the randomness test this command's draw fails, 0 for none. -/
def keyWrite (d : Dev) (ch val trng : Nat) : Dev :=
  let p := pHst ch
  let k := d.get p fHST_KEY_IDX_SLOT 0
  let ill := d.set p fHST_KEY_STAT_ILL 0 1
  let v := val % 4
  let renew := v == 2
  if d.on p fHST_KEY_STAT_BUSY 0 || v == 3 then ill
  else if v = 0 then d
  else if d.nPart ≤ k then ill
  else if renew && d.keyInUse ch k then ill.set p fHST_KEY_STAT_CODE 0 1
  else if d.on .dctl fDCTL_ID_STAT_ENTFAIL 0 then d.set p fHST_KEY_STAT_CODE 0 2
  else
    let draw := renew || (d.keyOf ch k).isNone
    if draw && trng != 0 then (d.entFail trng).set p fHST_KEY_STAT_CODE 0 2
    else
      let d := if draw then d.drawKey ch k else d
      (d.set p fHST_KEY_STAT_BUSY 0 1).modTrust (fun t => { t with keyBusy := NMap.put t.keyBusy ch (k + 1) 0 })

def keyVia (via : Via) (c : Chan) (val : Nat) (trng : Fin 3) (s : State) : Out :=
  onDev (fun d => d.viaWrite via (pHst c.val) (fun d => keyWrite d c.val val trng.val)) s

def execKeyLoad (via : Via) (c : Chan) (trng : Fin 3) (s : State) : Out := keyVia via c 1 trng s
def execKeyRenew (via : Via) (c : Chan) (trng : Fin 3) (s : State) : Out := keyVia via c 2 trng s

/-- Slot k of each B-die of the channel holds key k. -/
def keyDone (d : Dev) (ch : Nat) : Dev :=
  let p := pHst ch
  let n := NMap.get d.trust.keyBusy ch 0
  if n = 0 then d
  else
    let k := n - 1
    let d := (d.set p fHST_KEY_STAT_BUSY 0 0).set p fHST_KEY_STAT_CODE 0 0
    let d := d.modTrust (fun t => { t with keyBusy := NMap.put t.keyBusy ch 0 0 })
    match d.keyOf ch k with
    | none => d
    | some x =>
      let qs := d.quadsOf ch
      d.modTrust (fun t => { t with
        loaded := t.loaded.filter (fun e => !(qs.contains e.1 && e.2.1 == k)) ++ qs.map (fun q => (q, k, x.value)) })

def execKeyCommandDone (c : Chan) (s : State) : Out := onDev (fun d => keyDone d c.val) s

/-! ### SPDM (R449). Message codes are DSP0274's (log entry 22); message bodies are opaque (log entry 4). -/

def spdmVersion : Nat := 0x04
def spdmDigests : Nat := 0x01
def spdmCertificate : Nat := 0x02
def spdmChallengeAuth : Nat := 0x03
def spdmMeasurements : Nat := 0x60
def spdmCapabilities : Nat := 0x61
def spdmAlgorithms : Nat := 0x63
def spdmKeyExchangeRsp : Nat := 0x64
def spdmFinishRsp : Nat := 0x65
def spdmEndSessionAck : Nat := 0x6C
def spdmVendor : Nat := 0x7E
def spdmError : Nat := 0x7F

/-- The function has a DOE mailbox. -/
def Dev.hasDoe (d : Dev) (f : Nat) : Bool :=
  if d.isSealedOp && d.started then decide (f < d.nChan) else f == 0

/-- A request reaches a responder; without an identity only GET_VERSION is answered (R439). -/
def Dev.spdmGo (d : Dev) (r : SpdmReq) (version : Bool) (f : Dev → Nat → Dev) : Dev :=
  if d.arrives (.pf 0) && d.hasDoe r.fn.val && (version || d.hasId) then f d r.fn.val else d

def Dev.spdmSay (d : Dev) (f code : Nat) (body : List Byte) : Dev := d.send (.spdm f code (Config.spdmBody code body))
def Dev.spdmErr (d : Dev) (f : Nat) : Dev := d.spdmSay f spdmError []

/-- Slot 0 is asked for, and holds a chain. -/
def Dev.slotOk (d : Dev) (r : SpdmReq) : Bool := r.slot.val == 0 && !d.noCert

/-- The channel of a function with a mailbox. -/
def Dev.fnChan (d : Dev) (f : Nat) : Nat := if d.isSealedOp then f else 0

/-- The nonce's bytes. -/
def nonceBytes (n : BitVec 256) : List Byte := leBytes 32 n.toNat

def execGetVersion (r : SpdmReq) (s : State) : Out :=
  onDev (fun d => d.spdmGo r true (fun d f => d.spdmSay f spdmVersion [])) s
def execGetCapabilities (r : SpdmReq) (s : State) : Out :=
  onDev (fun d => d.spdmGo r false (fun d f => d.spdmSay f spdmCapabilities [])) s

/-- The function has agreed on the algorithms of Table 19.1. -/
def execNegotiateAlgorithms (r : SpdmReq) (s : State) : Out :=
  onDev (fun d => d.spdmGo r false (fun d f =>
    (d.modTrust (fun t => { t with algos := Set.add t.algos f })).spdmSay f spdmAlgorithms [])) s

def execGetDigests (r : SpdmReq) (s : State) : Out :=
  onDev (fun d => d.spdmGo r false (fun d f => if d.noCert then d.spdmErr f else d.spdmSay f spdmDigests (sha d.chain))) s
def execGetCertificate (r : SpdmReq) (s : State) : Out :=
  onDev (fun d => d.spdmGo r false (fun d f => if d.slotOk r then d.spdmSay f spdmCertificate d.chain else d.spdmErr f)) s

/-- A response signed by the device key. -/
def Dev.spdmSigned (d : Dev) (f code : Nat) (body : List Byte) : Dev :=
  let b := Config.spdmBody code body
  d.send (.spdm f code (b ++ ed25519Sign d.boot.devSeed b))

def execChallenge (r : SpdmReq) (s : State) : Out :=
  onDev (fun d => d.spdmGo r false (fun d f =>
    if d.slotOk r then d.spdmSigned f spdmChallengeAuth (sha d.chain ++ nonceBytes r.nonce) else d.spdmErr f)) s

/-- Index 1 returns the full report of the function's channel, indices 2 to 17 a measurement register. -/
def getMeasurements (d : Dev) (f : Nat) (r : SpdmReq) : Dev :=
  let ch := d.fnChan f
  let i := r.index.toNat
  if i = 1 then
    if d.on (pHst ch) fHST_ATT_STAT_BUSY 0 then d.spdmErr f
    else
      let x := d.makeReport ch r.nonce
      x.2.spdmSay f spdmMeasurements x.1
  else if 2 ≤ i ∧ i ≤ 17 then d.spdmSay f spdmMeasurements (digestBytes (d.mr ch (i - 2)))
  else d.spdmErr f

def execGetMeasurements (r : SpdmReq) (s : State) : Out :=
  onDev (fun d => d.spdmGo r false (fun d f => getMeasurements d f r)) s

/-- State of a function's session: 0 none, 1 exchanged, 2 established. -/
def Dev.session (d : Dev) (f : Nat) : Nat := ((d.trust.sessions.find? (fun e => e.1 == f)).map (fun e => e.2)).getD 0
def Dev.setSession (d : Dev) (f n : Nat) : Dev :=
  d.modTrust (fun t => { t with
    sessions := t.sessions.filter (fun e => e.1 != f) ++ (if n = 0 then [] else [(f, n)]) })

def execKeyExchange (r : SpdmReq) (s : State) : Out :=
  onDev (fun d => d.spdmGo r false (fun d f =>
    if d.slotOk r then (d.setSession f 1).spdmSigned f spdmKeyExchangeRsp (nonceBytes r.nonce) else d.spdmErr f)) s
def execFinish (r : SpdmReq) (s : State) : Out :=
  onDev (fun d => d.spdmGo r false (fun d f =>
    if d.session f = 1 then (d.setSession f 2).spdmSay f spdmFinishRsp [] else d.spdmErr f)) s
def execEndSession (r : SpdmReq) (s : State) : Out :=
  onDev (fun d => d.spdmGo r false (fun d f =>
    if d.session f = 0 then d.spdmErr f else (d.setSession f 0).spdmSay f spdmEndSessionAck [])) s

/-- IDE_KM inside an established session: keys of a stream are set, or the stream is stopped (R456). -/
def execIdeKm (r : SpdmReq) (stream : Fin 5) (on : Bool) (s : State) : Out :=
  onDev (fun d => d.spdmGo r false (fun d f =>
    if d.session f = 2 then
      (d.modTrust (fun t => { t with ide := if on then Set.add t.ide stream.val else Set.del t.ide stream.val })).spdmSay f spdmVendor []
    else d.spdmErr f)) s

end Sys2Proof.Machine
end

