-- ==== Sys2Proof/Machine/Compute.lean ====
section
/-!
DEFINITION. The arithmetic of the Platen and the Folder (chapter 4, R101 to R117; chapter 3, R67, R69): what a command writes
into its destination tile, and the flags it raises.

Each function takes the core as the command finds it and answers the core with DST (or C) written, and the flags.
-/

namespace Sys2Proof.Machine

open Sys2Proof

/-- All logical positions of a rows x cols tile, row by row. -/
def positions (rows cols : Nat) : List (Nat × Nat) :=
  (List.range rows).flatMap (fun i => (List.range cols).map (fun j => (i, j)))

/-- Writes an encoding at each position of a dense tile, and gathers flags. -/
def writeTile (k : Core) (r : Run) (t : Tile) (f : Nat → Nat → Nat × Nat) : Core × Nat :=
  (positions t.rows t.cols).foldl (fun (x : Core × Nat) p =>
    let e := f p.1 p.2
    (setRawElem x.1 r t (t.slot p.1 p.2) e.1, x.2 ||| e.2)) (k, 0)

/-! ### The Platen (R104 to R111) -/

/-- Table 4.7: multiply-accumulates per press cycle. -/
def macRate (a b : Tile) : Nat :=
  let base := match fmtClass a.fmt with
    | 0 => 16 | 1 => 64 | 2 => 256
    | _ => if (a.fmt = 6 ∧ b.fmt = 6) ∨ (a.fmt = 0xE ∧ b.fmt = 0xE) then 1024 else 512
  if a.sparse then 2 * base else base

/-- Press cycles of an MMA (R102). -/
def mmaCycles (a b : Tile) : Nat := max 1 ((a.rows * a.cols * b.cols + macRate a b - 1) / macRate a b)

def isFinite : Val → Bool
  | .num _ _ _ => true | _ => false

/-- The products of element (i, j), in ascending k, and the flags of forming them. A dropped position of A contributes a +0 term
beside every finite element of B (R111). -/
def products (k : Core) (r : Run) (a b : Tile) (i j : Nat) : List Val × Nat :=
  (List.range a.cols).foldr (fun p (x : List Val × Nat) =>
    let va := valAt k r a i p
    let vb := valAt k r b p j
    let m := if va.2.1 && isFinite vb.1 then (vZero, 0) else mulVal va.1 vb.1
    (m.1 :: x.1, x.2 ||| va.2.2 ||| vb.2.2 ||| m.2)) ([], 0)

/-- The chain of R107 and R108 over groups of g products: running sum (none while empty), flags. -/
def chain (f : FloatFmt) (g rnd z : Nat) : Nat → List Val → Option Nat → Nat → Nat × Nat
  | 0, _, s, fl => (s.getD 0, fl)
  | fuel + 1, ps, s, fl =>
    if ps.isEmpty then (s.getD 0, fl)
    else
      let rest := ps.drop g
      let md := if rest.isEmpty then rnd else 0
      let t := sumVal 0 (ps.take g)
      let u := match s with
        | none => sumVal md [t.1]
        | some b => sumVal md [decodeFloat f b, t.1]
      let v := roundFloat f md z u.1
      chain f g rnd z fuel rest (some v.1) (fl ||| t.2 ||| u.2 ||| v.2)

/-- Adds products into a Chase element one at a time (R109); terms that contain both infinities raise NV (R110). -/
def chaseSum (frame : Int) (ps : List Val) (start : Int) : Int × Nat :=
  let nv := if !ps.any Val.isNanV && ps.any (Val.isInfV false) && ps.any (Val.isInfV true) then flNV else 0
  ps.foldl (fun (x : Int × Nat) p =>
    let c := toChase frame p
    (chaseAdd x.1 c.1, x.2 ||| c.2)) (start, nv)

/-- Element (i, j) of C, and its flags. -/
def mmaElem (k : Core) (r : Run) (a b c : Tile) (acc : Bool) (rnd ti tj i j : Nat) : Nat × Nat :=
  let ps := products k r a b i j
  let old := rawElem k r c (c.slot i j)
  let z := srDraw (hSeed r.img) 1 ti tj i j
  let narrow := decide (3 ≤ fmtClass a.fmt)
  if c.fmt = 0x10 then
    (let s := chaseSum c.frame ps.1 (if acc then toSigned 96 old else 0)
     (ofSigned 96 s.1, ps.2 ||| s.2 ||| (if chSpecial s.1 then flCHS else 0)))
  else if narrow then
    (let s := sumVal rnd (ps.1 ++ (if acc then [decodeElem (elemOf c.fmt) 0 old] else []))
     let e := encodeElem (elemOf c.fmt) 0 rnd z s.1
     (e.1, ps.2 ||| s.2 ||| e.2))
  else
    let f := if c.fmt = 0 then fp64 else fp32
    let s := chain f (if fmtClass a.fmt = 2 then 8 else 1) rnd z (a.cols + 1) ps.1 (if acc then some old else none) 0
    (s.1, ps.2 ||| s.2)

/-- MMA (R67). -/
def mmaCore (k : Core) (r : Run) (e : Img) : Core × Nat :=
  let a := tileAt r.img (eByte e 8)
  let b := tileAt r.img (eByte e 9)
  let c := tileAt r.img (eByte e 0xA)
  let m := eByte e 0xB
  writeTile k r c (mmaElem k r a b c (m.testBit 0) (bitsOf m 3 1) (eTi e) (eTj e))

/-! ### Delivering values into a tile (R113, R114) -/

/-- emax of R114. -/
def mxEmax (fmt : Nat) : Int :=
  match fmt with
  | 0xA => 8 | 0xB => 15 | 0xC => 4 | 0xD => 2 | 0xE => 2 | _ => 0

/-- The exponent of the leading bit of a value that is finite and not zero. -/
def topExp : Val → Option Int
  | .num _ m e => if m = 0 then none else some ((Nat.log2 m : Int) + e)
  | _ => none

/-- mx_scale of R114. -/
def mxScale (vs : List Val) (emax : Int) : Nat :=
  if vs.any Val.isNanV then 0xFF
  else if !vs.any isFinite then 0xFE
  else
    match vs.filterMap topExp with
    | [] => 0
    | t :: ts =>
      let e := ts.foldl max t - emax
      ((max (-127) (min e 127)) + 127).toNat

/-- The positions of a tile's scale block. -/
def Tile.blockPos (t : Tile) (b : Nat) : List (Nat × Nat) :=
  if t.blkdim = 0 then (List.range 32).map (fun x => (b / (t.cols / 32), 32 * (b % (t.cols / 32)) + x))
  else (List.range 32).map (fun x => (32 * (b % (t.rows / 32)) + x, b / (t.rows / 32)))

/-- Delivers exact values into a dense tile: each rounded once, a block-scaled tile block by block. -/
def deliver (k : Core) (r : Run) (t : Tile) (rnd ti tj : Nat) (v : Nat → Nat → Val × Nat) : Core × Nat :=
  let z (i j : Nat) : Nat := srDraw (hSeed r.img) 3 ti tj i j
  if t.scale then
    (List.range t.scaleBytes).foldl (fun (x : Core × Nat) b =>
      let ps := t.blockPos b
      let vs := ps.map (fun p => v p.1 p.2)
      let sc := mxScale (vs.map (·.1)) (mxEmax t.fmt)
      let y := setScaleByte x.1 r t b sc
      ps.foldl (fun (x : Core × Nat) p =>
        let w := v p.1 p.2
        if sc = 0xFF then (setRawElem x.1 r t (t.slot p.1 p.2) 0, x.2 ||| w.2)
        else
          let e := encodeElem (elemOf t.fmt) 0 rnd (z p.1 p.2) (scaleVal (127 - (sc : Int)) w.1.asInf)
          (setRawElem x.1 r t (t.slot p.1 p.2) e.1, x.2 ||| w.2 ||| e.2)) (y, x.2)) (k, 0)
  else
    writeTile k r t (fun i j =>
      let w := v i j
      let e := encodeElem (elemOf t.fmt) t.frame rnd (z i j) w.1
      (e.1, w.2 ||| e.2))

/-! ### The Folder (R112 to R116) -/

/-- Copies scale bytes, block to block. -/
def copyScales (k : Core) (y : Core) (r : Run) (s t : Tile) (swap : Bool) : Core :=
  if !s.scale then y
  else
    (List.range s.scaleBytes).foldl (fun y b =>
      match s.blockPos b with
      | p :: _ => setScaleByte y r t (if swap then t.blockNo p.2 p.1 else t.blockNo p.1 p.2) (scaleByte k r s b)
      | [] => y) y

/-- The logical position of the first element of a 2:4 group. -/
def Tile.groupPos (t : Tile) (g : Nat) : Nat × Nat :=
  if t.blkdim = 0 then (g / (t.cols / 4), 4 * (g % (t.cols / 4))) else (4 * (g % (t.rows / 4)), g / (t.rows / 4))

def Tile.groups (t : Tile) : Nat := t.rows * t.cols / 4

/-- Copies map nibbles, group to group; a nibble without two bits set raises NV (R103, R112). -/
def copyMaps (k : Core) (y : Core) (r : Run) (s t : Tile) (swap : Bool) : Core × Nat :=
  if !s.sparse then (y, 0)
  else
    (List.range s.groups).foldl (fun (x : Core × Nat) g =>
      let p := s.groupPos g
      let n := mapNibble k r s g
      (setMapNibble x.1 r t (if swap then t.groupNo p.2 p.1 else t.groupNo p.1 p.2) n,
       x.2 ||| (if (setPositions n).length = 2 then 0 else flNV))) (y, 0)

/-- TRANSPOSE and RELAYOUT: stored elements, scale bytes and nibbles move (R112). -/
def moveTile (k : Core) (r : Run) (s t : Tile) (swap : Bool) : Core × Nat :=
  let y := (positions s.stRows s.stCols).foldl (fun y p =>
    setRawElem y r t (if swap then t.slot p.2 p.1 else t.slot p.1 p.2) (rawElem k r s (s.slot p.1 p.2))) k
  copyMaps k (copyScales k y r s t swap) r s t swap

/-- CONVERT (R113). -/
def convertTile (k : Core) (r : Run) (s t : Tile) (rnd ti tj : Nat) : Core × Nat :=
  deliver k r t rnd ti tj (fun i j => let v := valAt k r s i j; (v.1, v.2.2))

/-- Maximum or minimum of values (R115). An IND of a Chase SRC counts as a NaN, which raises no flag: DESIGN CHOICE (log entry
125), since the spec does not say which it is. -/
def extreme (isMax : Bool) : List Val → Val
  | [] => vZero
  | v :: vs =>
    if v.isNanV || vs.any Val.isNanV then .nan
    else vs.foldl (fun a b => if isMax then (if cmpVal a b < 0 then b else a) else (if cmpVal b a < 0 then b else a)) v

/-- One row's or column's result of REDUCE, exact, with the flags of forming it. -/
def reduceVal (k : Core) (r : Run) (s : Tile) (kind rnd : Nat) (ps : List (Nat × Nat)) : Val × Nat :=
  let vs := ps.map (fun p => valAt k r s p.1 p.2)
  let fl := vs.foldl (fun f v => f ||| v.2.2) 0
  match kind with
  | 0 =>
    if s.fmt = 0x10 then
      (let x := ps.foldl (fun (x : Int) p => chaseAdd x (toSigned 96 (rawElem k r s (s.slot p.1 p.2)))) 0
       -- an exact zero has the sign of R111, with the elements as the terms
       (if x = 0 then .num (rnd == 3 && !(vs.map (·.1)).all Val.isZeroV) 0 0 else chaseVal x s.frame, fl))
    else
      let y := sumVal rnd (vs.map (·.1))
      (y.1, fl ||| y.2)
  | 1 => (extreme true (vs.map (·.1)), fl)
  | _ => (extreme false (vs.map (·.1)), fl)

/-- REDUCE (R69, R115). -/
def reduceTile (k : Core) (r : Run) (s t : Tile) (arg rnd ti tj : Nat) : Core × Nat :=
  deliver k r t rnd ti tj (fun i j =>
    if arg.testBit 2 then
      (if i = 0 then reduceVal k r s (arg % 4) rnd ((List.range s.rows).map (fun x => (x, j))) else (vZero, 0))
    else
      (if j = 0 then reduceVal k r s (arg % 4) rnd ((List.range s.cols).map (fun x => (i, x))) else (vZero, 0)))

/-- Whether the magnitude of a is greater than that of b (R116). -/
def magGt (a b : Val) : Bool :=
  let rank (v : Val) : Nat := match v with
    | .nan => 2 | .ind => 2 | .inf _ => 1 | .sat _ => 1 | .num _ _ _ => 0
  let abs (v : Val) : Val := match v with
    | .num _ m e => .num false m e
    | v => v
  if rank a = rank b then rank a == 0 && decide (0 < cmpVal (abs a) (abs b)) else decide (rank b < rank a)

/-- The two positions a group keeps, ascending (R116). -/
def keptTwo (vs : List Val) : List Nat :=
  (List.range 4).filter (fun p =>
    decide (((List.range 4).filter (fun q => q != p &&
      (magGt (vs.getD q vZero) (vs.getD p vZero) ||
       (decide (q < p) && !magGt (vs.getD p vZero) (vs.getD q vZero))))).length < 2))

/-- SPARSIFY (R116). -/
def sparsifyTile (k : Core) (r : Run) (s t : Tile) : Core × Nat :=
  let y := copyScales k k r s t false
  ((List.range t.groups).foldl (fun y g =>
    let p := t.groupPos g
    let pos (x : Nat) : Nat × Nat := if t.blkdim = 0 then (p.1, p.2 + x) else (p.1 + x, p.2)
    let kept := keptTwo ((List.range 4).map (fun x => (valAt k r s (pos x).1 (pos x).2).1))
    let y := setMapNibble y r t g (kept.foldl (fun n x => n ||| 2 ^ x) 0)
    ((List.range 2).foldl (fun y i =>
      let q := pos (kept.getD i 0)
      let n := if t.blkdim = 0 then t.slot p.1 (p.2 / 2 + i) else t.slot (p.1 / 2 + i) p.2
      setRawElem y r t n (rawElem k r s (s.slot q.1 q.2))) y)) y, 0)

/-- DENSIFY (R69, R112). -/
def densifyTile (k : Core) (r : Run) (s t : Tile) : Core × Nat :=
  let y := copyScales k k r s t false
  writeTile y r t (fun i j =>
    let e := elemAt k r s i j
    (e.1.getD 0, e.2))

/-- A Folder command. -/
def foldCore (k : Core) (r : Run) (e : Img) : Core × Nat :=
  let s := tileAt r.img (eByte e 8)
  let t := tileAt r.img (eByte e 9)
  let rnd := eByte e 0xB % 8
  match eOp e with
  | 1 => moveTile k r s t true
  | 2 => moveTile k r s t false
  | 3 => convertTile k r s t rnd (eTi e) (eTj e)
  | 4 => reduceTile k r s t (eByte e 0xA) rnd (eTi e) (eTj e)
  | 5 => sparsifyTile k r s t
  | _ => densifyTile k r s t

/-- Press cycles of a Folder command: 64 source elements a cycle (Table 3.1). -/
def foldCycles (s : Tile) : Nat := max 1 (s.rows * s.cols / 64)

end Sys2Proof.Machine
end

