-- ==== Sys2Proof/Machine/Stations.lean ====
section
/-!
DEFINITION. The stations of a core (chapter 3, R48 to R50, R64 to R75, R81; chapter 7, R189; chapter 6, R157): arbitration,
issue, the Feeder, the Platen, the Folder and the Delivery, completion, signals and watchdogs. The Inker's LAUNCH is issued in
Inker.lean and completes here.

The Platen and the Folder write their destination at issue and complete when their press cycles have passed: no token orders
an access of another station in between (R53).
-/

namespace Sys2Proof.Machine

open Sys2Proof

/-! ### Eligibility and arbitration (R73, R189) -/

/-- A slot's next command for a station. -/
def Station.nextOf (s : Station) (sl : Nat) : Option Nat := (s.queue.find? (fun e => e.1 == sl)).map (·.2)

/-- The waits of a command hold. -/
def waitsHold (k : Core) (r : Run) (e : Img) : Bool :=
  (eWaits e).all (fun w => decide (w.2 ≤ k.tok (r.tokMap.getD w.1 0)))

/-- A slot's next command for a station is eligible. -/
def Dev.eligible (d : Dev) (c : CoreId) (stn sl : Nat) : Bool :=
  let k := d.core c
  match (k.station stn).nextOf sl, d.runAt c sl with
  | some n, some r => r.stage == .begun && waitsHold k r (entry r.img n)
  | _, _ => false

/-- The level a slot competes at. -/
def Dev.effLevel (d : Dev) (c : CoreId) (stn sl : Nat) : Nat :=
  let k := d.core c
  if (k.station stn).promo.getD sl false then 2
  else match k.bind sl with
    | some b => b.prio
    | none => 3

/-- pick() of R189 over the slots a test admits. -/
def Dev.pick (d : Dev) (c : CoreId) (stn : Nat) (ok : Nat → Bool) : Option Nat :=
  let st := (d.core c).station stn
  (List.range 4).findSome? (fun lvl =>
    ((List.range 8).map (fun i => (st.last.getD lvl 7 + 1 + i) % 8)).find? (fun sl => ok sl && d.effLevel c stn sl == lvl))

/-- What pick() leaves: the slot last chosen at its level, its age and promotion cleared. -/
def Dev.chosen (d : Dev) (c : CoreId) (stn sl : Nat) : Dev :=
  let lvl := d.effLevel c stn sl
  d.modCore c (fun k =>
    let st := k.station stn
    k.setStation stn { st with last := st.last.set lvl sl, age := st.age.set sl 0, promo := st.promo.set sl false })

/-- The command leaves the queue and takes its tokens (R73). -/
def Dev.takeCmd (d : Dev) (c : CoreId) (stn sl n : Nat) (r : Run) : Dev :=
  let d := d.modCore c (fun k =>
    let st := k.station stn
    let k := k.setStation stn { st with queue := dropFirst (fun e => decide (e = (sl, n))) st.queue }
    (eWaits (entry r.img n)).foldl (fun k w => k.setTok (r.tokMap.getD w.1 0) (k.tok (r.tokMap.getD w.1 0) - w.2)) k)
  d.modRun c sl (fun r => { r with issued := true, outbound := r.outbound || stn == stDlv })

/-- The station executes a command until its own work is done. -/
def Dev.startCmd (d : Dev) (c : CoreId) (stn sl n cycles : Nat) (sending : Bool) : Dev :=
  d.modCore c (fun k =>
    k.setStation stn { k.station stn with exec := some ⟨sl, n, d.now (pressClk c.die.val) + cycles, sending⟩ })

/-- A run is in progress on a slot. -/
def Dev.running (d : Dev) (c : CoreId) (sl : Nat) : Bool :=
  match d.runAt c sl with
  | some r => r.stage == .begun
  | none => false

/-! A token ties two commands of one run (R74): a due completion that signals it acts first, and where it does not cover the
counts of two commands that could both issue, the lower-numbered station goes first. -/

/-- The writes of a Delivery command have all left the core. -/
def Dev.dlvSent (d : Dev) (c : CoreId) (sl n : Nat) : Bool :=
  (d.slotWrites c sl).all (fun r => match r.cli with
    | .delivery _ _ m _ => m != n || r.issued || r.accepted
    | _ => true)

/-- The own work of an executing command is done, but for what a releasing Delivery command waits for: its cycles have passed,
a Feeder's lines are all here, a PREFETCH's requests and a Delivery's writes have issued (R65, R66, R71). -/
def Dev.workDone (d : Dev) (c : CoreId) (stn : Nat) (x : Exec) : Bool :=
  decide (x.until_ ≤ d.now (pressClk c.die.val)) &&
  (match stn with
   | 0 => !d.reqs.any (fun r => match r.cli with
      | .feeder c' s n _ => c' == c && s == x.slot && n == x.ent
      | .prefetch c' s n => c' == c && s == x.slot && n == x.ent && !r.issued
      | _ => false)
   | 4 => x.sending && d.dlvSent c x.slot x.ent
   | _ => true)

/-- A command whose completion is due signals one of the tokens that a command of its run waits on. -/
def Dev.signalFirst (d : Dev) (c : CoreId) (sl : Nat) (r : Run) (e : Img) : Bool :=
  [stFdr, stPlt, stFld, stDlv].any (fun stn => match ((d.core c).station stn).exec with
    | some x =>
      let f := entry r.img x.ent
      x.slot == sl && d.workDone c stn x && eSgEn f && (eWaits e).any (fun w => w.1 == eSgTok f)
    | none => false)

/-- A lower-numbered station would issue a command of the same run now whose count of a shared token leaves too little. -/
def Dev.lowerFirst (d : Dev) (c : CoreId) (stn sl : Nat) (r : Run) (e : Img) : Bool :=
  let k := d.core c
  (List.range stn).any (fun i =>
    let free := if i = stInk then !k.inker.launches.any (fun l => l.slot == sl) else (k.station i).exec.isNone
    free && (i == stInk || d.pick c i (d.eligible c i) == some sl) && d.eligible c i sl &&
    (i != stPlt || k.onset || (match k.lastMma with
      | some t => decide (d.now (pressClk c.die.val) < t + 256)
      | none => false)) &&
    (match (k.station i).nextOf sl with
     | some n => (eWaits (entry r.img n)).any (fun v => (eWaits e).any (fun w =>
         v.1 == w.1 && decide (k.tok (r.tokMap.getD w.1 0) < v.2 + w.2)))
     | none => false))

/-- A station issues the next command of a slot, of one operation: chosen, its tokens taken, its Stone accesses examined; then
its own effect, unless that ended its run. -/
def Dev.issueCmd (d : Dev) (c : CoreId) (stn op sl : Nat) (ecc : StoneEcc) (ok : Dev → Bool) (cycles : Run → Img → Nat)
    (sending : Img → Bool) (go : Dev → Run → Nat → Img → Dev) : Dev :=
  if ((d.core c).station stn).exec.isSome || decide (d.pick c stn (d.eligible c stn) ≠ some sl) then d
  else
    match ((d.core c).station stn).nextOf sl, d.runAt c sl with
    | some n, some r =>
      let e := entry r.img n
      if eOp e ≠ op ∨ ok d = false ∨ d.domInReset (.core c) = true ∨ d.signalFirst c sl r e = true ∨
         d.lowerFirst c stn sl r e = true then d
      else
        let d := (((d.chosen c stn sl).takeCmd c stn sl n r).startCmd c stn sl n (cycles r e) (sending e)).stoneEcc c ecc stn sl n
        if d.running c sl then go d r n e else d
    | _, _ => d

/-! ### Memory images (R65, R153) -/

/-- The units of a tile's data region at an address and stride, cut at lines. -/
def imagePieces (r : Run) (t : Tile) (addr stride : Nat) : List (Nat × Nat × Nat) :=
  (List.range t.units.1).flatMap (fun u =>
    cutUnit (addr + u * stride) (r.dataAt t + u * t.units.2) t.units.2 (t.units.2 / 128 + 2))

/-- A scale vector or a map at an address. -/
def auxPieces (r : Run) (t : Tile) (map : Bool) (addr : Nat) : List (Nat × Nat × Nat) :=
  if map then cutUnit addr (r.mapAt t) t.mapBytes (t.mapBytes / 128 + 2)
  else cutUnit addr (r.scaleAt t) t.scaleBytes (t.scaleBytes / 128 + 2)

/-- The pieces of each unit of memory, `key` telling which unit a piece lies in, in ascending order. -/
def groupPieces (key : Nat → Nat) (ps : List (Nat × Nat × Nat)) : NMap (List (Nat × Nat × Nat)) :=
  ps.foldl (fun m p => NMap.put m (key p.1) (NMap.get m (key p.1) [] ++ [p]) []) []

/-- Mask and data of pieces in a unit of memory that starts at `base`. -/
def gatherPieces (k : Core) (base : Nat) (ps : List (Nat × Nat × Nat)) : Nat × Nat :=
  ps.foldl (fun (x : Nat × Nat) p =>
    (x.1 ||| byteMask (p.1 - base) p.2.2, x.2 ||| (k.stoneN p.2.1 p.2.2 * 2 ^ (8 * (p.1 - base))))) (0, 0)

/-! ### The Feeder (R65, R66) -/

def bytesCycles (n : Nat) : Nat := max 1 (n / 256)

/-- Line reads of a LOAD or LOADAUX, after its acquire. -/
def Dev.feed (d : Dev) (c : CoreId) (sl n : Nat) (e : Img) (arr : ArrayEcc) (ps : List (Nat × Nat × Nat)) : Dev :=
  let part := d.slotPart c sl
  let d := if (eByte e 9).testBit 1 then d.acquire c (bitsOf (eByte e 9) 3 2) part else d
  d.issueSeen arr ((groupPieces (fun a => a / 128) ps).map (fun g =>
    let base := 128 * g.1
    { Req.blank with
      cli := .feeder c sl n (g.2.map (fun p => (p.1 - base, p.2.1, p.2.2))), op := .rd,
      addr := (g.2.head?.map (fun p => p.1)).getD base,
      mask := g.2.foldl (fun m p => m ||| byteMask (p.1 - base) p.2.2) 0, part := part, quad := c.die.val / 2, tc := 1,
      nogal := (eByte e 9).testBit 0 }))

def anyTime (_ : Dev) : Bool := true
def sendNow (_ : Img) : Bool := true

def execLoad (c : CoreId) (sl : Slot) (ecc : StoneEcc) (s : State) : Out :=
  onDev (fun d => d.issueCmd c stFdr 1 sl.val ecc anyTime (fun r e => bytesCycles (tileAt r.img (eByte e 8)).dataBytes) sendNow
    (fun d r n e => d.feed c sl.val n e ecc.arr (imagePieces r (tileAt r.img (eByte e 8)) (eAddr e) (eStride e)))) s

def execLoadaux (c : CoreId) (sl : Slot) (ecc : StoneEcc) (s : State) : Out :=
  onDev (fun d => d.issueCmd c stFdr 2 sl.val ecc anyTime (fun _ _ => 1) sendNow
    (fun d r n e => d.feed c sl.val n e ecc.arr (auxPieces r (tileAt r.img (eByte e 8)) ((eByte e 0xA).testBit 0) (eAddr e)))) s

def execZero (c : CoreId) (sl : Slot) (ecc : StoneEcc) (s : State) : Out :=
  onDev (fun d => d.issueCmd c stFdr 3 sl.val ecc anyTime (fun r e => bytesCycles (tileAt r.img (eByte e 8)).dataBytes) sendNow
    (fun d r _ e =>
      let t := tileAt r.img (eByte e 8)
      d.modCore c (fun k => k.stoneWrite (r.dataAt t) t.dataBytes 0))) s

def execPrefetch (c : CoreId) (sl : Slot) (s : State) (arr : ArrayEcc := .clean) : Out :=
  onDev (fun d => d.issueCmd c stFdr 4 sl.val .clean anyTime (fun _ e => eStride e / 128) sendNow
    (fun d _ n e => d.issueSeen arr ((List.range (eStride e / 128)).map (fun i =>
      { Req.blank with cli := .prefetch c sl.val n, op := .rd, addr := (eAddr e + 128 * i) % 2 ^ 48, mask := 2 ^ 128 - 1,
                       part := d.slotPart c sl.val, quad := c.die.val / 2, tc := 3 })))) s

/-- A line of a LOAD or LOADAUX returns. -/
def execFeederLineReturn (c : CoreId) (rq : Nat) (s : State) : Out :=
  onDev (fun d =>
    match d.req rq with
    | some q =>
      (match q.cli with
       | .feeder c' sl ent offs =>
         if c' ≠ c ∨ q.ready = false then d
         else
           let d := d.dropReq rq
           if q.resErr then d.endRun c sl 0x26 stFdr ent false
           else if q.resPsn then d.endRun c sl 0x22 stFdr ent false
           else d.modCore c (fun k => offs.foldl (fun k o => k.stoneWrite o.2.1 o.2.2 (q.res >>> (8 * o.1))) k)
       | _ => d)
    | none => d) s

/-! ### The Platen and the Folder -/

/-- The Platen may start an MMA: it has executed one in the last 256 press cycles, or has been granted onset (R190). -/
def Dev.onsetOk (d : Dev) (c : CoreId) : Bool :=
  let k := d.core c
  k.onset || (match k.lastMma with
    | some t => decide (d.now (pressClk c.die.val) < t + 256)
    | none => false)

def execMma (c : CoreId) (sl : Slot) (ecc : StoneEcc) (s : State) : Out :=
  onDev (fun d =>
    if ((d.core c).station stPlt).exec.isNone && decide (d.pick c stPlt (d.eligible c stPlt) = some sl.val) && !d.onsetOk c
    then d.modCore c (fun k => { k with onsetReq := true })
    else
      let cyc (r : Run) (e : Img) : Nat := mmaCycles (tileAt r.img (eByte e 8)) (tileAt r.img (eByte e 9))
      d.issueCmd c stPlt 1 sl.val ecc (fun d => d.onsetOk c) cyc sendNow
        (fun d r _ e =>
          let x := mmaCore (d.core c) r e
          let last := d.now (pressClk c.die.val) + cyc r e
          (d.setCore c { x.1 with lastMma := some last, onset := false }).addFlags c sl.val x.2
            (tileAt r.img (eByte e 0xA)).buf)) s

/-- A Folder command of one operation. -/
def Dev.fold (d : Dev) (c : CoreId) (op sl : Nat) (ecc : StoneEcc) : Dev :=
  d.issueCmd c stFld op sl ecc anyTime (fun r e => foldCycles (tileAt r.img (eByte e 8))) sendNow
    (fun d r _ e =>
      let x := foldCore (d.core c) r e
      (d.setCore c x.1).addFlags c sl x.2 (tileAt r.img (eByte e 9)).buf)

def execTranspose (c : CoreId) (sl : Slot) (ecc : StoneEcc) (s : State) : Out := onDev (fun d => d.fold c 1 sl.val ecc) s
def execRelayout (c : CoreId) (sl : Slot) (ecc : StoneEcc) (s : State) : Out := onDev (fun d => d.fold c 2 sl.val ecc) s
def execConvert (c : CoreId) (sl : Slot) (ecc : StoneEcc) (s : State) : Out := onDev (fun d => d.fold c 3 sl.val ecc) s
def execReduce (c : CoreId) (sl : Slot) (ecc : StoneEcc) (s : State) : Out := onDev (fun d => d.fold c 4 sl.val ecc) s
def execSparsify (c : CoreId) (sl : Slot) (ecc : StoneEcc) (s : State) : Out := onDev (fun d => d.fold c 5 sl.val ecc) s
def execDensify (c : CoreId) (sl : Slot) (ecc : StoneEcc) (s : State) : Out := onDev (fun d => d.fold c 6 sl.val ecc) s

/-! ### The Delivery (R70, R71, R146, R157, R164, R170, R246) -/

/-- Lines that wait before a Chase block of memory at an address: the lines of a peer are numbered as the peer numbers them. -/
def Dev.blockShift (d : Dev) (quad part a : Nat) : Nat :=
  match d.decode quad part a true false with
  | .peer _ x _ _ => (x / 128 + 2 * (a / 128)) % 3
  | _ => 0

/-- The writes of a STORE, STOREAUX or FLAG, line by line, or for RED 0 Chase block by Chase block. -/
def Dev.dlvReqs (d : Dev) (c : CoreId) (sl n : Nat) (r : Run) (e : Img) : List Req :=
  let part := d.slotPart c sl
  let quad := c.die.val / 2
  let k := d.core c
  let t := tileAt r.img (eByte e 8)
  let base : Req :=
    { Req.blank with cli := .delivery c sl n (eOp e == 1), op := .wr, part := part, quad := quad, tc := 2, nogal := eNoGal e,
                     scope := eRelSc e, ctr := eCtr e, colo := eColo e, group := eGroup e }
  match eOp e with
  | 3 =>
    let a := eAddr e
    let w := if eWide e then 8 else 4
    [{ base with addr := a, mask := byteMask (a % 128) w, data := eValue e % 2 ^ (8 * w) * 2 ^ (8 * (a % 128)), tc := 0,
                 flag := true, expect := eExpect e }]
  | 4 => []
  | op =>
    let ps := if op = 1 then imagePieces r t (eAddr e) (eStride e) else auxPieces r t ((eByte e 0xC).testBit 0) (eAddr e)
    if eAccw e ∧ eRed e = 0 then
      (groupPieces (fun a => a / 128 - (a / 128 + d.blockShift quad part a) % 3) ps).map (fun g =>
        let x := gatherPieces k (128 * g.1) g.2
        { base with op := .acc 0 t.frame, addr := 128 * g.1, mask := x.1, data := x.2 })
    else
      (groupPieces (fun a => a / 128) ps).map (fun g =>
        let x := gatherPieces k (128 * g.1) g.2
        { base with op := if eAccw e then .acc (eRed e) 0 else .wr, addr := (g.2.head?.map (fun p => p.1)).getD 0,
                    mask := x.1, data := x.2 })

/-- The lines a request writes. -/
def Req.linesOf (r : Req) : List Nat := (List.range 3).filterMap (fun i =>
  if (r.mask >>> (128 * i)) % 2 ^ 128 = 0 then none else some (r.addr / 128 + i))

/-- The core's data cache loses lines it is about to write; fills of them in flight are not installed (R146, R148). -/
def Dev.dcacheDrop (d : Dev) (c : CoreId) (ls : List Nat) : Dev :=
  let d := d.modCore c (fun k => { k with inker := { k.inker with dcache := k.inker.dcache.filter (fun x => !ls.contains x.1) } })
  { d with reqs := d.reqs.map (fun r => match r.cli with
      | .inkLd c' _ _ _ => if c' = c ∧ ls.contains r.line = true then { r with noinstall := true } else r
      | _ => r) }

/-- A Delivery command sends its writes. -/
def Dev.sendDlv (d : Dev) (c : CoreId) (sl n : Nat) (r : Run) (e : Img) (arr : ArrayEcc) : Dev :=
  let qs := d.dlvReqs c sl n r e
  (d.dcacheDrop c (qs.flatMap Req.linesOf)).issueSeen arr qs

/-- A Delivery command issues: a releasing one holds its writes back. -/
def Dev.deliverCmd (d : Dev) (c : CoreId) (op sl : Nat) (ecc : StoneEcc) : Dev :=
  d.issueCmd c stDlv op sl ecc anyTime
    (fun r e => if op = 1 then bytesCycles (tileAt r.img (eByte e 8)).dataBytes else 1) (fun e => !eHolds e)
    (fun d r n e => if eHolds e then d else d.sendDlv c sl n r e ecc.arr)

def execStore (c : CoreId) (sl : Slot) (ecc : StoneEcc) (s : State) : Out := onDev (fun d => d.deliverCmd c 1 sl.val ecc) s
def execStoreaux (c : CoreId) (sl : Slot) (ecc : StoneEcc) (s : State) : Out := onDev (fun d => d.deliverCmd c 2 sl.val ecc) s
def execFlag (c : CoreId) (sl : Slot) (s : State) (arr : ArrayEcc := .clean) : Out :=
  onDev (fun d => d.deliverCmd c 3 sl.val (.array arr)) s
def execSignal (c : CoreId) (sl : Slot) (s : State) : Out := onDev (fun d => d.deliverCmd c 4 sl.val .clean) s

/-- A write is performed at a scope (Table 6.1): at CORE and DIE scope once the Galley has accepted it; wider, once it has
left the list of outstanding requests. -/
def Req.atScope (r : Req) (scope : Nat) : Bool :=
  decide (scope < 2) && r.accepted && !(r.flag && r.colo) && (match r.op, r.tgt with
    | .wr, .stack _ _ => true
    | _, _ => false)

/-- The release set of a Delivery command is performed at its scope (R157): the writes of earlier Delivery commands of its
slot, a held colophon write among them, and the writes and atomics of its run's completed LAUNCHes. -/
def Dev.relDone (d : Dev) (c : CoreId) (sl : Nat) (e : Img) : Bool :=
  let scope := if eOp e = 4 then 2 else eRelSc e
  let past (n : Nat) : Bool := match d.runAt c sl with
    | some r => r.done.contains n
    | none => true
  !d.slotHeld c sl &&
  d.reqs.all (fun r => match r.cli with
    | .delivery c' s _ _ => !(c' == c && s == sl) || r.atScope scope
    | .inkSt c' _ s n => !(c' == c && s == sl && past n) || r.atScope scope
    | .atom c' _ s n => !(c' == c && s == sl && past n) || r.ready
    | _ => true)

/-! ### Completion (R62, R66, R71, R73) -/

/-- A completed command counts; while its run is in progress it signals its token, and the last one makes the run's end due. -/
def Dev.completed (d : Dev) (c : CoreId) (stn sl n : Nat) : Dev :=
  let d := d.modCore c (fun k =>
    let st := k.station stn
    k.setStation stn { st with wdog := st.wdog.set sl 0 })
  let d := d.wrapAdd (.core c) (fSTN_DONE_COUNT.at stn) 0 1
  match d.runAt c sl with
  | none => d
  | some r =>
    let e := entry r.img n
    let d := d.modRun c sl (fun r =>
      { r with done := r.done ++ [n], progress := if stn = stDlv ∧ eOp e = 1 then r.progress + 1 else r.progress,
               dlvDone := if stn = stDlv then r.dlvDone + 1 else r.dlvDone })
    if r.stage ≠ .begun then d
    else
      let t := r.tokMap.getD (eSgTok e) 0
      let d := if stn = stDlv ∧ eOp e = 4 then
          { d with signals := d.signals ++
              [{ src := c, slot := sl, pos := r.pos, ent := n, chan := d.chanOf (c.die.val / 2),
                 tag := match (d.core c).bind sl with | some b => b.tag | none => 0,
                 target := fieldLE e 8 2, htok := eByte e 0xA, inc := eByte e 0xB, svc := d.svc0 (c.die.val / 2) (d.slotPart c sl) 0 }] }
        else d
      if eSgEn e ∧ (d.core c).tok t = 63 then d.endRun c sl 0x24 stn n (stn == stDlv)
      else
        let d := if eSgEn e then d.modCore c (fun k => k.setTok t (k.tok t + 1)) else d
        if r.done.length + 1 = nCmds r.img then d.modRun c sl (fun r => { r with stage := .ended }) else d

/-- The station is free. -/
def Dev.freeStation (d : Dev) (c : CoreId) (stn : Nat) : Dev :=
  d.modCore c (fun k => k.setStation stn { k.station stn with exec := none })

/-- A Feeder, Platen, Folder or Delivery command whose own work is done at `until_`. -/
def Dev.completeAt (d : Dev) (c : CoreId) (stn sl : Nat) (x : Exec) : Dev :=
  if x.slot ≠ sl ∨ d.now (pressClk c.die.val) < x.until_ then d
  else
    match stn with
    | 4 =>
      match d.runAt c sl with
      | none => d.freeStation c stn
      | some r =>
        let e := entry r.img x.ent
        if x.sending = false ∧ d.relDone c sl e = false then d
        else
          let d := if x.sending then d else
            (d.modCore c (fun k => k.setStation stn { k.station stn with exec := some { x with sending := true } })).sendDlv
              c sl x.ent r e .clean
          if d.dlvSent c sl x.ent ∧ (((d.core c).station stn).exec.isSome) = true then
            (d.freeStation c stn).completed c stn sl x.ent
          else d
    | _ => if d.workDone c stn x then (d.freeStation c stn).completed c stn sl x.ent else d

/-- A LAUNCH whose last block has ended completes. -/
def Dev.completeLaunch (d : Dev) (c : CoreId) (sl : Nat) : Dev :=
  match (d.core c).inker.launches.find? (fun l => l.slot == sl), d.runAt c sl with
  | some l, some r =>
    if l.hdr.isSome ∧ l.ended = eByte (entry r.img l.ent) 0xD then
      (d.modCore c (fun k => { k with inker := { k.inker with launches := k.inker.launches.filter (fun y => y.slot != sl) } })).completed
        c stInk sl l.ent
    else d
  | _, _ => d

def execCommandComplete (c : CoreId) (stn : Stn) (sl : Slot) (s : State) : Out :=
  onDev (fun d =>
    if stn.val = stInk then d.completeLaunch c sl.val
    else match ((d.core c).station stn.val).exec with
      | some x => d.completeAt c stn.val sl.val x
      | none => d) s

/-! ### Signals (R72) -/

/-- The core a signal names, and its slot bound to the signal's tag: a presented core of the run's channel. -/
def Dev.signalTarget (d : Dev) (g : Signal) : Option (CoreId × Nat) :=
  match d.coreOfLid g.target with
  | none => none
  | some c =>
    if d.chanOf (c.die.val / 2) ≠ g.chan ∨ d.domInReset (.core c) = true then none
    else ((List.range 8).find? (fun sl => match (d.core c).bind sl with
      | some b => b.tag == g.tag
      | none => false)).map (fun sl => (c, sl))

/-- A signal arrives at its target. -/
def Dev.signalArrives (d : Dev) (g : Signal) : Dev :=
  match d.signalTarget g with
  | some (c, sl) =>
    let x := d.addHead c sl g.htok g.inc
    (x.1.raiseIf x.2 (.core c) 5 (sl * 256)).testTokens c sl
  | none =>
    if d.runIs g.src g.slot g.pos then d.endRun g.src g.slot 0x25 stDlv g.ent true else d.raise (.core g.src) 6 (g.slot * 256)

def execSignalArrival (k : Nat) (s : State) : Out :=
  onDev (fun d =>
    match d.signals[k]? with
    | some g => ({ d with signals := d.signals.eraseIdx k }).signalArrives g
    | none => d) s

/-! ### Aging and watchdogs (R81, R189) -/

def execArbAgePromote (c : CoreId) (stn : Stn) (sl : Slot) (s : State) : Out :=
  onDev (fun d =>
    let st := (d.core c).station stn.val
    let low := match (d.core c).bind sl.val with
      | some b => b.prio == 3
      | none => false
    if low && decide (2 ^ 20 ≤ st.age.getD sl.val 0) then
      d.modCore c (fun k => k.setStation stn.val { st with promo := st.promo.set sl.val true })
    else d) s

/-- The entry a station executes or would execute next for a slot. -/
def Dev.currentEnt (d : Dev) (c : CoreId) (stn sl : Nat) : Option Nat :=
  let k := d.core c
  if stn = stInk then
    ((k.inker.launches.find? (fun l => l.slot == sl)).map (·.ent)).or ((k.station stn).nextOf sl)
  else
    match (k.station stn).exec with
    | some x => if x.slot = sl then some x.ent else (k.station stn).nextOf sl
    | none => (k.station stn).nextOf sl

/-- The watchdog limit of a run. -/
def Dev.wdogExp (d : Dev) (c : CoreId) (r : Run) : Nat :=
  if (hFlags r.img).testBit 0 then hWdog r.img else d.get (.core c) fCORE_WDOG_EXP 0

def execStationWatchdogExpire (c : CoreId) (stn : Stn) (sl : Slot) (s : State) : Out :=
  onDev (fun d =>
    match d.runAt c sl.val, d.currentEnt c stn.val sl.val with
    | some r, some n =>
      if r.stage = .begun ∧ 2 ^ d.wdogExp c r ≤ ((d.core c).station stn.val).wdog.getD sl.val 0 then
        d.endRun c sl.val 0x20 stn.val n (stn.val == stDlv)
      else d
    | _, _ => d) s

end Sys2Proof.Machine
end

