-- ==== Sys2Proof/Machine/Inker.lean ====
section
/-!
DEFINITION. The Inker (chapter 5): LAUNCH, blocks, groups and their paths, and the instructions of threads.

Instructions arrive decoded, since their encodings are published elsewhere; they are 16 bytes long (log entry 17). A command
for a group is performed on its current path, when the instruction's line is in the instruction cache and the registers it
names await no reply; otherwise it leaves the group as it stands, but for the fetch of a missing line.
-/

namespace Sys2Proof.Machine

open Sys2Proof

/-! ### Groups and registers (R125 to R128) -/

def Inker.group (k : Inker) (g : Nat) : Option Group := NMap.get k.groups g none
def Inker.setGroup (k : Inker) (g : Nat) (x : Option Group) : Inker := { k with groups := NMap.put k.groups g x none }
def Inker.block (k : Inker) (b : Nat) : Option Block := NMap.get k.blocks b none

def Dev.modInker (d : Dev) (c : CoreId) (f : Inker → Inker) : Dev := d.modCore c (fun k => { k with inker := f k.inker })
def Dev.modGroup (d : Dev) (c : CoreId) (g : Nat) (f : Group → Group) : Dev :=
  d.modInker c (fun k => match k.group g with
    | some x => k.setGroup g (some (f x))
    | none => k)

/-- Register x of a lane; 0 at or above NREG. -/
def Group.reg (g : Group) (x lane : Nat) : Nat := if x < g.nreg then (NMap.get g.regs (32 * x + lane) 0).toNat else 0
def Group.setReg (g : Group) (x lane v : Nat) : Group :=
  if x < g.nreg then { g with regs := NMap.put g.regs (32 * x + lane) (BitVec.ofNat 32 v) 0 } else g

/-- `n` consecutive registers, least significant first. -/
def Group.regN (g : Group) (x lane : Nat) : Nat → Nat
  | 0 => 0
  | n + 1 => g.reg x lane + 2 ^ 32 * Group.regN g (x + 1) lane n
def Group.setRegN (g : Group) (x lane : Nat) : Nat → Nat → Group
  | 0, _ => g
  | n + 1, v => Group.setRegN (g.setReg x lane v) (x + 1) lane n (v / 2 ^ 32)

/-- Registers a value of so many bytes takes. -/
def regsFor (bytes : Nat) : Nat := (bytes + 3) / 4

/-- A register column is read: its entry becomes the most recently used; a new one replaces the least recently used entry that
is not kept, and where every entry is kept it is not entered (R127). -/
def rcacheTouch (rc : List (Nat × Bool)) (x : Nat) : List (Nat × Bool) :=
  match rc.find? (fun e => e.1 == x) with
  | some e => e :: rc.filter (fun y => y.1 != x)
  | none =>
    if rc.length < 6 then (x, false) :: rc
    else
      match (rc.reverse.find? (fun e => !e.2)) with
      | some v => (x, false) :: rc.filter (fun y => y.1 != v.1)
      | none => rc

/-- The register cache after an instruction has read its source operands, each a first register, a number of registers and a
reuse hint (R127): the entries of hinted operands are kept, the others become candidates. -/
def rcacheRead (rc : List (Nat × Bool)) (srcs : List (Nat × Nat × Bool)) : List (Nat × Bool) :=
  let cols := srcs.flatMap (fun s => (List.range s.2.1).map (fun i => (s.1 + i, s.2.2)))
  (cols.foldl (fun rc r => rcacheTouch rc r.1) rc).map (fun e => (e.1, cols.any (fun r => r.1 == e.1 && r.2)))

/-! ### Paths (R139 to R141) -/

def lanesOf (b : BitVec 32) : List Nat := (List.range 32).filter (fun i => b.getLsbD i)
def laneSet (l : List Nat) : BitVec 32 := l.foldl (fun b i => b ||| (1#32 <<< i)) 0

/-- The lanes that have not executed EXIT. -/
def Group.live (g : Group) : BitVec 32 := g.paths.foldl (fun b p => b ||| p.lanes) 0

/-- A path at the reconvergence address on top of its stack waits there. -/
def Path.arrive (p : Path) : Path :=
  match p.st, p.stack with
  | .run, l :: _ => if p.pc = l.reconv then { p with st := .reconv } else p
  | _, _ => p

/-- The paths that wait with p at its top level, and whether every lane of that level that has not exited is among them. -/
def Group.mates (g : Group) (p : Path) : List Path := g.paths.filter (fun q => q.st == .reconv && q.stack.head? == p.stack.head?)
def Group.mergeable (g : Group) (p : Path) : Bool :=
  match p.st, p.stack with
  | .reconv, l :: _ => ((g.mates p).foldl (fun b q => b &&& ~~~q.lanes) (l.lanes &&& g.live)) == 0
  | _, _ => false

/-- The next place in the order of waiting. -/
def Group.stamp (g : Group) : Nat := g.paths.foldl (fun n p => max n p.since) 0 + 1

/-- Merges the paths waiting at a complete level, which pops the address. The merged path begins to wait for its turn. -/
def Group.merge (g : Group) : Group :=
  match g.paths.find? g.mergeable with
  | none => g
  | some p =>
    let ms := g.mates p
    let m : Path := { p with lanes := ms.foldl (fun b q => b ||| q.lanes) 0, st := .run, stack := p.stack.drop 1,
                             since := g.stamp }
    { g with paths := g.paths.filter (fun q => !ms.contains q) ++ [m.arrive] }

/-- The runnable path that has waited longest, of some. -/
def longest : List Path → Option Path
  | [] => none
  | p :: r =>
    match longest r with
    | none => if p.st = .run then some p else none
    | some q => if p.st = .run ∧ p.since ≤ q.since then some p else some q

/-- The runnable path that has waited longest becomes the current one, and has issued nothing since (R141). -/
def Group.elect (g : Group) : Group :=
  match longest g.paths with
  | none => g
  | some q => { g with paths := { q with issued := 0 } :: g.paths.erase q }

/-- The current path stops being current, and another one takes its place. -/
def Group.switch (g : Group) : Group :=
  match g.paths with
  | [] => g
  | p :: rest =>
    match longest rest with
    | none => g
    | some _ =>
      let x : Group := { g with paths := rest }
      { g with paths := x.elect.paths ++ [{ p with since := g.stamp }] }

/-- Paths arrive at their reconvergence addresses and merge there. -/
def Group.arriveAll (g : Group) : Nat → Group
  | 0 => g
  | fuel + 1 =>
    let g := { g with paths := g.paths.map Path.arrive }
    if g.paths.any g.mergeable then Group.arriveAll g.merge fuel else g

/-- Paths arrive and merge; a current path that is no longer runnable, or has merged into another, yields to the one that has
waited longest. -/
def Group.settled (g : Group) : Group :=
  let h := g.arriveAll 40
  match g.paths, h.paths with
  | p :: _, q :: rest =>
    if p.lanes = q.lanes ∧ p.pc = q.pc ∧ q.st = .run then h
    else if p.lanes = q.lanes ∧ p.pc = q.pc then
      (let x : Group := { h with paths := rest ++ [{ q with since := h.stamp }] }
       x.elect)
    else h.elect
  | _, _ => h

/-- Another path of the group is runnable. -/
def Group.others (g : Group) : Bool := (longest (g.paths.drop 1)).isSome

/-- The current path goes on to the next instruction. -/
def Group.advance (g : Group) : Group :=
  match g.paths with
  | p :: r => ({ g with paths := { p with pc := p.pc + 16, issued := p.issued + 1 } :: r }).settled
  | [] => g

/-- The barrier of a block completes when every thread that has not exited waits at it (R136). -/
def Inker.barrier (k : Inker) (b : Nat) : Inker :=
  let mine := k.groups.filterMap (fun e => match e.2 with
    | some g => if g.block = b then some (e.1, g) else none
    | none => none)
  if mine.all (fun e => e.2.paths.all (fun p => p.st == .bar)) then
    mine.foldl (fun k e =>
      let g : Group := { e.2 with paths := e.2.paths.map (fun p => { p with st := .run }) }
      k.setGroup e.1 (some (g.arriveAll 40).elect)) k
  else k

/-! ### LAUNCH and its header (R68, R122, R124) -/

def execLaunch (c : CoreId) (sl : Slot) (s : State) : Out :=
  onDev (fun d =>
    let k := d.core c
    if d.eligible c stInk sl.val = false ∨ k.inker.launches.any (fun l => l.slot == sl.val) = true ∨
       d.domInReset (.core c) = true then d
    else
      match (k.station stInk).nextOf sl.val, d.runAt c sl.val with
      | some n, some r =>
        let d := (d.takeCmd c stInk sl.val n r).modInker c (fun k =>
          { k with icache := [], launches := k.launches ++ [⟨sl.val, n, none, 0, 0⟩] })
        let d : Dev := { d with reqs := d.reqs.map (fun q : Req => match q.cli with
          | .ifetch c' _ => if c' = c then { q with noinstall := true } else q
          | _ => q) }
        let a := eAddr (entry r.img n)
        d.issue { Req.blank with cli := .header c sl.val, op := .rd, addr := a, mask := byteMask (a % 128) 32,
                                 part := d.slotPart c sl.val, quad := c.die.val / 2, tc := 1 }
      | _, _ => d) s

/-- A header or its fit to the LAUNCH is illegal (Table 5.1, R122): header, LAUNCH entry, granules of the LBUF buffer. -/
def headerBad (h : Nat) (e : Img) (gran : Nat) : Bool :=
  let lgran := byteOf h 2
  let minreg := byteOf h 3
  let len := (h >>> 32) % 2 ^ 32
  byteOf h 0 != 0xB1 || byteOf h 1 != 1 || decide (64 < lgran) || decide (minreg < 8) || len % 16 != 0 || len == 0 ||
  decide (2 ^ 20 < len) || h >>> 64 != 0 || (lgran != 0 && !(eByte e 0xE).testBit 7) || decide (eByte e 0xF < minreg) ||
  (lgran != 0 && decide (gran < lgran))

def execKernelHeaderArrival (c : CoreId) (sl : Slot) (s : State) : Out :=
  onDev (fun d =>
    match d.reqs.find? (fun r => decide (r.cli = .header c sl.val) && r.ready),
          (d.core c).inker.launches.find? (fun l => l.slot == sl.val), d.runAt c sl.val with
    | some q, some l, some r =>
      let d := d.dropReq q.id
      let e := entry r.img l.ent
      let h := (q.res >>> (8 * (q.addr % 128))) % 2 ^ 256
      if q.resErr then d.endRun c sl.val 0x26 stInk l.ent false
      else if q.resPsn then d.endRun c sl.val 0x22 stInk l.ent false
      else if headerBad h e (hBufSz r.img (eByte e 0xE % 16)) then d.endRun c sl.val 8 stInk l.ent false
      else
        let upd (y : Launch) : Launch := { y with hdr := some (byteOf h 2, byteOf h 3, (h >>> 32) % 2 ^ 32) }
        d.modInker c (fun k => { k with launches := replaceFirst (fun y => y.slot == sl.val) upd k.launches })
    | _, _, _ => d) s

/-! ### Blocks (R120, R121, R129, R131, R132) -/

/-- Register columns of a group. -/
def colsFor (nreg : Nat) : Nat := (nreg + 7) / 8 * 8

/-- The register columns taken. -/
def Inker.usedCols (k : Inker) : List Nat :=
  k.groups.flatMap (fun e => match e.2 with
    | some g => (List.range (colsFor g.nreg)).map (fun i => g.colBase + i)
    | none => [])

/-- The lowest ranges of n free columns for m groups. -/
def colRanges (n : Nat) : Nat → List Nat → Option (List Nat)
  | 0, _ => some []
  | m + 1, used =>
    match (List.range (1025 - n)).find? (fun a => (List.range n).all (fun i => !used.contains (a + i))) with
    | none => none
    | some a => (colRanges n m (used ++ (List.range n).map (fun i => a + i))).map (fun l => a :: l)

/-- The areas of a LAUNCH that its blocks hold. -/
def Inker.usedAreas (k : Inker) (sl : Nat) : List Nat :=
  k.blocks.filterMap (fun e => match e.2 with
    | some b => if b.slot = sl then some b.area else none
    | none => none)

/-- What the next block of a LAUNCH takes, if everything it needs is free: block slot, group slots, columns, area. -/
def Inker.fit (k : Inker) (sl lgran lbufGran ngrp nreg : Nat) : Option (Nat × List Nat × List Nat × Nat) :=
  let gs := (List.range 16).filter (fun g => (k.group g).isNone)
  match (List.range 8).find? (fun b => (k.block b).isNone), colRanges (colsFor nreg) ngrp k.usedCols,
        (if lgran = 0 then some 0 else (List.range (lbufGran / lgran)).find? (fun a => !(k.usedAreas sl).contains a)) with
  | some b, some cs, some a => if ngrp ≤ gs.length then some (b, gs.take ngrp, cs, a) else none
  | _, _, _ => none

/-- The LAUNCHes with a block ready to be admitted. -/
def Dev.launchReady (d : Dev) (c : CoreId) (sl : Nat) : Bool :=
  match (d.core c).inker.launches.find? (fun l => l.slot == sl), d.runAt c sl with
  | some l, some r => r.stage == .begun && l.hdr.isSome && decide (l.next < eByte (entry r.img l.ent) 0xD)
  | _, _ => false

/-- Admits a block: its area's written bits are cleared, and its groups begin with registers unwritten at the kernel's first
instruction. -/
def Dev.admitNext (d : Dev) (c : CoreId) (l : Launch) (r : Run) (e : Img) (lgran : Nat) (f : Nat × List Nat × List Nat × Nat) : Dev :=
  let sl := l.slot
  let first := hBufSz r.img (eByte e 0xE % 16)
  let base := if first = 0 then 0 else r.bufAt.getD (eByte e 0xE % 16) 0 + f.2.2.2 * lgran
  let grans := (List.range lgran).map (fun i => base + i)
  d.modCore c (fun k =>
    let k := { k with written := k.written.filter (fun x => !grans.contains (x / 32)),
                      stone := NMap.dropIf k.stone (fun a => grans.contains (a / 4096)) }
    let p : Path := { lanes := BitVec.allOnes 32, pc := eAddr e + 0x20, st := .run, stack := [], issued := 0, since := 0 }
    let i := (f.2.1.zip f.2.2.1).zipIdx.foldl (fun (i : Inker) x =>
      i.setGroup x.1.1 (some { block := f.1, grp := x.2, colBase := x.1.2, nreg := eByte e 0xF, paths := [p], regs := [],
                               rcache := [], until_ := 0 })) k.inker
    { k with inker := { i with blocks := NMap.put i.blocks f.1 (some ⟨sl, l.ent, l.next, f.2.2.2⟩) none,
                               launches := { l with next := l.next + 1 } :: i.launches.filter (fun y => y.slot != sl),
                               lastAdmit := sl, chosen := none } })

def execBlockAdmit (c : CoreId) (sl : Slot) (s : State) : Out :=
  onDev (fun d =>
    let k := (d.core c).inker
    let turn := match k.chosen with
      | some x => some x
      | none => d.pick c stInk (d.launchReady c)
    if turn ≠ some sl.val then d
    else
      match k.launches.find? (fun l => l.slot == sl.val), d.runAt c sl.val with
      | some l, some r =>
        if d.launchReady c sl.val = false then d
        else
          let e := entry r.img l.ent
          let lgran := (l.hdr.map (fun h => h.1)).getD 0
          (match k.fit sl.val lgran (hBufSz r.img (eByte e 0xE % 16)) (eByte e 0xC) (eByte e 0xF) with
           | none => d.modInker c (fun k => { k with chosen := some sl.val })
           | some f => (d.chosen c stInk sl.val).admitNext c l r e lgran f)
      | _, _ => d) s

/-- The group slots of a block. -/
def Inker.blockGroups (k : Inker) (b : Nat) : List (Nat × Group) :=
  k.groups.filterMap (fun e => match e.2 with
    | some g => if g.block = b then some (e.1, g) else none
    | none => none)

def execBlockEnd (c : CoreId) (b : Fin 8) (s : State) : Out :=
  onDev (fun d =>
    let k := (d.core c).inker
    match k.block b.val with
    | none => d
    | some x =>
      let gs := k.blockGroups b.val
      let mine (g : Nat) : Bool := gs.any (fun e => e.1 == g)
      if gs.any (fun e => !e.2.paths.isEmpty) then d
      else
        -- its accesses in flight go on without a group; an instruction line that no thread waits for is as a prefetch
        let d : Dev := { d with reqs := d.reqs.filterMap (fun r : Req => match r.cli with
          | .inkSt c' g sl n => some (if c' = c ∧ mine g = true then { r with cli := .inkSt c 16 sl n } else r)
          | .inkLd c' g sl n => some (if c' = c ∧ mine g = true then { r with cli := .inkLd c 16 sl n } else r)
          | .atom c' g sl n => some (if c' = c ∧ mine g = true then { r with cli := .atom c 16 sl n } else r)
          | .ifetch c' g =>
            if c' = c ∧ mine g = true then (if r.ready then none else some { r with cli := .prefetch c 8 0 }) else some r
          | _ => some r) }
        d.modInker c (fun k =>
          { k with groups := k.groups.filter (fun e => !mine e.1), blocks := NMap.put k.blocks b.val none none,
                   launches := replaceFirst (fun y => y.slot == x.slot) (fun y => { y with ended := y.ended + 1 }) k.launches })) s

/-! ### Issuing an instruction (R122, R124, R133, R141) -/

/-- What an instruction runs in: its group, block, LAUNCH, run and active lanes. -/
structure Ctx where
  g : Group
  slot : Nat
  block : Block
  run : Run
  ent : Img
  lgran : Nat
  part : Nat
  lanes : List Nat
  /-- entry index of the LAUNCH -/
  n : Nat
deriving DecidableEq, Repr

/-- The context of a group's current path; none where it is not runnable, or has issued 64 instructions while another path is
runnable. -/
def Dev.ctx (d : Dev) (c : CoreId) (g : Nat) : Option (Ctx × Path × Launch) :=
  let k := (d.core c).inker
  match k.group g with
  | none => none
  | some x =>
    match k.block x.block, x.paths with
    | some b, p :: _ =>
      match d.runAt c b.slot, k.launches.find? (fun l => l.slot == b.slot) with
      | some r, some l =>
        if r.stage = .begun ∧ p.st = .run ∧ ¬(64 ≤ p.issued ∧ x.others = true) ∧ d.domInReset (.core c) = false then
          some (⟨x, b.slot, b, r, entry r.img l.ent, (l.hdr.map (fun h => h.1)).getD 0, d.slotPart c b.slot, lanesOf p.lanes,
                 b.ent⟩,
                p, l)
        else none
      | _, _ => none
    | _, _ => none

/-- Registers of a group that await a reply. -/
def Dev.awaited (d : Dev) (c : CoreId) (g x n : Nat) : Bool :=
  d.reqs.any (fun r => match r.cli with
    | .inkLd c' g' _ _ => c' == c && g' == g && decide (r.dst < x + n ∧ x < r.dst + regsFor r.size)
    | .atom c' g' _ _ => c' == c && g' == g && decide (r.dst < x + n ∧ x < r.dst + regsFor r.size)
    | _ => false)

/-- Categories of Table 5.4: result latency, and press cycles for which one instruction takes its unit. -/
def costOne : Nat × Nat := (4, 1)
def costDouble : Nat × Nat := (16, 4)
def costDiv : Nat × Nat := (32, 16)
def costStone : Nat × Nat := (8, 1)
def costMem : Nat × Nat := (20, 1)
def costNone : Nat × Nat := (0, 1)

/-- Addresses from which a LAUNCH's kernel has no instruction. -/
def kernelEnd (x : Ctx) (l : Launch) : Nat := eAddr x.ent + 0x20 + (l.hdr.map (fun h => h.2.2)).getD 0

/-- A group is ready whatever its next instruction reads and whichever unit it takes (R133): its path is runnable, its line is
in the instruction cache, and no result of it and no unit is awaited. -/
def Dev.surelyReady (d : Dev) (c : CoreId) (g : Nat) : Bool :=
  match d.ctx c g with
  | none => false
  | some (x, p, l) =>
    decide (p.pc < kernelEnd x l) && (d.core c).inker.icache.contains (p.pc / 128) &&
    decide (x.g.until_ ≤ d.now (pressClk c.die.val)) && decide ((d.core c).inker.unitTo ≤ d.now (pressClk c.die.val)) &&
    !d.reqs.any (fun r => match r.cli with
      | .inkLd c' g' _ _ => c' == c && g' == g
      | .inkSt c' g' _ _ => c' == c && g' == g
      | .atom c' g' _ _ => c' == c && g' == g
      | _ => false)

/-- A ready group stands before this one in the order that starts after the group that issued last (R133). -/
def Dev.otherFirst (d : Dev) (c : CoreId) (g : Nat) : Bool :=
  (((List.range 16).map (fun i => ((d.core c).inker.lastGroup + 1 + i) % 16)).takeWhile (fun x => x != g)).any (d.surelyReady c)

/-- What issuing does to the Inker and the group, whatever the instruction: the group is the one that issued last, its source
operands have been read through the register cache (R127), and the results and the unit are taken for their time. -/
def Dev.tookIssue (d : Dev) (c : CoreId) (g : Nat) (srcs : List (Nat × Nat × Bool)) (cost : Nat × Nat) : Dev :=
  let now := d.now (pressClk c.die.val)
  (d.modInker c (fun k => { k with lastGroup := g, unitTo := if cost.2 = 1 then k.unitTo else max k.unitTo (now + cost.2) })).modGroup
    c g (fun y => { y with rcache := rcacheRead y.rcache srcs, until_ := max y.until_ (now + cost.1) })

/-- An instruction of a group issues: its line is in the instruction cache, or is asked for; past the kernel's end the run ends;
its sources and its destination await no reply, and the group is the next in order. `srcs`: first register, registers and
hint of each source operand; `dst`: of the destination. -/
def Dev.inkIssue (d : Dev) (c : CoreId) (g : Nat) (srcs : List (Nat × Nat × Bool)) (dst : List (Nat × Nat)) (cost : Nat × Nat)
    (ok : Dev → Ctx → Bool) (body : Dev → Ctx → Dev) : Dev :=
  match d.ctx c g with
  | none => d
  | some (x, p, l) =>
    if kernelEnd x l ≤ p.pc then d.endRun c x.slot 8 stInk l.ent false
    else if !((d.core c).inker.icache.contains (p.pc / 128)) then
      (if d.reqs.any (fun r => decide (r.cli = .ifetch c g)) then d
       else d.issue { Req.blank with cli := .ifetch c g, op := .rd, addr := 128 * (p.pc / 128), mask := 2 ^ 128 - 1,
                                     part := x.part, quad := c.die.val / 2, tc := 1 })
    else if srcs.any (fun e => d.awaited c g e.1 e.2.1) || dst.any (fun e => d.awaited c g e.1 e.2) || d.otherFirst c g ||
            !ok d x then d
    else body (d.tookIssue c g srcs cost) x

/-- The group's current path goes on. -/
def Dev.advance (d : Dev) (c : CoreId) (g : Nat) : Dev := d.modGroup c g Group.advance

def always (_ : Dev) (_ : Ctx) : Bool := true

/-- An instruction that ends by going on to the next. -/
def Dev.inkPlain (d : Dev) (c : CoreId) (g : Nat) (srcs : List (Nat × Nat × Bool)) (dst : List (Nat × Nat)) (cost : Nat × Nat)
    (ok : Dev → Ctx → Bool) (body : Dev → Ctx → Dev) : Dev :=
  d.inkIssue c g srcs dst cost ok (fun d x => (body d x).advance c g)

/-- A fetched line enters the 16 KiB instruction cache. -/
def execInstructionFetchReply (c : CoreId) (g : Fin 16) (s : State) : Out :=
  onDev (fun d =>
    match d.reqs.find? (fun r => decide (r.cli = .ifetch c g.val) && r.ready) with
    | some q =>
      let d := d.dropReq q.id
      let at_ := (d.groupSlot c g.val).getD (0, 0xFFFF)
      if q.resErr then d.endRun c at_.1 0x26 stInk at_.2 false
      else if q.resPsn then d.endRun c at_.1 0x22 stInk at_.2 false
      else if q.noinstall then d
      else d.modInker c (fun k => { k with icache := ((q.addr / 128) :: k.icache.filter (fun l => l != q.addr / 128)).take 128 })
    | none => d) s

/-! ### Arithmetic (R135, Table 5.4) -/

/-- Registers each source takes, and the destination: counts for A, B, C and D. -/
def opShape : InkOp → Nat × Nat × Nat × Nat
  | .fadd | .fsub | .fmul | .fmin | .fmax | .fcmpLt | .fcmpLe | .fcmpEq | .fdiv => (1, 1, 0, 1)
  | .ffma => (1, 1, 1, 1)
  | .fsqrt => (1, 0, 0, 1)
  | .dadd | .dsub | .dmul | .ddiv => (2, 2, 0, 2)
  | .dfma => (2, 2, 2, 2)
  | .dcmpLt | .dcmpLe | .dcmpEq => (2, 2, 0, 1)
  | .dsqrt => (2, 0, 0, 2)
  | .iadd | .isub | .imul | .iand | .ior | .ixor | .shl | .shr | .sar | .smin | .smax | .umin | .umax | .icmpEq | .scmpLt
  | .ucmpLt | .sdiv | .udiv | .srem | .urem => (1, 1, 0, 1)
  | .i2f | .u2f | .f2i | .f2u | .mov => (1, 0, 0, 1)
  | .f2d | .i2d => (1, 0, 0, 2)
  | .d2f | .d2i => (2, 0, 0, 1)
  | .rdLane | .rdGroup | .rdBlock | .rdNgrp | .rdNblk | .rdArgLo | .rdArgHi | .rdDesc _ _ => (0, 0, 0, 1)

/-- A floating-point value converted to an integer of a range; none where it does not fit or is no number: IEEE 754 then
signals invalid operation and delivers no stated value. -/
def toIntRange (lo hi : Int) (w rnd : Nat) (v : Val) : Option Nat × Nat :=
  match v with
  | .num s m e =>
    let r := roundGrid rnd s m e 0 0
    let i : Int := if s then -(r.1 : Int) else r.1
    if lo ≤ i ∧ i ≤ hi then (some (ofSigned w i), if r.2 then flNX else 0) else (none, flNV)
  | _ => (none, flNV)

/-- The category of an arithmetic instruction (Table 5.4). -/
def opCost : InkOp → Nat × Nat
  | .fdiv | .fsqrt | .ddiv | .dsqrt | .sdiv | .udiv | .srem | .urem => costDiv
  | .dadd | .dsub | .dmul | .dfma | .dcmpLt | .dcmpLe | .dcmpEq => costDouble
  | _ => costOne

/-- The result of an arithmetic operation on operands a, b, c, none where the spec states no value, and the flags. -/
def inkAlu (op : InkOp) (rnd a b c : Nat) : Option Nat × Nat :=
  let some' (x : Nat × Nat) : Option Nat × Nat := (some x.1, x.2)
  let sa := toSigned 32 a
  let sb := toSigned 32 b
  let i (v : Int) : Option Nat × Nat := (some (ofSigned 32 v), 0)
  let n (v : Nat) : Option Nat × Nat := (some (v % 2 ^ 32), 0)
  -- the spec does not state how a signed quotient that is no integer is rounded
  let inexact : Bool := decide (sa < 0 ∨ sb < 0) && decide (Int.tmod sa sb ≠ 0)
  match op with
  | .fadd => some' (fAdd fp32 rnd a b)
  | .fsub => some' (fAdd fp32 rnd a (fNeg fp32 b))
  | .fmul => some' (fMul fp32 rnd a b)
  | .ffma => some' (fFma fp32 rnd a b c)
  | .fmin => some' (fMinMax fp32 false a b)
  | .fmax => some' (fMinMax fp32 true a b)
  | .fcmpLt => n (fCmp fp32 true false a b)
  | .fcmpLe => n (fCmp fp32 true true a b)
  | .fcmpEq => n (fCmp fp32 false true a b)
  | .fdiv => some' (fDiv fp32 rnd a b)
  | .fsqrt => some' (fSqrt fp32 rnd a)
  | .dadd => some' (fAdd fp64 rnd a b)
  | .dsub => some' (fAdd fp64 rnd a (fNeg fp64 b))
  | .dmul => some' (fMul fp64 rnd a b)
  | .dfma => some' (fFma fp64 rnd a b c)
  | .dcmpLt => n (fCmp fp64 true false a b)
  | .dcmpLe => n (fCmp fp64 true true a b)
  | .dcmpEq => n (fCmp fp64 false true a b)
  | .ddiv => some' (fDiv fp64 rnd a b)
  | .dsqrt => some' (fSqrt fp64 rnd a)
  | .iadd => n (a + b)
  | .isub => n (a + 2 ^ 32 - b)
  | .imul => n (a * b)
  | .iand => n (a &&& b)
  | .ior => n (a ||| b)
  | .ixor => n (a ^^^ b)
  | .shl => if b < 32 then n (a * 2 ^ b) else (none, 0)
  | .shr => if b < 32 then n (a / 2 ^ b) else (none, 0)
  | .sar => if b < 32 then i (sa / 2 ^ b) else (none, 0)
  | .smin => if sa ≤ sb then n a else n b
  | .smax => if sa ≤ sb then n b else n a
  | .umin => n (min a b)
  | .umax => n (max a b)
  | .icmpEq => n (if a = b then 1 else 0)
  | .scmpLt => n (if sa < sb then 1 else 0)
  | .ucmpLt => n (if a < b then 1 else 0)
  | .sdiv => if b = 0 then (some 0, flDZ) else if sa = -(2 ^ 31) ∧ sb = -1 ∨ inexact = true then (none, 0) else i (Int.tdiv sa sb)
  | .udiv => if b = 0 then (some 0, flDZ) else n (a / b)
  | .srem => if b = 0 then (some 0, flDZ) else if inexact then (none, 0) else i (Int.tmod sa sb)
  | .urem => if b = 0 then (some 0, flDZ) else n (a % b)
  | .i2f => some' (roundFloat fp32 rnd 0 (vInt sa 0))
  | .u2f => some' (roundFloat fp32 rnd 0 (vInt a 0))
  | .f2i => toIntRange (-(2 ^ 31)) (2 ^ 31 - 1) 32 rnd (decodeFloat fp32 a)
  | .f2u => toIntRange 0 (2 ^ 32 - 1) 32 rnd (decodeFloat fp32 a)
  | .f2d => some' (roundFloat fp64 rnd 0 (decodeFloat fp32 a))
  | .d2f => some' (roundFloat fp32 rnd 0 (decodeFloat fp64 a))
  | .i2d => some' (roundFloat fp64 rnd 0 (vInt sa 0))
  | .d2i => toIntRange (-(2 ^ 31)) (2 ^ 31 - 1) 32 rnd (decodeFloat fp64 a)
  | .mov => n a
  | _ => (some 0, 0)

/-- The tile descriptor entry named by T of the LAUNCH; none for 0xFF. -/
def Ctx.tdesc (x : Ctx) (t : Nat) : Option Img :=
  let n := eByte x.ent (8 + t)
  if n = 0xFF then none else some (entry x.run.img n)

/-- The values every thread can read (R119). The descriptor of a T that is 0xFF reads 0: DESIGN CHOICE (log entry 126), since the
spec states it for TLD only. -/
def Ctx.special (x : Ctx) (lane : Nat) : InkOp → Option Nat
  | .rdLane => some lane
  | .rdGroup => some x.g.grp
  | .rdBlock => some x.block.num
  | .rdNgrp => some (eByte x.ent 0xC)
  | .rdNblk => some (eByte x.ent 0xD)
  | .rdArgLo => some (fieldLE x.ent 0x18 4)
  | .rdArgHi => some (fieldLE x.ent 0x1C 4)
  | .rdDesc t w => some (match x.tdesc t.val with
    | some e => fieldLE e (4 * w.val) 4
    | none => 0)
  | _ => none

/-- One lane's result, drawing a free value where the spec states none. -/
def Dev.aluLane (d : Dev) (x : Ctx) (i : InkInstr) (lane : Nat) : Dev × Nat × Nat :=
  let sh := opShape i.op
  match x.special lane i.op with
  | some v => (d, v, 0)
  | none =>
    let r := inkAlu i.op i.rnd.val (x.g.regN i.srcA.val lane sh.1) (x.g.regN i.srcB.val lane sh.2.1)
               (x.g.regN i.srcC.val lane sh.2.2.1)
    match r.1 with
    | some v => (d, v, r.2)
    | none => let f := d.free (32 * sh.2.2.2); (f.2, f.1, r.2)

def execInkArith (c : CoreId) (g : Fin 16) (i : InkInstr) (s : State) : Out :=
  onDev (fun d =>
    let sh := opShape i.op
    d.inkPlain c g.val
      [(i.srcA.val, sh.1, i.hints.getLsbD 0), (i.srcB.val, sh.2.1, i.hints.getLsbD 1), (i.srcC.val, sh.2.2.1, i.hints.getLsbD 2)]
      [(i.dst.val, sh.2.2.2)] (opCost i.op) always
      (fun d x =>
        let r := x.lanes.foldl (fun (y : Dev × Group × Nat) lane =>
          let v := y.1.aluLane x i lane
          (v.1, y.2.1.setRegN i.dst.val lane sh.2.2.2 v.2.1, y.2.2 ||| v.2.2)) (d, x.g, 0)
        (r.1.modGroup c g.val (fun y => { y with regs := r.2.1.regs })).addFlags c x.slot r.2.2 0)) s

/-! ### Tile elements (R134) -/

/-- Bytes a tile element moves in a mode: registers it takes. -/
def tileRegs (t : Tile) (mode : TileMode) : Nat :=
  match mode with
  | .raw => if t.fmt = 0 then 2 else if t.fmt = 0x10 then 3 else 1
  | _ => 1

/-- The packed number of the stored element that raw access names: modulo the tile, stored elements in a sparse one. -/
def Tile.rawSlot (t : Tile) (i j : Nat) : Nat := t.slot (i % t.stRows) (j % t.stCols)

/-- What TLD reads in one lane: none where the spec states no value. A scale byte and a map nibble are indexed by i alone, modulo
their number: DESIGN CHOICE (log entry 128), since R134 says "by index" only. -/
def tldLane (k : Core) (r : Run) (t : Tile) (mode : TileMode) (i j : Nat) : Option Nat × Nat :=
  match mode with
  | .raw => (some (rawElem k r t (t.rawSlot i j)), 0)
  | .value =>
    if t.sparse then (none, 0)
    else
      let v := valAt k r t (i % t.rows) (j % t.cols)
      let f := roundFloat fp32 0 0 v.1
      (some f.1, v.2.2 ||| f.2)
  | .scaleByte => (if t.scale then some (scaleByte k r t (i % t.scaleBytes)) else none, 0)
  | .mapNibble => (if t.sparse then some (mapNibble k r t (i % t.groups)) else none, 0)

/-- Registers of an element of the tile a LAUNCH names by T: none is read or written where it names none. -/
def Dev.tileCount (d : Dev) (c : CoreId) (g t : Nat) (mode : TileMode) : Nat :=
  match d.ctx c g with
  | some (x, _, _) => (match x.tdesc t with
    | some e => tileRegs (tileOf e) mode
    | none => 1)
  | none => 1

/-- A Stone access of a thread meets what `ecc` says, and goes on where its run does (R54). -/
def Dev.inkStone (d : Dev) (c : CoreId) (x : Ctx) (ecc : StoneEcc) (go : Dev → Dev) : Dev :=
  let d := d.stoneEcc c ecc stInk x.slot x.n
  if d.running c x.slot then go d else d

def execTld (c : CoreId) (g : Fin 16) (dst : Fin 256) (t : Fin 4) (ri : Fin 256) (rj : Fin 256) (mode : TileMode)
    (s : State) (hints : BitVec 3 := 0) (ecc : StoneEcc := .clean) : Out :=
  onDev (fun d => d.inkPlain c g.val [(ri.val, 1, hints.getLsbD 0), (rj.val, 1, hints.getLsbD 1)]
      [(dst.val, d.tileCount c g.val t.val mode)] costStone always (fun d x => d.inkStone c x ecc fun d =>
    match x.tdesc t.val with
    | none => d.modGroup c g.val (fun y => x.lanes.foldl (fun y lane => y.setReg dst.val lane 0) y)
    | some e =>
      let tl := tileOf e
      let n := tileRegs tl mode
      let r := x.lanes.foldl (fun (y : Dev × Group × Nat) lane =>
        let v := tldLane (d.core c) x.run tl mode (x.g.reg ri.val lane) (x.g.reg rj.val lane)
        match v.1 with
        | some w => (y.1, y.2.1.setRegN dst.val lane n w, y.2.2 ||| v.2)
        | none => let f := y.1.free 32; (f.2, y.2.1.setRegN dst.val lane n f.1, y.2.2 ||| v.2)) (d, x.g, 0)
      (r.1.modGroup c g.val (fun y => { y with regs := r.2.1.regs })).addFlags c x.slot r.2.2 0)) s

/-- What TST writes in one lane. A scale byte and a map nibble are indexed as `tldLane` does, and a write to a region that the
tile does not have is discarded: DESIGN CHOICE (log entry 128). -/
def tstLane (k : Core) (r : Run) (t : Tile) (mode : TileMode) (rnd i j v : Nat) : Core × Nat :=
  match mode with
  | .raw => (setRawElem k r t (t.rawSlot i j) v, 0)
  | .value =>
    if t.sparse || t.scale then (k, 0)
    else
      let e := encodeElem (elemOf t.fmt) t.frame rnd 0 (decodeFloat fp32 v)
      (setRawElem k r t (t.slot (i % t.rows) (j % t.cols)) e.1, e.2 % 256)
  | .scaleByte => if t.scale then (setScaleByte k r t (i % t.scaleBytes) v, 0) else (k, 0)
  | .mapNibble => if t.sparse then (setMapNibble k r t (i % t.groups) v, 0) else (k, 0)

def execTst (c : CoreId) (g : Fin 16) (src : Fin 256) (t : Fin 4) (ri : Fin 256) (rj : Fin 256) (mode : TileMode) (rnd : Fin 4)
    (s : State) (hints : BitVec 3 := 0) (ecc : StoneEcc := .clean) : Out :=
  onDev (fun d => d.inkPlain c g.val
      [(ri.val, 1, hints.getLsbD 0), (rj.val, 1, hints.getLsbD 1), (src.val, d.tileCount c g.val t.val mode, hints.getLsbD 2)]
      [] costStone always (fun d x => d.inkStone c x ecc fun d =>
    match x.tdesc t.val with
    | none => d
    | some e =>
      let tl := tileOf e
      let r := x.lanes.foldl (fun (y : Core × Nat) lane =>
        let z := tstLane y.1 x.run tl mode rnd.val (x.g.reg ri.val lane) (x.g.reg rj.val lane)
                   (x.g.regN src.val lane (tileRegs tl mode))
        (z.1, y.2 ||| z.2)) (d.core c, 0)
      (d.setCore c r.1).addFlags c x.slot r.2 0)) s

/-! ### Block-local memory (R130) -/

/-- The Stone address of a block-local access, none with LGRAN = 0. -/
def Ctx.local (x : Ctx) (off bytes : Nat) : Option Nat :=
  if x.lgran = 0 then none
  else
    let o := off % (4096 * x.lgran)
    some (x.run.bufBase (eByte x.ent 0xE % 16) + 4096 * x.lgran * x.block.area + (o - o % bytes))

def accBytes (size : Nat) : Nat := 2 ^ size

def execLld (c : CoreId) (g : Fin 16) (dst : Fin 256) (ro : Fin 256) (size : Fin 5) (s : State)
    (hints : BitVec 3 := 0) (ecc : StoneEcc := .clean) : Out :=
  onDev (fun d =>
    let n := accBytes size.val
    d.inkPlain c g.val [(ro.val, 1, hints.getLsbD 0)] [(dst.val, regsFor n)] costStone always (fun d x => d.inkStone c x ecc fun d =>
      d.modGroup c g.val (fun y => x.lanes.foldl (fun y lane =>
        y.setRegN dst.val lane (regsFor n) (match x.local (x.g.reg ro.val lane) n with
          | some a => (d.core c).stoneN a n
          | none => 0)) y))) s

def execLst (c : CoreId) (g : Fin 16) (src : Fin 256) (ro : Fin 256) (size : Fin 5) (s : State)
    (hints : BitVec 3 := 0) (ecc : StoneEcc := .clean) : Out :=
  onDev (fun d =>
    let n := accBytes size.val
    d.inkPlain c g.val [(ro.val, 1, hints.getLsbD 0), (src.val, regsFor n, hints.getLsbD 1)] [] costStone always
      (fun d x => d.inkStone c x ecc fun d =>
      d.modCore c (fun k => x.lanes.foldl (fun k lane => match x.local (x.g.reg ro.val lane) n with
        | some a => k.stoneWrite a n (x.g.regN src.val lane (regsFor n))
        | none => k) k))) s

/-! ### Loads (R145, R147 to R149, R158) -/

/-- The pieces of a lane's access: line, lane, byte in the line, byte in the value, bytes. -/
def lanePieces (lane addr bytes : Nat) : List (Nat × Nat × Nat × Nat × Nat) :=
  let n := min bytes (128 - addr % 128)
  (addr / 128, lane, addr % 128, 0, n) ::
    (if n < bytes then [(addr / 128 + 1, lane, 0, n, bytes - n)] else [])

/-- The pieces of an access by line, in ascending order of line. -/
def byLine (ps : List (Nat × Nat × Nat × Nat × Nat)) : NMap (List (Nat × Nat × Nat × Nat)) :=
  ps.foldl (fun m p => NMap.put m p.1 (NMap.get m p.1 [] ++ [p.2]) []) []

/-- Bytes of a line fill the registers of lanes. -/
def Group.fill (g : Group) (dst size data : Nat) (ps : List (Nat × Nat × Nat × Nat)) : Group :=
  ps.foldl (fun g p =>
    let n := regsFor size
    let v := (data >>> (8 * p.2.1)) % 2 ^ (8 * p.2.2.2)
    let old := g.regN dst p.1 n
    g.setRegN dst p.1 n (setBits old (8 * (p.2.2.1 + p.2.2.2) - 1) (8 * p.2.2.1) v)) g

/-- A hit of the data cache: the line, of the requester's partition, most recently used now (R359). -/
def Inker.dhit (k : Inker) (l part : Nat) : Option (LineData × Inker) :=
  (k.dcache.find? (fun e => e.1 == l && e.2.1 == part)).map (fun e =>
    (e.2.2, { k with dcache := e :: k.dcache.filter (fun y => y.1 != l) }))

/-- Installs a line: 32 sets of 8 ways, least recently used (R145). -/
def Inker.dfill (k : Inker) (l part data : Nat) : Inker :=
  let rest := k.dcache.filter (fun e => e.1 != l)
  let same := rest.filter (fun e => e.1 % 32 == l % 32)
  let rest := if same.length < 8 then rest else
    match same.getLast? with
    | some v => rest.filter (fun e => e.1 != v.1)
    | none => rest
  { k with dcache := (l, part, BitVec.ofNat 1024 data) :: rest }

/-- The address of a lane's access, in a register pair. -/
def Ctx.addr (x : Ctx) (ra lane : Nat) : Nat := x.g.regN ra lane 2

/-- A load: hits of the data cache are delivered, every other line is asked for. `parity`: a hit finds a parity error and is
fetched again (R149). -/
def Dev.inkLoad (d : Dev) (c : CoreId) (g : Nat) (x : Ctx) (dst ra size : Nat) (nocache parity : Bool) (acq : Option Nat)
    (arr : ArrayEcc) : Dev :=
  let n := accBytes size
  let ps := byLine (x.lanes.flatMap (fun lane => lanePieces lane (x.addr ra lane) n))
  let d := d.modGroup c g (fun y => x.lanes.foldl (fun y lane => y.setRegN dst lane (regsFor n) 0) y)
  -- the first line the data cache does not serve is looked up in the Galley (R223)
  let d := match ps.find? (fun e => parity || ((d.core c).inker.dhit e.1 x.part).isNone) with
    | some e => d.lookupEcc c.die.val x.part e.1 arr
    | none => d
  ps.foldl (fun d e =>
    let d := if parity then d.modInker c (fun k => { k with dcache := k.dcache.filter (fun y => y.1 != e.1) }) else d
    match (d.core c).inker.dhit e.1 x.part with
    | some (data, k) =>
      let d := (d.modInker c (fun _ => k)).modGroup c g (fun y => y.fill dst n data.toNat e.2)
      (match acq with
       | some sc => d.acquire c sc x.part
       | none => d)
    | none =>
      -- the host window is never cached (R228); only the bytes asked for are read (log entry 18)
      let host := decide (0x800000000000 ≤ 128 * e.1)
      d.issue { Req.blank with
        cli := .inkLd c g x.slot x.n, op := .rd, addr := 128 * e.1 + (if host then (e.2.head?.map (fun p => p.2.1)).getD 0 else 0),
        mask := if host then e.2.foldl (fun m p => m ||| byteMask p.2.1 p.2.2.2) 0 else 2 ^ 128 - 1,
        part := x.part, quad := c.die.val / 2, tc := 1, acq := acq, dst := dst, size := n, lanes := e.2,
        nocache := nocache || host }) d

/-- The reads of a group follow its acquires (R158, R177): none issues while one is outstanding. -/
def Dev.acquired (c : CoreId) (g : Nat) (d : Dev) (_ : Ctx) : Bool :=
  !d.reqs.any (fun r => r.acq.isSome && (match r.cli with
    | .inkLd c' g' _ _ => c' == c && g' == g
    | .atom c' g' _ _ => c' == c && g' == g
    | _ => false))

def execLd (c : CoreId) (g : Fin 16) (dst : Fin 256) (ra : Fin 256) (size : Fin 5) (nocache : Bool) (parity : Bool)
    (s : State) (hints : BitVec 3 := 0) (arr : ArrayEcc := .clean) : Out :=
  onDev (fun d => d.inkPlain c g.val [(ra.val, 2, hints.getLsbD 0)] [(dst.val, regsFor (accBytes size.val))] costMem
    (Dev.acquired c g.val) (fun d x => d.inkLoad c g.val x dst.val ra.val size.val nocache parity none arr)) s

def execLdAcq (c : CoreId) (g : Fin 16) (dst : Fin 256) (ra : Fin 256) (size : Fin 5) (scope : Scope) (s : State)
    (parity : Bool := false) (hints : BitVec 3 := 0) (arr : ArrayEcc := .clean) : Out :=
  onDev (fun d => d.inkPlain c g.val [(ra.val, 2, hints.getLsbD 0)] [(dst.val, regsFor (accBytes size.val))] costMem
    (Dev.acquired c g.val) (fun d x => d.inkLoad c g.val x dst.val ra.val size.val false parity (some scope.val) arr)) s

/-- A reply ends its run where it brings an address error or poison (R149). -/
def Dev.inkFail (d : Dev) (c : CoreId) (sl n : Nat) (q : Req) : Option Dev :=
  if q.resErr then some (d.endRun c sl 0x26 stInk n false)
  else if q.resPsn then some (d.endRun c sl 0x22 stInk n false)
  else none

def execInkerLoadReply (c : CoreId) (rq : Nat) (s : State) : Out :=
  onDev (fun d =>
    match d.req rq with
    | some q =>
      (match q.cli with
       | .inkLd c' g sl n =>
         if c' ≠ c ∨ q.ready = false then d
         else
           let d := d.dropReq rq
           (match d.inkFail c sl n q with
            | some d => d
            | none =>
              let d := d.modGroup c g (fun y => y.fill q.dst q.size q.res q.lanes)
              let d := if q.nocache || q.noinstall then d else d.modInker c (fun k => k.dfill (q.addr / 128) q.part q.res)
              match q.acq with
              | some sc => d.acquire c sc q.part
              | none => d)
       | _ => d)
    | none => d) s

/-! ### Stores and fences (R145, R157, R158) -/

/-- A store: present lines of the data cache are updated, every line is sent. Of lanes that write the same bytes the highest one's
value remains, as in LST and TST: DESIGN CHOICE (log entry 127), since the spec orders lanes for ATOM only. -/
def Dev.inkStore (d : Dev) (c : CoreId) (g : Nat) (x : Ctx) (src ra size : Nat) (arr : ArrayEcc) : Dev :=
  let n := accBytes size
  let ps := byLine (x.lanes.flatMap (fun lane => lanePieces lane (x.addr ra lane) n))
  let d := d.modRun c x.slot (fun r => { r with outbound := true })
  let d := match ps with
    | e :: _ => d.lookupEcc c.die.val x.part e.1 arr
    | [] => d
  ps.foldl (fun d e =>
    let w := e.2.foldl (fun (w : Nat × Nat) p =>
      let v := (x.g.regN src p.1 (regsFor n) >>> (8 * p.2.2.1)) % 2 ^ (8 * p.2.2.2)
      (w.1 ||| byteMask p.2.1 p.2.2.2, setBits w.2 (8 * (p.2.1 + p.2.2.2) - 1) (8 * p.2.1) v)) (0, 0)
    let d := d.modInker c (fun k => { k with dcache := k.dcache.map (fun y =>
      if y.1 = e.1 then (y.1, y.2.1, BitVec.ofNat 1024 (mergeBytes 128 y.2.2.toNat w.1 w.2)) else y) })
    -- a line asked for before this write is delivered and not installed
    let d : Dev := { d with reqs := d.reqs.map (fun r => match r.cli with
      | .inkLd c' _ _ _ => if c' = c ∧ r.line = e.1 then { r with noinstall := true } else r
      | _ => r) }
    d.issue { Req.blank with
      cli := .inkSt c g x.slot x.n, op := .wr, addr := 128 * e.1 + (e.2.head?.map (fun p => p.2.1)).getD 0, mask := w.1, data := w.2,
      part := x.part, quad := c.die.val / 2, tc := 2 }) d

/-- The release set of a thread's release: the earlier writes and atomics of its group are performed at the scope. -/
def Dev.threadReleased (d : Dev) (c : CoreId) (g scope : Nat) : Bool :=
  d.reqs.all (fun r => match r.cli with
    | .inkSt c' g' _ _ => !(c' == c && g' == g) || r.atScope scope
    | .atom c' g' _ _ => !(c' == c && g' == g) || r.ready
    | _ => true)

/-- Operands of a store: the address and the value. -/
def stSrcs (src ra size : Nat) (hints : BitVec 3) : List (Nat × Nat × Bool) :=
  [(ra, 2, hints.getLsbD 0), (src, regsFor (accBytes size), hints.getLsbD 1)]

def execSt (c : CoreId) (g : Fin 16) (src : Fin 256) (ra : Fin 256) (size : Fin 5) (s : State)
    (hints : BitVec 3 := 0) (arr : ArrayEcc := .clean) : Out :=
  onDev (fun d => d.inkPlain c g.val (stSrcs src.val ra.val size.val hints) [] costMem always
    (fun d x => d.inkStore c g.val x src.val ra.val size.val arr)) s

def execStRel (c : CoreId) (g : Fin 16) (src : Fin 256) (ra : Fin 256) (size : Fin 5) (scope : Scope) (s : State)
    (hints : BitVec 3 := 0) (arr : ArrayEcc := .clean) : Out :=
  onDev (fun d => d.inkPlain c g.val (stSrcs src.val ra.val size.val hints) [] costMem
    (fun d _ => d.threadReleased c g.val scope.val) (fun d x => d.inkStore c g.val x src.val ra.val size.val arr)) s

def execFenceRel (c : CoreId) (g : Fin 16) (scope : Scope) (s : State) : Out :=
  onDev (fun d => d.inkPlain c g.val [] [] costNone (fun d _ => d.threadReleased c g.val scope.val) (fun d _ => d)) s

def execFenceAcq (c : CoreId) (g : Fin 16) (scope : Scope) (s : State) : Out :=
  onDev (fun d => d.inkPlain c g.val [] [] costNone always (fun d x => d.acquire c scope.val x.part)) s

def execFenceAr (c : CoreId) (g : Fin 16) (scope : Scope) (s : State) : Out :=
  onDev (fun d => d.inkPlain c g.val [] [] costNone (fun d _ => d.threadReleased c g.val scope.val)
    (fun d x => d.acquire c scope.val x.part)) s

/-! ### Atomics (R142 to R144) -/

/-- The widths an operation has (Table 5.5). -/
def atomWidthOk (op : AOp) (w : Nat) : Bool :=
  match op with
  | .exch => true
  | .cas => true
  | .fadd => w == 0
  | _ => decide (w < 2)

/-- Lanes of an atomic to the host or a peer that share one request: those of one address, but for FADD and CAS, whose lanes
go one after another. -/
def atomGroups (op : AOp) (ls : List (Nat × Nat × Nat × Nat)) : List (List (Nat × Nat × Nat × Nat)) :=
  match op with
  | .fadd => ls.map (fun l => [l])
  | .cas => ls.map (fun l => [l])
  | _ => ((ls.map (fun l => l.2.1)).eraseDups).map (fun o => ls.filter (fun l => l.2.1 == o))

/-- An ATOM in block-local memory. -/
def Dev.atomLocal (d : Dev) (c : CoreId) (g : Nat) (x : Ctx) (op : AOp) (i : AtomInstr) : Dev :=
  let bytes := atomWidth i.width.val
  let n := regsFor bytes
  let r := x.lanes.foldl (fun (y : Core × Group × Nat) lane =>
    let a := x.g.regN i.op1.val lane n
    match x.local (x.g.reg i.addr.val lane) bytes with
    | none => (y.1, y.2.1.setRegN i.dst.val lane n 0, y.2.2)
    | some s =>
      let old := y.1.stoneN s bytes
      (y.1.stoneWrite s bytes (atomApply op bytes old a (x.g.regN i.op2.val lane n)), y.2.1.setRegN i.dst.val lane n old,
       y.2.2 ||| atomFlags op old a)) (d.core c, x.g, 0)
  ((d.setCore c r.1).modGroup c g (fun y => { y with regs := r.2.1.regs })).addFlags c x.slot r.2.2 0

/-- An ATOM to memory: the lanes of each line in lane order; the data cache loses the lines. An address is rounded down to the
width of the access: DESIGN CHOICE (log entry 130), since the spec states no alignment outside block-local memory. -/
def Dev.atomMem (d : Dev) (c : CoreId) (g : Nat) (x : Ctx) (op : AOp) (i : AtomInstr) : Dev :=
  let bytes := atomWidth i.width.val
  let n := regsFor bytes
  let acc (lane : Nat) : Nat × Nat × Nat × Nat × Nat :=
    let a := x.addr i.addr.val lane
    let a := a - a % bytes
    (a / 128, lane, a % 128, x.g.regN i.op1.val lane n, x.g.regN i.op2.val lane n)
  let ls := byLine (x.lanes.map acc)
  let d := (d.dcacheDrop c (ls.map (fun e => e.1))).modRun c x.slot (fun r => { r with outbound := true })
  let acq := match i.ord with
    | .acq => some i.scope.val
    | .ar => some i.scope.val
    | _ => none
  let d := match ls with
    | e :: _ => d.lookupEcc c.die.val x.part e.1 i.ecc.arr
    | [] => d
  ls.foldl (fun d e =>
    let stack := decide (128 * e.1 < 0x028000000000)
    d.issueAll ((if stack then [e.2] else atomGroups op e.2).map (fun l =>
      let off := (l.head?.map (fun p => p.2.1)).getD 0
      { Req.blank with
        cli := .atom c g x.slot x.n, op := .atom op i.width.val l, addr := 128 * e.1 + off, mask := byteMask off bytes, part := x.part,
        quad := c.die.val / 2, tc := 1, scope := i.scope.val, acq := acq, dst := i.dst.val, size := bytes }))) d

def Dev.atomCmd (d : Dev) (c : CoreId) (g : Nat) (op : AOp) (i : AtomInstr) : Dev :=
  let n := regsFor (atomWidth i.width.val)
  let rel : Bool := match i.ord with
    | .rel => true
    | .ar => true
    | _ => false
  d.inkPlain c g
    [(i.addr.val, if i.loc then 1 else 2, i.hints.getLsbD 0), (i.op1.val, n, i.hints.getLsbD 1),
     (i.op2.val, if op = .cas then n else 0, i.hints.getLsbD 2)] [(i.dst.val, n)] costMem
    (fun d x => i.loc || ((!rel || d.threadReleased c g i.scope.val) && Dev.acquired c g d x))
    (fun d x => if i.loc then d.inkStone c x i.ecc (fun d => d.atomLocal c g x op i) else d.atomMem c g x op i)

def execAtom (c : CoreId) (g : Fin 16) (op : AOp) (i : AtomInstr) (s : State) : Out :=
  onDevIf (atomWidthOk op i.width.val) (fun d => d.atomCmd c g.val op i) s

def execAtomAdd (c : CoreId) (g : Fin 16) (i : AtomInstr) (s : State) : Out := execAtom c g .add i s
def execAtomFadd (c : CoreId) (g : Fin 16) (i : AtomInstr) (s : State) : Out := execAtom c g .fadd i s
def execAtomSmin (c : CoreId) (g : Fin 16) (i : AtomInstr) (s : State) : Out := execAtom c g .smin i s
def execAtomSmax (c : CoreId) (g : Fin 16) (i : AtomInstr) (s : State) : Out := execAtom c g .smax i s
def execAtomUmin (c : CoreId) (g : Fin 16) (i : AtomInstr) (s : State) : Out := execAtom c g .umin i s
def execAtomUmax (c : CoreId) (g : Fin 16) (i : AtomInstr) (s : State) : Out := execAtom c g .umax i s
def execAtomAnd (c : CoreId) (g : Fin 16) (i : AtomInstr) (s : State) : Out := execAtom c g .and i s
def execAtomOr (c : CoreId) (g : Fin 16) (i : AtomInstr) (s : State) : Out := execAtom c g .or i s
def execAtomXor (c : CoreId) (g : Fin 16) (i : AtomInstr) (s : State) : Out := execAtom c g .xor i s
def execAtomExch (c : CoreId) (g : Fin 16) (i : AtomInstr) (s : State) : Out := execAtom c g .exch i s
def execAtomCas (c : CoreId) (g : Fin 16) (i : AtomInstr) (s : State) : Out := execAtom c g .cas i s

/-- The next atomic of a group that has waited for an earlier one to the host. -/
def Dev.nextHostAtom (d : Dev) (cli : Client) : Dev :=
  match d.reqs.find? (fun r => decide (r.cli = cli) && !r.issued && !r.ready &&
      (match r.tgt with | .host _ => true | _ => false) && !d.atomWaits r.id) with
  | some r => d.hostIssue r.id
  | none => d

def execAtomReply (c : CoreId) (rq : Nat) (s : State) : Out :=
  onDev (fun d =>
    match d.req rq with
    | some q =>
      (match q.cli with
       | .atom c' g sl n =>
         if c' ≠ c ∨ q.ready = false then d
         else
           let d := d.dropReq rq
           (match d.inkFail c sl n q with
            | some d => d
            | none =>
              let ls := match q.op with
                | .atom _ _ l => l
                | _ => []
              let d := d.modGroup c g (fun y => ls.foldl (fun y l =>
                y.setRegN q.dst l.1 (regsFor q.size) ((q.res >>> (128 * l.1)) % 2 ^ (8 * q.size))) y)
              let d := d.addFlags c sl q.flags 0
              let d := match q.acq with
                | some sc => d.acquire c sc q.part
                | none => d
              d.nextHostAtom q.cli)
       | _ => d)
    | none => d) s

/-! ### Barriers and divergence (R136 to R141) -/

def execBar (c : CoreId) (g : Fin 16) (s : State) : Out :=
  onDev (fun d => d.inkIssue c g.val [] [] costNone (fun d _ => d.threadReleased c g.val 0) (fun d x =>
    (d.modGroup c g.val (fun y => match y.paths with
      | p :: r => ({ y with paths := { p with pc := p.pc + 16, issued := p.issued + 1, st := .bar } :: r }).settled
      | [] => y)).modInker c (fun k => k.barrier x.g.block))) s

def execExit (c : CoreId) (g : Fin 16) (s : State) : Out :=
  onDev (fun d => d.inkIssue c g.val [] [] costNone always (fun d x =>
    -- the path that has waited longest follows the one that ends
    (d.modGroup c g.val (fun y => ({ y with paths := y.paths.drop 1 }.arriveAll 40).elect)).modInker c (fun k => k.barrier x.g.block))) s

/-- A branch of the current path: the lanes whose condition register is not 0 take it (log entry 17). -/
def Group.branch (g : Group) (rc target reconv : Nat) : Group :=
  match g.paths with
  | [] => g
  | p :: r =>
    let taken := laneSet ((lanesOf p.lanes).filter (fun l => g.reg rc l != 0))
    let rest := p.lanes &&& ~~~taken
    if taken = 0 then g.advance
    else if rest = 0 then ({ g with paths := { p with pc := target, issued := p.issued + 1 } :: r }).settled
    else
      let stack := if p.stack.length < 32 then ⟨reconv, p.lanes⟩ :: p.stack else p.stack
      let a : Path := { p with lanes := taken, pc := target, stack := stack, issued := p.issued + 1 }
      let b : Path := { p with lanes := rest, pc := p.pc + 16, stack := stack, issued := p.issued + 1 }
      let (x, y) := if a.pc < b.pc then (a, b) else (b, a)
      ({ g with paths := x :: (r ++ [{ y with since := g.stamp, issued := 0 }]) }).settled

def execBra (c : CoreId) (g : Fin 16) (rc : Fin 256) (target : BitVec 48) (reconv : BitVec 48)
    (s : State) (hints : BitVec 3 := 0) : Out :=
  onDev (fun d => d.inkIssue c g.val [(rc.val, 1, hints.getLsbD 0)] [] costNone always (fun d _ =>
    d.modGroup c g.val (fun y => y.branch rc.val target.toNat reconv.toNat))) s

def execPathSwitch (c : CoreId) (g : Fin 16) (s : State) : Out :=
  onDev (fun d => d.modGroup c g.val (fun y => match y.paths with
    | p :: _ => if 64 ≤ p.issued ∧ y.others = true then y.switch else y
    | [] => y)) s

end Sys2Proof.Machine
end

