-- ==== Sys2Proof/Machine/RegWrite.lean ====
section
/-!
DEFINITION. Register writes (R7, R34 to R47): which register an access reaches, what a write of it does, the pairs of R39, the seal
(R43) and the peer-window table (R31, R32). Registers whose write has a command of its own are handed to that command's effect.
-/

namespace Sys2Proof.Machine

open Sys2Proof

/-! ### Registers and their entries -/

/-- The entry of the register at `off` that the page's index registers select; 0 where it is not indexed. -/
def Dev.regIdx (d : Dev) (p : Page) (off : Nat) : Nat :=
  match p with
  | .hstCh _ =>
    if off = 0x108 ∨ off = 0x10C then d.get p fHST_PTAG_IDX_PART 0
    else if off = 0x114 then d.get p fHST_QIRQ_IDX_DIE 0 * 64 + d.get p fHST_QIRQ_IDX_Q 0
    else if off = 0x11C then d.get p fHST_DBMAP_IDX_ENT 0
    else if off = 0x154 then d.get p fHST_PQCMD_PART 0
    else if off = 0x184 then d.get p fHST_ATT_NIDX_WORD 0
    else 0
  | .boot => if off = 0x118 then d.get p fBOOT_COMP_IDX_COMP 0 else 0
  | .dctl => if off = 0x13C then d.get p fDCTL_XR_PINIDX_WORD 0 else 0
  | .qctl q =>
    if off = 0x204 then d.get p fQCTL_HMAP_IDX_UNIT 0
    else if off = 0x20C then d.get p fQCTL_PCFG_IDX_PART 0
    else if 0x214 ≤ off ∧ off ≤ 0x21C then pwinIdx d q.val
    else if off = 0x25C then srIdx d q.val * 16 + d.get p fQCTL_SR_DIGIDX_WORD 0
    else if 0x244 ≤ off ∧ off ≤ 0x264 ∧ off ≠ 0x258 then srIdx d q.val
    else if 0x284 ≤ off ∧ off ≤ 0x298 then rbIdx d q.val
    else if 0x348 ≤ off ∧ off ≤ 0x35C then d.get p fQCTL_TRF_IDX_PART 0
    else if off = 0x364 ∨ off = 0x368 then d.get p fQCTL_MET_IDX_MST 0
    else if off = 0x384 then d.get p fQCTL_CTRMAP_IDX_BLK 0
    else 0
  | .imp _ =>
    if 0x104 ≤ off ∧ off ≤ 0x130 then d.get p fIMP_QSEL_Q 0
    else if off = 0x138 then d.get p fIMP_CMAP_IDX_IDX 0
    else 0
  | .gal _ => if off = 0x104 then d.get p fGAL_PIDX_PART 0 else 0
  | _ => 0

/-- The offset of the LO register of a pair of R39. -/
def isLo (p : Page) (off : Nat) : Bool :=
  match pageKind p with
  | .hstCh => off == 0x160 || off == 0x188
  | .boot => off == 0x108
  | .dctl => off == 0x130
  | .errcDev | .errcCh | .errcQ => off == 0x100 || off == 0x108
  | .dma => decide (0x100 ≤ off ∧ off < 0x500) && (off % 0x20 == 0 || off % 0x20 == 0x14)
  | .qctl => off == 0x184 || off == 0x230 || off == 0x250 || off == 0x284 || off == 0x300
  | .dir => off == 0x100
  | .mc => off == 0x10C
  | .imp => off == 0x108 || off == 0x110 || off == 0x118
  | _ => false
def isHi (p : Page) (off : Nat) : Bool := decide (4 ≤ off) && isLo p (off - 4)

/-! ### Plain writes -/

/-- One field of the register at `off`. Counters clear when 1 is written to any of their bits. -/
def Dev.swAny (d : Dev) (p : Page) (f : FieldDef) (i val : Nat) : Dev :=
  if f.acc = .w1c ∧ f.lo < f.hi then (if bitsOf val f.hi f.lo = 0 then d else d.set p f i 0) else d.swField p f i val

/-- Every field of the register at `off` takes its part of the word, as its access type says. -/
def Dev.swWord (d : Dev) (p : Page) (off i val : Nat) : Dev :=
  (fieldsAt (pageKind p) off).foldl (fun d f => d.swAny p { f with off := off } i val) d

/-- A plain write of the entry the index registers select. -/
def Dev.plain (d : Dev) (p : Page) (off val : Nat) : Dev := d.swWord p off (d.regIdx p off) val

/-- A field that takes only the values a test admits: another leaves it unchanged. -/
def Dev.ranged (d : Dev) (p : Page) (f : FieldDef) (i val : Nat) (ok : Nat → Bool) : Dev :=
  if ok (bitsOf val f.hi f.lo) then d.swField p f i val else d

/-! ### The peer-window table (R31, R32, R494) -/

/-- A window entry as the staging words spell it. -/
def Dev.staged (d : Dev) (q : Nat) : Window :=
  let p := pQctl q
  { valid := d.on p fQCTL_WTAB_W0_VALID 0, tc := d.get p fQCTL_WTAB_W0_TC 0, rcache := d.on p fQCTL_WTAB_W0_RCACHE 0,
    parten := d.on p fQCTL_WTAB_W0_PARTEN 0, part := d.get p fQCTL_WTAB_W0_PART 0, dev := d.get p fQCTL_WTAB_W0_DEV 0,
    sizeG := d.get p fQCTL_WTAB_W1_SIZE_G 0, pbase := d.get p fQCTL_WTAB_W2_PBASE 0 }

/-- The illegal values of R32: a size outside 1 to 64 GiB, or a span across a 128 GiB boundary of the peer. -/
def Window.illegal (w : Window) : Bool :=
  w.valid && (w.sizeG == 0 || decide (64 < w.sizeG) || decide (128 < w.pbase % 128 + w.sizeG))

/-- An entry of a quadrant's table. -/
def Dev.window (d : Dev) (q i : Nat) : Window := NMap.get d.wtab (q * 256 + i) Window.init
def Dev.setWindow (d : Dev) (q i : Nat) (w : Window) : Dev := { d with wtab := NMap.put d.wtab (q * 256 + i) w Window.init }

/-- COMMIT: every quadrant of the channel that is not in reset takes the entry in one update; one in reset copies it when it leaves
reset. -/
def wtabCommit (d : Dev) (q : Nat) : Dev :=
  let w := d.staged q
  let i := d.get (pQctl q) fQCTL_WTAB_IDX_IDX 0
  if w.illegal then d.set (pQctl q) fQCTL_WTAB_CMD_ILL 0 1
  else
    ((d.quadsOf (d.chanOf q)).filter (fun y => !d.inReset (pQctl y))).foldl
      (fun d y => d.setWindow y i w) d

/-- LOAD: the entry of this quadrant's table into the staging words. -/
def wtabLoad (d : Dev) (q : Nat) : Dev :=
  let p := pQctl q
  let w := d.window q (d.get p fQCTL_WTAB_IDX_IDX 0)
  let b (x : Bool) : Nat := if x then 1 else 0
  let d := ((d.set p fQCTL_WTAB_W0_VALID 0 (b w.valid)).set p fQCTL_WTAB_W0_TC 0 w.tc).set p fQCTL_WTAB_W0_RCACHE 0 (b w.rcache)
  let d := ((d.set p fQCTL_WTAB_W0_PARTEN 0 (b w.parten)).set p fQCTL_WTAB_W0_PART 0 w.part).set p fQCTL_WTAB_W0_DEV 0 w.dev
  (d.set p fQCTL_WTAB_W1_SIZE_G 0 w.sizeG).set p fQCTL_WTAB_W2_PBASE 0 w.pbase

/-- A write of QCTL_WTAB_CMD; with both bits set only COMMIT acts. -/
def wtabCmd (d : Dev) (q val : Nat) : Dev :=
  let d := d.swField (pQctl q) fQCTL_WTAB_CMD_ILL 0 val
  if val.testBit 0 then wtabCommit d q else if val.testBit 1 then wtabLoad d q else d

def execWtabLoad (via : Via) (q : Quad) (s : State) : Out := onDev (fun d => d.viaWrite via (.qctl q) (fun d => wtabCmd d q.val 2)) s
def execWtabCommit (via : Via) (q : Quad) (s : State) : Out :=
  onDev (fun d => d.viaWrite via (.qctl q) (fun d => wtabCmd d q.val 1)) s

/-! ### The seal (R43, R444) -/

/-- A write of DCTL_SEAL: the first 1 seals the configuration, and MR9 of every channel takes it. -/
def sealWrite (d : Dev) (val : Nat) : Dev :=
  if d.isSealed || !val.testBit 31 then d
  else
    let d := d.set .dctl fDCTL_SEAL_SEAL 0 1
    (List.range d.nChan).foldl (fun d ch => d.extendMr (mrKey ch 9) (sha (d.repConfig ch))) d

def execSeal (via : Via) (s : State) : Out := onDev (fun d => d.viaWrite via .dctl (fun d => sealWrite d (2 ^ 31))) s

/-! ### Writes with an effect, page by page -/

/-- A register of a stereo entry: written in OFF, its digest in OPEN too (R224). -/
def srReg (d : Dev) (q off val : Nat) : Dev :=
  let e := srIdx d q
  if d.srState q e = 0 ∨ (off = 0x25C ∧ d.srState q e = 1) then d.plain (pQctl q) off val else srIll d q e

/-- A configuration register of a reduction buffer: written in CLOSED (R254). -/
def rbReg (d : Dev) (q off val : Nat) : Dev :=
  let e := rbIdx d q
  if rbState d q e ≠ 0 then rbIll d q e
  else if off = 0x290 ∧ d.nPart ≤ val % 64 then d
  else d.plain (pQctl q) off val

/-- QCTL_GRP_STAT: the sticky bits of the entry addressed. -/
def grpStatW (d : Dev) (q val : Nat) : Dev :=
  let k := arrKey q (d.get (pQctl q) fQCTL_GRP_IDX_IDX 0)
  let e := d.grp k
  d.setGrp k { e with tmo := e.tmo && !val.testBit 30, dup := e.dup && !val.testBit 29, sat := e.sat && !val.testBit 28 }

/-- An index or field that names a partition takes one of its channel only (R357). -/
def Dev.partReg (d : Dev) (p : Page) (off val part : Nat) : Dev := if d.nPart ≤ part then d else d.plain p off val

/-- QCTL_RCREACH, kept once for the channel (R216): a write after sealing that would change it is reported in the page written
(R43). -/
def rcreachWrite (d : Dev) (q val : Nat) : Dev :=
  let c := pQctl (d.chanQuad q)
  if d.isSealed = true ∧ d.get c fQCTL_RCREACH_REACH 0 ≠ val % 2 then d.lockViolation (pQctl q)
  else d.swField c fQCTL_RCREACH_REACH 0 val

def qctlWrite (d : Dev) (q off val : Nat) : Dev :=
  let p := pQctl q
  match off with
  | 0x104 => d.partReg p off val (bitsOf val 21 16)
  | 0x110 => wtabCmd d q val
  | 0x198 => grpStatW d q val
  | 0x1A0 => if val.testBit 0 then grpClear d q else d
  | 0x1A4 => d.ranged p fQCTL_COLO_TMO_EXP 0 val (fun v => decide (20 ≤ v ∧ v ≤ 40))
  | 0x200 => d.ranged p fQCTL_HMAP_IDX_UNIT 0 val (fun v => decide (v < 360))
  | 0x204 => hmapWrite d q val
  | 0x208 => d.partReg p off val (val % 64)
  | 0x20C => pcfgWrite d q val
  | 0x21C => pwinCtlWrite d q val
  | 0x220 => rcreachWrite d q val
  | 0x23C => mntCmd (d.swField p fQCTL_MNT_CMD_ILL 0 val) q val
  | 0x244 => srReg d q off val
  | 0x248 => srReg d q off val
  | 0x24C => srReg d q off val
  | 0x25C => srReg d q off val
  | 0x260 => srCmd d q val
  | 0x28C => rbReg d q off val
  | 0x290 => rbReg d q off val
  | 0x294 => rbCmd d q val
  | 0x344 => d.partReg p off val (val % 64)
  | 0x360 => d.ranged p fQCTL_MET_IDX_MST 0 val (fun v => decide (v < 13))
  | 0x384 => ctrmapWrite d q val
  | _ => d.plain p off val

def impWrite (d : Dev) (x off val : Nat) : Dev :=
  let p := pImp x
  let q := d.get p fIMP_QSEL_Q 0
  let off? : Bool := d.qState x q == 0
  if 0x200 ≤ off ∧ off < 0x300 then doorbell d x ((off - 0x200) / 4) val
  else match off with
    | 0x104 => if off? then d.plain p off val else d.qErr x q 6
    | 0x120 => if off? then d.plain p off val else d.qErr x q 6
    | 0x124 => if off? then d.plain p off val else d
    | 0x128 => qCmd d x val [] .ok
    | 0x130 => qpartWrite d x val
    | 0x138 => cmapWrite d x val
    | 0x140 => crstWrite d x val
    | 0x144 => rprWrite (d.swField p fIMP_RPR_ILL 0 val) x val
    | _ => d.plain p off val

/-- A command register whose value is only its commands: a write of zeros does nothing. -/
def hstChWrite (d : Dev) (c off val : Nat) : Dev :=
  let p := pHst c
  match off with
  | 0x104 => d.partReg p off val (val % 64)
  | 0x108 => ptagWrite d c val
  | 0x114 => qirqWrite d c val
  | 0x118 => if c = 0 then d.plain p off val else d
  | 0x11C => if c = 0 then d.plain p off val else d
  | 0x150 => pqCmd d c val
  | 0x168 =>
    if d.nPart ≤ val % 64 then d
    else
      ((d.swField p fHST_SHJ_CFG_EN 0 val).ranged p fHST_SHJ_CFG_LOGSZ 0 val (fun v => decide (4 ≤ v ∧ v ≤ 16))).swField p
        fHST_SHJ_CFG_PART 0 val
  | 0x190 => attWrite d c val
  | 0x1A4 => keyWrite d c val 0
  | _ => d.plain p off val

/-- Registers of engine e of a DMA page. -/
def dmaWrite (d : Dev) (c off val : Nat) : Dev :=
  let e := (off - 0x100) / 0x20
  if off < 0x100 ∨ d.nEngine ≤ e ∨ d.nChan ≤ c then d
  else match off % 0x20 with
    | 0x08 => if d.engSt c e ≠ 0 ∨ d.nPart ≤ bitsOf val 13 8 then d else d.plain (pDma c) off val
    | 0x0C => dmaWp d c e val
    | 0x1C => if val.testBit 28 then dmaResume d c e else d
    | _ => d

def galWrite (d : Dev) (g off val : Nat) : Dev :=
  let p := pGal g
  match off with
  | 0x100 => d.partReg p off val (val % 64)
  | 0x108 =>
    let d := d.swField p fGAL_MNT_ILL 0 val
    if d.nPart ≤ bitsOf val 13 8 then d.set p fGAL_MNT_ILL 0 1 else galMnt d g val
  | _ => d.plain p off val

def xlWrite (d : Dev) (k off val : Nat) : Dev :=
  let p := pXl k
  if 0x140 ≤ off ∧ off < 0x160 then
    (if d.xlState k = 0 ∨ d.xlState k = 4 then d.plain p off val else d.set p fXL_STAT_ILL 0 1)
  else match off with
    | 0x104 => xlCmd d k val
    | 0x114 => d.ranged p fXL_PTMO_EXP 0 val (fun v => decide (20 ≤ v ∧ v ≤ 34))
    | _ => d.plain p off val

def errcWrite (d : Dev) (k off val : Nat) : Dev :=
  let p := collPage k
  match off with
  | 0x140 =>
    if val.testBit 29 then
      let c := d.coll k
      let i := d.get p fERRC_HIDX_ENT 0
      let h := NMap.get c.hist i Hist.init
      d.setColl k { c with hist := NMap.put c.hist i { h with ack := true } Hist.init }
    else d
  | 0x180 =>
    if !val.testBit 0 then d
    else if k = 8 then epinClr d
    else if 4 ≤ k ∧ k - 4 < d.nChan then d.fence (k - 4)
    else d
  | _ => d.plain p off val

def bootWrite (d : Dev) (off val : Nat) : Dev :=
  match off with
  | 0x104 => bootCmd d val
  | 0x120 => (d.swField .boot fBOOT_FP_IDX_DIE 0 val).ranged .boot fBOOT_FP_IDX_ROW 0 val (fun v => decide (v < 24))
  | 0x128 => markWrite d val
  | _ => d.plain .boot off val

def dctlWrite (d : Dev) (off val : Nat) : Dev :=
  match off with
  | 0x100 => sealWrite d val
  | 0x128 => chapelWrite d val
  | 0x140 => arrangeWrite d val
  | _ => d.plain .dctl off val

def pwrWrite (d : Dev) (off val : Nat) : Dev :=
  match off with
  | 0x100 => pwrCapWrite d val
  | 0x104 => pwrModeWrite d val
  | 0x108 => pwrFplWrite d val
  | _ => d

/-- A write of a block register, single or of the HI of no pair, that has reached its page. -/
def blockWrite (d : Dev) (p : Page) (off val : Nat) : Dev :=
  match p with
  | .hst | .clk | .brg _ _ => d.plain p off val
  | .hstCh c => hstChWrite d c.val off val
  | .boot => bootWrite d off val
  | .dctl => dctlWrite d off val
  | .errcQ q => errcWrite d q.val off val
  | .errcCh c => errcWrite d (4 + c.val) off val
  | .errcDev => errcWrite d 8 off val
  | .pwr => pwrWrite d off val
  | .dmaCh c => dmaWrite d c.val off val
  | .qctl q => qctlWrite d q.val off val
  | .case q n =>
    if off = 0x100 then casePartWrite d q.val n.val val
    else if off = 0x108 then caseMnt d q.val n.val val
    else d.plain p off val
  | .dir q n =>
    if off = 0x108 then
      (let d := d.swField p fDIR_LKCMD_ILL 0 val
       if val.testBit 0 then dirLookup d q.val n.val else d)
    else d.plain p off val
  | .mc _ _ =>
    if off = 0x100 then
      (d.ranged p fMC_CFG_WHI 0 val (fun v => decide (8 ≤ v ∧ v ≤ 48))).ranged p fMC_CFG_REFPOST 0 val (fun v => decide (v ≤ 8))
    else d.plain p off val
  | .stk q n =>
    if off = 0x108 then stkCmd d (5 * q.val + n.val) val
    else if off = 0x10C then d.ranged p fSTK_ZUNIT_UNIT 0 val (fun v => decide (v < 72))
    else if off = 0x110 then (d.swField p fSTK_SCRUB_EN 0 val).ranged p fSTK_SCRUB_PERIOD 0 val (fun v => v != 0)
    else d.plain p off val
  | .xl q n => xlWrite d (4 * q.val + n.val) off val
  | .imp x => impWrite d x.val off val
  | .gal g => galWrite d g.val off val
  | .core _ =>
    if off = 0x10C then d.ranged p fCORE_WDOG_EXP 0 val (fun v => decide (16 ≤ v ∧ v ≤ 32)) else d

/-! ### Pairs (R39) -/

/-- Both halves are written in one update. -/
def pairWrite (d : Dev) (p : Page) (off lo hi : Nat) : Dev :=
  let both (d : Dev) : Dev := let i := d.regIdx p off; (d.swWord p off i lo).swWord p (off + 4) i hi
  match p with
  | .errcQ _ | .errcCh _ | .errcDev => if off = 0x100 then errcStatW d (pageColl p).1 (lo + 2 ^ 32 * hi) else both d
  | .qctl q =>
    if off = 0x184 then
      (let i := d.get p fQCTL_ARR_IDX_IDX 0
       ({ d with arr := NMap.put d.arr (arrKey q.val i) (BitVec.ofNat 64 (lo + 2 ^ 32 * hi)) 0 }).testCounter q.val i)
    else both d
  | _ => both d

/-- A write of either half of a pair that its entry's state does not allow is discarded, and says so where the rule has a bit for it
(R201, R224, R254, R352). -/
def pairRefused (d : Dev) (p : Page) (off : Nat) : Option Dev :=
  match p with
  | .qctl q =>
    if off = 0x250 ∧ d.srState q.val (srIdx d q.val) ≠ 0 then some (srIll d q.val (srIdx d q.val))
    else if off = 0x284 ∧ rbState d q.val (rbIdx d q.val) ≠ 0 then some (rbIll d q.val (rbIdx d q.val))
    else none
  | .imp x =>
    let q := d.get p fIMP_QSEL_Q 0
    if d.qState x.val q = 0 then none else some (d.qErr x.val q 6)
  | .dmaCh c =>
    let e := (off - 0x100) / 0x20
    if d.nEngine ≤ e ∨ d.nChan ≤ c.val ∨ d.engSt c.val e ≠ 0 then some d else none
  | _ => none

/-- A write of LO is kept aside; of HI it writes both; another register is written at once. -/
def wordWrite (d : Dev) (p : Page) (off val : Nat) : Dev :=
  let lo := if isHi p off then off - 4 else off
  if isLo p off || isHi p off then
    (match pairRefused d p lo with
     | some d => d
     | none =>
       if isLo p off then { d with wrShadow := NMap.put d.wrShadow (regKey p off 0) (BitVec.ofNat 32 val) 0 }
       else pairWrite d p lo (NMap.get d.wrShadow (regKey p lo 0) (0 : Word)).toNat val)
  else blockWrite d p off val

/-! ### The common header (R40 to R43) -/

/-- A write of BLK_CTL: QREQ, then BRST. -/
def blkCtlWrite (d : Dev) (p : Page) (val : Nat) : Dev :=
  let d := blkQreq d p (val.testBit 1)
  if val.testBit 31 then brst d p else d

/-- A write of a header register; source bits a block does not have are reserved. -/
def headerWrite (d : Dev) (p : Page) (off val : Nat) : Dev :=
  let n := nsrc (pageKind p)
  match off with
  | 0x014 => (d.swField p fBLK_STAT_BADACC 0 val).swField p fBLK_STAT_LKV 0 val
  | 0x020 => errStatW d p val
  | 0x024 => d.set p fERR_MASK_MASK 0 (val % 2 ^ n)
  | 0x028 => d.swField p fERR_SEV_SEV 0 (val % 4 ^ n)
  | 0x02C => d.swField p fERR_ACT_ACT 0 (val % 4 ^ n)
  | _ => d

/-! ### An access (R37, R42) -/

/-- A write that is no aligned word access of an assigned page is recorded there. -/
def badAccess (d : Dev) (p : Page) : Dev := if d.deadPage p then d else d.set p fBLK_STAT_BADACC 0 1

/-- The engine that an offset of a VF's DMA window names (R340): the VF's own, in ascending number. -/
def Dev.vfEngine (d : Dev) (v off : Nat) : Option Nat :=
  if 0x1000 ≤ off ∧ off < 0x2000 then ((List.range d.nEngine).filter (fun e => d.engFn 0 e == v))[(off - 0x1000) / 0x20]? else none

/-- A write through a VF's BAR0: its doorbells, and in its window the WP and RESUME of its engines (R340). -/
def vfWrite (d : Dev) (v off val : Nat) : Dev :=
  if off < 0x40 then vfDoorbell d v (off / 4) val
  else
    match d.vfEngine v off with
    | some e =>
      if !d.reachesEngine (.vf (finM 64 (by decide) v)) 0 e then d
      else if off % 0x20 = 0x0C then dmaWp d 0 e val
      else if off % 0x20 = 0x1C ∧ val.testBit 28 then dmaResume d 0 e
      else d
    | none => d

/-- A register write at a BAR0 offset; `word` holds of an aligned 32-bit access. -/
def regWrite (d : Dev) (via : Via) (off : Nat) (word : Bool) (val : Nat) : Dev :=
  let good := word && off % 4 == 0
  match via with
  | .vf v => if good then vfWrite d v.val off val else d
  | _ =>
    match pageOfNo (off / 4096) with
    | none => d
    | some p =>
      let o := off % 4096
      if !d.arrives via || !d.reaches via p || d.tdiError via then d
      else if !good then badAccess d p
      else if d.deadPage p then d
      else if o = 0x010 then blkCtlWrite d p val
      else if d.inReset p then d
      else if o < 0x100 then headerWrite d p o val
      else wordWrite d p o val

def execRegisterWrite (via : Via) (off : BitVec 27) (word : Bool) (val : Word) (s : State) : Out :=
  onDev (fun d => regWrite d via off.toNat word val.toNat) s

/-- Rows for the two halves of a pair: the same write, of a LO or of a HI register. A VF's writes of its engines' pairs are discarded
(R340). -/
def pairHalf (d : Dev) (via : Via) (off val : Nat) (half : Page → Nat → Bool) : Dev :=
  match via, pageOfNo (off / 4096) with
  | .vf _, _ => d
  | _, some p => if half p (off % 4096) then regWrite d via off true val else d
  | _, none => d

def execReg64LoWrite (via : Via) (off : BitVec 27) (val : Word) (s : State) : Out :=
  onDev (fun d => pairHalf d via off.toNat val.toNat isLo) s
def execReg64HiWrite (via : Via) (off : BitVec 27) (val : Word) (s : State) : Out :=
  onDev (fun d => pairHalf d via off.toNat val.toNat isHi) s

end Sys2Proof.Machine
end

