-- ==== Sys2Proof/Machine/RegRead.lean ====
section
/-!
DEFINITION. Register reads (R34 to R42): what each register reads as. Most read as they are kept; those below are computed from the
state they show.
-/

namespace Sys2Proof.Machine

open Sys2Proof

def flag (b : Bool) (i : Nat) : Nat := if b then 2 ^ i else 0

/-! ### The common header (R40, R42) -/

/-- BLK_CAP0.BLK of the pages whose chapters state one. -/
def blkCap (p : Page) : Nat :=
  match p with
  | .brg q n => if q.val = n.val then 0 else 1
  | _ =>
    match pageKind p with
    | .core => 0x100 | .imp => 0x40 | .dir => 0x20000 | .mc => 0x20 | .xl => 8 | .boot => 0x40
    | _ => 0

def headerRead (d : Dev) (p : Page) (off : Nat) : Nat :=
  match off with
  | 0x000 => d.blkId p
  | 0x004 => 0x41010000
  | 0x008 => nsrc (pageKind p) * 2 ^ 27 + blkCap p
  | 0x010 => flag (d.domInReset (d.pageDom p)) 31 + flag (d.on p fBLK_CTL_QREQ 0) 1
  | 0x014 =>
    let r := d.inReset p
    flag d.isSealed 31 + d.get p fBLK_STAT_BADACC 0 * 2 ^ 9 + d.get p fBLK_STAT_LKV 0 * 2 ^ 8 + flag (d.qdone p) 2 + flag r 1 +
      flag (!r) 0
  | 0x018 => domCode (d.pageDom p) * 256 + d.pageGen p
  | 0x020 | 0x024 | 0x028 | 0x02C => d.word p off 0
  | 0x030 => if d.on p fERR_FIRST_VALID 0 then d.word p off 0 else 0
  | _ => 0

/-! ### Core pages (chapter 3) -/

/-- CORE_LID. -/
def lidRead (d : Dev) (c : CoreId) : Nat :=
  match d.lid c with
  | some l => 2 ^ 31 + l
  | none => 0x1FFF + flag d.boot.committed 30

/-- A station's STAT. The Inker may execute several LAUNCHes; the oldest is shown. -/
def stnStat (d : Dev) (c : CoreId) (stn : Nat) : Nat :=
  let k := d.core c
  let st := k.station stn
  let cur := if stn = stInk then k.inker.launches.head?.map (fun l => (l.slot, l.ent)) else st.exec.map (fun e => (e.slot, e.ent))
  min st.queue.length 255 * 2 ^ 16 +
    (match cur with
     | some (sl, n) => 2 ^ 31 + sl * 256 + n % 256
     | none => 0)

/-- A station's WAIT: slots whose next command for it waits on a token. -/
def stnWait (d : Dev) (c : CoreId) (stn : Nat) : Nat :=
  let k := d.core c
  (List.range 8).foldl (fun a sl =>
    match (k.station stn).nextOf sl, d.runAt c sl with
    | some n, some r => a + flag (!waitsHold k r (entry r.img n)) sl
    | _, _ => a) 0

def coreRead (d : Dev) (c : CoreId) (off : Nat) : Nat :=
  let k := d.core c
  let p := pCore c
  let n := (off % 0x20) / 4
  if off = 0x100 then lidRead d c
  else if off = 0x104 then
    (let used := d.usedGrans c
     ((List.range 256).filter (fun g => !used.contains g)).length * 2 ^ 16 + largestFree used)
  else if off = 0x108 then (d.freeToks c).length
  else if 0x110 ≤ off ∧ off < 0x130 then
    (let sl := (off - 0x110) / 4
     match k.bind sl with
     | none => 0
     | some b =>
       let r := d.runAt c sl
       2 ^ 31 + flag r.isSome 30 + flag (match r with | some r => r.stage == .waiting | none => false) 29 + b.prio % 4 * 2 ^ 26 + b.tag % 65536)
  else if 0x130 ≤ off ∧ off < 0x150 then
    (match k.bind ((off - 0x130) / 4) with
     | none => 0
     | some b => (List.range 4).foldl (fun a i => a + b.htok.getD i 0 % 256 * 256 ^ i) 0)
  else if 0x150 ≤ off ∧ off < 0x170 then (NMap.get k.sticky ((off - 0x150) / 4) Sticky.init).xflag
  else if 0x170 ≤ off ∧ off < 0x190 then (NMap.get k.sticky ((off - 0x170) / 4) Sticky.init).chsat
  else if 0x200 ≤ off ∧ off < 0xC00 ∧ off % 0x200 < 0xC then
    (let stn := (off - 0x200) / 0x200
     match n with
     | 0 => stnStat d c stn
     | 1 => d.word p off 0
     | _ => stnWait d c stn)
  else if off = 0x10C then d.word p off 0
  else 0

/-! ### B-die and collector pages -/

def qctlRead (d : Dev) (q off : Nat) : Nat :=
  let p := pQctl q
  let a := NMap.get d.arr (arrKey q (d.get p fQCTL_ARR_IDX_IDX 0)) (0 : BitVec 64)
  let e := d.grp (arrKey q (d.get p fQCTL_GRP_IDX_IDX 0))
  let mk := (d.trust.loaded.filter (fun x => x.1 == q)).foldl (fun n x => n ||| 2 ^ (x.2.1 % 64)) 0
  match off with
  | 0x184 => a.toNat % 2 ^ 32
  | 0x188 => a.toNat / 2 ^ 32
  | 0x194 => e.tally
  | 0x198 => flag e.held.isSome 31 + flag e.tmo 30 + flag e.dup 29 + flag e.sat 28
  | 0x19C => (match e.held with | some (r, _) => r.expect | none => 0)
  | 0x220 => d.word (pQctl (d.chanQuad q)) off 0
  | 0x300 => mk % 2 ^ 32
  | 0x304 => mk / 2 ^ 32
  | _ => d.word p off (d.regIdx p off)

def errcRead (d : Dev) (k off : Nat) : Nat :=
  let p := collPage k
  let c := d.coll k
  let h := NMap.get c.hist (d.get p fERRC_HIDX_ENT 0) Hist.init
  match off with
  | 0x114 => c.seq * 2 ^ 16 + c.next
  | 0x140 => flag h.valid 31 + flag h.opened 30 + flag h.ack 29 + h.sev * 2 ^ 26 + h.clk * 2 ^ 23 + h.bit * 2 ^ 16 + h.merge % 65536
  | 0x144 => h.blkId.toNat
  | 0x148 => h.react * 2 ^ 24 + h.src * 2 ^ 16 + h.synd
  | 0x14C => h.stamp % 2 ^ 32
  | 0x150 => h.seq * 2 ^ 16 + h.stamp / 2 ^ 32 % 65536
  | 0x154 => h.merged % 2 ^ 32
  | 0x158 => h.merged / 2 ^ 32 % 2 ^ 32
  | 0x180 => if k < 4 then 0 else d.word p off 0
  | _ => d.word p off 0

/-- HST_PQSTAT of the partition last named in HST_PQCMD. -/
def pqStat (d : Dev) (c : Nat) : Nat :=
  let p := pHst c
  let part := d.get p fHST_PQCMD_PART 0
  d.pqState c part * 2 ^ 30 + flag (d.quiesces.any (fun x => x.chan == c && x.part == part && x.infence)) 29 +
    d.get p fHST_PQSTAT_ILL part * 2 ^ 28 + min (d.outH c part) 2047 * 2 ^ 17 + min (d.outX c part) (2 ^ 17 - 1)

/-! ### H-die pages -/

/-- BOOT_COMP of the component named; components 0 and 1 are the silicon's and the ROM's own (Table 18.4). -/
def compRead (d : Dev) (c : Nat) : Nat :=
  if 6 < c then 0
  else
    flag (d.compLoaded c) 31 + d.get .boot fBOOT_COMP_STARTED c * 2 ^ 30 + d.get .boot fBOOT_COMP_OVR c * 2 ^ 29 + d.compEpoch c * 2 ^ 16 +
      d.compVer c

def bootRead32 (d : Dev) (off : Nat) : Nat :=
  match off with
  | 0x118 => compRead d (d.get .boot fBOOT_COMP_IDX_COMP 0)
  | 0x124 => d.fpRow (d.get .boot fBOOT_FP_IDX_DIE 0) (d.get .boot fBOOT_FP_IDX_ROW 0)
  | 0x12C => d.fpSpares * 2 ^ 16 + d.fpLogical
  | _ => d.word .boot off 0

def dctlRead (d : Dev) (off : Nat) : Nat :=
  let w := d.get .dctl fDCTL_ID_IDX_WORD 0
  match off with
  | 0x12C =>
    d.get .dctl fDCTL_ROLE_ILL 0 * 2 ^ 31 + flag d.isTop 2 + flag d.isMgr 1 + d.get .dctl fDCTL_ROLE_LIC 0
  | 0x200 => if d.bootState = 0 then 0 else d.word .dctl off 0
  | 0x204 => if d.bootState = 0 then 0 else d.word .dctl off 0
  | 0x208 => if !d.hasId then 0 else (NMap.get d.boot.idWords w (0 : Word)).toNat
  | _ => d.word .dctl off (d.regIdx .dctl off)

/-- CLK_LOCK. -/
def lockRead (d : Dev) : Nat := (List.range 22).foldl (fun a k => a + flag (NMap.get d.power.locked k false) k) 0

/-- A block register of a page out of reset. -/
def blockRead (d : Dev) (p : Page) (off : Nat) : Nat :=
  if (fieldsAt (pageKind p) off).isEmpty then 0
  else match p with
    | .core c => coreRead d c off
    | .qctl q => qctlRead d q.val off
    | .errcQ q => errcRead d q.val off
    | .errcCh c => errcRead d (4 + c.val) off
    | .errcDev => errcRead d 8 off
    | .hstCh c => if off = 0x154 then pqStat d c.val else d.word p off (d.regIdx p off)
    | .boot => bootRead32 d off
    | .dctl => dctlRead d off
    | .clk => if off = 0x100 then lockRead d else d.word p off 0
    | .dir q n =>
      if off = 0x118 then 2 ^ 17 - (d.dir.filter (fun e => lineQuad e.1 == q.val && lineBankNo e.1 == n.val)).length else d.word p off 0
    | .brg q n => if off = 0x100 then d.word p off 0 % 2 ^ 29 + d.brgState q.val n.val * 2 ^ 29 else d.word p off 0
    | .imp x =>
      if off = 0x140 then
        d.word p off 0 + flag (d.rsts.any (fun r => match r.dom with | .cluster y _ => y == x | _ => false)) 31
      else if off = 0x144 then
        d.word p off 0 + flag (d.rsts.any (fun r => r.rpr != 0 && (match r.dom with | .cluster y _ => y == x | _ => false))) 31
      else d.word p off (d.regIdx p off)
    | .dmaCh c => if d.nChan ≤ c.val ∨ d.nEngine ≤ (off - 0x100) / 0x20 then 0 else d.word p off 0
    | _ => d.word p off (d.regIdx p off)

/-! ### A read access -/

/-- Every byte reads all ones. -/
def allOnes : Nat := 0xFFFFFFFF

/-- A word of a page reached: a read of LO latches its HI, and a read of HI returns what was latched (R39). -/
def wordRead (d : Dev) (p : Page) (off : Nat) : Nat × Dev :=
  if d.deadPage p then ((if off = 0 ∨ off = 4 then headerRead d p off else 0), d)
  else if off < 0x100 then (headerRead d p off, d)
  else if d.inReset p then (0, d)
  else if isHi p off then ((NMap.get d.rdShadow (regKey p (off - 4) 0) (0 : Word)).toNat, d)
  else if isLo p off then
    (blockRead d p off,
     { d with rdShadow := NMap.put d.rdShadow (regKey p off 0) (BitVec.ofNat 32 (blockRead d p (off + 4))) 0 })
  else (blockRead d p off, d)

/-- A read through a VF's BAR0: a doorbell reads its queue's WP; the window reads the registers of the VF's engines (R340). -/
def vfRead (d : Dev) (v off : Nat) : Nat × Dev :=
  if off < 0x40 then
    (let i := (v - 1) * 16 + off / 4
     if d.on (pHst 0) fHST_DBMAP_VALID i then
       (d.qWp (d.get (pHst 0) fHST_DBMAP_DIE i) (d.get (pHst 0) fHST_DBMAP_Q i), d)
     else (0, d))
  else
    match d.vfEngine v off with
    | some e => wordRead d (pDma 0) (0x100 + 0x20 * e + off % 0x20)
    | none => (0, d)

/-- A register read at a BAR0 offset. -/
def regRead (d : Dev) (via : Via) (off : Nat) (word : Bool) : Nat × Dev :=
  let good := word && off % 4 == 0
  if d.tdiError via then (allOnes, d)
  else match via with
    | .vf v => if good then vfRead d v.val off else (allOnes, d)
    | _ =>
      match pageOfNo (off / 4096) with
      | none => (0, d)
      | some p =>
        if !d.reaches via p then (0, d)
        else if !good then (allOnes, badAccess d p)
        else wordRead d p (off % 4096)

/-- The page and register that an offset of a function's BAR0, or of the sideband, names; through a VF's window a register of an engine
of its own (R340). -/
def Dev.regAt (d : Dev) (via : Via) (off : Nat) : Option (Page × Nat) :=
  match via with
  | .vf v =>
    if v.val ≠ 0 ∧ d.presents v.val = true then (d.vfEngine v.val off).map (fun e => (pDma 0, 0x100 + 0x20 * e + off % 0x20)) else none
  | _ => (pageOfNo (off / 4096)).map (fun p => (p, off % 4096))

/-- A read of a LO register: the value returned, and the latch of its HI. -/
def loRead (d : Dev) (via : Via) (off : Nat) : Dev :=
  match d.regAt via off with
  | none => d
  | some (p, o) =>
    if !d.arrives via || !isLo p o then d
    else
      let x := regRead d via off true
      x.2.send (.regRead (BitVec.ofNat 32 x.1))

def execReg64LoRead (via : Via) (off : BitVec 27) (s : State) : Out := onDev (fun d => loRead d via off.toNat) s

end Sys2Proof.Machine
end

