-- ==== Sys2Proof/Machine/Package.lean ====
section
/-!
DEFINITION. The package (chapter 21): PERST#, the sideband and the test access port.
-/

namespace Sys2Proof.Machine

open Sys2Proof

/-! ### PERST# (R484) -/

def Dev.setPerst (d : Dev) (low : Bool) : Dev := { d with host := { d.host with perst := low } }

/-- A qualifying low holds the host link down, and after power-good resets the device. -/
def perstAssert (d : Dev) : Dev :=
  if d.host.perst then d
  else
    let d := linkDown (d.setPerst true)
    if d.power.pwrgd then d.startReset .device 6 false 0 else d

def execPerstAssert (s : State) : Out := onDev perstAssert s
def execPerstRelease (s : State) : Out := onDev (fun d => d.setPerst false) s

/-! ### The sideband (R485 to R488) -/

/-- The target answers while power-good is asserted. -/
def Dev.sbUp (d : Dev) : Bool := d.power.pwrgd

/-- The offsets of Table 2.3's device-wide pages. -/
def inSbRange (off : Nat) : Bool := decide (off < 0x6000)

/-- A transaction whose PEC fails has no effect; I3C mode has none. -/
def Dev.sbGo (d : Dev) (pec : Bool) (f : Dev → Dev) : Dev :=
  if !d.sbUp then d else if pec || d.power.i3c then f d else d.send .sbNack

def execSbRegisterWrite (off : Word) (val : Word) (pec : Bool) (s : State) : Out :=
  onDev (fun d => d.sbGo pec (fun d => if inSbRange off.toNat then regWrite d .sb off.toNat true val.toNat else d)) s

def execSbSetReadOffset (off : Word) (pec : Bool) (s : State) : Out :=
  onDev (fun d => d.sbGo pec (fun d => { d with power := { d.power with sbOff := some off } })) s

/-- DATA and STATUS of a read: 0 done, 1 outside the range, 2 no read offset set, 3 misaligned. With no offset DATA is not stated. -/
def sbRead (d : Dev) : Dev :=
  match d.power.sbOff with
  | none =>
    let x := d.free 32
    x.2.send (.sbData 2 (BitVec.ofNat 32 x.1))
  | some off =>
    if !inSbRange off.toNat then d.send (.sbData 1 0)
    else
      let x := regRead d .sb off.toNat true
      x.2.send (.sbData (if off.toNat % 4 = 0 then 0 else 3) (BitVec.ofNat 32 x.1))

def execSbRegisterRead (s : State) : Out := onDev (fun d => if d.sbUp then sbRead d else d) s

/-- A command code outside Table 21.7 is NACKed. -/
def execSbUnknownCommand (code : Byte) (s : State) : Out :=
  onDev (fun d => if d.sbUp && !(code == 0xA1 || code == 0xA2 || code == 0xA3) then d.send .sbNack else d) s

/-- The S9's SMBus address. -/
def Dev.sbAddr (d : Dev) : Nat := 0x58 + d.power.strap % 4

/-- A read of the Alert Response Address: the S9 answers while its alert is pending, and `again`: one was raised during the read. -/
def execSbAlertResponse (again : Bool) (s : State) : Out :=
  onDev (fun d =>
    if d.sbUp && d.power.alert && !d.power.i3c then
      ({ d with power := { d.power with alert := again } }).send (.sbAra d.sbAddr)
    else d) s

/-- Dynamic address assignment, in I3C mode. -/
def Dev.setDyn (d : Dev) (addr : Nat) : Dev :=
  if d.sbUp && d.power.i3c then { d with power := { d.power with sbDyn := some addr } } else d

def execSetdasa (addr : BitVec 7) (s : State) : Out := onDev (fun d => d.setDyn addr.toNat) s
/-- A target that has an address already takes no part. -/
def execEntdaa (addr : BitVec 7) (s : State) : Out :=
  onDev (fun d => if d.power.sbDyn.isSome then d else d.setDyn addr.toNat) s

/-! ### The test access port (R491) -/

/-- Instructions of the port, as `Power.tap` numbers them; IDCODE is the one after reset (IEEE 1149.1). -/
def tapIdcode : Nat := 0
def tapBypass : Nat := 1
def tapSample : Nat := 2
def tapExtest : Nat := 3
def tapClamp : Nat := 4
def tapHighz : Nat := 5
def tapExtestPulse : Nat := 6
def tapExtestTrain : Nat := 7

/-- The instruction in effect: the boundary tests act as BYPASS outside INIT and READY. -/
def Dev.tapNow (d : Dev) : Nat := if tapExtest ≤ d.power.tap ∧ 1 < d.bootState then tapBypass else d.power.tap

/-- What the data register selected captures: the device identification under IDCODE (version 0x1, part 0x539A, manufacturer 0x35B),
a single 0 under BYPASS; the boundary cells are the platform's to see. -/
def Dev.tapCapture (d : Dev) : Option Nat :=
  if d.tapNow = tapIdcode then some 0x1539A6B7 else if d.tapNow = tapBypass then some 0 else none

/-- The port operates while power-good is asserted. -/
def Dev.tapLoad (d : Dev) (n : Nat) : Dev :=
  if d.power.pwrgd then { d with power := { d.power with tap := n } } else d

/-- The boundary tests take effect in INIT and READY; loaded in a later state they act as BYPASS. -/
def Dev.tapTest (d : Dev) (n : Nat) : Dev := d.tapLoad (if d.bootState ≤ 1 then n else tapBypass)

def execBypass (s : State) : Out := onDev (fun d => d.tapLoad tapBypass) s
def execIdcode (s : State) : Out := onDev (fun d => d.tapLoad tapIdcode) s
def execSamplePreload (s : State) : Out := onDev (fun d => d.tapLoad tapSample) s
def execExtest (s : State) : Out := onDev (fun d => d.tapTest tapExtest) s
def execClamp (s : State) : Out := onDev (fun d => d.tapTest tapClamp) s
def execHighz (s : State) : Out := onDev (fun d => d.tapTest tapHighz) s
def execExtestPulse (s : State) : Out := onDev (fun d => d.tapTest tapExtestPulse) s
def execExtestTrain (s : State) : Out := onDev (fun d => d.tapTest tapExtestTrain) s
/-- TRST# low resets the port, asynchronously. -/
def execTrst (s : State) : Out := onDev (fun d => { d with power := { d.power with tap := tapIdcode } }) s

end Sys2Proof.Machine
end

