-- ==== Sys2Proof/Machine/Dispatch.lean ====
section
/-!
DEFINITION. The meaning of every command: one arm a constructor, in the order of spec/opcode_table.json.
-/

namespace Sys2Proof.Machine

open Sys2Proof

def exec (i : Instr) (s : State) : Host.Outcome State Fault Refusal :=
  match i with
  | .registerWrite via off word val => Sys2Proof.Machine.execRegisterWrite via off word val s
  | .reg64LoRead via off => Sys2Proof.Machine.execReg64LoRead via off s
  | .reg64LoWrite via off val => Sys2Proof.Machine.execReg64LoWrite via off val s
  | .reg64HiWrite via off val => Sys2Proof.Machine.execReg64HiWrite via off val s
  | .errStatWrite via p val => Sys2Proof.Machine.execErrStatWrite via p val s
  | .blkCtlBrst via p => Sys2Proof.Machine.execBlkCtlBrst via p s
  | .blkCtlQreq via p on => Sys2Proof.Machine.execBlkCtlQreq via p on s
  | .seal via => Sys2Proof.Machine.execSeal via s
  | .wtabLoad via q => Sys2Proof.Machine.execWtabLoad via q s
  | .wtabCommit via q => Sys2Proof.Machine.execWtabCommit via q s
  | .brgLinkTrain q n => Sys2Proof.Machine.execBrgLinkTrain q n s
  | .brgLinkDown q n => Sys2Proof.Machine.execBrgLinkDown q n s
  | .doorbellWrite via k val => Sys2Proof.Machine.execDoorbellWrite via k val s
  | .runFetch k => Sys2Proof.Machine.execRunFetch k s
  | .runImageArrival quad half n => Sys2Proof.Machine.execRunImageArrival quad half n s
  | .runBind k => Sys2Proof.Machine.execRunBind k s
  | .flagPollDue c sl => Sys2Proof.Machine.execFlagPollDue c sl s
  | .flagPollReply c sl => Sys2Proof.Machine.execFlagPollReply c sl s
  | .headWaitTimeout c sl => Sys2Proof.Machine.execHeadWaitTimeout c sl s
  | .runBegin c ecc => Sys2Proof.Machine.execRunBegin c ecc s
  | .commandPlace c sl stn => Sys2Proof.Machine.execCommandPlace c sl stn s
  | .load c sl ecc => Sys2Proof.Machine.execLoad c sl ecc s
  | .loadaux c sl ecc => Sys2Proof.Machine.execLoadaux c sl ecc s
  | .zero c sl ecc => Sys2Proof.Machine.execZero c sl ecc s
  | .prefetch c sl arr => Sys2Proof.Machine.execPrefetch c sl s arr
  | .feederLineReturn c rq => Sys2Proof.Machine.execFeederLineReturn c rq s
  | .mma c sl ecc => Sys2Proof.Machine.execMma c sl ecc s
  | .launch c sl => Sys2Proof.Machine.execLaunch c sl s
  | .kernelHeaderArrival c sl => Sys2Proof.Machine.execKernelHeaderArrival c sl s
  | .blockAdmit c sl => Sys2Proof.Machine.execBlockAdmit c sl s
  | .blockEnd c b => Sys2Proof.Machine.execBlockEnd c b s
  | .transpose c sl ecc => Sys2Proof.Machine.execTranspose c sl ecc s
  | .relayout c sl ecc => Sys2Proof.Machine.execRelayout c sl ecc s
  | .convert c sl ecc => Sys2Proof.Machine.execConvert c sl ecc s
  | .reduce c sl ecc => Sys2Proof.Machine.execReduce c sl ecc s
  | .sparsify c sl ecc => Sys2Proof.Machine.execSparsify c sl ecc s
  | .densify c sl ecc => Sys2Proof.Machine.execDensify c sl ecc s
  | .store c sl ecc => Sys2Proof.Machine.execStore c sl ecc s
  | .storeaux c sl ecc => Sys2Proof.Machine.execStoreaux c sl ecc s
  | .flag c sl arr => Sys2Proof.Machine.execFlag c sl s arr
  | .signal c sl => Sys2Proof.Machine.execSignal c sl s
  | .signalArrival k => Sys2Proof.Machine.execSignalArrival k s
  | .commandComplete c stn sl => Sys2Proof.Machine.execCommandComplete c stn sl s
  | .arbAgePromote c stn sl => Sys2Proof.Machine.execArbAgePromote c stn sl s
  | .stationWatchdogExpire c stn sl => Sys2Proof.Machine.execStationWatchdogExpire c stn sl s
  | .runEnd c sl => Sys2Proof.Machine.execRunEnd c sl s
  | .onsetGrant d => Sys2Proof.Machine.execOnsetGrant d s
  | .inkArith c g x => Sys2Proof.Machine.execInkArith c g x s
  | .tld c g dst t ri rj mode hints ecc => Sys2Proof.Machine.execTld c g dst t ri rj mode s hints ecc
  | .tst c g src t ri rj mode rnd hints ecc => Sys2Proof.Machine.execTst c g src t ri rj mode rnd s hints ecc
  | .lld c g dst ro size hints ecc => Sys2Proof.Machine.execLld c g dst ro size s hints ecc
  | .lst c g src ro size hints ecc => Sys2Proof.Machine.execLst c g src ro size s hints ecc
  | .ld c g dst ra size nocache parity hints arr => Sys2Proof.Machine.execLd c g dst ra size nocache parity s hints arr
  | .ldAcq c g dst ra size scope parity hints arr => Sys2Proof.Machine.execLdAcq c g dst ra size scope s parity hints arr
  | .st c g src ra size hints arr => Sys2Proof.Machine.execSt c g src ra size s hints arr
  | .stRel c g src ra size scope hints arr => Sys2Proof.Machine.execStRel c g src ra size scope s hints arr
  | .inkerLoadReply c rq => Sys2Proof.Machine.execInkerLoadReply c rq s
  | .instructionFetchReply c g => Sys2Proof.Machine.execInstructionFetchReply c g s
  | .atomAdd c g x => Sys2Proof.Machine.execAtomAdd c g x s
  | .atomFadd c g x => Sys2Proof.Machine.execAtomFadd c g x s
  | .atomSmin c g x => Sys2Proof.Machine.execAtomSmin c g x s
  | .atomSmax c g x => Sys2Proof.Machine.execAtomSmax c g x s
  | .atomUmin c g x => Sys2Proof.Machine.execAtomUmin c g x s
  | .atomUmax c g x => Sys2Proof.Machine.execAtomUmax c g x s
  | .atomAnd c g x => Sys2Proof.Machine.execAtomAnd c g x s
  | .atomOr c g x => Sys2Proof.Machine.execAtomOr c g x s
  | .atomXor c g x => Sys2Proof.Machine.execAtomXor c g x s
  | .atomExch c g x => Sys2Proof.Machine.execAtomExch c g x s
  | .atomCas c g x => Sys2Proof.Machine.execAtomCas c g x s
  | .atomReply c rq => Sys2Proof.Machine.execAtomReply c rq s
  | .bar c g => Sys2Proof.Machine.execBar c g s
  | .bra c g rc target reconv hints => Sys2Proof.Machine.execBra c g rc target reconv s hints
  | .exit c g => Sys2Proof.Machine.execExit c g s
  | .fenceRel c g scope => Sys2Proof.Machine.execFenceRel c g scope s
  | .fenceAcq c g scope => Sys2Proof.Machine.execFenceAcq c g scope s
  | .fenceAr c g scope => Sys2Proof.Machine.execFenceAr c g scope s
  | .pathSwitch c g => Sys2Proof.Machine.execPathSwitch c g s
  | .colophonWriteArrival q rq => Sys2Proof.Machine.execColophonWriteArrival q rq s
  | .colophonHoldTimeout q g => Sys2Proof.Machine.execColophonHoldTimeout q g s
  | .grpClear via q => Sys2Proof.Machine.execGrpClear via q s
  | .enable via d => Sys2Proof.Machine.execEnable via d s
  | .enableRestore via d host ans => Sys2Proof.Machine.execEnableRestore via d host ans s
  | .hold via d => Sys2Proof.Machine.execHold via d s
  | .holdUrgent via d => Sys2Proof.Machine.execHoldUrgent via d s
  | .unhold via d => Sys2Proof.Machine.execUnhold via d s
  | .preempt via d => Sys2Proof.Machine.execPreempt via d s
  | .preemptUrgent via d => Sys2Proof.Machine.execPreemptUrgent via d s
  | .disable via d => Sys2Proof.Machine.execDisable via d s
  | .disableUrgent via d => Sys2Proof.Machine.execDisableUrgent via d s
  | .saveAreaDone k => Sys2Proof.Machine.execSaveAreaDone k s
  | .drain via q n => Sys2Proof.Machine.execDrain via q n s
  | .reopen via q n => Sys2Proof.Machine.execReopen via q n s
  | .casePartWrite via q n val => Sys2Proof.Machine.execCasePartWrite via q n val s
  | .hmapWrite via q val => Sys2Proof.Machine.execHmapWrite via q val s
  | .hmapChangeDone q => Sys2Proof.Machine.execHmapChangeDone q s
  | .pcfgWrite via q val => Sys2Proof.Machine.execPcfgWrite via q val s
  | .pwinCtlWrite via q val => Sys2Proof.Machine.execPwinCtlWrite via q val s
  | .quotaWalkDone q p => Sys2Proof.Machine.execQuotaWalkDone q p s
  | .flush via q => Sys2Proof.Machine.execFlush via q s
  | .clean via q => Sys2Proof.Machine.execClean via q s
  | .rcinv via q => Sys2Proof.Machine.execRcinv via q s
  | .flushp via d p => Sys2Proof.Machine.execFlushp via d p s
  | .flushall via d => Sys2Proof.Machine.execFlushall via d s
  | .maintenanceDone u => Sys2Proof.Machine.execMaintenanceDone u s
  | .srOpen via q men => Sys2Proof.Machine.execSrOpen via q men s
  | .srCheck via q => Sys2Proof.Machine.execSrCheck via q s
  | .srCheckDone q e => Sys2Proof.Machine.execSrCheckDone q e s
  | .srClose via q => Sys2Proof.Machine.execSrClose via q s
  | .srCloseDone q e => Sys2Proof.Machine.execSrCloseDone q e s
  | .rds m ecc => Sys2Proof.Machine.execRds m ecc s
  | .rdx m ecc => Sys2Proof.Machine.execRdx m ecc s
  | .rdcur m ecc => Sys2Proof.Machine.execRdcur m ecc s
  | .homeop m ecc => Sys2Proof.Machine.execHomeop m ecc s
  | .wb m => Sys2Proof.Machine.execWb m s
  | .eve m => Sys2Proof.Machine.execEve m s
  | .adds m => Sys2Proof.Machine.execAdds m s
  | .xfer m => Sys2Proof.Machine.execXfer m s
  | .snpshr m => Sys2Proof.Machine.execSnpshr m s
  | .snpown m => Sys2Proof.Machine.execSnpown m s
  | .snpinv m => Sys2Proof.Machine.execSnpinv m s
  | .snpcur m => Sys2Proof.Machine.execSnpcur m s
  | .snoopAnswer a l => Sys2Proof.Machine.execSnoopAnswer a l s
  | .dataReply a l => Sys2Proof.Machine.execDataReply a l s
  | .wbAck a l => Sys2Proof.Machine.execWbAck a l s
  | .homeQueueDispatch l => Sys2Proof.Machine.execHomeQueueDispatch l s
  | .reductionPerform q n => Sys2Proof.Machine.execReductionPerform q n s
  | .mcReduction q n => Sys2Proof.Machine.execMcReduction q n s
  | .rbOpen via q => Sys2Proof.Machine.execRbOpen via q s
  | .rbOpenClear via q => Sys2Proof.Machine.execRbOpenClear via q s
  | .rbClearDone q e => Sys2Proof.Machine.execRbClearDone q e s
  | .rbClose via q => Sys2Proof.Machine.execRbClose via q s
  | .rbCloseDone q e => Sys2Proof.Machine.execRbCloseDone q e s
  | .dirLookup via q n => Sys2Proof.Machine.execDirLookup via q n s
  | .mcIssue q n caErrs => Sys2Proof.Machine.execMcIssue q n caErrs s
  | .mcReadReturn q n ecc mir => Sys2Proof.Machine.execMcReadReturn q n ecc s mir
  | .patrolScrub t => Sys2Proof.Machine.execPatrolScrub t s
  | .scrubReadDone t ch ecc mir => Sys2Proof.Machine.execScrubReadDone t ch ecc s mir
  | .refreshDue q n => Sys2Proof.Machine.execRefreshDue q n s
  | .stackTempHigh t => Sys2Proof.Machine.execStackTempHigh t s
  | .stackTempNormal t => Sys2Proof.Machine.execStackTempNormal t s
  | .stkTrain via t => Sys2Proof.Machine.execStkTrain via t s
  | .stkTrainDone t ok mask => Sys2Proof.Machine.execStkTrainDone t ok mask s
  | .retrain via t => Sys2Proof.Machine.execRetrain via t s
  | .retrainDone t ok mask => Sys2Proof.Machine.execRetrainDone t ok mask s
  | .zerou via t => Sys2Proof.Machine.execZerou via t s
  | .zerouDone t => Sys2Proof.Machine.execZerouDone t s
  | .budgetExpire rq => Sys2Proof.Machine.execBudgetExpire rq s
  | .levelBroadcast q => Sys2Proof.Machine.execLevelBroadcast q s
  | .meterWindowRestart q => Sys2Proof.Machine.execMeterWindowRestart q s
  | .peerRequestIssue q rq => Sys2Proof.Machine.execPeerRequestIssue q rq s
  | .packetSend p => Sys2Proof.Machine.execPacketSend p s
  | .wr p k => Sys2Proof.Machine.execWr p k s
  | .accw p k => Sys2Proof.Machine.execAccw p k s
  | .flagPacket p k => Sys2Proof.Machine.execFlagPacket p k s
  | .rd p k => Sys2Proof.Machine.execRd p k s
  | .atomPacket p k => Sys2Proof.Machine.execAtomPacket p k s
  | .rdata p k => Sys2Proof.Machine.execRdata p k s
  | .atomr p k => Sys2Proof.Machine.execAtomr p k s
  | .landed p k => Sys2Proof.Machine.execLanded p k s
  | .refuse p k => Sys2Proof.Machine.execRefuse p k s
  | .illegalPacket p k => Sys2Proof.Machine.execIllegalPacket p k s
  | .requestShareAccept p sh => Sys2Proof.Machine.execRequestShareAccept p sh s
  | .landedFlush p => Sys2Proof.Machine.execLandedFlush p s
  | .peerRequestTimeout q e => Sys2Proof.Machine.execPeerRequestTimeout q e s
  | .linkControlFlit p f => Sys2Proof.Machine.execLinkControlFlit p f s
  | .fecUncorrectable p w => Sys2Proof.Machine.execFecUncorrectable p w s
  | .encryptedBlockCheck p ok => Sys2Proof.Machine.execEncryptedBlockCheck p ok s
  | .xlTrain via p => Sys2Proof.Machine.execXlTrain via p s
  | .xlRetrain via p => Sys2Proof.Machine.execXlRetrain via p s
  | .xlDown via p => Sys2Proof.Machine.execXlDown via p s
  | .xlTrainComplete p x trng => Sys2Proof.Machine.execXlTrainComplete p x trng s
  | .xlTrainFail p cause => Sys2Proof.Machine.execXlTrainFail p cause s
  | .xlAutoTrain p => Sys2Proof.Machine.execXlAutoTrain p s
  | .cdcTimeout x => Sys2Proof.Machine.execCdcTimeout x s
  | .ack m => Sys2Proof.Machine.execAck m s
  | .fwChunk m => Sys2Proof.Machine.execFwChunk m s
  | .linkPrep m => Sys2Proof.Machine.execLinkPrep m s
  | .linkGo m => Sys2Proof.Machine.execLinkGo m s
  | .faultNotice m => Sys2Proof.Machine.execFaultNotice m s
  | .faultRecord m => Sys2Proof.Machine.execFaultRecord m s
  | .plan m => Sys2Proof.Machine.execPlan m s
  | .mailboxUnknownKind m kind => Sys2Proof.Machine.execMailboxUnknownKind m kind s
  | .coordCollectExpire k => Sys2Proof.Machine.execCoordCollectExpire k s
  | .coordAckTimeout k => Sys2Proof.Machine.execCoordAckTimeout k s
  | .memberAckTimeout k => Sys2Proof.Machine.execMemberAckTimeout k s
  | .dctlChapelWrite via val => Sys2Proof.Machine.execDctlChapelWrite via val s
  | .vfDoorbellWrite v k val => Sys2Proof.Machine.execVfDoorbellWrite v k val s
  | .pcieConfigWrite f w => Sys2Proof.Machine.execPcieConfigWrite f w s
  | .functionLevelReset f => Sys2Proof.Machine.execFunctionLevelReset f s
  | .vfEnableClear => Sys2Proof.Machine.execVfEnableClear s
  | .flrAbandon f => Sys2Proof.Machine.execFlrAbandon f s
  | .hostCompletion rq ans data => Sys2Proof.Machine.execHostCompletion rq ans data s
  | .cplTimeout rq => Sys2Proof.Machine.execCplTimeout rq s
  | .atsTranslationCompletion rq granted page => Sys2Proof.Machine.execAtsTranslationCompletion rq granted page s
  | .atsInvalidationRequest f pasid page tag => Sys2Proof.Machine.execAtsInvalidationRequest f pasid page tag s
  | .atsInvalidationComplete tag => Sys2Proof.Machine.execAtsInvalidationComplete tag s
  | .hostLinkDown => Sys2Proof.Machine.execHostLinkDown s
  | .hostLinkUp rate width flit => Sys2Proof.Machine.execHostLinkUp rate width flit s
  | .msixSend f vec => Sys2Proof.Machine.execMsixSend f vec s
  | .hstPtagWrite via c val => Sys2Proof.Machine.execHstPtagWrite via c val s
  | .hstQirqWrite via c val => Sys2Proof.Machine.execHstQirqWrite via c val s
  | .dmaWpWrite via c e val => Sys2Proof.Machine.execDmaWpWrite via c e val s
  | .dmaDescriptorArrival c e host ans => Sys2Proof.Machine.execDmaDescriptorArrival c e host ans s
  | .dmaDescriptorComplete c e => Sys2Proof.Machine.execDmaDescriptorComplete c e s
  | .dmaResume via c e => Sys2Proof.Machine.execDmaResume via c e s
  | .lockInterfaceRequest f => Sys2Proof.Machine.execLockInterfaceRequest f s
  | .interfaceReport f => Sys2Proof.Machine.execInterfaceReport f s
  | .tdiUnlock f => Sys2Proof.Machine.execTdiUnlock f s
  | .dctlArrangeWrite via val => Sys2Proof.Machine.execDctlArrangeWrite via val s
  | .impQpartWrite via d val => Sys2Proof.Machine.execImpQpartWrite via d val s
  | .impCmapWrite via d val => Sys2Proof.Machine.execImpCmapWrite via d val s
  | .ctrmapWrite via q val => Sys2Proof.Machine.execCtrmapWrite via q val s
  | .quiesce via c p => Sys2Proof.Machine.execQuiesce via c p s
  | .quiesceUrgent via c p => Sys2Proof.Machine.execQuiesceUrgent via c p s
  | .quiesceInfence via c p urgent => Sys2Proof.Machine.execQuiesceInfence via c p urgent s
  | .pqResume via c p => Sys2Proof.Machine.execPqResume via c p s
  | .eventMessage k good => Sys2Proof.Machine.execEventMessage k good s
  | .errcStatWrite via k val => Sys2Proof.Machine.execErrcStatWrite via k val s
  | .errcFence via c => Sys2Proof.Machine.execErrcFence via c s
  | .epinClr via => Sys2Proof.Machine.execEpinClr via s
  | .coreReset c => Sys2Proof.Machine.execCoreReset c s
  | .clusterReset via d r => Sys2Proof.Machine.execClusterReset via d r s
  | .partitionReset q cause => Sys2Proof.Machine.execPartitionReset q cause s
  | .deviceReset cause => Sys2Proof.Machine.execDeviceReset cause s
  | .resetDrainDone dom => Sys2Proof.Machine.execResetDrainDone dom s
  | .domainLeaveReset dom => Sys2Proof.Machine.execDomainLeaveReset dom s
  | .drainEscalate dom => Sys2Proof.Machine.execDrainEscalate dom s
  | .controllerWatchdogExpire q => Sys2Proof.Machine.execControllerWatchdogExpire q s
  | .repair via d r col => Sys2Proof.Machine.execRepair via d r col s
  | .retire via d r col => Sys2Proof.Machine.execRetire via d r col s
  | .pwrgdRise straps => Sys2Proof.Machine.execPwrgdRise straps s
  | .pyrunoInitDone fl raw => Sys2Proof.Machine.execPyrunoInitDone fl raw s
  | .selftest via => Sys2Proof.Machine.execSelftest via s
  | .selftestDone defects fail nfail => Sys2Proof.Machine.execSelftestDone defects fail nfail s
  | .mark via col => Sys2Proof.Machine.execMark via col s
  | .fpcommit via => Sys2Proof.Machine.execFpcommit via s
  | .stage via => Sys2Proof.Machine.execStage via s
  | .stageComplete data ans => Sys2Proof.Machine.execStageComplete data ans s
  | .licence via => Sys2Proof.Machine.execLicence via s
  | .licenceComplete data ans => Sys2Proof.Machine.execLicenceComplete data ans s
  | .start via => Sys2Proof.Machine.execStart via s
  | .startComplete => Sys2Proof.Machine.execStartComplete s
  | .report via c => Sys2Proof.Machine.execReport via c s
  | .cert via c => Sys2Proof.Machine.execCert via c s
  | .extend via c mr => Sys2Proof.Machine.execExtend via c mr s
  | .attCommandComplete c data ans => Sys2Proof.Machine.execAttCommandComplete c data ans s
  | .keyLoad via c trng => Sys2Proof.Machine.execKeyLoad via c trng s
  | .keyRenew via c trng => Sys2Proof.Machine.execKeyRenew via c trng s
  | .getVersion r => Sys2Proof.Machine.execGetVersion r s
  | .getCapabilities r => Sys2Proof.Machine.execGetCapabilities r s
  | .negotiateAlgorithms r => Sys2Proof.Machine.execNegotiateAlgorithms r s
  | .getDigests r => Sys2Proof.Machine.execGetDigests r s
  | .getCertificate r => Sys2Proof.Machine.execGetCertificate r s
  | .challenge r => Sys2Proof.Machine.execChallenge r s
  | .getMeasurements r => Sys2Proof.Machine.execGetMeasurements r s
  | .keyExchange r => Sys2Proof.Machine.execKeyExchange r s
  | .finish r => Sys2Proof.Machine.execFinish r s
  | .endSession r => Sys2Proof.Machine.execEndSession r s
  | .ideKm r stream on => Sys2Proof.Machine.execIdeKm r stream on s
  | .inputRise => Sys2Proof.Machine.execInputRise s
  | .softStartDone => Sys2Proof.Machine.execSoftStartDone s
  | .inputFault why => Sys2Proof.Machine.execInputFault why s
  | .pwrCapWrite via val => Sys2Proof.Machine.execPwrCapWrite via val s
  | .pwrModeWrite via val => Sys2Proof.Machine.execPwrModeWrite via val s
  | .fplAssert => Sys2Proof.Machine.execFplAssert s
  | .fplRelease => Sys2Proof.Machine.execFplRelease s
  | .capControllerSample q => Sys2Proof.Machine.execCapControllerSample q s
  | .droopDetect d => Sys2Proof.Machine.execDroopDetect d s
  | .undervoltage w => Sys2Proof.Machine.execUndervoltage w s
  | .jtrip w => Sys2Proof.Machine.execJtrip w s
  | .therm t => Sys2Proof.Machine.execTherm t s
  | .tripRearm dom => Sys2Proof.Machine.execTripRearm dom s
  | .pllLockLoss p => Sys2Proof.Machine.execPllLockLoss p s
  | .perstAssert => Sys2Proof.Machine.execPerstAssert s
  | .perstRelease => Sys2Proof.Machine.execPerstRelease s
  | .sbRegisterWrite off val pec => Sys2Proof.Machine.execSbRegisterWrite off val pec s
  | .sbSetReadOffset off pec => Sys2Proof.Machine.execSbSetReadOffset off pec s
  | .sbRegisterRead => Sys2Proof.Machine.execSbRegisterRead s
  | .sbUnknownCommand code => Sys2Proof.Machine.execSbUnknownCommand code s
  | .sbAlertResponse again => Sys2Proof.Machine.execSbAlertResponse again s
  | .setdasa addr => Sys2Proof.Machine.execSetdasa addr s
  | .entdaa addr => Sys2Proof.Machine.execEntdaa addr s
  | .bypass => Sys2Proof.Machine.execBypass s
  | .idcode => Sys2Proof.Machine.execIdcode s
  | .samplePreload => Sys2Proof.Machine.execSamplePreload s
  | .extest => Sys2Proof.Machine.execExtest s
  | .clamp => Sys2Proof.Machine.execClamp s
  | .highz => Sys2Proof.Machine.execHighz s
  | .extestPulse => Sys2Proof.Machine.execExtestPulse s
  | .extestTrain => Sys2Proof.Machine.execExtestTrain s
  | .trst => Sys2Proof.Machine.execTrst s
  | .controlSlot p => Sys2Proof.Machine.execControlSlot p s
  | .issueSlotWindow q => Sys2Proof.Machine.execIssueSlotWindow q s
  | .pllRelock p => Sys2Proof.Machine.execPllRelock p s
  | .keyCommandDone c => Sys2Proof.Machine.execKeyCommandDone c s
  | .startInterfaceRequest f => Sys2Proof.Machine.execStartInterfaceRequest f s
  | .bridgeRetry q n => Sys2Proof.Machine.execBridgeRetry q n s

end Sys2Proof.Machine
end

