-- ==== Sys2Proof/Machine/Time.lean ====
section
/-!
DEFINITION. Time: what a step does when no command waits. Every clock whose PLL is locked advances, each by an amount the spec does
not fix (log entry 3), and what the spec counts in a clock is counted: watchdogs, ages and budgets. DMA engines go on, and
stretched press clocks recover.
-/

namespace Sys2Proof.Machine

open Sys2Proof

/-- A clock runs: its PLL is locked, or the port is UP, or FENCED, and recovers it (R293). -/
def Dev.clockRuns (d : Dev) (k : Nat) : Bool :=
  if k < 32 then NMap.get d.power.locked k false else d.xlState (k - 32) == 2 || d.xlState (k - 32) == 3

/-- The running clocks after each has advanced by the count `by_` gives it. -/
def Dev.clocksOn (d : Dev) (by_ : Nat → Nat) : NMap Nat :=
  (List.range 22 ++ (List.range 16).map portClk).foldl (fun m k =>
    if d.clockRuns k then NMap.put m k (NMap.get m k 0 + by_ k) 0 else m) d.clk

/-- A slot's command for a station waits on tokens or executes: its watchdog counts (R81). -/
def Dev.wdogCounts (d : Dev) (c : CoreId) (stn sl : Nat) : Bool :=
  let k := d.core c
  let cur := if stn = stInk then k.inker.launches.any (fun l => l.slot == sl) else
    (match (k.station stn).exec with | some x => x.slot == sl | none => false)
  cur || (match (k.station stn).nextOf sl, d.runAt c sl with
    | some n, some r => !waitsHold k r (entry r.img n)
    | _, _ => false)

/-- A slot of level 3 is eligible and not chosen: its age counts (R189). At the Inker it is so while its LAUNCH has a block to
be admitted, which is what pick() chooses there, and has not been chosen for it. -/
def Dev.ageCounts (d : Dev) (c : CoreId) (stn sl : Nat) : Bool :=
  (match (d.core c).bind sl with
   | some b => b.prio == 3
   | none => false) &&
  (if stn = stInk then d.launchReady c sl && (d.core c).inker.chosen != some sl else d.eligible c stn sl)

/-- A station after `n` press cycles. -/
def Dev.stationOn (d : Dev) (c : CoreId) (stn n : Nat) (s : Station) : Station :=
  { s with wdog := (List.range 8).map (fun sl => s.wdog.getD sl 0 + (if d.wdogCounts c stn sl then n else 0)),
           age := (List.range 8).map (fun sl => s.age.getD sl 0 + (if d.ageCounts c stn sl then n else 0)) }

def Dev.coreOn (d : Dev) (c : CoreId) (n : Nat) (k : Core) : Core :=
  (List.range 5).foldl (fun k stn =>
    let s := d.stationOn c stn n (k.station stn)
    k.setStation stn s) k

/-- A hop: the clock that runs there, and the cycles of its tick (Table 11.3). -/
abbrev Hop := Nat × Nat
def pressHop (x : Nat) : Hop := (pressClk x, 20)
def netHop (q : Nat) : Hop := (netClk q, 16)
def mcHop (q : Nat) : Hop := (mcClk q, 12)
def fabHop : Hop := (fabClk, 9)
/-- A packet at a port ticks with the port clock, and while the port is not UP, when there is none, with its B-die's. -/
def Dev.portHop (d : Dev) (p : Nat) : Hop := if d.clockRuns (portClk p) then (portClk p, 11) else netHop (p / 4)

/-- The ticks of a hop between two moments. -/
def hopTicks (was now : Nat → Nat) (h : Hop) : Nat := now h.1 / h.2 - was h.1 / h.2

/-- What a request carries after some ticks: BUDGET runs down to 0 and it is late, unless it has none (R276 to R278). -/
def Svc.on (s : Svc) (n : Nat) : Svc :=
  if s.budget = 0xFFF then s else { s with budget := s.budget - n, late := s.late || decide (s.budget ≤ n) }

/-- Where a request is held: at its source until it leaves it, then at its home, in the network or in the queue of a controller. A
request to a peer that has left is held as a packet, and one sent to the host is held nowhere. -/
def Dev.reqHop (d : Dev) (r : Req) : Option Hop :=
  if !r.issued then
    some (if r.agent < 8 ∧ (match r.tgt with | .peer _ _ _ _ => false | _ => true) = true then pressHop r.agent
          else if r.agent = 12 then fabHop else netHop r.quad)
  else
    match r.tgt with
    | .stack s _ =>
      some (match d.txn r.line with
        | some t => if t.req.req = r.id ∧ t.await.contains 15 = true then mcHop (s / 5) else netHop (s / 5)
        | none => netHop (s / 5))
    | .host _ => if d.host.heldReqs.contains r.id then some fabHop else none
    | _ => none

/-- A request held over a time: its budget runs down to 0, unless it has none or is parked (R276, R277, R279). That it is late then is
BUDGET_EXPIRE's to say. -/
def Dev.reqOn (d : Dev) (ticks : Hop → Nat) (r : Req) : Req :=
  if r.budget = 0xFFF ∨ r.ready = true ∨ r.dev = true ∨ d.parked r = true then r
  else
    match d.reqHop r with
    | some h => { r with budget := r.budget - ticks h }
    | none => r

/-- A request that is a packet at port p. -/
def Dev.packetOn (d : Dev) (ticks : Hop → Nat) (p : Nat) (k : Packet) : Packet :=
  if 6 ≤ k.kind.toNat then k
  else
    let s := Svc.on ⟨k.tc.val, k.budget.toNat, k.late⟩ (ticks (d.portHop p))
    { k with budget := BitVec.ofNat 12 s.budget, late := s.late }

/-- The queues of a port. -/
def Dev.portOn (d : Dev) (ticks : Hop → Nat) (p : Nat) (s : PortSt) : PortSt :=
  { s with txq := s.txq.map (fun e => (e.1, d.packetOn ticks p e.2)), rxq := s.rxq.map (fun e => (e.1, d.packetOn ticks p e.2)) }

/-- A write-back, notice or recall of its own budget, at its home or on its way there; not while it is parked (R279). -/
def Dev.hreqOn (d : Dev) (ticks : Hop → Nat) (h : HReq) : HReq :=
  if d.lineParked h.line || d.stkWaits (lineStack h.line) then h
  else { h with svc := h.svc.on (ticks (netHop (lineQuad h.line))) }

/-- A write in a controller's queue; parked while it waits for its stack (R279). -/
def McWrite.on (ticks : Hop → Nat) (w : McWrite) : McWrite := { w with svc := w.svc.on (ticks (mcHop (lineQuad w.line))) }

/-- Budgets run down over a time, at each hop by its own ticks (R277). -/
def Dev.budgetsOn (d : Dev) (ticks : Hop → Nat) : Dev :=
  { d with reqs := d.reqs.map (d.reqOn ticks),
           homeq := d.homeq.map (d.hreqOn ticks),
           wire := d.wire.map (fun m => match m with | .request h => .request (d.hreqOn ticks h) | m => m),
           txns := NMap.update d.txns none (fun _ t => t.map (fun t : Txn => { t with req := d.hreqOn ticks t.req })),
           mcs := NMap.update d.mcs McChan.init (fun _ c => { c with writes := c.writes.map (McWrite.on ticks) }),
           signals := d.signals.map (fun s => { s with svc := s.svc.on (ticks (netHop (s.src.die.val / 2))) }),
           ports := NMap.update d.ports PortSt.init (fun p s => d.portOn ticks p s) }

/-- Time passes: every running clock by the count `by_` gives it. -/
def Dev.pass (d : Dev) (by_ : Nat → Nat) : Dev :=
  let d1 : Dev := { d with clk := d.clocksOn by_ }
  let gap (k : Nat) : Nat := d1.now k - d.now k
  let cores := NMap.update d.cores Core.init (fun k x => d.coreOn (coreAt (k / 1024) (k / 32 % 32) (k % 32)) (gap (pressClk (k / 1024))) x)
  let d2 : Dev := { d1.budgetsOn (hopTicks d.now d1.now) with cores := cores, power := { d1.power with stretch := [] } }
  (List.range d2.nChan).foldl (fun d ch => (List.range d2.nEngine).foldl (fun d e => d.dmaPump ch e) d) d2

/-- An idle step: time passes, by counts the spec does not fix (log entry 3). -/
def tick (d : Dev) : Dev := ({ d with freeCtr := d.freeCtr + 1 }).pass (Config.freeTick d.freeCtr)

end Sys2Proof.Machine
end

