-- ==== Sys2Proof/Safety.lean ====
section
/-!
DEFINITION. What the claims call safe: a queue of commands that can be formed, memory in its one canonical form; and the words
in which the claims say what a command leaves alone.
-/

namespace Sys2Proof

/-- Every waiting command is one a sender can form. -/
def Safety.queueFormed (s : Machine.State) : Bool := s.pending.all Instr.wellFormed

/-- The stacks' memory is listed once, in rising order, with no byte at its unlisted value. -/
def Safety.memoryCanonical (s : Machine.State) : Bool := Machine.Memory.wf s.dev.mem

/-- Every register word is as it was, but those listed: page, byte offset, entry of an indexed register. -/
def Safety.wordsKept (d e : Machine.Dev) (w : List (Page × Nat × Nat)) : Prop :=
  ∀ p off i, off % 4 = 0 → off < 4096 → i < 16384 → (p, off, i) ∉ w → e.word p off i = d.word p off i

/-- Every byte of the stacks' memory reads as before. -/
def Safety.memoryKept (d e : Machine.Dev) : Prop := ∀ a, Machine.Memory.read e.mem a = Machine.Memory.read d.mem a

/-- A station may issue entry `n`, an operation `op`, of the run `r` of a slot: it is free, the slot is the one chosen, the command is
its next and its waits hold, the core is not in reset, and neither a completion that signals a token the command waits for is due nor
does a lower-numbered station go first for one (R49, R73, R74, R189). -/
def Safety.mayIssue (d : Machine.Dev) (c : CoreId) (stn op sl n : Nat) (r : Machine.Run) : Prop :=
  ((d.core c).station stn).exec = none ∧ d.pick c stn (d.eligible c stn) = some sl ∧
  ((d.core c).station stn).nextOf sl = some n ∧ d.runAt c sl = some r ∧ r.stage = .begun ∧
  Machine.eOp (Machine.entry r.img n) = op ∧ d.domInReset (.core c) = false ∧
  d.signalFirst c sl r (Machine.entry r.img n) = false ∧ d.lowerFirst c stn sl r (Machine.entry r.img n) = false

/-- `e` is the device after the station took that command: it executes it for `cycles` press cycles, the command has left its
queue, the slot is the one chosen last at its level and its age and promotion are cleared; the command's waits have taken their
tokens, and the run has issued. Nothing else of the core, and nothing else of the device but the run's queue, changed. -/
def Safety.hasIssued (d e : Machine.Dev) (c : CoreId) (stn sl n : Nat) (r : Machine.Run) (cycles : Nat) (sending : Bool) : Prop :=
  e = { d with cores := e.cores, queues := e.queues } ∧ (∀ k, k ≠ c → e.core k = d.core k) ∧
  e.core c = { d.core c with stations := (e.core c).stations, toks := (e.core c).toks } ∧
  (∀ i, i ≠ stn → (e.core c).station i = (d.core c).station i) ∧
  (∀ st, st = (d.core c).station stn → (e.core c).station stn =
    { st with exec := some ⟨sl, n, d.now (Machine.pressClk c.die.val) + cycles, sending⟩,
              queue := Machine.dropFirst (fun x => decide (x = (sl, n))) st.queue,
              last := st.last.set (d.effLevel c stn sl) sl, age := st.age.set sl 0, promo := st.promo.set sl false }) ∧
  (e.core c).toks = ((Machine.eWaits (Machine.entry r.img n)).foldl
    (fun k w => k.setTok (r.tokMap.getD w.1 0) (k.tok (r.tokMap.getD w.1 0) - w.2)) (d.core c)).toks ∧
  e.runAt c sl = some { r with issued := true, outbound := r.outbound || stn == Machine.stDlv }

/-- The current path of a group may run its next instruction (R122, R124, R133, R141): it is runnable, its address lies before the
kernel's end and its line in the instruction cache, no register the instruction reads or writes awaits a reply, and no ready group
stands before this one. `srcs`: first register, registers and reuse hint of each source operand; `dst`: of the destination. -/
def Safety.mayRun (d : Machine.Dev) (c : CoreId) (g : Nat) (srcs : List (Nat × Nat × Bool)) (dst : List (Nat × Nat))
    (x : Machine.Ctx) : Prop :=
  ∃ p l, d.ctx c g = some (x, p, l) ∧ p.pc < Machine.kernelEnd x l ∧ (d.core c).inker.icache.contains (p.pc / 128) = true ∧
    (∀ e ∈ srcs, d.awaited c g e.1 e.2.1 = false) ∧ (∀ e ∈ dst, d.awaited c g e.1 e.2 = false) ∧ d.otherFirst c g = false

/-- The device in which that instruction is performed: the group has issued last (R133), its sources have been read through the
register cache (R127), and its results and the unit it uses are taken for their time (Table 5.4). -/
def Safety.atGroup (d : Machine.Dev) (c : CoreId) (g : Nat) (srcs : List (Nat × Nat × Bool)) (cost : Nat × Nat) : Machine.Dev :=
  d.tookIssue c g srcs cost

/-- The group itself in that device. -/
def Safety.groupAt (d : Machine.Dev) (c : CoreId) (x : Machine.Ctx) (srcs : List (Nat × Nat × Bool)) (cost : Nat × Nat) :
    Machine.Group :=
  { x.g with rcache := Machine.rcacheRead x.g.rcache srcs,
             until_ := max x.g.until_ (d.now (Machine.pressClk c.die.val) + cost.1) }

/-- From `f` to `d` only registers of the group `g` of core `c` were written, the slot's sticky flags became `st`, free values may have
been drawn, and the group went on to its next instruction; `y` is the group then. -/
def Safety.wroteLanes (f d : Machine.Dev) (c : CoreId) (g : Nat) (st : NMap Machine.Sticky) (z y : Machine.Group) : Prop :=
  d = { f with cores := d.cores, freeCtr := d.freeCtr } ∧ (∀ k, k ≠ c → d.core k = f.core k) ∧
  d.core c = { f.core c with inker := (d.core c).inker, sticky := st } ∧
  (d.core c).inker = { (f.core c).inker with groups := (d.core c).inker.groups } ∧
  (∀ h, h ≠ g → (d.core c).inker.group h = (f.core c).inker.group h) ∧
  (d.core c).inker.group g = some y ∧ y = { z with paths := z.advance.paths, regs := y.regs }

/-- In the group `y`, `n` registers from `dst` of every active lane hold the value given, where one is given, as far as the group has
them, and every other register of every lane is as before. -/
def Safety.lanesTake (x : Machine.Ctx) (y : Machine.Group) (dst n : Nat) (val : Nat → Option Nat) : Prop :=
  (∀ lane ∈ x.lanes, ∀ v, val lane = some v → ∀ i, i < n → dst + i < x.g.nreg →
    y.reg (dst + i) lane = v / 2 ^ (32 * i) % 2 ^ 32) ∧
  ∀ reg lane, lane < 32 → (lane ∉ x.lanes ∨ reg < dst ∨ dst + n ≤ reg) → y.reg reg lane = x.g.reg reg lane

/-- A thread's Stone access met what `ecc` says (R54): `f` is the device then. Where that ended its run, nothing is done but that;
else `done` holds of what the access does in `f`. -/
def Safety.stoneMet (e d : Machine.Dev) (c : CoreId) (g : Nat) (x : Machine.Ctx) (ecc : StoneEcc)
    (done : Machine.Dev → Prop) : Prop :=
  ∃ f, f = e.stoneEcc c ecc Machine.stInk x.slot x.n ∧ (f.running c x.slot = false → d = f.advance c g) ∧
    (f.running c x.slot = true → done f)

end Sys2Proof
end

