-- ==== Sys2Proof/Certificates/Slice0/Obligations.lean ====
section
/-!
DEFINITION. The statements for the provers: what each command does to the device, and what holds of the block as a whole.
-/

open Sys2Proof Sys2Proof.Machine

/-- One step takes the command at the front of the queue and performs it on everything else with the queue's rest; with no command
waiting, time passes and no byte of memory changes (the model's choice, log entry 3). -/
def Obligations.StepPerformsFrontCommand : Prop :=
  ∀ (c : Instr) (rest : List Instr) (d : Dev),
    Sys2Proof.Machine.step { pending := c :: rest, dev := d } = Sys2Proof.Machine.exec c { pending := rest, dev := d } ∧
    Sys2Proof.Machine.step { pending := [], dev := d } = .next { pending := [], dev := tick d } ∧ Safety.memoryKept d (tick d)

/-- A command that a sender can form always answers a next state, whatever the state, and leaves the commands that wait behind
it alone; one that no sender can form stops with the fault `illFormed` and nothing else does. -/
def Obligations.FormedCommandsComplete : Prop :=
  ∀ (c : Instr) (s : State),
    (c.wellFormed = true → ∃ d, Sys2Proof.Machine.exec c s = .next { s with dev := d }) ∧
    (c.wellFormed = false → Sys2Proof.Machine.exec c s = .fault .illFormed)

/-- A queue of commands that senders can form runs to its end: a step from any state that holds one answers a next state, whose queue
is that queue without its first command and can be formed as well. -/
def Obligations.FormedQueueRuns : Prop :=
  ∀ (s : State), Safety.queueFormed s = true →
    ∃ t, Sys2Proof.Machine.step s = .next t ∧ t.pending = s.pending.tail ∧ Safety.queueFormed t = true

/-- Every step keeps the list of the stacks' memory canonical: addresses strictly rising, no byte listed at the value an unlisted one
reads as. -/
def Obligations.StepKeepsMemoryCanonical : Prop :=
  ∀ (s t : State), Safety.memoryCanonical s = true → Sys2Proof.Machine.step s = .next t → Safety.memoryCanonical t = true

/-- Only eight commands change a byte of the stacks' memory: a controller's issue of a write (MC_ISSUE), a read or a scrub that
corrects (MC_READ_RETURN, SCRUB_READ_DONE), the clearing of a reduction region and of home units (RB_CLEAR_DONE, ZEROU_DONE),
the reset of a partition or of the device (RESET_DRAIN_DONE, DRAIN_ESCALATE) and an input fault. -/
def Obligations.OnlyEightCommandsChangeMemory : Prop :=
  ∀ (c : Instr) (s t : State), Sys2Proof.Machine.exec c s = .next t →
    (∀ q n i, c ≠ .mcIssue q n i) → (∀ q n e m, c ≠ .mcReadReturn q n e m) → (∀ q n e m, c ≠ .scrubReadDone q n e m) →
    (∀ q e, c ≠ .rbClearDone q e) → (∀ t, c ≠ .zerouDone t) → (∀ dom, c ≠ .resetDrainDone dom) → (∀ dom, c ≠ .drainEscalate dom) →
    (∀ w, c ≠ .inputFault w) →
    Safety.memoryKept s.dev t.dev

/-- State.reset holds no command, its queue can be formed and its memory is canonical; it reads reset values the spec states:
BOOT_STAT 0 (INIT), measurement registers zero, PWR_CAP 4,400 W and PWR_FPL 1,200 W, the colophon hold of each quadrant and its
budgets of classes 0 to 2, the patrol scrub's enable and period, the write watermark and the refresh postponement of a channel,
the peer timeout of a port, the watchdog of a core, and in every collector's profiles INT of severity 0, BRST of 2, DRST and
EPIN of 3; the clock mode is not fixed, the configuration not sealed, the arrangement unified. -/
def Obligations.ResetReadsStatedValues : Prop :=
  ∀ (d : Dev), d = State.reset.dev →
    State.reset.pending = [] ∧ Safety.queueFormed State.reset = true ∧ Safety.memoryCanonical State.reset = true ∧
    d.word .boot 0x100 0 = 0 ∧ d.bootState = 0 ∧ d.isSealed = false ∧ d.arr? = 0 ∧ d.power.pwrgd = false ∧
    (∀ k, NMap.get d.boot.mrs k (0 : BitVec 512) = 0) ∧
    d.get .pwr fPWR_CAP_UNITS 0 = 0x58 ∧ d.get .pwr fPWR_FPL_UNITS 0 = 0x18 ∧ d.fixed = false ∧
    (∀ q : Quad, d.get (.qctl q) fQCTL_COLO_TMO_EXP 0 = 0x1E ∧ d.get (.qctl q) fQCTL_TCB01_TC0 0 = 0x100 ∧
      d.get (.qctl q) fQCTL_TCB01_TC1 0 = 0x400 ∧ d.get (.qctl q) fQCTL_TCB23_TC2 0 = 0x800) ∧
    (∀ (q : Quad) (n : Fin 5), d.get (.stk q n) fSTK_SCRUB_EN 0 = 1 ∧ d.get (.stk q n) fSTK_SCRUB_PERIOD 0 = 0x18) ∧
    (∀ (q : Quad) (n : Fin 40), d.get (.mc q n) fMC_CFG_WHI 0 = 0x20 ∧ d.get (.mc q n) fMC_CFG_REFPOST 0 = 8) ∧
    (∀ (q : Quad) (n : Fin 4), d.get (.xl q n) fXL_PTMO_EXP 0 = 0x1B) ∧
    (∀ c : CoreId, d.get (.core c) fCORE_WDOG_EXP 0 = 0x18) ∧
    (∀ k, k < 9 → d.get (collPage k) fERRC_PROF0_INT 0 = 1 ∧ d.get (collPage k) fERRC_PROF2_BRST 0 = 1 ∧
      d.get (collPage k) fERRC_PROF3_DRST 0 = 1 ∧ d.get (collPage k) fERRC_PROF3_EPIN 0 = 1)

/-- R5: a logical core ID holds the C-die in bits 12:10, the row in 9:5 and the logical column in 4:0, both 0 to 23; a row's logical
columns are numbered contiguously from 0; a row or column value of 24 to 31 names no core. -/
def Obligations.LogicalCoreIdsAreContiguous : Prop :=
  ∀ (s : State) (x : Die) (r : Fin 24), s.dev.boot.committed = true →
    (∀ c : CoreId, ∀ n, s.dev.lid c = some n →
      n / 1024 = c.die.val ∧ n / 32 % 32 = c.row.val ∧ n % 32 < 24 ∧ n < 8192 ∧ s.dev.coreOfLid n = some c) ∧
    (∀ k, (∃ col : Fin 25, s.dev.lid ⟨x, r, col⟩ = some (1024 * x.val + 32 * r.val + k)) ↔ k < s.dev.nLog x.val r.val) ∧
    (s.dev.nLog x.val r.val = 23 → s.dev.coreOfLid (1024 * x.val + 32 * r.val + 23) = none) ∧
    (∀ n, (24 ≤ n / 32 % 32 ∨ 24 ≤ n % 32) → s.dev.coreOfLid n = none ∧ ∀ c, s.dev.lid c ≠ some n)

/-- R42: while a page's reset domain is in reset its BLK_STAT reads READY 0 and INRST 1, a write to the page other than to BLK_CTL is
discarded, and a block-specific register reads 0. -/
def Obligations.PagesInResetDiscardAndReadZero : Prop :=
  ∀ (via : Via) (off : BitVec 27) (val : Word) (s : State) (p : Page), (∀ v, via ≠ .vf v) →
    pageOfNo (off.toNat / 4096) = some p → s.dev.inReset p = true → s.dev.deadPage p = false → off.toNat % 4 = 0 →
    (off.toNat % 4096 = 0x014 → s.dev.reaches via p = true → s.dev.tdiError via = false →
      (regRead s.dev via off.toNat true).1.testBit 0 = false ∧ (regRead s.dev via off.toNat true).1.testBit 1 = true) ∧
    (off.toNat % 4096 ≠ 0x010 → Sys2Proof.Machine.exec (.registerWrite via off true val) s = .next s) ∧
    (0x100 ≤ off.toNat % 4096 → s.dev.reaches via p = true → s.dev.tdiError via = false →
      regRead s.dev via off.toNat true = (0, s.dev))

/-- R83: BF16 is the upper 16 bits of binary32: a BF16 value equals the binary32 value whose upper 16 bits are its bits and
whose lower 16 bits are zero. -/
def Obligations.Bf16IsUpperHalfOfBinary32 : Prop :=
  ∀ (b : Nat), b < 65536 →
    (∀ g m e, decodeFloat bf16 b = .num g m e → decodeFloat fp32 (65536 * b) = .num g (65536 * m) (e - 16)) ∧
    (∀ g, decodeFloat bf16 b = .inf g → decodeFloat fp32 (65536 * b) = .inf g) ∧
    (decodeFloat bf16 b = .nan → decodeFloat fp32 (65536 * b) = .nan) ∧
    (∀ x, decodeFloat bf16 b = x → x = .nan ∨ x = .inf (b.testBit 15) ∨
      ∃ m e, x = .num (b.testBit 15) m e ∧
        (bitsOf b 14 7 = 0 → m = b % 128 ∧ e = -133) ∧ (bitsOf b 14 7 ≠ 0 → m = 128 + b % 128 ∧ e = (bitsOf b 14 7 : Int) - 134))

/-- REGISTER_WRITE, its header registers and the access rules (R37, R42): a write that is no aligned word access of an assigned
page is discarded and BLK_STAT.BADACC set; one to a reserved page is discarded; in reset a write other than to BLK_CTL is discarded;
ERR_MASK takes the bits of the sources the page has. A virtual function writes its doorbells and its engines' WP and RESUME, and no
other register (R340). -/
def Obligations.RegisterWriteFollowsAccessRules : Prop :=
  ∀ (via : Via) (off : BitVec 27) (word : Bool) (val : Word) (s : State),
    (∀ v, via = .vf v →
      ((word = false ∨ off.toNat % 4 ≠ 0) → Sys2Proof.Machine.exec (.registerWrite via off word val) s = .next s) ∧
      (word = true → off.toNat % 4 = 0 →
        (∀ k : Fin 16, off.toNat = 4 * k.val →
          Sys2Proof.Machine.exec (.registerWrite via off word val) s = Sys2Proof.Machine.exec (.vfDoorbellWrite v k val) s) ∧
        (64 ≤ off.toNat → s.dev.vfEngine v.val off.toNat = none → Sys2Proof.Machine.exec (.registerWrite via off word val) s = .next s) ∧
        (∀ e : Fin 32, s.dev.vfEngine v.val off.toNat = some e.val →
          (off.toNat % 32 = 0x0C →
            Sys2Proof.Machine.exec (.registerWrite via off word val) s = Sys2Proof.Machine.exec (.dmaWpWrite via 0 e val) s) ∧
          (off.toNat % 32 = 0x1C → val.toNat.testBit 28 = true →
            Sys2Proof.Machine.exec (.registerWrite via off word val) s = Sys2Proof.Machine.exec (.dmaResume via 0 e) s) ∧
          (off.toNat % 32 ≠ 0x0C → (off.toNat % 32 = 0x1C → val.toNat.testBit 28 = false) →
            Sys2Proof.Machine.exec (.registerWrite via off word val) s = .next s)))) ∧
    ((∀ v, via ≠ .vf v) →
    (pageOfNo (off.toNat / 4096) = none → Sys2Proof.Machine.exec (.registerWrite via off word val) s = .next s) ∧
    (∀ p, pageOfNo (off.toNat / 4096) = some p → s.dev.arrives via = true → s.dev.reaches via p = true →
      s.dev.tdiError via = false → s.dev.deadPage p = false →
      ((word = false ∨ off.toNat % 4 ≠ 0) →
        ∃ d, Sys2Proof.Machine.exec (.registerWrite via off word val) s = .next { s with dev := d } ∧
          d.on p fBLK_STAT_BADACC 0 = true ∧ d.get p fBLK_STAT_LKV 0 = s.dev.get p fBLK_STAT_LKV 0 ∧
          d = { s.dev with regs := d.regs } ∧ Safety.wordsKept s.dev d [(p, 0x014, 0)]) ∧
      (word = true → off.toNat % 4 = 0 → s.dev.inReset p = true → off.toNat % 4096 ≠ 0x010 →
        Sys2Proof.Machine.exec (.registerWrite via off word val) s = .next s) ∧
      (word = true → s.dev.inReset p = false → off.toNat % 4096 = 0x024 →
        ∃ d, Sys2Proof.Machine.exec (.registerWrite via off word val) s = .next { s with dev := d } ∧
          d.get p fERR_MASK_MASK 0 = val.toNat % 2 ^ nsrc (pageKind p) ∧
          d = { s.dev with regs := d.regs } ∧ Safety.wordsKept s.dev d [(p, 0x024, 0)])))

/-- REGISTER_WRITE of ERR_SEV and ERR_ACT, registers of RWL fields that every page has (R40, R43): before the seal they take the
bits of the page's sources; after it a write that would change one leaves it and sets BLK_STAT.LKV, and one that would not changes
nothing. No virtual function reaches such a register (R340), and no interface of the host is locked or running (R354 then also moves
it to ERROR).

SEAL (R43, R444): the configuration is sealed, and MR9 of every channel extended by the digest of the sealed configuration; a
second write changes nothing. No other register and no other measurement register changes. A write by a path that does not reach the
device's own page is discarded. -/
def Obligations.SealGovernsWrites : Prop :=
  (
  ∀ (via : Via) (off : BitVec 27) (val : Word) (s : State) (p : Page) (f : FieldDef), (∀ v, via ≠ .vf v) →
    pageOfNo (off.toNat / 4096) = some p → s.dev.writable via p = true →
    (off.toNat % 4096 = 0x028 ∧ f = fERR_SEV_SEV ∨ off.toNat % 4096 = 0x02C ∧ f = fERR_ACT_ACT) →
    (∀ e ∈ s.dev.host.fns, e.2.tdi ≠ 1 ∧ e.2.tdi ≠ 2) →
    ∃ d, Sys2Proof.Machine.exec (.registerWrite via off true val) s = .next { s with dev := d } ∧
      d = { s.dev with regs := d.regs } ∧ Safety.wordsKept s.dev d [(p, f.off, 0), (p, 0x014, 0)] ∧
      (s.dev.isSealed = false → d.word p f.off 0 = val.toNat % 4 ^ nsrc (pageKind p) ∧ d.word p 0x014 0 = s.dev.word p 0x014 0) ∧
      (s.dev.isSealed = true → d.word p f.off 0 = s.dev.word p f.off 0 ∧
        (s.dev.word p f.off 0 = val.toNat % 4 ^ nsrc (pageKind p) → d = s.dev) ∧
        (s.dev.word p f.off 0 ≠ val.toNat % 4 ^ nsrc (pageKind p) →
          d.on p fBLK_STAT_LKV 0 = true ∧ d.get p fBLK_STAT_BADACC 0 = s.dev.get p fBLK_STAT_BADACC 0))) ∧
  (
  ∀ (via : Via) (s : State), (s.dev.writable via .dctl = false → Sys2Proof.Machine.exec (.seal via) s = .next s) ∧
    (s.dev.writable via .dctl = true →
    ∃ d, Sys2Proof.Machine.exec (.seal via) s = .next { s with dev := d } ∧ d.isSealed = true ∧
      (s.dev.isSealed = true → d = s.dev) ∧
      d = { s.dev with regs := d.regs, boot := { s.dev.boot with mrs := d.boot.mrs } } ∧
      Safety.wordsKept s.dev d [(.dctl, 0x100, 0)] ∧
      (s.dev.isSealed = false →
        (∀ ch, ch < s.dev.nChan → d.mr ch 9 = sha512 (digestBytes (s.dev.mr ch 9) ++ sha (d.repConfig ch))) ∧
        (∀ k, (∀ ch, ch < s.dev.nChan → k ≠ mrKey ch 9) →
          NMap.get d.boot.mrs k (0 : BitVec 512) = NMap.get s.dev.boot.mrs k (0 : BitVec 512)))))

/-- REG64_LO_WRITE, REG64_HI_WRITE and REG64_LO_READ (R39, R201, R224): a write of LO stores it in a shadow and changes no register; a
write of HI writes both halves in one update, the shadow as bits 31:0 and the word written as bits 63:32 (for an error collector's
mask, the whole quantity reads as written); a read of LO answers with bits 31:0 and latches bits 63:32 in a shadow. Either write
of a base of a queue that is not OFF is discarded and sets ERR to STATE, and either one of the member mask of a stereo entry
that is not OFF is discarded and sets ILL. A virtual function reads the pairs of its own engines, and its writes of them are
discarded (R340).

WTAB_COMMIT and WTAB_LOAD (R31, R32): COMMIT refuses a staged entry of an illegal size or span with ILL, and no table changes;
any other, one with VALID 0 among them, stands as staged in the table of every quadrant of the channel that is not in reset, and
no other entry changes. LOAD copies the entry IDX names into the staging words, field by field, each in the width of its field. -/
def Obligations.RegisterPairsAndWindowTable : Prop :=
  (
  ∀ (via : Via) (off : BitVec 27) (val : Word) (s : State) (p : Page),
    (∀ v, via = .vf v → Sys2Proof.Machine.exec (.reg64LoWrite via off val) s = .next s ∧ Sys2Proof.Machine.exec (.reg64HiWrite via off val) s = .next s ∧
      ∀ e o, s.dev.vfEngine v.val off.toNat = some e → o = 0x100 + 0x20 * e + off.toNat % 0x20 → isLo (pDma 0) o = true →
        v.val ≠ 0 → s.dev.presents v.val = true → s.dev.arrives via = true → s.dev.tdiError via = false →
        s.dev.inReset (pDma 0) = false →
        ∃ d, Sys2Proof.Machine.exec (.reg64LoRead via off) s = .next { s with dev := d } ∧
          d = { s.dev with rdShadow := d.rdShadow, out := d.out } ∧
          d.out = s.dev.out ++ [.regRead (BitVec.ofNat 32 (blockRead s.dev (pDma 0) o))] ∧
          NMap.get d.rdShadow (regKey (pDma 0) o 0) 0 = BitVec.ofNat 32 (blockRead s.dev (pDma 0) (o + 4))) ∧
    ((∀ v, via ≠ .vf v) → pageOfNo (off.toNat / 4096) = some p → s.dev.writable via p = true → 0x100 ≤ off.toNat % 4096 → off.toNat % 4 = 0 →
    (isLo p (off.toNat % 4096) = true →
      (pairRefused s.dev p (off.toNat % 4096) = none →
        ∃ d, Sys2Proof.Machine.exec (.reg64LoWrite via off val) s = .next { s with dev := d } ∧
          d = { s.dev with wrShadow := d.wrShadow } ∧ NMap.get d.wrShadow (regKey p (off.toNat % 4096) 0) 0 = val ∧
          ∀ k, k ≠ regKey p (off.toNat % 4096) 0 → NMap.get d.wrShadow k 0 = NMap.get s.dev.wrShadow k 0) ∧
      (∃ d, Sys2Proof.Machine.exec (.reg64LoRead via off) s = .next { s with dev := d } ∧
        d = { s.dev with rdShadow := d.rdShadow, out := d.out } ∧
        d.out = s.dev.out ++ [.regRead (BitVec.ofNat 32 (blockRead s.dev p (off.toNat % 4096)))] ∧
        NMap.get d.rdShadow (regKey p (off.toNat % 4096) 0) 0 = BitVec.ofNat 32 (blockRead s.dev p (off.toNat % 4096 + 4)))) ∧
    (isHi p (off.toNat % 4096) = true → pairRefused s.dev p (off.toNat % 4096 - 4) = none →
      ∃ d, Sys2Proof.Machine.exec (.reg64HiWrite via off val) s = .next { s with dev := d } ∧
        d = pairWrite s.dev p (off.toNat % 4096 - 4)
          (NMap.get s.dev.wrShadow (regKey p (off.toNat % 4096 - 4) 0) (0 : Word)).toNat val.toNat ∧
        (∀ k, k < 9 → p = collPage k → off.toNat % 4096 = 0x10C →
          d.collMask k = (NMap.get s.dev.wrShadow (regKey p 0x108 0) (0 : Word)).toNat + 2 ^ 32 * val.toNat ∧
          d = { s.dev with regs := d.regs } ∧ Safety.wordsKept s.dev d [(p, 0x108, 0), (p, 0x10C, 0)])) ∧
    (∀ e, (isLo p (off.toNat % 4096) = true ∧ pairRefused s.dev p (off.toNat % 4096) = some e ∨
          isHi p (off.toNat % 4096) = true ∧ pairRefused s.dev p (off.toNat % 4096 - 4) = some e) →
      (isLo p (off.toNat % 4096) = true → Sys2Proof.Machine.exec (.reg64LoWrite via off val) s = .next { s with dev := e }) ∧
      (isHi p (off.toNat % 4096) = true → Sys2Proof.Machine.exec (.reg64HiWrite via off val) s = .next { s with dev := e }) ∧
      e = { s.dev with regs := e.regs }) ∧
    (∀ (x : Die) (q : Nat), p = .imp x → s.dev.get (.imp x) fIMP_QSEL_Q 0 = q → s.dev.qState x.val q ≠ 0 → ∀ o,
      ∃ e, pairRefused s.dev p o = some e ∧ e.get (.imp x) fIMP_QSTAT_ERR q = 6 ∧
        Safety.wordsKept s.dev e [(.imp x, 0x12C, q)]) ∧
    (∀ (q : Quad) (i : Nat), p = .qctl q → s.dev.get (.qctl q) fQCTL_SR_IDX_ENT 0 = i → s.dev.srState q.val i ≠ 0 →
      ∃ e, pairRefused s.dev p 0x250 = some e ∧ e.on (.qctl q) fQCTL_SR_STAT_ILL i = true ∧
        Safety.wordsKept s.dev e [(.qctl q, 0x264, i)]))) ∧
  (
  ∀ (via : Via) (q : Quad) (s : State), s.dev.writable via (.qctl q) = true →
    (∃ d, Sys2Proof.Machine.exec (.wtabCommit via q) s = .next { s with dev := d } ∧
      ((s.dev.staged q.val).illegal = true → d = { s.dev with regs := d.regs } ∧ d.on (pQctl q.val) fQCTL_WTAB_CMD_ILL 0 = true ∧
        Safety.wordsKept s.dev d [(.qctl q, 0x110, 0)]) ∧
      ((s.dev.staged q.val).illegal = false → d = { s.dev with wtab := d.wtab } ∧
        (∀ y ∈ s.dev.quadsOf (s.dev.chanOf q.val), s.dev.inReset (pQctl y) = false →
          d.window y (s.dev.get (pQctl q.val) fQCTL_WTAB_IDX_IDX 0) = s.dev.staged q.val) ∧
        (∀ y i, i < 256 → (y ∉ s.dev.quadsOf (s.dev.chanOf q.val) ∨ s.dev.inReset (pQctl y) = true ∨
            i ≠ s.dev.get (pQctl q.val) fQCTL_WTAB_IDX_IDX 0) → d.window y i = s.dev.window y i))) ∧
    (∀ w, s.dev.window q.val (s.dev.get (pQctl q.val) fQCTL_WTAB_IDX_IDX 0) = w →
      ∃ d, Sys2Proof.Machine.exec (.wtabLoad via q) s = .next { s with dev := d } ∧
        d.staged q.val = { w with tc := w.tc % 4, part := w.part % 64, dev := w.dev % 65536, sizeG := w.sizeG % 128,
                                  pbase := w.pbase % 2 ^ 18 } ∧
        d = { s.dev with regs := d.regs } ∧
        Safety.wordsKept s.dev d [(.qctl q, 0x104, 0), (.qctl q, 0x108, 0), (.qctl q, 0x10C, 0), (.qctl q, 0x110, 0)]))

/-- ERR_STAT_WRITE (R41), where no cause of a source still holds: the bits written 1 clear and no other, ERR_FIRST.VALID clears
exactly when no unmasked bit is left, and nothing else changes.  ERRC_STAT_WRITE, ERRC_FENCE and EPIN_CLR (R379, R386, R390,
R396): a status bit written 1 clears unless its pin is high, and the episode closes when no bit it merged is left; a sealed
channel is fenced once; the error output falls unless an open episode took it. -/
def Obligations.ErrorStatusClearsAndFences : Prop :=
  (
  ∀ (via : Via) (p : Page) (val : Word) (s : State), s.dev.writable via p = true → (∀ i, s.dev.cause p i = none) →
    ∃ d, Sys2Proof.Machine.exec (.errStatWrite via p val) s = .next { s with dev := d } ∧
      (∀ i, i < 16 → (d.get p fERR_STAT_SRC 0).testBit i = ((s.dev.get p fERR_STAT_SRC 0).testBit i && !val.toNat.testBit i)) ∧
      (d.get p fERR_FIRST_VALID 0 =
        if (List.range 16).any (fun i => (d.get p fERR_STAT_SRC 0).testBit i && !(s.dev.get p fERR_MASK_MASK 0).testBit i)
        then s.dev.get p fERR_FIRST_VALID 0 else 0) ∧
      d = { s.dev with regs := d.regs } ∧ Safety.wordsKept s.dev d [(p, 0x020, 0), (p, 0x030, 0)]) ∧
  (
  ∀ (via : Via) (s : State),
    (∀ (k : Fin 9) (val : BitVec 64) c h, s.dev.writable via (collPage k.val) = true → c = s.dev.coll k.val →
      h = NMap.get c.hist c.ent Hist.init →
      ∃ d f : Dev, Sys2Proof.Machine.exec (.errcStatWrite via k val) s = .next { s with dev := d } ∧ f = { s.dev with regs := f.regs } ∧
        Safety.wordsKept s.dev f [(collPage k.val, 0x100, 0), (collPage k.val, 0x104, 0)] ∧
        (∀ b, b < 64 → (f.collStat k.val).testBit b =
          ((s.dev.collStat k.val).testBit b && (!val.toNat.testBit b || s.dev.bitPin k.val b))) ∧
        ((c.isOpen = false ∨ h.merged &&& f.collStat k.val ≠ 0) → d = f) ∧
        (c.isOpen = true → h.merged &&& f.collStat k.val = 0 → (d.coll k.val).isOpen = false ∧
          d = { f with regs := d.regs, colls := d.colls } ∧ d.on (collPage k.val) fERRC_FAULT_OPEN 0 = false ∧
          (NMap.get (d.coll k.val).hist c.ent Hist.init).opened = false ∧ (d.coll k.val).seq = c.seq ∧ (d.coll k.val).next = c.next)) ∧
    (∀ c : Chan, s.dev.writable via (.errcCh c) = true →
      ((s.dev.nChan ≤ c.val ∨ s.dev.isSealedOp = false ∨ s.dev.on (.errcCh c) fERRC_FENCE_FENCED 0 = true) →
        Sys2Proof.Machine.exec (.errcFence via c) s = .next s) ∧
      (c.val < s.dev.nChan → s.dev.isSealedOp = true → s.dev.on (.errcCh c) fERRC_FENCE_FENCED 0 = false →
        ∃ d, Sys2Proof.Machine.exec (.errcFence via c) s = .next { s with dev := d } ∧ Safety.memoryKept s.dev d ∧ d = s.dev.fence c.val ∧
          d.on (.errcCh c) fERRC_FENCE_FENCED 0 = true)) ∧
    (s.dev.writable via .errcDev = true →
      ((∃ k, k < 9 ∧ (s.dev.coll k).isOpen = true ∧ s.dev.taken k rEPIN = true) → Sys2Proof.Machine.exec (.epinClr via) s = .next s) ∧
      ((∀ k, k < 9 → (s.dev.coll k).isOpen = false ∨ s.dev.taken k rEPIN = false) →
        ∃ d, Sys2Proof.Machine.exec (.epinClr via) s = .next { s with dev := d } ∧ d = { s.dev with regs := d.regs } ∧
          d.on .errcDev fERRC_EPIN_ASSERTED 0 = false ∧ Safety.wordsKept s.dev d [(.errcDev, 0x180, 0)])))

/-- BRG_LINK_TRAIN, BRG_LINK_DOWN and BRIDGE_RETRY (R16, R395): a carrying link that is not UP, both ends out of reset, reads UP
at both ends, names its peer and counts a training, and an H-die link then carries what its channel's host requests waited for;
one that is UP reads DOWN at both ends and raises DOWN there; a resent flit counts and raises RETRY. Memory and every other
register stay.  LEVEL_BROADCAST, ISSUE_SLOT_WINDOW, METER_WINDOW_RESTART and BUDGET_EXPIRE (R278, R282, R284, R287): the levels
of a B-die's stacks reach its own quadrant and those its bridges carry to; a window of issue slots and a metering window begin
with nothing used; a request whose budget has run down is late from then on. What regulation held goes on. No byte of memory
changes. -/
def Obligations.BridgesAndTraffic : Prop :=
  (
  ∀ (q : Quad) (n : Fin 4) (s : State), s.dev.brgGated q.val n.val = false →
    (s.dev.brgReady q.val n.val = true → s.dev.brgState q.val n.val ≠ 2 →
      ∃ d, Sys2Proof.Machine.exec (.brgLinkTrain q n) s =
          .next { s with dev := if n.val = q.val then d.releaseHost (s.dev.chanOf q.val) else d } ∧
        d.brgState q.val n.val = 2 ∧ d.get (pBrg q.val n.val) fBRG_STAT_PEER 0 = (if n.val = q.val then 15 else 8 + n.val) ∧
        d.get (pBrg q.val n.val) fBRG_STAT_TRAINS 0 = min (s.dev.get (pBrg q.val n.val) fBRG_STAT_TRAINS 0 + 1) 255 ∧
        (n.val ≠ q.val → d.brgState n.val q.val = 2 ∧ d.get (pBrg n.val q.val) fBRG_STAT_PEER 0 = 8 + q.val) ∧
        d = { s.dev with regs := d.regs } ∧ Safety.wordsKept s.dev d [(pBrg q.val n.val, 0x100, 0), (pBrg n.val q.val, 0x100, 0)]) ∧
    (s.dev.brgState q.val n.val = 2 →
      (∃ d, Sys2Proof.Machine.exec (.brgLinkDown q n) s = .next { s with dev := d } ∧
        d.brgState q.val n.val = 0 ∧ (n.val ≠ q.val → d.brgState n.val q.val = 0) ∧
        (s.dev.inReset (pBrg q.val n.val) = false → (d.get (pBrg q.val n.val) fERR_STAT_SRC 0).testBit 1 = true) ∧
        d = { s.dev with regs := d.regs, evq := d.evq } ∧
        Safety.wordsKept s.dev d [(pBrg q.val n.val, 0x100, 0), (pBrg n.val q.val, 0x100, 0), (pBrg q.val n.val, 0x020, 0),
          (pBrg n.val q.val, 0x020, 0), (pBrg q.val n.val, 0x030, 0), (pBrg n.val q.val, 0x030, 0)]) ∧
      (∃ d, Sys2Proof.Machine.exec (.bridgeRetry q n) s = .next { s with dev := d } ∧
        d.get (pBrg q.val n.val) fBRG_RETRY_COUNT 0 = min (s.dev.get (pBrg q.val n.val) fBRG_RETRY_COUNT 0 + 1) (2 ^ 32 - 1) ∧
        (s.dev.inReset (pBrg q.val n.val) = false → (d.get (pBrg q.val n.val) fERR_STAT_SRC 0).testBit 0 = true) ∧
        d = { s.dev with regs := d.regs, evq := d.evq } ∧
        Safety.wordsKept s.dev d [(pBrg q.val n.val, 0x104, 0), (pBrg q.val n.val, 0x020, 0), (pBrg q.val n.val, 0x030, 0)]))) ∧
  (
  ∀ (q : Quad) (s : State),
    (∃ d, Sys2Proof.Machine.exec (.levelBroadcast q) s = .next { s with dev := d } ∧ Safety.memoryKept s.dev d ∧
      ((∀ r ∈ s.dev.reqs, r.issued = true) → d = { s.dev with traffic := d.traffic } ∧
        ∀ k i, k < 4 → (k = q.val ∨ s.dev.brgState q.val k = 2) → i < 5 →
          NMap.get (NMap.get d.traffic k Traffic.init).level (5 * q.val + i) 0 = s.dev.stackLevel (5 * q.val + i))) ∧
    (∃ d, Sys2Proof.Machine.exec (.issueSlotWindow q) s = .next { s with dev := d } ∧ Safety.memoryKept s.dev d ∧
      ((∀ r ∈ s.dev.reqs, r.issued = true) → d = { s.dev with traffic := d.traffic } ∧
        NMap.get d.traffic q.val Traffic.init = { NMap.get s.dev.traffic q.val Traffic.init with used := [] })) ∧
    (∃ d, Sys2Proof.Machine.exec (.meterWindowRestart q) s = .next { s with dev := d } ∧ d = { s.dev with traffic := d.traffic } ∧
      NMap.get d.traffic q.val Traffic.init = { NMap.get s.dev.traffic q.val Traffic.init with bytes := [] } ∧
      ∀ k, k ≠ q.val → NMap.get d.traffic k Traffic.init = NMap.get s.dev.traffic k Traffic.init) ∧
    (∀ rq r, s.dev.req rq = some r → r.budget = 0 → r.late = false → s.dev.parked r = false →
      ∃ d, Sys2Proof.Machine.exec (.budgetExpire rq) s = .next { s with dev := d } ∧ Safety.memoryKept s.dev d ∧
        d = (s.dev.modReq rq (fun r => { r with late := true })).pumpReq r))

/-- DOORBELL_WRITE, IMP_QPART_WRITE and IMP_CMAP_WRITE (R181, R357, R364): a doorbell within the ring sets WP, one past it is discarded
with OVERRUN raised and ERR 7; QPART takes a partition of its channel while the queue is OFF and is refused with ERR 6 or 5
otherwise; CMAP takes one for a core that no queue is bound to, else ILL.

ENABLE and ENABLE_RESTORE (R183, R194, R369): of a queue that is OFF, refused with the code of R183 and nothing bound where a check
fails; else the queue runs, ERR is 0, and every core of its target set has a slot bound to it, with head tokens 0, or with those
of the save area. While the page's QREQ is 1 the queue is then held at once. -/
def Obligations.QueuesConfiguredAndEnabled : Prop :=
  (
  ∀ (via : Via) (x : Die) (val : Word) (s : State), s.dev.writable via (pImp x.val) = true →
    (∀ k : QId, k.die = x →
      ∃ d, Sys2Proof.Machine.exec (.doorbellWrite via k val) s = .next { s with dev := d } ∧
        ((val.toNat + 2 ^ 32 - s.dev.qRp x.val k.q.val) % 2 ^ 32 ≤ s.dev.qSize x.val k.q.val →
          d.qWp x.val k.q.val = val.toNat ∧ d = { s.dev with regs := d.regs } ∧
          Safety.wordsKept s.dev d [(.imp x, 0x200 + 4 * k.q.val, 0)]) ∧
        (s.dev.qSize x.val k.q.val < (val.toNat + 2 ^ 32 - s.dev.qRp x.val k.q.val) % 2 ^ 32 →
          d.qWp x.val k.q.val = s.dev.qWp x.val k.q.val ∧ d.get (.imp x) fIMP_QSTAT_ERR k.q.val = 7 ∧
          (d.get (.imp x) fERR_STAT_SRC 0).testBit 3 = true ∧ d = { s.dev with regs := d.regs, evq := d.evq } ∧
          Safety.wordsKept s.dev d [(.imp x, 0x12C, k.q.val), (.imp x, 0x020, 0), (.imp x, 0x030, 0)])) ∧
    (∀ q, s.dev.get (.imp x) fIMP_QSEL_Q 0 = q →
      ∃ d, Sys2Proof.Machine.exec (.impQpartWrite via x val) s = .next { s with dev := d } ∧ d = { s.dev with regs := d.regs } ∧
        Safety.wordsKept s.dev d [(.imp x, 0x130, q), (.imp x, 0x12C, q)] ∧
        (s.dev.qState x.val q = 0 → val.toNat % 64 < s.dev.nPart →
          d.qPart x.val q = val.toNat % 64 ∧ d.word (.imp x) 0x12C q = s.dev.word (.imp x) 0x12C q) ∧
        (s.dev.qState x.val q ≠ 0 → d.qPart x.val q = s.dev.qPart x.val q ∧ d.get (.imp x) fIMP_QSTAT_ERR q = 6) ∧
        (s.dev.qState x.val q = 0 → s.dev.nPart ≤ val.toNat % 64 →
          d.qPart x.val q = s.dev.qPart x.val q ∧ d.get (.imp x) fIMP_QSTAT_ERR q = 5)) ∧
    (∀ (r : Fin 24) (c : Fin 25), s.dev.get (.imp x) fIMP_CMAP_IDX_IDX 0 = 32 * r.val + c.val →
      ∃ d, Sys2Proof.Machine.exec (.impCmapWrite via x val) s = .next { s with dev := d } ∧ d = { s.dev with regs := d.regs } ∧
        Safety.wordsKept s.dev d [(.imp x, 0x138, 32 * r.val + c.val)] ∧
        (val.toNat % 64 < s.dev.nPart → (∀ sl, sl < 8 → (s.dev.core ⟨x, r, c⟩).bind sl = none) →
          d.get (.imp x) fIMP_CMAP_PART (32 * r.val + c.val) = val.toNat % 64) ∧
        ((s.dev.nPart ≤ val.toNat % 64 ∨ ∃ sl, sl < 8 ∧ (s.dev.core ⟨x, r, c⟩).bind sl ≠ none) →
          d.on (.imp x) fIMP_CMAP_ILL (32 * r.val + c.val) = true ∧
          d.get (.imp x) fIMP_CMAP_PART (32 * r.val + c.val) = s.dev.get (.imp x) fIMP_CMAP_PART (32 * r.val + c.val)))) ∧
  (
  ∀ (via : Via) (x : Die) (q : Nat) (s : State), s.dev.writable via (pImp x.val) = true →
    s.dev.get (.imp x) fIMP_QSEL_Q 0 = q → s.dev.qState x.val q = 0 →
    (s.dev.enableErr x.val q ≠ 0 →
      ∃ d, Sys2Proof.Machine.exec (.enable via x) s = .next { s with dev := d } ∧ d = { s.dev with regs := d.regs } ∧
        Safety.wordsKept s.dev d [(.imp x, 0x12C, q)] ∧ d.qState x.val q = 0 ∧
        d.get (.imp x) fIMP_QSTAT_ERR q = s.dev.enableErr x.val q) ∧
    (s.dev.enableErr x.val q = 0 →
      (∃ d, Sys2Proof.Machine.exec (.enable via x) s =
          .next { s with dev := if s.dev.on (pImp x.val) fBLK_CTL_QREQ 0 then d.holdQueue x.val q true else d } ∧
        d = { s.dev with regs := d.regs, cores := d.cores } ∧
        Safety.wordsKept s.dev d [(.imp x, 0x12C, q)] ∧ d.qState x.val q = 1 ∧ d.get (.imp x) fIMP_QSTAT_ERR q = 0 ∧
        (∀ c ∈ s.dev.targetCores x.val q, ∃ sl, sl < 8 ∧ (d.core c).bind sl =
          some ⟨q, s.dev.qTag x.val q, s.dev.qPrio x.val q, [0, 0, 0, 0], 0⟩) ∧
        (∀ c, c ∉ s.dev.targetCores x.val q → d.core c = s.dev.core c)) ∧
      (∀ host ans b, s.dev.restoreBytes x.val q host ans = some b → fieldLE b 0 4 = (s.dev.targetSet x.val q).length →
        fieldLE b 4 2 = s.dev.qTag x.val q →
        ∃ d, Sys2Proof.Machine.exec (.enableRestore via x host ans) s =
            .next { s with dev := if s.dev.on (pImp x.val) fBLK_CTL_QREQ 0 then d.holdQueue x.val q true else d } ∧
          d = { s.dev with regs := d.regs, cores := d.cores } ∧ Safety.wordsKept s.dev d [(.imp x, 0x12C, q)] ∧
          d.qState x.val q = 1 ∧ d.get (.imp x) fIMP_QSTAT_ERR q = 0 ∧
          (∀ c, c ∉ s.dev.targetCores x.val q → d.core c = s.dev.core c) ∧
          ((s.dev.targetCores x.val q).Nodup → ∀ i c, (s.dev.targetCores x.val q)[i]? = some c →
            ∃ sl, sl < 8 ∧ (d.core c).bind sl = some ⟨q, s.dev.qTag x.val q, s.dev.qPrio x.val q,
              (List.range 4).map (fun j => fieldLE b (8 + 4 * i + j) 1), 0⟩))))

/-- HOLD, HOLD_URGENT and UNHOLD (R191, R192, R194): HOLD of a running queue withdraws its runs that have not begun, and the
queue is HELD if none has begun and not ended, else HOLDING. An urgent one also withdraws begun runs, the last before RP first,
up to one that has made an outbound write; that one, those before it and every ended run stay. UNHOLD of a HOLDING or HELD queue
runs it again, or holds it again while the page's QREQ is 1 (R369).  DISABLE, DISABLE_URGENT, PREEMPT, PREEMPT_URGENT and
SAVE_AREA_DONE (R193, R194, R289). Of a queue that is HELD, DISABLE releases every slot and switches it off with SAVED 0, and
PREEMPT writes its save area in the state SAVING; of one with begun runs, either waits in HOLDING, its runs that have not begun
withdrawn, an urgent one as HOLD_URGENT withdraws more. Once the save area is written, the slots are released and the queue is
off, SAVED. At OFF the balance of the die's job slots is tested, and LEDGER raised where it fails (R289). -/
def Obligations.QueuesHeldAndEnded : Prop :=
  (
  ∀ (via : Via) (x : Die) (q : Nat) (s : State), s.dev.writable via (pImp x.val) = true →
    s.dev.get (.imp x) fIMP_QSEL_Q 0 = q →
    (s.dev.qState x.val q = 1 → (s.dev.queue (queueKey x.val q)).after = 0 →
      (∃ d, Sys2Proof.Machine.exec (.hold via x) s = .next { s with dev := d } ∧
        d.qState x.val q = (if s.dev.qBegun x.val q = 0 then 3 else 2) ∧ d.get (.imp x) fIMP_QSTAT_ERR q = 0 ∧
        (d.queue (queueKey x.val q)).runs =
          (s.dev.queue (queueKey x.val q)).runs.filter (fun r => r.stage == .begun || r.stage == .ended) ∧
        d = { s.dev with regs := d.regs, cores := d.cores, queues := d.queues, reqs := d.reqs } ∧
        Safety.wordsKept s.dev d [(.imp x, 0x12C, q)]) ∧
      (∃ d, Sys2Proof.Machine.exec (.holdUrgent via x) s = .next { s with dev := d } ∧
        d.qState x.val q = (if d.qBegun x.val q = 0 then 3 else 2) ∧ d.get (.imp x) fIMP_QSTAT_ERR q = 0 ∧
        (∀ r ∈ (d.queue (queueKey x.val q)).runs, r ∈ (s.dev.queue (queueKey x.val q)).runs ∧ (r.stage = .begun ∨ r.stage = .ended)) ∧
        (((s.dev.queue (queueKey x.val q)).runs.map (fun r => r.pos)).Nodup → (s.dev.queue (queueKey x.val q)).runs.length ≤ 1024 →
          (∀ r ∈ (s.dev.queue (queueKey x.val q)).runs, r.stage = .begun → r.core ≠ none) →
          (∀ r ∈ (s.dev.queue (queueKey x.val q)).runs, (r.stage = .ended ∨ r.stage = .begun ∧ r.outbound = true) →
            r ∈ (d.queue (queueKey x.val q)).runs) ∧
          ∀ r ∈ (d.queue (queueKey x.val q)).runs, r.pos = (d.qRp x.val q + 2 ^ 32 - 1) % 2 ^ 32 → r.stage = .begun →
            r.outbound = true) ∧
        d = { s.dev with regs := d.regs, cores := d.cores, queues := d.queues, reqs := d.reqs } ∧
        Safety.wordsKept s.dev d [(.imp x, 0x12C, q), (.imp x, 0x124, q)])) ∧
    ((s.dev.qState x.val q = 2 ∨ s.dev.qState x.val q = 3) →
      ∃ d, Sys2Proof.Machine.exec (.unhold via x) s =
          .next { s with dev := if s.dev.on (pImp x.val) fBLK_CTL_QREQ 0 then d.holdQueue x.val q true else d } ∧ d.qState x.val q = 1 ∧
        d.get (.imp x) fIMP_QSTAT_ERR q = 0 ∧ (d.queue (queueKey x.val q)).after = 0 ∧
        (d.queue (queueKey x.val q)).runs = (s.dev.queue (queueKey x.val q)).runs ∧
        d = { s.dev with regs := d.regs, queues := d.queues } ∧ Safety.wordsKept s.dev d [(.imp x, 0x12C, q)])) ∧
  (
  ∀ (via : Via) (x : Die) (q : Nat) (s : State) (urgent : Bool), s.dev.writable via (pImp x.val) = true →
    s.dev.get (.imp x) fIMP_QSEL_Q 0 = q →
    (s.dev.qState x.val q = 3 →
      (∃ d, Sys2Proof.Machine.exec (if urgent then .disableUrgent via x else .disable via x) s = .next { s with dev := d.ledger x.val } ∧
        d.qState x.val q = 0 ∧ d.get (.imp x) fIMP_QSTAT_SAVED q = 0 ∧ d.get (.imp x) fIMP_QSTAT_ERR q = 0 ∧
        (∀ c, c.die = x → d.slotOf c q = none) ∧
        d = { s.dev with regs := d.regs, cores := d.cores, queues := d.queues } ∧ Safety.wordsKept s.dev d [(.imp x, 0x12C, q)]) ∧
      (∃ d, Sys2Proof.Machine.exec (if urgent then .preemptUrgent via x else .preempt via x) s = .next { s with dev := d } ∧
        Safety.memoryKept s.dev d ∧
        ∃ e, e.qState x.val q = 4 ∧ e.get (.imp x) fIMP_QSTAT_ERR q = 0 ∧
          e = { s.dev with regs := e.regs, queues := e.queues } ∧ Safety.wordsKept s.dev e [(.imp x, 0x12C, q)] ∧
          d = e.issueAll ((lineParts (s.dev.qBase x.val q 0x118) (s.dev.saveArea x.val q) ((s.dev.saveArea x.val q).length + 1)).map
            (fun l => { Req.blank with cli := .save x.val q, op := .wr, addr := l.1, mask := l.2.1, data := l.2.2,
                                       part := s.dev.qPart x.val q, quad := x.val / 2, tc := 0, scope := 3 })))) ∧
    ((s.dev.qState x.val q = 1 ∨ s.dev.qState x.val q = 2) → s.dev.qBegun x.val q ≠ 0 →
      (∃ d, Sys2Proof.Machine.exec (.disable via x) s = .next { s with dev := d } ∧ d.qState x.val q = 2 ∧
        (d.queue (queueKey x.val q)).after = 2 ∧ (∀ r ∈ (d.queue (queueKey x.val q)).runs, r.stage = .begun ∨ r.stage = .ended) ∧
        d = { s.dev with regs := d.regs, cores := d.cores, queues := d.queues, reqs := d.reqs } ∧
        Safety.wordsKept s.dev d [(.imp x, 0x12C, q)]) ∧
      (∃ d, Sys2Proof.Machine.exec (.preempt via x) s = .next { s with dev := d } ∧ d.qState x.val q = 2 ∧
        (d.queue (queueKey x.val q)).after = 1 ∧ (∀ r ∈ (d.queue (queueKey x.val q)).runs, r.stage = .begun ∨ r.stage = .ended) ∧
        d = { s.dev with regs := d.regs, cores := d.cores, queues := d.queues, reqs := d.reqs } ∧
        Safety.wordsKept s.dev d [(.imp x, 0x12C, q)])) ∧
    ((s.dev.qState x.val q = 1 ∨ s.dev.qState x.val q = 2) →
      ∃ d e : Dev, Sys2Proof.Machine.exec (.disableUrgent via x) s = .next { s with dev := d.holdQueue x.val q true } ∧
        Sys2Proof.Machine.exec (.preemptUrgent via x) s = .next { s with dev := e.holdQueue x.val q true } ∧
        d.get (.imp x) fIMP_QSTAT_ERR q = 0 ∧ (d.queue (queueKey x.val q)) = { s.dev.queue (queueKey x.val q) with after := 2 } ∧
        d = { s.dev with regs := d.regs, queues := d.queues } ∧ Safety.wordsKept s.dev d [(.imp x, 0x12C, q)] ∧
        e.regs = d.regs ∧ (e.queue (queueKey x.val q)) = { s.dev.queue (queueKey x.val q) with after := 1 } ∧
        e = { d with queues := e.queues }) ∧
    (∀ k : QId, s.dev.qState k.die.val k.q.val = 4 → (∀ r ∈ s.dev.reqs, r.cli ≠ .save k.die.val k.q.val) →
      ∃ d, Sys2Proof.Machine.exec (.saveAreaDone k) s = .next { s with dev := d.ledger k.die.val } ∧ d.qState k.die.val k.q.val = 0 ∧
        d.get (.imp k.die) fIMP_QSTAT_SAVED k.q.val = 1 ∧ (∀ c, c.die = k.die → d.slotOf c k.q.val = none) ∧
        d = { s.dev with regs := d.regs, cores := d.cores, queues := d.queues } ∧
        Safety.wordsKept s.dev d [(.imp k.die, 0x12C, k.q.val)]))

/-- RUN_FETCH, RUN_IMAGE_ARRIVAL and RUN_BIND (R61, R185, R186). The queue chosen for fetching, where no run of its Imposer
still waits for room in the run buffer, has its next position's run fetched, and asks for its ring entry. When every line asked
for is there: bytes with an error or poison end the run with FETCH, and a ring entry out of range or off its 64-byte grid with
QENTRY; a good one has the header asked for; a header has the run's entries asked for once the run fits into the buffer, and
waits before; an image that fails a check ends the run with the check's error, one that passes is checked and keeps its
commands. A checked run one of whose slots is free is bound there, its head wait begun, and satisfied at once where it has none.
RUN_BEGIN and COMMAND_PLACE (R51, R187, R188). The first run in the order of R51, where tokens and Stone are free, begins: it
holds the lowest free tokens and its buffers, RP and the count of begun runs go on by one; then what retires does. A corrected
error met as its buffers are cleared is recorded (R54). A begun run's next command for a station enters its queue of 64 entries
while the slot has an entry of its own there, or a shared one is free. -/
def Obligations.RunsFetchedAndBegun : Prop :=
  (
  ∀ (k : QId) (s : State) (x q : Nat), x = k.die.val → q = k.q.val →
    (s.dev.fetchPick x = some q → s.dev.fetchWaits x = false → s.dev.inReset (pImp x) = false →
      ∃ d e : Dev, Sys2Proof.Machine.exec (.runFetch k) s = .next { s with dev := e } ∧
        e = d.fetchBytes x q (s.dev.nextFetch x q) (s.dev.qBase x q 0x108 + 8 * (s.dev.nextFetch x q % s.dev.qSize x q)) 8 ∧
        d = { s.dev with queues := d.queues } ∧
        (d.queue (queueKey x q)).runs = (s.dev.queue (queueKey x q)).runs ++ [Run.new (s.dev.nextFetch x q)] ∧
        (d.queue (queueKey x q)).served = true ∧ ∀ j, j ≠ queueKey x q → (d.queue j).runs = (s.dev.queue j).runs) ∧
    (∀ (quad : Quad) (half : Fin 2) r rs bytes (gone : Dev), x = 2 * quad.val + half.val →
      (s.dev.queue (queueKey x q)).runs.find? (fun r => r.stage == .fetching &&
        !(s.dev.fetchReqs x q r.pos).isEmpty && (s.dev.fetchReqs x q r.pos).all (fun y => y.ready)) = some r →
      s.dev.inReset (pImp x) = false → s.dev.fetchReqs x q r.pos = rs → Dev.fetched rs = bytes →
      gone = { s.dev with reqs := s.dev.reqs.filter (fun y => !decide (y.cli = .fetch x q r.pos)) } →
      ∃ d e : Dev, Sys2Proof.Machine.exec (.runImageArrival quad half k.q) s = .next { s with dev := d } ∧ Safety.memoryKept s.dev d ∧
        d = e.retireAll x q ∧
        ((∃ y ∈ rs, y.resErr = true ∨ y.resPsn = true) → e = (gone.raise (pImp x) 0 q).fetchEnd x q r.pos 0x40 0xFFFF r.img []) ∧
        ((∀ y ∈ rs, y.resErr = false ∧ y.resPsn = false) →
          (r.phase = 1 → 131072 < s.dev.bufUsed x + imageBytes bytes → e = s.dev) ∧
          (r.phase = 0 →
            ((2 ^ 48 ≤ fieldLE bytes 0 8 ∨ fieldLE bytes 0 8 % 64 ≠ 0) →
              e = (gone.raise (pImp x) 1 q).fetchEnd x q r.pos 0x41 0xFFFF [] []) ∧
            (fieldLE bytes 0 8 < 2 ^ 48 → fieldLE bytes 0 8 % 64 = 0 →
              ∃ f : Dev, e = f.fetchBytes x q r.pos (fieldLE bytes 0 8) 64 ∧ f = { gone with queues := f.queues } ∧
                ∃ z ∈ (f.queue (queueKey x q)).runs, z.pos = r.pos ∧ z.phase = 1 ∧ z.hdrAddr = fieldLE bytes 0 8)) ∧
          (r.phase = 1 → s.dev.bufUsed x + imageBytes bytes ≤ 131072 → 1 ≤ hNent bytes → hNent bytes ≤ 256 →
            ∃ f : Dev, e = f.fetchBytes x q r.pos (r.hdrAddr + 64) (32 * hNent bytes) ∧ f = { gone with queues := f.queues } ∧
              ∃ z ∈ (f.queue (queueKey x q)).runs, z.pos = r.pos ∧ z.phase = 2 ∧ z.img = bytes) ∧
          (∀ img, (r.phase = 1 ∧ s.dev.bufUsed x + imageBytes bytes ≤ 131072 ∧ (hNent bytes = 0 ∨ 256 < hNent bytes) ∧ img = bytes ∨
                r.phase = 2 ∧ img = r.img ++ bytes) →
            (checkRun img (s.dev.targetSet x q) (s.dev.quadsOf (s.dev.chanOf (x / 2))) = none →
              e = gone.fetchEnd x q r.pos 0 0xFFFF img (cmdsOf img)) ∧
            (∀ code ent, checkRun img (s.dev.targetSet x q) (s.dev.quadsOf (s.dev.chanOf (x / 2))) = some (code, ent) →
              e = gone.fetchEnd x q r.pos code ent img [])))) ∧
    (∀ (d : Dev) pos code ent img cmds, (∃ r ∈ (d.queue (queueKey x q)).runs, r.pos = pos) →
      ∃ e, d.fetchEnd x q pos code ent img cmds = e ∧ e = { d with queues := e.queues } ∧
        ∃ z ∈ (e.queue (queueKey x q)).runs, z.pos = pos ∧ z.stage = (if code = 0 then .checked else .retiring) ∧ z.err = code ∧
          z.ent = ent ∧ z.img = img ∧ z.toPlace = cmds ∧ z.checkedAt = d.now (pressClk x)) ∧
    (∀ pos c sl, ((s.dev.queue (queueKey x q)).runs.filter (fun r => r.stage == .checked)).findSome?
        (fun r => (s.dev.bindAt x q r).map (fun e => (r.pos, e))) = some (pos, c, sl) →
      ∃ d, Sys2Proof.Machine.exec (.runBind k) s = .next { s with dev := d } ∧
        d = { s.dev with queues := d.queues, useCtr := d.useCtr } ∧
        ∃ r ∈ (d.queue (queueKey x q)).runs, r.pos = pos ∧ r.core = some c ∧ r.slot = sl ∧
          r.waitStart = s.dev.now (pressClk x) ∧ (r.stage = .waiting ∨ r.stage = .ready) ∧
          (hWaitKind r.img = 0 → c.die = k.die → r.stage = .ready))) ∧
  (
  ∀ (c : CoreId) (s : State),
    (∀ ecc sl l o r b bufs, firstBegin (s.dev.beginners c) = some (sl, l, o) → s.dev.runAt c sl = some r →
      (s.dev.core c).bind sl = some b → hNtok r.img ≤ (s.dev.freeToks c).length →
      placeBufs ((List.range 16).map (hBufSz r.img)) (s.dev.usedGrans c) = some bufs →
      ∃ d e : Dev, Sys2Proof.Machine.exec (.runBegin c ecc) s = .next { s with dev := d } ∧ Safety.memoryKept s.dev d ∧
        d = e.retireAll c.die.val b.q ∧ e.qRp c.die.val b.q = (s.dev.qRp c.die.val b.q + 1) % 2 ^ 32 ∧
        e.qBegun c.die.val b.q = (s.dev.qBegun c.die.val b.q + 1) % 2 ^ 10 ∧
        ∃ r' : Run, e.runAt c sl = some r' ∧ r'.img = r.img ∧ r'.tokMap = (s.dev.freeToks c).take (hNtok r.img) ∧ r'.bufAt = bufs ∧
          r'.stage = (if nCmds r.img = 0 then .ended else .begun) ∧
          (∀ g, ecc = .corrected g → s.dev.inReset (.core c) = false → (e.get (.core c) fERR_STAT_SRC 0).testBit 3 = true)) ∧
    (∀ (sl : Slot) (stn : Stn) r n rest, s.dev.runAt c sl.val = some r → r.stage = .begun → r.toPlace.getD stn.val [] = n :: rest →
      ((((s.dev.core c).station stn.val).queue.filter (fun e => e.1 == sl.val)).length < 4 ∧
          ((s.dev.core c).station stn.val).queue.length < 64 ∨
        (List.range 8).foldl (fun a i => a + ((((s.dev.core c).station stn.val).queue.filter (fun e => e.1 == i)).length - 4)) 0 <
          64 - 4 * ((s.dev.coreRuns c).filter (fun e => e.2.stage == .begun)).length) →
      ∃ d, Sys2Proof.Machine.exec (.commandPlace c sl stn) s = .next { s with dev := d } ∧
        d = { s.dev with cores := d.cores, queues := d.queues } ∧
        ((d.core c).station stn.val).queue = ((s.dev.core c).station stn.val).queue ++ [(sl.val, n)] ∧
        d.runAt c sl.val = some { r with toPlace := r.toPlace.set stn.val rest }))

/-- RUN_END (R63, R72, R75, R157, R198): an ended run whose writes are performed, a colophon write once its destination has
accepted it, and whose signals have been taken or refused, gives back its tokens, leaves its queue, and its journal entry is
written with its status and its error, 0x23 where it has none and a token of its is not 0; then the count of begun runs falls
and the queue is HELD if it was to be.  FLAG_POLL_DUE, FLAG_POLL_REPLY and HEAD_WAIT_TIMEOUT (R77): a poll that is due issues a
flag read, unless one is outstanding, and the next is due an interval later; its reply satisfies the wait if the comparison
holds and the limit has not passed, or ends the run with ADDR or POISON; a wait still unsatisfied after its limit ends the run
with HEADTMO, not started. -/
def Obligations.RunsWaitAndEnd : Prop :=
  (
  ∀ (c : CoreId) (sl : Slot) (s : State) (r : Run) (b : Bind), s.dev.runAt c sl.val = some r → (s.dev.core c).bind sl.val = some b →
    r.stage = .ended → s.dev.runDone c sl.val = true →
    ∃ (d e : Dev) (err : Nat), Sys2Proof.Machine.exec (.runEnd c sl) s = .next { s with dev := d } ∧ Safety.memoryKept s.dev d ∧
      err = (if r.err = 0 ∧ r.tokMap.any (fun t => (s.dev.core c).tok t != 0) = true then 0x23 else r.err) ∧
      e = { s.dev with cores := e.cores, queues := e.queues, reqs := e.reqs } ∧ (∀ t ∈ r.tokMap, (e.core c).tok t = 0) ∧
      (e.queue (queueKey c.die.val b.q)).runs = (s.dev.queue (queueKey c.die.val b.q)).runs.filter (fun y => y.pos != r.pos) ∧
      ∃ w, w = e.writeJournal c.die.val b.q { r with err := err } (r.status err) (s.dev.gen (.core c))
          (NMap.get (s.dev.core c).sticky sl.val Sticky.init).xflag (NMap.get (s.dev.core c).sticky sl.val Sticky.init).chsat ∧
        d = (w.set (pImp c.die.val) fIMP_QSTAT_BEGUN b.q (w.qBegun c.die.val b.q - 1)).testHeld c.die.val b.q) ∧
  (
  ∀ (c : CoreId) (sl : Slot) (s : State) (r : Run), s.dev.runAt c sl.val = some r → r.stage = .waiting →
    (hWaitKind r.img = 2 → r.pollDue ≤ s.dev.now (pressClk c.die.val) →
      ∃ d e : Dev, Sys2Proof.Machine.exec (.flagPollDue c sl) s = .next { s with dev := d } ∧ Safety.memoryKept s.dev d ∧
        e = { s.dev with queues := e.queues } ∧
        e.runAt c sl.val = some { r with pollDue := r.pollDue + 2 ^ hPoll r.img, pollOut := true } ∧
        (r.pollOut = true → d = e) ∧
        (r.pollOut = false → d = e.issue { Req.blank with
          cli := .poll c sl.val, op := .rd, addr := hWaitB r.img,
          mask := byteMask (hWaitB r.img % 128) (if waWide r.img then 8 else 4), part := s.dev.slotPart c sl.val,
          quad := c.die.val / 2, tc := 0, scope := waScope r.img })) ∧
    (∀ q, s.dev.reqs.find? (fun y => decide (y.cli = .poll c sl.val) && y.ready) = some q →
      ∃ d e : Dev, Sys2Proof.Machine.exec (.flagPollReply c sl) s = .next { s with dev := d } ∧ Safety.memoryKept s.dev d ∧
        e = { s.dev with queues := e.queues, reqs := e.reqs } ∧ e.reqs = dropFirst (fun y => y.id == q.id) s.dev.reqs ∧
        e.runAt c sl.val = some { r with pollOut := false } ∧
        (q.resErr = true → d = (e.endRun c sl.val 0x26 7 0xFFFF false).retireSlot c sl.val) ∧
        (q.resErr = false → q.resPsn = true → d = (e.endRun c sl.val 0x22 7 0xFFFF false).retireSlot c sl.val) ∧
        (q.resErr = false → q.resPsn = false → d = { e with queues := d.queues, useCtr := d.useCtr } ∧
          ∃ y, d.runAt c sl.val = some y ∧ y.stage =
            if s.dev.now (pressClk c.die.val) ≤ r.waitStart + waitLimit r.img ∧ flagHolds (waCmp r.img) ((q.res >>> (8 * (q.addr % 128))) % 2 ^ (if waWide r.img then 64 else 32)) (hWaitC r.img)
              = true
            then .ready else .waiting)) ∧
    (r.waitStart + waitLimit r.img < s.dev.now (pressClk c.die.val) →
      ∃ d e : Dev, Sys2Proof.Machine.exec (.headWaitTimeout c sl) s = .next { s with dev := d } ∧ Safety.memoryKept s.dev d ∧
        d = e.retireSlot c sl.val ∧ (s.dev.inReset (.core c) = false → (e.get (.core c) fERR_STAT_SRC 0).testBit 1 = true) ∧
        ∃ y, e.runAt c sl.val = some y ∧ y.stage = .retiring ∧ y.err = 0x21 ∧ y.img = r.img))

/-- LOAD, LOADAUX, ZERO and PREFETCH (R65, R66): the Feeder takes the command, its Stone access is examined (R54), and unless
that ended the run it reads each line of the tile's image, writes zeros to the data region and to nothing else, or sends its
line requests. A line that returns is written to the Stone at its places, or ends the run with ADDR or POISON. -/
def Obligations.FeederCommandsIssue : Prop :=
  ∀ (c : CoreId) (sl : Slot) (ecc : StoneEcc) (s : State) (n : Nat) (r : Run) (x : Img), x = entry r.img n →
    (Safety.mayIssue s.dev c stFdr 1 sl.val n r →
      ∃ d e f : Dev, Sys2Proof.Machine.exec (.load c sl ecc) s = .next { s with dev := d } ∧ Safety.memoryKept s.dev d ∧
        Safety.hasIssued s.dev e c stFdr sl.val n r (bytesCycles (tileAt r.img (eByte x 8)).dataBytes) true ∧
        f = e.stoneEcc c ecc stFdr sl.val n ∧
        d = if f.running c sl.val then f.feed c sl.val n x ecc.arr (imagePieces r (tileAt r.img (eByte x 8)) (eAddr x) (eStride x)) else f) ∧
    (Safety.mayIssue s.dev c stFdr 2 sl.val n r →
      ∃ d e f : Dev, Sys2Proof.Machine.exec (.loadaux c sl ecc) s = .next { s with dev := d } ∧ Safety.memoryKept s.dev d ∧
        Safety.hasIssued s.dev e c stFdr sl.val n r 1 true ∧ f = e.stoneEcc c ecc stFdr sl.val n ∧
        d = if f.running c sl.val then
          f.feed c sl.val n x ecc.arr (auxPieces r (tileAt r.img (eByte x 8)) ((eByte x 0xA).testBit 0) (eAddr x)) else f) ∧
    (Safety.mayIssue s.dev c stFdr 3 sl.val n r →
      ∃ d e f : Dev, Sys2Proof.Machine.exec (.zero c sl ecc) s = .next { s with dev := d } ∧ Safety.memoryKept s.dev d ∧
        Safety.hasIssued s.dev e c stFdr sl.val n r (bytesCycles (tileAt r.img (eByte x 8)).dataBytes) true ∧
        f = e.stoneEcc c ecc stFdr sl.val n ∧ (f.running c sl.val = false → d = f) ∧
        (f.running c sl.val = true → d = { f with cores := d.cores } ∧
          (∀ k, k < (tileAt r.img (eByte x 8)).dataBytes → (d.core c).stoneByte (r.dataAt (tileAt r.img (eByte x 8)) + k) = 0) ∧
          ∀ a, (∀ k, k < (tileAt r.img (eByte x 8)).dataBytes → a ≠ r.dataAt (tileAt r.img (eByte x 8)) + k) →
            (d.core c).stoneByte a = (f.core c).stoneByte a)) ∧
    (Safety.mayIssue s.dev c stFdr 4 sl.val n r →
      ∀ arr, ∃ d e : Dev, Sys2Proof.Machine.exec (.prefetch c sl arr) s = .next { s with dev := d } ∧ Safety.memoryKept s.dev d ∧
        Safety.hasIssued s.dev e c stFdr sl.val n r (eStride x / 128) true ∧
        d = e.issueSeen arr ((List.range (eStride x / 128)).map (fun i =>
          { Req.blank with cli := .prefetch c sl.val n, op := .rd, addr := (eAddr x + 128 * i) % 2 ^ 48, mask := 2 ^ 128 - 1,
                           part := s.dev.slotPart c sl.val, quad := c.die.val / 2, tc := 3 }))) ∧
    (∀ rq q sl' offs, s.dev.req rq = some q → q.cli = .feeder c sl' n offs → q.ready = true →
      ∃ d e : Dev, Sys2Proof.Machine.exec (.feederLineReturn c rq) s = .next { s with dev := d } ∧ Safety.memoryKept s.dev d ∧
        e = { s.dev with reqs := dropFirst (fun y => y.id == rq) s.dev.reqs } ∧
        (q.resErr = true → d = e.endRun c sl' 0x26 stFdr n false) ∧
        (q.resErr = false → q.resPsn = true → d = e.endRun c sl' 0x22 stFdr n false) ∧
        (q.resErr = false → q.resPsn = false → d = { e with cores := d.cores } ∧ (∀ k, k ≠ c → d.core k = s.dev.core k) ∧
          d.core c = offs.foldl (fun k o => k.stoneWrite o.2.1 o.2.2 (q.res >>> (8 * o.1))) (s.dev.core c)))

/-- MMA (R67, R190) and TRANSPOSE, RELAYOUT, CONVERT, REDUCE, SPARSIFY and DENSIFY (R112 to R116): a Platen without onset asks
for it and issues nothing; with it, or a Folder free to issue, takes the command for the press cycles of its shape, and unless
the Stone access ended the run the core holds what the arithmetic gives and the slot's sticky flags gather its exceptions. -/
def Obligations.PlatenAndFolderCommandsIssue : Prop :=
  ∀ (c : CoreId) (sl : Slot) (ecc : StoneEcc) (s : State) (n : Nat) (r : Run) (x : Img), x = entry r.img n →
    (Safety.mayIssue s.dev c stPlt 1 sl.val n r →
      (s.dev.onsetOk c = false →
        ∃ d, Sys2Proof.Machine.exec (.mma c sl ecc) s = .next { s with dev := d } ∧ d = { s.dev with cores := d.cores } ∧
          d.core c = { s.dev.core c with onsetReq := true } ∧ ∀ k, k ≠ c → d.core k = s.dev.core k) ∧
      (s.dev.onsetOk c = true →
        ∃ (d e f : Dev) (t : Nat), Sys2Proof.Machine.exec (.mma c sl ecc) s = .next { s with dev := d } ∧ Safety.memoryKept s.dev d ∧
          t = mmaCycles (tileAt r.img (eByte x 8)) (tileAt r.img (eByte x 9)) ∧
          Safety.hasIssued s.dev e c stPlt sl.val n r t true ∧ f = e.stoneEcc c ecc stPlt sl.val n ∧
          d = if f.running c sl.val then
              (f.setCore c { (mmaCore (f.core c) r x).1 with
                lastMma := some (f.now (pressClk c.die.val) + t), onset := false }).addFlags c sl.val (mmaCore (f.core c) r x).2
                (tileAt r.img (eByte x 0xA)).buf
            else f)) ∧
    (∀ op i, (op, i) ∈ [(1, Instr.transpose c sl ecc), (2, .relayout c sl ecc), (3, .convert c sl ecc), (4, .reduce c sl ecc),
        (5, .sparsify c sl ecc), (6, .densify c sl ecc)] → Safety.mayIssue s.dev c stFld op sl.val n r →
      ∃ d e f : Dev, Sys2Proof.Machine.exec i s = .next { s with dev := d } ∧ Safety.memoryKept s.dev d ∧
        Safety.hasIssued s.dev e c stFld sl.val n r (foldCycles (tileAt r.img (eByte x 8))) true ∧ f = e.stoneEcc c ecc stFld sl.val n ∧
        d = if f.running c sl.val then
            (f.setCore c (foldCore (f.core c) r x).1).addFlags c sl.val (foldCore (f.core c) r x).2 (tileAt r.img (eByte x 9)).buf
          else f)

/-- STORE, STOREAUX, FLAG and SIGNAL (R70, R72, R146, R157): the Delivery takes the command; one that releases holds its writes
back, any other drops the lines it writes from the core's data cache and sends its writes. A signal that arrives raises the head
token of its target's slot, saturating at 255 with TOKOVF, and tests the wait on it; where no target takes it the run that sent
it ends with SIGREF while its journal entry is not written, and SIGREF alone is raised after.  COMMAND_COMPLETE,
ARB_AGE_PROMOTE, STATION_WATCHDOG_EXPIRE and ONSET_GRANT (R66, R73, R81, R157, R189, R190): a command whose cycles have passed,
whose line reads have returned, whose prefetches have issued and whose writes have left the core, completes: the station is free
and DONE counts it; a releasing Delivery command sends its writes once its release set is performed, and waits before; a LAUNCH
completes once its blocks have all ended. A level-3 slot that has waited 2^20 cycles is promoted; a watchdog that has run out
ends the run; at a pace interval the next row that asks is granted onset, and it alone. -/
def Obligations.DeliveryIssuesAndStationsComplete : Prop :=
  (
  ∀ (c : CoreId) (sl : Slot) (ecc : StoneEcc) (arr : ArrayEcc) (s : State),
    (∀ op i y n r x, (op, i, y) ∈ [(1, Instr.store c sl ecc, ecc), (2, .storeaux c sl ecc, ecc), (3, .flag c sl arr, .array arr),
        (4, .signal c sl, .clean)] → x = entry r.img n → Safety.mayIssue s.dev c stDlv op sl.val n r →
      ∃ d e f : Dev, Sys2Proof.Machine.exec i s = .next { s with dev := d } ∧ Safety.memoryKept s.dev d ∧
        Safety.hasIssued s.dev e c stDlv sl.val n r (if op = 1 then bytesCycles (tileAt r.img (eByte x 8)).dataBytes else 1)
          (!eHolds x) ∧ f = e.stoneEcc c y stDlv sl.val n ∧
        d = if f.running c sl.val && !eHolds x then
            (f.dcacheDrop c ((f.dlvReqs c sl.val n r x).flatMap Req.linesOf)).issueSeen y.arr (f.dlvReqs c sl.val n r x)
          else f) ∧
    (∀ k g, s.dev.signals[k]? = some g →
      ∃ d, Sys2Proof.Machine.exec (.signalArrival k) s = .next { s with dev := d } ∧ Safety.memoryKept s.dev d ∧
        d.signals = s.dev.signals.eraseIdx k ∧
        (∀ t tl b, s.dev.signalTarget g = some (t, tl) → (s.dev.core t).bind tl = some b → g.htok < b.htok.length →
          d.headTok t tl g.htok = min (s.dev.headTok t tl g.htok + g.inc) 255 ∧
          (255 < s.dev.headTok t tl g.htok + g.inc → s.dev.inReset (.core t) = false →
            (d.get (.core t) fERR_STAT_SRC 0).testBit 5 = true)) ∧
        (s.dev.signalTarget g = none → s.dev.runIs g.src g.slot g.pos = true →
          d = ({ s.dev with signals := d.signals }).endRun g.src g.slot 0x25 stDlv g.ent true) ∧
        (s.dev.signalTarget g = none → s.dev.runIs g.src g.slot g.pos = false →
          d = ({ s.dev with signals := d.signals }).raise (.core g.src) 6 (g.slot * 256)))) ∧
  (
  ∀ (c : CoreId) (stn : Stn) (sl : Slot) (s : State),
    (∀ x, ((s.dev.core c).station stn.val).exec = some x → x.slot = sl.val → x.until_ ≤ s.dev.now (pressClk c.die.val) →
      (stn.val = stPlt ∨ stn.val = stFld ∨ stn.val = stFdr ∧ (∀ r ∈ s.dev.reqs, (∀ offs, r.cli ≠ .feeder c sl.val x.ent offs) ∧
          (r.cli = .prefetch c sl.val x.ent → r.issued = true)) ∨
        stn.val = stDlv ∧ (s.dev.runAt c sl.val).isSome = true ∧ x.sending = true ∧ s.dev.dlvSent c sl.val x.ent = true) →
      ∃ d, Sys2Proof.Machine.exec (.commandComplete c stn sl) s = .next { s with dev := d } ∧ Safety.memoryKept s.dev d ∧
        d = (s.dev.freeStation c stn.val).completed c stn.val sl.val x.ent ∧ ((d.core c).station stn.val).exec = none ∧
        d.get (.core c) (fSTN_DONE_COUNT.at stn.val) 0 = (s.dev.get (.core c) (fSTN_DONE_COUNT.at stn.val) 0 + 1) % 2 ^ 32) ∧
    (∀ x r, stn.val = stDlv → ((s.dev.core c).station stDlv).exec = some x → x.slot = sl.val →
      x.until_ ≤ s.dev.now (pressClk c.die.val) → x.sending = false → s.dev.runAt c sl.val = some r →
      (s.dev.relDone c sl.val (entry r.img x.ent) = false → Sys2Proof.Machine.exec (.commandComplete c stn sl) s = .next s) ∧
      (s.dev.relDone c sl.val (entry r.img x.ent) = true →
        ∃ d e f : Dev, Sys2Proof.Machine.exec (.commandComplete c stn sl) s = .next { s with dev := d } ∧ Safety.memoryKept s.dev d ∧
          e = { s.dev with cores := e.cores } ∧ ((e.core c).station stDlv).exec = some { x with sending := true } ∧
          f = (e.dcacheDrop c ((e.dlvReqs c sl.val x.ent r (entry r.img x.ent)).flatMap Req.linesOf)).issueSeen .clean
            (e.dlvReqs c sl.val x.ent r (entry r.img x.ent)) ∧
          (f.dlvSent c sl.val x.ent = false → d = f) ∧
          (f.dlvSent c sl.val x.ent = true → ((f.core c).station stDlv).exec ≠ none →
            d = (f.freeStation c stDlv).completed c stDlv sl.val x.ent))) ∧
    (∀ l r, stn.val = stInk → (s.dev.core c).inker.launches.find? (fun l => l.slot == sl.val) = some l → s.dev.runAt c sl.val = some r →
      l.hdr.isSome = true → l.ended = eByte (entry r.img l.ent) 0xD →
      ∃ d, Sys2Proof.Machine.exec (.commandComplete c stn sl) s = .next { s with dev := d } ∧ Safety.memoryKept s.dev d ∧
        (∀ y ∈ (d.core c).inker.launches, y.slot ≠ sl.val) ∧
        d.get (.core c) (fSTN_DONE_COUNT.at stInk) 0 = (s.dev.get (.core c) (fSTN_DONE_COUNT.at stInk) 0 + 1) % 2 ^ 32) ∧
    (∀ b, (s.dev.core c).bind sl.val = some b → b.prio = 3 → 2 ^ 20 ≤ ((s.dev.core c).station stn.val).age.getD sl.val 0 →
      ((s.dev.core c).station stn.val).promo.length = 8 →
      ∃ d, Sys2Proof.Machine.exec (.arbAgePromote c stn sl) s = .next { s with dev := d } ∧ d = { s.dev with cores := d.cores } ∧
        d.effLevel c stn.val sl.val = 2 ∧ ∀ k, k ≠ c → d.core k = s.dev.core k) ∧
    (∀ r n, s.dev.runAt c sl.val = some r → r.stage = .begun → s.dev.currentEnt c stn.val sl.val = some n →
      2 ^ s.dev.wdogExp c r ≤ ((s.dev.core c).station stn.val).wdog.getD sl.val 0 →
      ∃ d, Sys2Proof.Machine.exec (.stationWatchdogExpire c stn sl) s = .next { s with dev := d } ∧ Safety.memoryKept s.dev d ∧
        (s.dev.inReset (.core c) = false → (d.get (.core c) fERR_STAT_SRC 0).testBit 0 = true) ∧
        ∃ y, d.runAt c sl.val = some y ∧ y.stage = .ended ∧ y.err = 0x20 ∧ y.ent = n) ∧
    (∀ (x : Die) row rest, ((List.range 24).map (fun i => ((NMap.get s.dev.onset x.val (23, 0)).1 + 1 + i) % 24)).filter
        (fun r => !(s.dev.onsetRow x.val r).isEmpty) = row :: rest →
      (NMap.get s.dev.onset x.val (23, 0)).2 ≤ s.dev.now (pressClk x.val) → s.dev.inReset (pImp x.val) = false →
      ∃ d, Sys2Proof.Machine.exec (.onsetGrant x) s = .next { s with dev := d } ∧ d = { s.dev with cores := d.cores, onset := d.onset } ∧
        NMap.get d.onset x.val (23, 0) = (row, s.dev.now (pressClk x.val) + s.dev.pace) ∧
        (∀ y ∈ s.dev.onsetRow x.val row, d.core y = { s.dev.core y with onsetReq := false, onset := true }) ∧
        ∀ y, y ∉ s.dev.onsetRow x.val row → d.core y = s.dev.core y))

/-- LAUNCH, KERNEL_HEADER_ARRIVAL, BLOCK_ADMIT and BLOCK_END (R68, R120 to R122, R131, R132): an eligible LAUNCH whose slot has
none leaves its queue, empties the instruction cache and asks for its header; a legal header is taken, a bad one ends the run;
the next block of the LAUNCH whose turn it is enters where it fits, each group with registers unwritten at the first
instruction, and the LAUNCH keeps its turn where it does not; a block whose paths have all ended frees its groups and counts as
ended, and its stores in flight go on. -/
def Obligations.LaunchesAdmitAndEndBlocks : Prop :=
  ∀ (c : CoreId) (sl : Slot) (s : State) (r : Run), s.dev.runAt c sl.val = some r →
    (∀ n, ((s.dev.core c).station stInk).nextOf sl.val = some n → s.dev.eligible c stInk sl.val = true →
      (∀ l ∈ (s.dev.core c).inker.launches, l.slot ≠ sl.val) → s.dev.domInReset (.core c) = false →
      ∃ d e : Dev, Sys2Proof.Machine.exec (.launch c sl) s = .next { s with dev := d } ∧ Safety.memoryKept s.dev d ∧
        (e.core c).inker.icache = [] ∧ (e.core c).inker.launches = (s.dev.core c).inker.launches ++ [⟨sl.val, n, none, 0, 0⟩] ∧
        ((e.core c).station stInk).queue = dropFirst (fun x => decide (x = (sl.val, n))) ((s.dev.core c).station stInk).queue ∧
        e = { s.dev with cores := e.cores, queues := e.queues, reqs := e.reqs } ∧
        d = e.issue { Req.blank with
          cli := .header c sl.val, op := .rd, addr := eAddr (entry r.img n),
          mask := byteMask (eAddr (entry r.img n) % 128) 32, part := s.dev.slotPart c sl.val, quad := c.die.val / 2, tc := 1 }) ∧
    (∀ q l h, s.dev.reqs.find? (fun y => decide (y.cli = .header c sl.val) && y.ready) = some q →
      (s.dev.core c).inker.launches.find? (fun l => l.slot == sl.val) = some l →
      h = (q.res >>> (8 * (q.addr % 128))) % 2 ^ 256 →
      ∃ d e : Dev, Sys2Proof.Machine.exec (.kernelHeaderArrival c sl) s = .next { s with dev := d } ∧ Safety.memoryKept s.dev d ∧
        e = { s.dev with reqs := dropFirst (fun y => y.id == q.id) s.dev.reqs } ∧
        (q.resErr = true → d = e.endRun c sl.val 0x26 stInk l.ent false) ∧
        (q.resErr = false → q.resPsn = true → d = e.endRun c sl.val 0x22 stInk l.ent false) ∧
        (q.resErr = false → q.resPsn = false →
          headerBad h (entry r.img l.ent) (hBufSz r.img (eByte (entry r.img l.ent) 0xE % 16)) = true →
          d = e.endRun c sl.val 8 stInk l.ent false) ∧
        (q.resErr = false → q.resPsn = false →
          headerBad h (entry r.img l.ent) (hBufSz r.img (eByte (entry r.img l.ent) 0xE % 16)) = false →
          d = { e with cores := d.cores } ∧ (d.core c).inker.launches.find? (fun l => l.slot == sl.val) =
            some { l with hdr := some (byteOf h 2, byteOf h 3, (h >>> 32) % 2 ^ 32) })) ∧
    (∀ l lgran b gs cs a, (s.dev.core c).inker.launches.find? (fun l => l.slot == sl.val) = some l →
      s.dev.launchReady c sl.val = true →
      ((s.dev.core c).inker.chosen = some sl.val ∨
        (s.dev.core c).inker.chosen = none ∧ s.dev.pick c stInk (s.dev.launchReady c) = some sl.val) →
      lgran = (l.hdr.map (fun h => h.1)).getD 0 →
      (s.dev.core c).inker.fit sl.val lgran (hBufSz r.img (eByte (entry r.img l.ent) 0xE % 16)) (eByte (entry r.img l.ent) 0xC)
        (eByte (entry r.img l.ent) 0xF) = some (b, gs, cs, a) →
      ∃ d, Sys2Proof.Machine.exec (.blockAdmit c sl) s = .next { s with dev := d } ∧ d = { s.dev with cores := d.cores } ∧
        (d.core c).inker.block b = some ⟨sl.val, l.ent, l.next, a⟩ ∧ (d.core c).inker.chosen = none ∧
        (d.core c).inker.launches = { l with next := l.next + 1 } :: (s.dev.core c).inker.launches.filter (fun y => y.slot != sl.val) ∧
        (∀ i g, gs[i]? = some g → i < cs.length → ∃ y, (d.core c).inker.group g = some y ∧ y.block = b ∧ y.grp = i ∧
          y.nreg = eByte (entry r.img l.ent) 0xF ∧ y.regs = [] ∧ ∃ p, y.paths = [p] ∧ p.pc = eAddr (entry r.img l.ent) + 0x20 ∧
          p.lanes = BitVec.allOnes 32 ∧ p.st = .run) ∧
        ∀ k, k ≠ c → d.core k = s.dev.core k) ∧
    (∀ l lgran, (s.dev.core c).inker.launches.find? (fun l => l.slot == sl.val) = some l → s.dev.launchReady c sl.val = true →
      ((s.dev.core c).inker.chosen = some sl.val ∨
        (s.dev.core c).inker.chosen = none ∧ s.dev.pick c stInk (s.dev.launchReady c) = some sl.val) →
      lgran = (l.hdr.map (fun h => h.1)).getD 0 →
      (s.dev.core c).inker.fit sl.val lgran (hBufSz r.img (eByte (entry r.img l.ent) 0xE % 16)) (eByte (entry r.img l.ent) 0xC)
        (eByte (entry r.img l.ent) 0xF) = none →
      ∃ d, Sys2Proof.Machine.exec (.blockAdmit c sl) s = .next { s with dev := d } ∧ d = { s.dev with cores := d.cores } ∧
        d.core c = { s.dev.core c with inker := { (s.dev.core c).inker with chosen := some sl.val } } ∧
        ∀ k, k ≠ c → d.core k = s.dev.core k) ∧
    (∀ (b : Fin 8) x, (s.dev.core c).inker.block b.val = some x →
      (∀ e ∈ (s.dev.core c).inker.blockGroups b.val, e.2.paths = []) →
      ∃ d, Sys2Proof.Machine.exec (.blockEnd c b) s = .next { s with dev := d } ∧ d = { s.dev with cores := d.cores, reqs := d.reqs } ∧
        (d.core c).inker.block b.val = none ∧ (d.core c).inker.blockGroups b.val = [] ∧
        (d.core c).inker.launches = replaceFirst (fun y => y.slot == x.slot) (fun y => { y with ended := y.ended + 1 })
          (s.dev.core c).inker.launches ∧
        (∀ k, k ≠ c → d.core k = s.dev.core k) ∧
        (∀ y ∈ s.dev.reqs, (∀ e ∈ (s.dev.core c).inker.blockGroups b.val, y.cli ≠ .ifetch c e.1 ∧
          ∀ sl n, y.cli ≠ .inkSt c e.1 sl n ∧ y.cli ≠ .inkLd c e.1 sl n ∧ y.cli ≠ .atom c e.1 sl n) → y ∈ d.reqs) ∧
        (∀ y ∈ s.dev.reqs, ∀ e ∈ (s.dev.core c).inker.blockGroups b.val, ∀ sl n,
          (y.cli = .inkSt c e.1 sl n → { y with cli := .inkSt c 16 sl n } ∈ d.reqs) ∧
          (y.cli = .inkLd c e.1 sl n → { y with cli := .inkLd c 16 sl n } ∈ d.reqs) ∧
          (y.cli = .atom c e.1 sl n → { y with cli := .atom c 16 sl n } ∈ d.reqs)))

/-- INK_ARITH, TLD and LLD write registers of the active lanes (R130, R134, R135): the value the operation gives (nothing is
said where the spec states none: it is a free value), the tile element, or the block-local bytes; TST and LST write the Stone,
lane by lane. The exceptions gather in the slot's sticky flags, and the group goes on to its next instruction. The other
registers, the other groups and cores, and memory stay. What a Stone access meets acts first (R54), and where it ends the run
nothing is written. -/
def Obligations.InkerRegisterInstructions : Prop :=
  ∀ (c : CoreId) (g : Fin 16) (s : State) (x : Ctx) (h : BitVec 3) (ecc : StoneEcc),
    (∀ (i : InkInstr) sh e srcs fl, sh = opShape i.op →
      srcs = [(i.srcA.val, sh.1, i.hints.getLsbD 0), (i.srcB.val, sh.2.1, i.hints.getLsbD 1),
              (i.srcC.val, sh.2.2.1, i.hints.getLsbD 2)] →
      Safety.mayRun s.dev c g.val srcs [(i.dst.val, sh.2.2.2)] x → e = Safety.atGroup s.dev c g.val srcs (opCost i.op) →
      fl = x.lanes.foldl (fun a lane => a ||| (match x.special lane i.op with
        | some _ => 0
        | none => (inkAlu i.op i.rnd.val (x.g.regN i.srcA.val lane sh.1) (x.g.regN i.srcB.val lane sh.2.1)
            (x.g.regN i.srcC.val lane sh.2.2.1)).2)) 0 →
      ∃ d y, Sys2Proof.Machine.exec (.inkArith c g i) s = .next { s with dev := d } ∧
        Safety.wroteLanes e d c g.val ((e.addFlags c x.slot fl 0).core c).sticky (Safety.groupAt s.dev c x srcs (opCost i.op)) y ∧
        Safety.lanesTake x y i.dst.val sh.2.2.2 (fun lane => match x.special lane i.op with
          | some v => some v
          | none => (inkAlu i.op i.rnd.val (x.g.regN i.srcA.val lane sh.1) (x.g.regN i.srcB.val lane sh.2.1)
              (x.g.regN i.srcC.val lane sh.2.2.1)).1)) ∧
    (∀ (dst ri rj : Fin 256) (t : Fin 4) mode e srcs, srcs = [(ri.val, 1, h.getLsbD 0), (rj.val, 1, h.getLsbD 1)] →
      Safety.mayRun s.dev c g.val srcs [(dst.val, s.dev.tileCount c g.val t.val mode)] x →
      e = Safety.atGroup s.dev c g.val srcs costStone →
      ∃ d, Sys2Proof.Machine.exec (.tld c g dst t ri rj mode h ecc) s = .next { s with dev := d } ∧ Safety.memoryKept s.dev d ∧
        Safety.stoneMet e d c g.val x ecc (fun f => ∃ y,
          (x.tdesc t.val = none → Safety.wroteLanes f d c g.val (f.core c).sticky (Safety.groupAt s.dev c x srcs costStone) y ∧
            Safety.lanesTake x y dst.val 1 (fun _ => some 0)) ∧
          (∀ td fl, x.tdesc t.val = some td →
            fl = x.lanes.foldl (fun a lane =>
              a ||| (tldLane (f.core c) x.run (tileOf td) mode (x.g.reg ri.val lane) (x.g.reg rj.val lane)).2) 0 →
            Safety.wroteLanes f d c g.val ((f.addFlags c x.slot fl 0).core c).sticky (Safety.groupAt s.dev c x srcs costStone) y ∧
            Safety.lanesTake x y dst.val (tileRegs (tileOf td) mode) (fun lane =>
              (tldLane (f.core c) x.run (tileOf td) mode (x.g.reg ri.val lane) (x.g.reg rj.val lane)).1)))) ∧
    (∀ (dst ro : Fin 256) (size : Fin 5) n e srcs, n = accBytes size.val → srcs = [(ro.val, 1, h.getLsbD 0)] →
      Safety.mayRun s.dev c g.val srcs [(dst.val, regsFor n)] x → e = Safety.atGroup s.dev c g.val srcs costStone →
      ∃ d, Sys2Proof.Machine.exec (.lld c g dst ro size h ecc) s = .next { s with dev := d } ∧ Safety.memoryKept s.dev d ∧
        Safety.stoneMet e d c g.val x ecc (fun f => ∃ y,
          Safety.wroteLanes f d c g.val (f.core c).sticky (Safety.groupAt s.dev c x srcs costStone) y ∧
          Safety.lanesTake x y dst.val (regsFor n) (fun lane => match x.local (x.g.reg ro.val lane) n with
            | some a => some ((f.core c).stoneN a n)
            | none => some 0))) ∧
    (∀ (src ri rj : Fin 256) (t : Fin 4) mode (rnd : Fin 4) e srcs,
      srcs = [(ri.val, 1, h.getLsbD 0), (rj.val, 1, h.getLsbD 1), (src.val, s.dev.tileCount c g.val t.val mode, h.getLsbD 2)] →
      Safety.mayRun s.dev c g.val srcs [] x → e = Safety.atGroup s.dev c g.val srcs costStone →
      ∃ d, Sys2Proof.Machine.exec (.tst c g src t ri rj mode rnd h ecc) s = .next { s with dev := d } ∧ Safety.memoryKept s.dev d ∧
        Safety.stoneMet e d c g.val x ecc (fun f =>
          d = { f with cores := d.cores } ∧ (x.tdesc t.val = none → d = f.advance c g.val) ∧
          (∀ td w, x.tdesc t.val = some td → w = x.lanes.foldl (fun (y : Core × Nat) lane =>
              ((tstLane y.1 x.run (tileOf td) mode rnd.val (x.g.reg ri.val lane) (x.g.reg rj.val lane)
                  (x.g.regN src.val lane (tileRegs (tileOf td) mode))).1,
               y.2 ||| (tstLane y.1 x.run (tileOf td) mode rnd.val (x.g.reg ri.val lane) (x.g.reg rj.val lane)
                  (x.g.regN src.val lane (tileRegs (tileOf td) mode))).2)) (f.core c, 0) →
            d = ((f.setCore c w.1).addFlags c x.slot w.2 0).advance c g.val))) ∧
    (∀ (src ro : Fin 256) (size : Fin 5) n e srcs, n = accBytes size.val →
      srcs = [(ro.val, 1, h.getLsbD 0), (src.val, regsFor n, h.getLsbD 1)] →
      Safety.mayRun s.dev c g.val srcs [] x → e = Safety.atGroup s.dev c g.val srcs costStone →
      ∃ d, Sys2Proof.Machine.exec (.lst c g src ro size h ecc) s = .next { s with dev := d } ∧ Safety.memoryKept s.dev d ∧
        Safety.stoneMet e d c g.val x ecc (fun f =>
          d = { f with cores := d.cores } ∧
          d = (f.setCore c (x.lanes.foldl (fun k lane => match x.local (x.g.reg ro.val lane) n with
            | some a => k.stoneWrite a n (x.g.regN src.val lane (regsFor n))
            | none => k) (f.core c))).advance c g.val))

/-- LD, LD_ACQ, ST and ST_REL, and the replies to them and to instruction fetches (R124, R145 to R149, R157, R158): a load, held
while an acquire of its group is outstanding, delivers the lines the data cache holds and asks for the others; a store updates
the lines held and sends every line; ST_REL waits until the writes and atomics before it are performed. A reply fills the lanes'
registers and enters the cache unless an invalidation or a write intervened, then performs its acquire, or ends the run with
ADDR or POISON. No byte of memory changes at the instruction itself.  The atomics of Table 5.5 (R54, R142 to R144, R157, R158):
in block-local memory the lanes act in lane order: a lane's register takes the word's old value and the word the operation's
result, as stated here of a word that one lane names; to memory each line's lanes leave as one request, in lane order, once no
acquire of the group is outstanding and, for a releasing one, what is before it is performed. A reply writes each lane's
register, gathers the exceptions, performs its acquire and lets the next host atomic of the group go, or ends the run with ADDR
or POISON. -/
def Obligations.InkerMemoryInstructions : Prop :=
  (
  ∀ (c : CoreId) (g : Fin 16) (s : State) (h : BitVec 3) (arr : ArrayEcc),
    (∀ (x : Ctx) (e : Dev) (rv ra : Fin 256) (size : Fin 5) srcs dst, srcs = [(ra.val, 2, h.getLsbD 0)] →
      dst = [(rv.val, regsFor (accBytes size.val))] → Safety.mayRun s.dev c g.val srcs dst x →
      Dev.acquired c g.val s.dev x = true → e = Safety.atGroup s.dev c g.val srcs costMem →
      (∀ nocache parity, ∃ d, Sys2Proof.Machine.exec (.ld c g rv ra size nocache parity h arr) s = .next { s with dev := d } ∧
        Safety.memoryKept s.dev d ∧
        d = (e.inkLoad c g.val x rv.val ra.val size.val nocache parity none arr).advance c g.val) ∧
      (∀ scope parity, ∃ d, Sys2Proof.Machine.exec (.ldAcq c g rv ra size scope parity h arr) s = .next { s with dev := d } ∧
        Safety.memoryKept s.dev d ∧
        d = (e.inkLoad c g.val x rv.val ra.val size.val false parity (some scope.val) arr).advance c g.val)) ∧
    (∀ (x : Ctx) (e : Dev) (rv ra : Fin 256) (size : Fin 5) srcs,
      srcs = [(ra.val, 2, h.getLsbD 0), (rv.val, regsFor (accBytes size.val), h.getLsbD 1)] →
      Safety.mayRun s.dev c g.val srcs [] x → e = Safety.atGroup s.dev c g.val srcs costMem →
      (∃ d, Sys2Proof.Machine.exec (.st c g rv ra size h arr) s = .next { s with dev := d } ∧ Safety.memoryKept s.dev d ∧
        d = (e.inkStore c g.val x rv.val ra.val size.val arr).advance c g.val) ∧
      (∀ scope, (s.dev.threadReleased c g.val scope.val = true →
          ∃ d, Sys2Proof.Machine.exec (.stRel c g rv ra size scope h arr) s = .next { s with dev := d } ∧ Safety.memoryKept s.dev d ∧
            d = (e.inkStore c g.val x rv.val ra.val size.val arr).advance c g.val) ∧
        (s.dev.threadReleased c g.val scope.val = false →
          Sys2Proof.Machine.exec (.stRel c g rv ra size scope h arr) s = .next s))) ∧
    (∀ rq q g' sl n, s.dev.req rq = some q → q.cli = .inkLd c g' sl n → q.ready = true →
      ∃ d e : Dev, Sys2Proof.Machine.exec (.inkerLoadReply c rq) s = .next { s with dev := d } ∧ Safety.memoryKept s.dev d ∧
        e = { s.dev with reqs := dropFirst (fun y => y.id == rq) s.dev.reqs } ∧
        (q.resErr = true → d = e.endRun c sl 0x26 stInk n false) ∧
        (q.resErr = false → q.resPsn = true → d = e.endRun c sl 0x22 stInk n false) ∧
        (q.resErr = false → q.resPsn = false →
          ∃ f : Dev, f = { e with cores := f.cores } ∧
            d = (match q.acq with | some sc => f.acquire c sc q.part | none => f) ∧
            (f.core c).inker.group g' = ((s.dev.core c).inker.group g').map (fun y => y.fill q.dst q.size q.res q.lanes) ∧
            (q.nocache = false → q.noinstall = false →
              (f.core c).inker.dcache.head? = some (q.addr / 128, q.part, BitVec.ofNat 1024 q.res)) ∧
            ((q.nocache = true ∨ q.noinstall = true) → (f.core c).inker.dcache = (s.dev.core c).inker.dcache))) ∧
    (∀ q, s.dev.reqs.find? (fun y => decide (y.cli = .ifetch c g.val) && y.ready) = some q →
      ∃ d e : Dev, Sys2Proof.Machine.exec (.instructionFetchReply c g) s = .next { s with dev := d } ∧ Safety.memoryKept s.dev d ∧
        e = { s.dev with reqs := dropFirst (fun y => y.id == q.id) s.dev.reqs } ∧
        (q.resErr = true → d = e.endRun c ((e.groupSlot c g.val).getD (0, 0xFFFF)).1 0x26 stInk ((e.groupSlot c g.val).getD (0, 0xFFFF)).2 false) ∧
        (q.resErr = false → q.resPsn = true →
          d = e.endRun c ((e.groupSlot c g.val).getD (0, 0xFFFF)).1 0x22 stInk ((e.groupSlot c g.val).getD (0, 0xFFFF)).2 false) ∧
        (q.resErr = false → q.resPsn = false → q.noinstall = false → d = { e with cores := d.cores } ∧
          (d.core c).inker.icache.head? = some (q.addr / 128)) ∧
        (q.resErr = false → q.resPsn = false → q.noinstall = true → d = e))) ∧
  (
  ∀ (c : CoreId) (g : Fin 16) (i : AtomInstr) (s : State),
    (∀ op cmd x e n srcs, (op, cmd) ∈ [(AOp.add, Instr.atomAdd c g i), (.fadd, .atomFadd c g i), (.smin, .atomSmin c g i), (.smax, .atomSmax c g i),
        (.umin, .atomUmin c g i), (.umax, .atomUmax c g i), (.and, .atomAnd c g i), (.or, .atomOr c g i), (.xor, .atomXor c g i),
        (.exch, .atomExch c g i), (.cas, .atomCas c g i)] → atomWidthOk op i.width.val = true →
      n = regsFor (atomWidth i.width.val) →
      srcs = [(i.addr.val, if i.loc then 1 else 2, i.hints.getLsbD 0), (i.op1.val, n, i.hints.getLsbD 1),
              (i.op2.val, if op = .cas then n else 0, i.hints.getLsbD 2)] →
      Safety.mayRun s.dev c g.val srcs [(i.dst.val, n)] x → e = Safety.atGroup s.dev c g.val srcs costMem →
      (i.loc = true → ∃ d, Sys2Proof.Machine.exec cmd s = .next { s with dev := d } ∧ Safety.memoryKept s.dev d ∧
        Safety.stoneMet e d c g.val x i.ecc (fun f =>
          d = (f.atomLocal c g.val x op i).advance c g.val ∧ d = { f with cores := d.cores } ∧
          ∀ lane ∈ x.lanes, ∀ a, x.local (x.g.reg i.addr.val lane) (atomWidth i.width.val) = some a →
            (∀ m ∈ x.lanes, m ≠ lane → x.local (x.g.reg i.addr.val m) (atomWidth i.width.val) ≠ some a) →
            (d.core c).stoneN a (atomWidth i.width.val) = atomApply op (atomWidth i.width.val)
                ((f.core c).stoneN a (atomWidth i.width.val)) (x.g.regN i.op1.val lane n) (x.g.regN i.op2.val lane n) %
                2 ^ (8 * atomWidth i.width.val) ∧
            ∃ y, (d.core c).inker.group g.val = some y ∧
              ∀ k, k < n → i.dst.val + k < x.g.nreg → y.reg (i.dst.val + k) lane =
                (f.core c).stoneN a (atomWidth i.width.val) / 2 ^ (32 * k) % 2 ^ 32)) ∧
      (i.loc = false → Dev.acquired c g.val s.dev x = true →
        (i.ord = .none ∨ i.ord = .acq ∨ s.dev.threadReleased c g.val i.scope.val = true) →
        ∃ d, Sys2Proof.Machine.exec cmd s = .next { s with dev := d } ∧ Safety.memoryKept s.dev d ∧
          d = (e.atomMem c g.val x op i).advance c g.val)) ∧
    (∀ rq q g' sl n, s.dev.req rq = some q → q.cli = .atom c g' sl n → q.ready = true →
      ∃ d e : Dev, Sys2Proof.Machine.exec (.atomReply c rq) s = .next { s with dev := d } ∧ Safety.memoryKept s.dev d ∧
        e = { s.dev with reqs := dropFirst (fun y => y.id == rq) s.dev.reqs } ∧
        (q.resErr = true → d = e.endRun c sl 0x26 stInk n false) ∧
        (q.resErr = false → q.resPsn = true → d = e.endRun c sl 0x22 stInk n false) ∧
        (∀ aop w ls, q.op = .atom aop w ls → q.resErr = false → q.resPsn = false →
          ∃ f : Dev, f = { e with cores := f.cores } ∧
            d = (match q.acq with | some sc => f.acquire c sc q.part | none => f).nextHostAtom q.cli ∧
            (f.core c).sticky = ((e.addFlags c sl q.flags 0).core c).sticky ∧
            (f.core c).inker.group g' = ((s.dev.core c).inker.group g').map (fun y => ls.foldl (fun y l =>
              y.setRegN q.dst l.1 (regsFor q.size) ((q.res >>> (128 * l.1)) % 2 ^ (8 * q.size))) y))))

/-- BAR, EXIT, BRA, FENCE_REL, FENCE_ACQ, FENCE_AR and PATH_SWITCH (R136, R139 to R141, R157, R158): BAR, once its release set
is performed, makes the path wait at the barrier, EXIT ends it, and either may complete the block's barrier, which does nothing
while a path of the block has not arrived; BRA sends each lane its way; the fences wait for their release set, take their
acquire, and go on; a path that has issued 64 instructions yields to one that may run. -/
def Obligations.InkerControlInstructions : Prop :=
  ∀ (c : CoreId) (g : Fin 16) (s : State) (x : Ctx) (y : Group) (e : Dev), e = Safety.atGroup s.dev c g.val [] costNone →
    y = Safety.groupAt s.dev c x [] costNone →
    (Safety.mayRun s.dev c g.val [] [] x → ∀ p r, x.g.paths = p :: r →
      (s.dev.threadReleased c g.val 0 = true →
        ∃ d, Sys2Proof.Machine.exec (.bar c g) s = .next { s with dev := d } ∧ d = { s.dev with cores := d.cores } ∧
          d = (e.modGroup c g.val (fun _ => ({ y with paths := { p with pc := p.pc + 16, issued := p.issued + 1, st := .bar } :: r }).settled)).modInker c
            (fun k => k.barrier x.g.block)) ∧
      (s.dev.threadReleased c g.val 0 = false → Sys2Proof.Machine.exec (.bar c g) s = .next s) ∧
      (∃ d, Sys2Proof.Machine.exec (.exit c g) s = .next { s with dev := d } ∧ d = { s.dev with cores := d.cores } ∧
        d = (e.modGroup c g.val (fun _ => (({ y with paths := r }).arriveAll 40).elect)).modInker c (fun k => k.barrier x.g.block))) ∧
    (∀ (k : Inker) (h b : Nat) (z : Group), k.group h = some z → z.block = b → (∃ p ∈ z.paths, p.st ≠ .bar) → k.barrier b = k) ∧
    (∀ (rc : Fin 256) target reconv (h : BitVec 3) srcs, srcs = [(rc.val, 1, h.getLsbD 0)] → Safety.mayRun s.dev c g.val srcs [] x →
      ∃ d, Sys2Proof.Machine.exec (.bra c g rc target reconv h) s = .next { s with dev := d } ∧ d = { s.dev with cores := d.cores } ∧
        (d.core c).inker.group g.val =
          some ((Safety.groupAt s.dev c x srcs costNone).branch rc.val target.toNat reconv.toNat) ∧
        ∀ h, h ≠ g.val → (d.core c).inker.group h = (s.dev.core c).inker.group h) ∧
    (∀ scope, Safety.mayRun s.dev c g.val [] [] x →
      (s.dev.threadReleased c g.val scope.val = true →
        (∃ d, Sys2Proof.Machine.exec (.fenceRel c g scope) s = .next { s with dev := d } ∧ d = { s.dev with cores := d.cores } ∧
          (d.core c).inker.group g.val = some y.advance) ∧
        (∃ d, Sys2Proof.Machine.exec (.fenceAr c g scope) s = .next { s with dev := d } ∧ Safety.memoryKept s.dev d ∧
          d = (e.acquire c scope.val x.part).advance c g.val)) ∧
      (s.dev.threadReleased c g.val scope.val = false →
        Sys2Proof.Machine.exec (.fenceRel c g scope) s = .next s ∧ Sys2Proof.Machine.exec (.fenceAr c g scope) s = .next s) ∧
      (∃ d, Sys2Proof.Machine.exec (.fenceAcq c g scope) s = .next { s with dev := d } ∧ Safety.memoryKept s.dev d ∧
        d = (e.acquire c scope.val x.part).advance c g.val ∧ (scope.val ≠ 0 → (d.core c).inker.dcache = []))) ∧
    (∀ z p r, (s.dev.core c).inker.group g.val = some z → z.paths = p :: r → 64 ≤ p.issued → z.others = true →
      ∃ d, Sys2Proof.Machine.exec (.pathSwitch c g) s = .next { s with dev := d } ∧ d = { s.dev with cores := d.cores } ∧
        (d.core c).inker.group g.val = some z.switch ∧ ∃ q, q ∈ r ∧ q.st = .run ∧ z.switch.paths.head? = some { q with issued := 0 })

/-- COLOPHON_WRITE_ARRIVAL, COLOPHON_HOLD_TIMEOUT and GRP_CLEAR (R172 to R174, R360): a colophon write that reaches its B-die
after its core's earlier requests to the line, over links that carry, is discarded with COLO_DUP where the group's entry holds
one already (the model's choice beside R172 where EXPECT is at or below the tally: log entry 131); else, EXPECT at or below the
tally, it goes to its home at once and the tally falls by EXPECT; else it is held. One whose group is not its owner's is
discarded; one held 2^EXP net cycles is discarded and COLO_TMO raised; CLEAR zeroes the tally and discards the held write.
REDUCTION_PERFORM and MC_REDUCTION (R247 to R250, R253): the reduction at the head of a slice's queue whose lines are here is
done: the lines of the Case, or at the controllers where no victim was found (a read there under a key not loaded raising
KEYMISS), take what the reduction gives, poisoned if an operand is, the entry gathers the flags, and the write is performed. The
stacks' bytes are written only when the controllers issue the writes.  RB_OPEN, RB_OPEN_CLEAR, RB_CLEAR_DONE, RB_CLOSE and
RB_CLOSE_DONE (R254): OPEN of a legal entry clears its sticky flags and makes it OPEN, or CLEARING; of another it sets ILL; with
nothing of the range in flight the clear ends: every byte of the range under a loaded key, and no other, becomes 0, the range is
cached nowhere, the entry is OPEN and the blocks that waited for it are admitted in their order; CLOSE makes an OPEN entry
CLOSING, leaves a CLOSED one, and a CLOSING one is CLOSED when no reduction waits. -/
def Obligations.ColophonsReductionsAndChase : Prop :=
  (
  ∀ (q : Quad) (s : State),
    (∀ rq r st off g e, s.dev.req rq = some r → r.flag = true → r.colo = true → r.accepted = false → r.tgt = .stack st off →
      st / 5 = q.val → s.dev.coreEarlier r = false → s.dev.carries (agentDie r.agent) q.val = true → g = r.group % 4096 → e = s.dev.grp (arrKey q.val g) →
      ∃ d, Sys2Proof.Machine.exec (.colophonWriteArrival q rq) s = .next { s with dev := d } ∧ Safety.memoryKept s.dev d ∧
        (s.dev.ctrOwner q.val g ≠ s.dev.owner (lineStack r.line) (lineOff r.line) →
          d = (s.dev.raise (pQctl q.val) 0 (g + 0x8000)).turnAwayColo rq 5) ∧
        (s.dev.ctrOwner q.val g = s.dev.owner (lineStack r.line) (lineOff r.line) →
          (e.held = none → r.expect ≤ e.tally → d = { s.dev with grps := d.grps, reqs := d.reqs, wire := s.dev.wire ++ [coloMsg q.val r] } ∧
            d.grp (arrKey q.val g) = { e with tally := e.tally - r.expect } ∧ d.req rq = some { r with accepted := true }) ∧
          (e.tally < r.expect → e.held = none → d = { s.dev with grps := d.grps, reqs := d.reqs } ∧
            d.reqs = dropFirst (fun y => y.id == rq) s.dev.reqs ∧
            d.grp (arrKey q.val g) = { e with held := some ({ r with accepted := true }, s.dev.now (netClk q.val)) }) ∧
          (e.held ≠ none → ∃ f : Dev, d = (f.raise (pQctl q.val) 1 g).turnAwayColo rq 5 ∧
            f = { s.dev with grps := f.grps, reqs := f.reqs } ∧ f.grp (arrKey q.val g) = { e with dup := true }))) ∧
    (∀ (g : Fin 4096) e r since, s.dev.grp (arrKey q.val g.val) = e → e.held = some (r, since) →
      since + 2 ^ s.dev.get (pQctl q.val) fQCTL_COLO_TMO_EXP 0 ≤ s.dev.now (netClk q.val) →
      ∃ d f : Dev, Sys2Proof.Machine.exec (.colophonHoldTimeout q g) s = .next { s with dev := d } ∧ Safety.memoryKept s.dev d ∧
        f = { s.dev with grps := f.grps } ∧ f.grp (arrKey q.val g.val) = { e with held := none, tmo := true } ∧
        d = (f.raise (pQctl q.val) 3 g.val).answerColo r 6) ∧
    (∀ via e, s.dev.writable via (pQctl q.val) = true → e = s.dev.grp (arrKey q.val (s.dev.get (pQctl q.val) fQCTL_GRP_IDX_IDX 0)) →
      ∃ d f : Dev, Sys2Proof.Machine.exec (.grpClear via q) s = .next { s with dev := d } ∧ Safety.memoryKept s.dev d ∧
        f = { s.dev with grps := f.grps } ∧
        f.grp (arrKey q.val (s.dev.get (pQctl q.val) fQCTL_GRP_IDX_IDX 0)) = { e with tally := 0, held := none } ∧
        (e.held = none → d = f) ∧ ∀ r since, e.held = some (r, since) → d = f.answerColo r 6)) ∧
  (
  ∀ (q : Quad) (n : Fin 16) (s : State) (r : Req), s.dev.redHead (q.val * 16 + n.val) = some r → s.dev.accReady r = true →
    ((∀ e ∈ s.dev.redMc, e.2 ≠ r.id) → ∀ x y p,
      x = gather (fun l => match s.dev.caseCopy q.val l r.part with
        | some (_, c) => (c.data.toNat, c.psn)
        | none => (0, true)) (accLines r) → y = s.dev.reduceInto r x.1 → p = (x.2 || r.psn) →
      ∃ d e : Dev, Sys2Proof.Machine.exec (.reductionPerform q n) s = .next { s with dev := d } ∧ Safety.memoryKept s.dev d ∧
        e = { s.dev with lines := e.lines, useCtr := e.useCtr } ∧ d = (e.rbFlags r y.2 p).accDone r ∧
        (∀ sl c, r.mask < 2 ^ 128 → accLines r = [r.line] → s.dev.caseCopy q.val r.line r.part = some (sl, c) →
          e.cline (8 + q.val) sl r.line = some { c with data := BitVec.ofNat 1024 y.1, dirty := true, psn := p, held := false,
                                                        used := s.dev.useCtr + 1 })) ∧
    ((∃ e ∈ s.dev.redMc, e.2 = r.id) → s.dev.stkWaits (lineStack r.line) = false →
      ∃ d e f g : Dev, Sys2Proof.Machine.exec (.mcReduction q n) s = .next { s with dev := d } ∧ Safety.memoryKept s.dev d ∧
        e = (accLines r).foldl (fun d l => match d.caseCopy q.val l r.part with
          | some (sl, c) => (d.setCline (8 + q.val) sl l none).when c.dirty (fun d => d.dramWrite l c.data.toNat c.psn r.svc)
          | none => d) s.dev ∧
        ∀ x y p, x = gather (fun l => ((e.dramRead l).1, (e.dramRead l).2.1)) (accLines r) →
          g = (accLines r).foldl (fun d l => (d.dramRead l).2.2) e → y = g.reduceInto r x.1 →
          p = (x.2 || r.psn) → f = g.scatter (fun d l v => d.dramWrite l v p r.svc) y.1 (accLines r) → d = (f.rbFlags r y.2 p).accDone r)) ∧
  (
  ∀ (via : Via) (q : Quad) (s : State),
    (s.dev.writable via (pQctl q.val) = true → ∀ e, e = rbIdx s.dev q.val →
      (rbIllegal s.dev q.val e = false → ∀ clear : Bool,
        ∃ d, Sys2Proof.Machine.exec (if clear then .rbOpenClear via q else .rbOpen via q) s = .next { s with dev := d } ∧
          rbState d q.val e = (if clear then 1 else 2) ∧ d.get (.qctl q) fQCTL_RB_STAT_POISON e = 0 ∧ d.get (.qctl q) fQCTL_RB_STAT_SAT e = 0 ∧
          d.get (.qctl q) fQCTL_RB_STAT_IND e = 0 ∧ d.get (.qctl q) fQCTL_RB_STAT_NX e = 0 ∧
          d = { s.dev with regs := d.regs } ∧ Safety.wordsKept s.dev d [(.qctl q, 0x298, e)]) ∧
      (rbIllegal s.dev q.val e = true → ∀ clear : Bool,
        ∃ d, Sys2Proof.Machine.exec (if clear then .rbOpenClear via q else .rbOpen via q) s = .next { s with dev := d } ∧
          d.on (.qctl q) fQCTL_RB_STAT_ILL e = true ∧ rbState d q.val e = rbState s.dev q.val e ∧
          d = { s.dev with regs := d.regs } ∧ Safety.wordsKept s.dev d [(.qctl q, 0x298, e)]) ∧
      (rbState s.dev q.val e = 2 →
        ∃ d, Sys2Proof.Machine.exec (.rbClose via q) s = .next { s with dev := d } ∧ rbState d q.val e = 3 ∧
          d = { s.dev with regs := d.regs } ∧ Safety.wordsKept s.dev d [(.qctl q, 0x298, e)]) ∧
      (rbState s.dev q.val e = 0 → Sys2Proof.Machine.exec (.rbClose via q) s = .next s)) ∧
    (∀ e : Fin 64, rbState s.dev q.val e.val = 1 → s.dev.stkWaits (rbBase s.dev q.val e.val / 2 ^ 37) = false →
      ∀ lo n, lo = rbBase s.dev q.val e.val / 128 → n = 3 * rbBlocks s.dev q.val e.val → s.dev.rangeIdle lo n = true →
      ∃ d f : Dev, Sys2Proof.Machine.exec (.rbClearDone q e) s = .next { s with dev := d } ∧
        (∀ a, Memory.read d.mem a =
          if lo ≤ a / 128 ∧ a / 128 < lo + n ∧ (s.dev.keyTag (a / 128)).isSome = true then 0 else Memory.read s.dev.mem a) ∧
        rbState f q.val e.val = 2 ∧ (∀ l, l < 2 ^ 41 → lo ≤ l → l < lo + n → f.dirEnt l = none ∧ ∀ w i, f.cline w i l = none) ∧
        ((∀ l, lo ≤ l → l < lo + n → (s.dev.keyTag l).isSome = true) → Safety.wordsKept s.dev f [(.qctl q, 0x298, e.val)] ∧
          f = { s.dev with regs := f.regs, lines := f.lines, dir := f.dir, mem := f.mem, poisoned := f.poisoned,
                           lineKey := f.lineKey, mcs := f.mcs }) ∧
        d = (s.dev.homeq.filter (fun r => decide (lo ≤ r.line ∧ r.line < lo + n))).foldl (fun d r =>
          match d.waitingAcc r with
          | some rq => d.accAdmit r rq
          | none => d) f) ∧
    (∀ e : Fin 64, rbState s.dev q.val e.val = 3 → s.dev.redq = [] →
      ∃ d, Sys2Proof.Machine.exec (.rbCloseDone q e) s = .next { s with dev := d } ∧ rbState d q.val e.val = 0 ∧
        d = { s.dev with regs := d.regs } ∧ Safety.wordsKept s.dev d [(.qctl q, 0x298, e.val)]))

/-- HMAP_WRITE, HMAP_CHANGE_DONE, CTRMAP_WRITE (R206, R210, R357): a change of a home unit's partition is refused with ILL while
another runs on the B-die or where the partition has no slice here; else the unit is flushed first, BUSY reads 1 and the old
owner stands until nothing is in flight on its lines, when the owner changes. A counter block that changes its partition loses
its groups and arrivals. -/
def Obligations.HomeUnitsChangeOwner : Prop :=
  ∀ (via : Via) (q : Quad) (val : Word) (s : State),
    (s.dev.writable via (pQctl q.val) = true → ∀ u, u = s.dev.get (.qctl q) fQCTL_HMAP_IDX_UNIT 0 →
      (((NMap.get s.dev.hmapBusy q.val none).isSome = true ∨ s.dev.hasSlice q.val (val.toNat % 64) = false ∨
          s.dev.partOk (val.toNat % 64) = false) →
        ∃ d, Sys2Proof.Machine.exec (.hmapWrite via q val) s = .next { s with dev := d } ∧ d.on (.qctl q) fQCTL_HMAP_ILL u = true ∧
          d.get (.qctl q) fQCTL_HMAP_PART u = s.dev.get (.qctl q) fQCTL_HMAP_PART u ∧ d = { s.dev with regs := d.regs } ∧
          Safety.wordsKept s.dev d [(.qctl q, 0x204, u)]) ∧
      (NMap.get s.dev.hmapBusy q.val none = none → s.dev.hasSlice q.val (val.toNat % 64) = true →
        s.dev.partOk (val.toNat % 64) = true → s.dev.get (.qctl q) fQCTL_HMAP_PART u = val.toNat % 64 →
        ∃ d, Sys2Proof.Machine.exec (.hmapWrite via q val) s = .next { s with dev := d } ∧ d = { s.dev with regs := d.regs } ∧
          d.get (.qctl q) fQCTL_HMAP_PART u = val.toNat % 64 ∧ d.on (.qctl q) fQCTL_HMAP_BUSY u = s.dev.on (.qctl q) fQCTL_HMAP_BUSY u ∧
          Safety.wordsKept s.dev d [(.qctl q, 0x204, u)]) ∧
      (NMap.get s.dev.hmapBusy q.val none = none → s.dev.hasSlice q.val (val.toNat % 64) = true →
        s.dev.partOk (val.toNat % 64) = true → s.dev.get (.qctl q) fQCTL_HMAP_PART u ≠ val.toNat % 64 →
        ∃ d e : Dev, Sys2Proof.Machine.exec (.hmapWrite via q val) s = .next { s with dev := d } ∧ Safety.memoryKept s.dev d ∧
          e = { s.dev with regs := e.regs
                           hmapBusy := NMap.put s.dev.hmapBusy q.val (some (u, val.toNat % 64)) none } ∧
          e.on (.qctl q) fQCTL_HMAP_BUSY u = true ∧ e.get (.qctl q) fQCTL_HMAP_PART u = s.dev.get (.qctl q) fQCTL_HMAP_PART u ∧
          Safety.wordsKept s.dev e [(.qctl q, 0x204, u)] ∧ d = e.flushRange false (unitLine q.val u) unitLines)) ∧
    (∀ u new, NMap.get s.dev.hmapBusy q.val none = some (u, new) → u < 360 →
      (s.dev.rangeIdle (unitLine q.val u) unitLines = false → Sys2Proof.Machine.exec (.hmapChangeDone q) s = .next s) ∧
      (s.dev.rangeIdle (unitLine q.val u) unitLines = true →
        ∃ d e : Dev, Sys2Proof.Machine.exec (.hmapChangeDone q) s = .next { s with dev := d } ∧ Safety.memoryKept s.dev d ∧
          e = s.dev.flushRange false (unitLine q.val u) unitLines ∧
          d = { e with regs := d.regs
                       hmapBusy := NMap.put e.hmapBusy q.val none none } ∧
          d.get (.qctl q) fQCTL_HMAP_PART u = new % 64 ∧ d.on (.qctl q) fQCTL_HMAP_BUSY u = false ∧
          Safety.wordsKept e d [(.qctl q, 0x204, u)])) ∧
    (s.dev.writable via (pQctl q.val) = true → ∀ b, b = s.dev.get (.qctl q) fQCTL_CTRMAP_IDX_BLK 0 →
      ∃ d, Sys2Proof.Machine.exec (.ctrmapWrite via q val) s = .next { s with dev := d } ∧ Safety.memoryKept s.dev d ∧
        (s.dev.nPart ≤ val.toNat % 64 → d.on (.qctl q) fQCTL_CTRMAP_ILL b = true ∧
          d.get (.qctl q) fQCTL_CTRMAP_PART b = s.dev.get (.qctl q) fQCTL_CTRMAP_PART b ∧ d = { s.dev with regs := d.regs } ∧
          Safety.wordsKept s.dev d [(.qctl q, 0x384, b)]) ∧
        (val.toNat % 64 < s.dev.nPart → s.dev.get (.qctl q) fQCTL_CTRMAP_PART b = val.toNat % 64 → d = { s.dev with regs := d.regs } ∧
          Safety.wordsKept s.dev d [(.qctl q, 0x384, b)]) ∧
        (val.toNat % 64 < s.dev.nPart → s.dev.get (.qctl q) fQCTL_CTRMAP_PART b ≠ val.toNat % 64 →
          (∀ g, g < 64 → NMap.get d.arr (arrKey q.val (64 * b + g)) 0 = 0) ∧
          ((∀ g, g < 64 → (s.dev.grp (arrKey q.val (64 * b + g))).held = none) →
            d = { s.dev with regs := d.regs, arr := d.arr, grps := d.grps } ∧ Safety.wordsKept s.dev d [(.qctl q, 0x384, b)] ∧
            d.get (.qctl q) fQCTL_CTRMAP_PART b = val.toNat % 64 ∧
            (∀ g, g < 64 → (d.grp (arrKey q.val (64 * b + g))).tally = 0) ∧
            ∀ k, (k < arrKey q.val (64 * b) ∨ arrKey q.val (64 * b) + 64 ≤ k) →
              d.grp k = s.dev.grp k ∧ NMap.get d.arr k 0 = NMap.get s.dev.arr k 0)))

/-- DRAIN, REOPEN and CASE_PART_WRITE (R205, R206, R209): a slice neither draining nor drained starts to give up its lines; a
drained one reopens; a slice takes a partition only while it and every slice here of the old and the new partition are drained
and no owner of a home unit, present or to come, is left without one. Each is refused with ILL otherwise.  PCFG_WRITE,
PWIN_CTL_WRITE and QUOTA_WALK_DONE (R213, R215): a legal write takes its quota and starts a walk, BUSY reading 1, exactly when
the quota is lowered; an illegal one sets ILL and changes nothing else; at the end of the walks no BUSY of the partition reads
1. -/
def Obligations.SlicesAndQuotasChange : Prop :=
  (
  ∀ (via : Via) (q : Quad) (n : Fin 16) (val : Word) (s : State), s.dev.writable via (pCase q.val n.val) = true →
    (s.dev.on (.case q n) fCASE_MNT_BUSY 0 = false → s.dev.on (.case q n) fCASE_PART_DRAINED 0 = false →
      ∃ d e : Dev, Sys2Proof.Machine.exec (.drain via q n) s = .next { s with dev := d } ∧ Safety.memoryKept s.dev d ∧
        e = { s.dev with regs := e.regs } ∧ e.on (.case q n) fCASE_MNT_BUSY 0 = true ∧
        Safety.wordsKept s.dev e [(.case q n, 0x108, 0)] ∧ d = e.drainSlice q.val n.val) ∧
    (s.dev.on (.case q n) fCASE_MNT_BUSY 0 = false → s.dev.on (.case q n) fCASE_PART_DRAINED 0 = true →
      ∃ d, Sys2Proof.Machine.exec (.reopen via q n) s = .next { s with dev := d } ∧ d.on (.case q n) fCASE_PART_DRAINED 0 = false ∧
        d.slicePart q.val n.val = s.dev.slicePart q.val n.val ∧ d = { s.dev with regs := d.regs } ∧
        Safety.wordsKept s.dev d [(.case q n, 0x100, 0)]) ∧
    (∀ re : Bool, (s.dev.on (.case q n) fCASE_MNT_BUSY 0 = true ∨ s.dev.on (.case q n) fCASE_PART_DRAINED 0 = !re) →
      ∃ d, Sys2Proof.Machine.exec (if re then .reopen via q n else .drain via q n) s = .next { s with dev := d } ∧
        d.on (.case q n) fCASE_PART_ILL 0 = true ∧ d.on (.case q n) fCASE_PART_DRAINED 0 = s.dev.on (.case q n) fCASE_PART_DRAINED 0 ∧
        d.slicePart q.val n.val = s.dev.slicePart q.val n.val ∧ d = { s.dev with regs := d.regs } ∧
        Safety.wordsKept s.dev d [(.case q n, 0x100, 0)]) ∧
    (∀ old new ok, old = s.dev.slicePart q.val n.val → new = val.toNat % 64 →
      (ok ↔ (∀ i : Fin 16, (i = n ∨ s.dev.slicePart q.val i.val = old ∨ s.dev.slicePart q.val i.val = new) →
          s.dev.on (.case q i) fCASE_PART_DRAINED 0 = true) ∧
        (new = old ∨ (∃ i : Fin 16, i ≠ n ∧ s.dev.slicePart q.val i.val = old) ∨ s.dev.hasUnit q.val old = false) ∧ s.dev.partOk new = true) →
      ∃ d, Sys2Proof.Machine.exec (.casePartWrite via q n val) s = .next { s with dev := d } ∧ d = { s.dev with regs := d.regs } ∧
        Safety.wordsKept s.dev d [(.case q n, 0x100, 0)] ∧
        (ok → d.slicePart q.val n.val = new) ∧
        (¬ok → d.on (.case q n) fCASE_PART_ILL 0 = true ∧ d.slicePart q.val n.val = old))) ∧
  (
  ∀ (via : Via) (q : Quad) (val : Word) (s : State),
    (s.dev.writable via (pQctl q.val) = true → ∀ i rc pq, i = s.dev.get (.qctl q) fQCTL_PCFG_IDX_PART 0 → rc = val.toNat / 2 ^ 8 % 16 →
      pq = val.toNat % 16 →
      ∃ d, Sys2Proof.Machine.exec (.pcfgWrite via q val) s = .next { s with dev := d } ∧ d = { s.dev with regs := d.regs } ∧
        Safety.wordsKept s.dev d [(.qctl q, 0x20C, i)] ∧
        ((s.dev.on (.qctl q) fQCTL_PCFG_BUSY i = true ∨ 8 < rc ∨ 12 < pq ∨ 14 < pq + rc) →
          d.on (.qctl q) fQCTL_PCFG_ILL i = true ∧ d.get (.qctl q) fQCTL_PCFG_RCWAYS i = s.dev.get (.qctl q) fQCTL_PCFG_RCWAYS i ∧
          d.get (.qctl q) fQCTL_PCFG_PQUOTA i = s.dev.get (.qctl q) fQCTL_PCFG_PQUOTA i) ∧
        (s.dev.on (.qctl q) fQCTL_PCFG_BUSY i = false → rc ≤ 8 → pq ≤ 12 → pq + rc ≤ 14 →
          d.get (.qctl q) fQCTL_PCFG_RCWAYS i = rc ∧ d.get (.qctl q) fQCTL_PCFG_PQUOTA i = pq ∧
          d.on (.qctl q) fQCTL_PCFG_BUSY i = decide (pq < s.dev.get (.qctl q) fQCTL_PCFG_PQUOTA i))) ∧
    (s.dev.writable via (pQctl q.val) = true → ∀ i w, i = pwinIdx s.dev q.val → w = val.toNat / 2 ^ 8 % 16 →
      ∃ d, Sys2Proof.Machine.exec (.pwinCtlWrite via q val) s = .next { s with dev := d } ∧ d = { s.dev with regs := d.regs } ∧
        Safety.wordsKept s.dev d [(.qctl q, 0x21C, i)] ∧
        ((val.toNat % 4 = 3 ∨ 12 < w ∨ s.dev.on (.qctl q) fQCTL_PWIN_CTL_BUSY i = true) →
          d.on (.qctl q) fQCTL_PWIN_CTL_ILL i = true ∧ d.get (.qctl q) fQCTL_PWIN_CTL_WQUOTA i = s.dev.get (.qctl q) fQCTL_PWIN_CTL_WQUOTA i ∧
          d.get (.qctl q) fQCTL_PWIN_CTL_EN i = s.dev.get (.qctl q) fQCTL_PWIN_CTL_EN i ∧
          d.get (.qctl q) fQCTL_PWIN_CTL_CLASS i = s.dev.get (.qctl q) fQCTL_PWIN_CTL_CLASS i) ∧
        (val.toNat % 4 ≠ 3 → w ≤ 12 → s.dev.on (.qctl q) fQCTL_PWIN_CTL_BUSY i = false →
          d.get (.qctl q) fQCTL_PWIN_CTL_WQUOTA i = w ∧ d.get (.qctl q) fQCTL_PWIN_CTL_CLASS i = val.toNat % 4 ∧
          d.get (.qctl q) fQCTL_PWIN_CTL_EN i = val.toNat / 2 ^ 16 % 2 ∧
          d.on (.qctl q) fQCTL_PWIN_CTL_BUSY i = decide (w < s.dev.get (.qctl q) fQCTL_PWIN_CTL_WQUOTA i))) ∧
    (∀ p : Fin 64, ∃ d, Sys2Proof.Machine.exec (.quotaWalkDone q p) s = .next { s with dev := d } ∧
      d = { s.dev with regs := d.regs, lines := d.lines } ∧ d.on (.qctl q) fQCTL_PCFG_BUSY p.val = false ∧
      (∀ w, w < 16 → d.on (.qctl q) fQCTL_PWIN_CTL_BUSY (p.val * 16 + w) = false) ∧
      (∀ a sl l, (d.cline a sl l).map (fun c => { c with cls := 0 }) = (s.dev.cline a sl l).map (fun c => { c with cls := 0 })) ∧
      Safety.wordsKept s.dev d ((.qctl q, 0x20C, p.val) :: ((List.range 16).map (fun w => (Page.qctl q, 0x21C, p.val * 16 + w)) ++
        (List.finRange 16).map (fun n => (Page.case q n, 0x104, 0))))))

/-- FLUSH, CLEAN, RCINV, FLUSHP, FLUSHALL and MAINTENANCE_DONE (R222): one range operation at a time for a QCTL page, refused
with ILL for a range that is no whole number of pages of one stack here; RCINV leaves no peer line and keeps every other copy; a
Galley flushes one partition's lines or all; while BUSY reads 1 a further operation is refused with ILL. BUSY clears once
nothing is in flight on the range, or no line of the slice or Galley that the operation names is left. -/
def Obligations.MaintenanceOperations : Prop :=
  ∀ (via : Via) (s : State),
    (∀ (q : Quad) (lo n : Nat), s.dev.writable via (pQctl q.val) = true → lo = s.dev.get64 (.qctl q) 0x230 0 →
      n = s.dev.get (.qctl q) fQCTL_MNT_LEN_PAGES 0 * 32 →
      (∀ keep : Bool, s.dev.on (.qctl q) fQCTL_MNT_CMD_BUSY 0 = false → lo % 4096 = 0 → n ≠ 0 → lo / 2 ^ 37 / 5 = q.val →
        lo / 2 ^ 37 < 20 → lo % 2 ^ 37 + 128 * n ≤ 0x1200000000 →
        ∃ d e : Dev, Sys2Proof.Machine.exec (if keep then .clean via q else .flush via q) s = .next { s with dev := d } ∧
          Safety.memoryKept s.dev d ∧
          e = { s.dev with regs := e.regs
                           hmapBusy := NMap.put s.dev.hmapBusy (mntKey q.val keep) (some (lo / 128, n)) none } ∧
          e.on (.qctl q) fQCTL_MNT_CMD_BUSY 0 = true ∧ Safety.wordsKept s.dev e [(.qctl q, 0x23C, 0)] ∧
          d = e.flushRange keep (lo / 128) n) ∧
      (∀ keep : Bool, (s.dev.on (.qctl q) fQCTL_MNT_CMD_BUSY 0 = true ∨ lo % 4096 ≠ 0 ∨ n = 0 ∨ lo / 2 ^ 37 / 5 ≠ q.val ∨
          20 ≤ lo / 2 ^ 37 ∨ 0x1200000000 < lo % 2 ^ 37 + 128 * n) →
        ∃ d, Sys2Proof.Machine.exec (if keep then .clean via q else .flush via q) s = .next { s with dev := d } ∧
          d.on (.qctl q) fQCTL_MNT_CMD_ILL 0 = true ∧ d = { s.dev with regs := d.regs } ∧
          Safety.wordsKept s.dev d [(.qctl q, 0x23C, 0)]) ∧
      (s.dev.on (.qctl q) fQCTL_MNT_CMD_BUSY 0 = true →
        ∃ d, Sys2Proof.Machine.exec (.rcinv via q) s = .next { s with dev := d } ∧ d.on (.qctl q) fQCTL_MNT_CMD_ILL 0 = true ∧
          d = { s.dev with regs := d.regs } ∧ Safety.wordsKept s.dev d [(.qctl q, 0x23C, 0)]) ∧
      (s.dev.on (.qctl q) fQCTL_MNT_CMD_BUSY 0 = false →
        ∃ d, Sys2Proof.Machine.exec (.rcinv via q) s = .next { s with dev := d } ∧
          d = { s.dev with regs := d.regs, lines := d.lines, reqs := d.reqs } ∧ d.on (.qctl q) fQCTL_MNT_CMD_BUSY 0 = true ∧
          Safety.wordsKept s.dev d [(.qctl q, 0x23C, 0)] ∧
          (∀ sl l c, sl < 128 → l < 2 ^ 41 → d.cline (8 + q.val) sl l = some c → c.peer = false) ∧
          (∀ a sl l c, sl < 128 → l < 2 ^ 41 → s.dev.cline a sl l = some c → (a ≠ 8 + q.val ∨ c.peer = false) →
            d.cline a sl l = some c))) ∧
    (∀ (g : Die) (p : Fin 64), s.dev.writable via (.gal g) = true → s.dev.on (.gal g) fGAL_MNT_BUSY 0 = false → ∀ all : Bool,
      ∃ d e : Dev, Sys2Proof.Machine.exec (if all then .flushall via g else .flushp via g p) s = .next { s with dev := d } ∧
        Safety.memoryKept s.dev d ∧
        e = { s.dev with regs := e.regs
                         hmapBusy := NMap.put s.dev.hmapBusy (300 + g.val) (some (if all then (0, 0) else (1, p.val))) none } ∧
        e.on (.gal g) fGAL_MNT_BUSY 0 = true ∧ (all = false → e.get (.gal g) fGAL_MNT_PART 0 = p.val) ∧
        Safety.wordsKept s.dev e [(.gal g, 0x108, 0)] ∧ d = e.galFlush g.val (if all then none else some p.val)) ∧
    (∀ (g : Die) (p : Fin 64), s.dev.writable via (.gal g) = true → s.dev.on (.gal g) fGAL_MNT_BUSY 0 = true → ∀ all : Bool,
      ∃ d, Sys2Proof.Machine.exec (if all then .flushall via g else .flushp via g p) s = .next { s with dev := d } ∧
        d.on (.gal g) fGAL_MNT_ILL 0 = true ∧ d = { s.dev with regs := d.regs } ∧ Safety.wordsKept s.dev d [(.gal g, 0x108, 0)]) ∧
    (∀ q : Quad, s.dev.on (.qctl q) fQCTL_MNT_CMD_BUSY 0 = true → (∀ keep, NMap.get s.dev.hmapBusy (mntKey q.val keep) none = none) →
      ∃ d, Sys2Proof.Machine.exec (.maintenanceDone (.qctl q)) s = .next { s with dev := d } ∧ d = { s.dev with regs := d.regs } ∧
        d.on (.qctl q) fQCTL_MNT_CMD_BUSY 0 = false ∧ Safety.wordsKept s.dev d [(.qctl q, 0x23C, 0)]) ∧
    (∀ (q : Quad) keep lo n, s.dev.on (.qctl q) fQCTL_MNT_CMD_BUSY 0 = true →
      NMap.get s.dev.hmapBusy (mntKey q.val keep) none = some (lo, n) → NMap.get s.dev.hmapBusy (mntKey q.val (!keep)) none = none →
      (s.dev.rangeIdle lo n = true →
        ∃ d e : Dev, Sys2Proof.Machine.exec (.maintenanceDone (.qctl q)) s = .next { s with dev := d } ∧ Safety.memoryKept s.dev d ∧
          e = s.dev.flushRange keep lo n ∧
          d = { e with regs := d.regs
                       hmapBusy := NMap.put e.hmapBusy (mntKey q.val keep) none none } ∧
          d.on (.qctl q) fQCTL_MNT_CMD_BUSY 0 = false ∧ Safety.wordsKept e d [(.qctl q, 0x23C, 0)]) ∧
      (s.dev.rangeIdle lo n = false → Sys2Proof.Machine.exec (.maintenanceDone (.qctl q)) s = .next s)) ∧
    (∀ (q : Quad) (n : Fin 16), s.dev.on (.case q n) fCASE_MNT_BUSY 0 = true →
      ∃ d e : Dev, Sys2Proof.Machine.exec (.maintenanceDone (.slice q n)) s = .next { s with dev := d } ∧ Safety.memoryKept s.dev d ∧
        e = s.dev.drainSlice q.val n.val ∧
        ((∃ x ∈ e.lines, keyAgent x.1 = 8 + q.val ∧ keyPlace x.1 = n.val) → d = e) ∧
        ((∀ x ∈ e.lines, ¬(keyAgent x.1 = 8 + q.val ∧ keyPlace x.1 = n.val)) →
          d = { e with regs := d.regs } ∧ d.on (.case q n) fCASE_MNT_BUSY 0 = false ∧ d.on (.case q n) fCASE_PART_DRAINED 0 = true ∧
          Safety.wordsKept e d [(.case q n, 0x100, 0), (.case q n, 0x108, 0)])) ∧
    (∀ (g : Die) part, s.dev.on (.gal g) fGAL_MNT_BUSY 0 = true →
      NMap.get s.dev.hmapBusy (300 + g.val) none = some ((if part.isSome then 1 else 0), part.getD 0) →
      ∃ d e : Dev, Sys2Proof.Machine.exec (.maintenanceDone (.galley g)) s = .next { s with dev := d } ∧ Safety.memoryKept s.dev d ∧
        e = s.dev.galFlush g.val part ∧ ∀ here : (Nat × Option CLine) → Prop,
        (∀ x, here x ↔ keyAgent x.1 = g.val ∧ ∃ c, x.2 = some c ∧ ∀ p, part = some p → c.part = p) →
        ((∃ x ∈ e.lines, here x) → d = e) ∧
        ((∀ x ∈ e.lines, ¬here x) →
          d = { e with regs := d.regs, hmapBusy := NMap.put e.hmapBusy (300 + g.val) none none } ∧
          d.on (.gal g) fGAL_MNT_BUSY 0 = false ∧ Safety.wordsKept e d [(.gal g, 0x108, 0)]))

/-- SR_OPEN, SR_CHECK and SR_CLOSE (R217, R218, R224): OPEN of a legal region in OFF takes MEN and makes it OPEN with both
counts zero; CHECK of an OPEN one makes it CHECKING; CLOSE of an OPEN, ACTIVE or FAILED one waits for its copies to go; each is
refused with ILL, and the state stands, otherwise.  SR_CHECK_DONE and SR_CLOSE_DONE (R218, R219): once nothing is in flight on a
region its copies are flushed; a CHECKING entry is then ACTIVE when the digest of what is read matches, and FAILED, with its
cause, when it does not or a line is poisoned; a closed one is OFF. -/
def Obligations.StereoRegionsRun : Prop :=
  (
  ∀ (via : Via) (q : Quad) (s : State), s.dev.writable via (pQctl q.val) = true → ∀ e st, e = srIdx s.dev q.val →
    st = s.dev.srState q.val e →
    (∀ (men : Bool) (f : Dev), f = s.dev.set (.qctl q) fQCTL_SR_CMD_MEN e (if men then 1 else 0) →
      ∃ d, Sys2Proof.Machine.exec (.srOpen via q men) s = .next { s with dev := d } ∧
        d = { s.dev with regs := d.regs, srKey := d.srKey } ∧
        Safety.wordsKept s.dev d [(.qctl q, 0x260, e), (.qctl q, 0x264, e)] ∧
        (st = 0 → srIllegal f q.val e = false → d.srState q.val e = 1 ∧ d.srMen q.val e = men ∧
          d.get (.qctl q) fQCTL_SR_STAT_REPAIRS e = 0 ∧ d.get (.qctl q) fQCTL_SR_STAT_POISONED e = 0) ∧
        ((st ≠ 0 ∨ srIllegal f q.val e = true) → d.srState q.val e = st ∧ d.on (.qctl q) fQCTL_SR_STAT_ILL e = true ∧
          d.srKey = s.dev.srKey ∧ (st ≠ 0 → d.srMen q.val e = s.dev.srMen q.val e))) ∧
    (∃ d, Sys2Proof.Machine.exec (.srCheck via q) s = .next { s with dev := d } ∧ d = { s.dev with regs := d.regs } ∧
      Safety.wordsKept s.dev d [(.qctl q, 0x260, e), (.qctl q, 0x264, e)] ∧ d.srMen q.val e = s.dev.srMen q.val e ∧
      (st = 1 → d.srState q.val e = 2) ∧ (st ≠ 1 → d.srState q.val e = st ∧ d.on (.qctl q) fQCTL_SR_STAT_ILL e = true)) ∧
    (st = 1 ∨ st = 3 ∨ st = 4 →
      Sys2Proof.Machine.exec (.srClose via q) s =
        .next { s with dev := { s.dev with rbWait := Sys2Proof.Machine.Set.add s.dev.rbWait (2 * q.val + e) } }) ∧
    (¬(st = 1 ∨ st = 3 ∨ st = 4) →
      ∃ d, Sys2Proof.Machine.exec (.srClose via q) s = .next { s with dev := d } ∧ d = { s.dev with regs := d.regs } ∧
        Safety.wordsKept s.dev d [(.qctl q, 0x260, e), (.qctl q, 0x264, e)] ∧ d.srState q.val e = st ∧
        d.on (.qctl q) fQCTL_SR_STAT_ILL e = true)) ∧
  (
  ∀ (q : Quad) (e : Fin 2) (s : State) (lo n : Nat), lo = s.dev.srBase q.val e.val / 128 → n = s.dev.srSize q.val e.val / 128 →
    (s.dev.rangeIdle lo n = false →
      Sys2Proof.Machine.exec (.srCheckDone q e) s = .next s ∧ Sys2Proof.Machine.exec (.srCloseDone q e) s = .next s) ∧
    (s.dev.srState q.val e.val = 2 → s.dev.rangeIdle lo n = true → ∀ (f : Dev) (r : List Byte × Bool) (ok : Bool),
      f = (s.dev.flushRange false lo n).when ((s.dev.flushRange false lo n).srMen q.val e.val)
        (fun d => d.mirrorLines lo (d.srMir q.val e.val / 128) n) → r = (s.dev.flushRange false lo n).readCoherent (128 * lo) (128 * n) →
      ok = decide (leBytes 64 (sha512 (stereoDigest r.1 ((128 * n + 2 ^ 20 - 1) / 2 ^ 20))).toNat = srExpected f q.val e.val) →
      ∃ d g : Dev, Sys2Proof.Machine.exec (.srCheckDone q e) s = .next { s with dev := d } ∧ Safety.memoryKept s.dev d ∧
        g = { f with regs := g.regs } ∧ Safety.wordsKept f g [(.qctl q, 0x264, e.val)] ∧
        (r.2 = false → ok = true → g.srState q.val e.val = 3 ∧ d = g) ∧
        ((r.2 = true ∨ ok = false) → g.srState q.val e.val = 4 ∧
          g.get (.qctl q) fQCTL_SR_STAT_CAUSE e.val = (if r.2 then 2 else 1) ∧ ∃ synd, d = g.raise (.qctl q) 7 synd)) ∧
    (Set.has s.dev.rbWait (2 * q.val + e.val) = true → s.dev.rangeIdle lo n = true →
      ∃ d f : Dev, Sys2Proof.Machine.exec (.srCloseDone q e) s = .next { s with dev := d } ∧ Safety.memoryKept s.dev d ∧
        f = s.dev.flushRange false lo n ∧
        d = { f with regs := d.regs
                     rbWait := Set.del f.rbWait (2 * q.val + e.val)
                     srKey := d.srKey } ∧
        d.srState q.val e.val = 0 ∧ Safety.wordsKept f d [(.qctl q, 0x264, e.val)]))

/-- RDS, RDX, RDCUR, HOMEOP and HOME_QUEUE_DISPATCH (R240, R246, R287): a request reaches its home over links that carry, after
what its agent sent earlier about the line, and is metered there; while a transaction on its line is in flight, the line is
parked, its slice has no entry free or an earlier request waits, it joins the queue in order of arrival; else it starts. An
accumulate-write is first checked, and refused or given its place at its slice, unless its buffer is being cleared. The first of
a line's requests leaves the queue when nothing holds it.  RDS, RDX, RDCUR and HOMEOP of a line that no agent caches (R231,
R238, Table 9.5), from the home's own copy: a Galley or the host agent gets E and the entry EX names it, a Case gets S and the
entry SH lists it; RdX gives M and EX, with no data if FULL; RdCur leaves no entry; a write that does not fill the line is
merged into the home's copy, which becomes dirty, and is performed. No stack byte changes for the reads, and the home keeps its
copy, most recently used where its data went out.  DIR_LOOKUP (R236): the command of a line that is not of this bank sets ILL;
else the result is the entry as it stands: its state, BCAST and owner, zero where there is none, and whether a transaction is in
flight; the directory does not change. -/
def Obligations.HomeRequestsServed : Prop :=
  (
  ∀ (m : HomeMsg) (ecc : HomeEcc) (s : State) (l : Nat), l = m.line.toNat →
    (∀ k c, (k = .rds ∧ c = .rds m ecc ∨ k = .rdx ∧ c = .rdx m ecc ∨ k = .rdcur ∧ c = .rdcur m ecc ∨ k = .homeop ∧ c = .homeop m ecc) →
      (s.dev.inTurn m.agent.val l (fromAgent m.agent.val l) (isReq k m) = false → Sys2Proof.Machine.exec c s = .next s) ∧
      (s.dev.inTurn m.agent.val l (fromAgent m.agent.val l) (isReq k m) = true →
        (isStackLine l = false → Sys2Proof.Machine.exec c s = .next { s with dev := s.dev.takeRequest k m }) ∧
        (isStackLine l = true → ∀ (f : Dev) (h : HReq), h = s.dev.hreqOf k m ecc →
          f = (match s.dev.req m.req with
            | some r => (s.dev.takeRequest k m).when (decide (r.agent = 12 ∨ r.quad ≠ lineQuad l)) (fun d => d.enterCase (lineQuad l) r)
            | none => s.dev.takeRequest k m) →
          ((∀ r n v, f.req m.req = some r → r.op = .acc n v → k ≠ .homeop) →
            ((f.txn l ≠ none ∨ f.noEntry h = true ∨ f.lineParked l = true ∨ ∃ x ∈ f.homeq, x.line = l) →
              Sys2Proof.Machine.exec c s = .next { s with dev := { f with homeq := f.homeq ++ [h] } }) ∧
            (f.txn l = none → f.noEntry h = false → f.lineParked l = false → (∀ x ∈ f.homeq, x.line ≠ l) →
              Sys2Proof.Machine.exec c s = .next { s with dev := f.homeStart h })) ∧
          (∀ r n v, f.req m.req = some r → r.op = .acc n v → k = .homeop →
            (n = 0 → f.rbAt (lineQuad l) l 1 ≠ none → Sys2Proof.Machine.exec c s = .next { s with dev := { f with homeq := f.homeq ++ [h] } }) ∧
            ((n ≠ 0 ∨ f.rbAt (lineQuad l) l 1 = none) →
              (∀ cause, f.accRefusal r (f.homePart r) = some cause →
                Sys2Proof.Machine.exec c s = .next { s with
                  dev := (f.raise (pQctl (lineQuad l)) 4 (cause * 16384 + l % 16384)).turnAway r.id 4 }) ∧
              (f.accRefusal r (f.homePart r) = none → ∀ (g : Dev) slice,
                slice = (f.place l (f.placer l m.part.val) (lineQuad l)).getD 0 →
                g = { f with redq := f.redq ++ [(lineQuad l * 16 + slice, r.id)] } →
                Sys2Proof.Machine.exec c s = .next { s with
                  dev := (accLines r).foldl (fun d n => d.homeEnter { h with line := n, full := false }) g }))))) ) ∧
    ((s.dev.txn l ≠ none ∨ s.dev.lineParked l = true ∨ s.dev.makingRoom l = true ∨ (∀ x ∈ s.dev.homeq, x.line ≠ l)) →
      Sys2Proof.Machine.exec (.homeQueueDispatch m.line) s = .next s) ∧
    (s.dev.txn l = none → s.dev.lineParked l = false → s.dev.makingRoom l = false →
      ∀ pre r post, s.dev.homeq = pre ++ r :: post → r.line = l → (∀ x ∈ pre, x.line ≠ l) →
      (s.dev.noEntry r = true → Sys2Proof.Machine.exec (.homeQueueDispatch m.line) s = .next s) ∧
      (s.dev.noEntry r = false → ∀ x, s.dev.waitingAcc r = some x →
        Sys2Proof.Machine.exec (.homeQueueDispatch m.line) s = .next { s with dev := s.dev.accAdmit r x }) ∧
      (s.dev.noEntry r = false → s.dev.waitingAcc r = none →
        Sys2Proof.Machine.exec (.homeQueueDispatch m.line) s =
          .next { s with dev := ({ s.dev with homeq := pre ++ post } : Dev).homeStart r }))) ∧
  (
  ∀ (k : HKind) (c : Instr) (m : HomeMsg) (s : State) (l sl : Nat) (x : CLine) (h : HReq) (f : Dev), l = m.line.toNat →
    (k = .rds ∧ c = .rds m ⟨.clean, false, false⟩ ∨ k = .rdx ∧ c = .rdx m ⟨.clean, false, false⟩ ∨
      k = .rdcur ∧ c = .rdcur m ⟨.clean, false, false⟩ ∨ k = .homeop ∧ c = .homeop m ⟨.clean, false, false⟩) →
    s.dev.inTurn m.agent.val l (fromAgent m.agent.val l) (isReq k m) = true → isStackLine l = true →
    h = s.dev.hreqOf k m ⟨.clean, false, false⟩ →
    f = (match s.dev.req m.req with
      | some r => (s.dev.takeRequest k m).when (decide (r.agent = 12 ∨ r.quad ≠ lineQuad l)) (fun d => d.enterCase (lineQuad l) r)
      | none => s.dev.takeRequest k m) →
    f.txn l = none → f.noEntry h = false → f.lineParked l = false → (∀ y ∈ f.homeq, y.line ≠ l) →
    f.stereoLine l = false → f.dirEnt l = none → (newEntry k = true → f.setTaken l < 16) →
    f.caseCopy (lineQuad l) l m.part.val = some (sl, x) → x.held = false →
    (k ≠ .homeop → ∀ u lines, u = (if k = .rdx ∧ m.full = true then f.useCtr + 1 else f.useCtr + 2) →
      lines = (if k = .rdx ∧ m.full = true then f.lines
        else NMap.put f.lines (lineKeyOf (8 + lineQuad l) sl l) (some { x with used := u }) none) →
      ∃ d, Sys2Proof.Machine.exec c s = .next { s with dev := d } ∧ d.txn l = none ∧
        d = { f with wire := d.wire, dir := d.dir, txns := d.txns, useCtr := u, lines := lines } ∧
        (∀ n, n ≠ l → d.dirEnt n = f.dirEnt n ∧ d.txn n = f.txn n) ∧
        (k = .rds → (m.agent.val < 8 ∨ m.agent.val = 12) →
          d.wire = f.wire ++ [.reply (lineQuad l) m.agent.val l (some .e) (some (x.data.toNat, x.psn)) m.part.val] ∧
          d.dirEnt l = some (mkEntry 2 m.agent.val u)) ∧
        (k = .rds → ¬(m.agent.val < 8 ∨ m.agent.val = 12) →
          d.wire = f.wire ++ [.reply (lineQuad l) m.agent.val l (some .s) (some (x.data.toNat, x.psn)) m.part.val] ∧
          ∃ e, d.dirEnt l = some e ∧ e.st = 1 ∧ e.sharers = [m.agent.val] ∧ e.bcast = false) ∧
        (k = .rdx → d.wire = f.wire ++
            [.reply (lineQuad l) m.agent.val l (some .m) (if m.full then none else some (x.data.toNat, x.psn)) m.part.val] ∧
          d.dirEnt l = some (mkEntry 2 m.agent.val u)) ∧
        (k = .rdcur → d.wire = f.wire ++ [.reply (lineQuad l) m.agent.val l none (some (x.data.toNat, x.psn)) m.part.val] ∧
          d.dirEnt l = none)) ∧
    (k = .homeop → m.full = false → ∀ rq y, f.req m.req = some rq → rq.op = .wr → y = mergeLine x.data.toNat x.psn rq →
      ∃ d e : Dev, Sys2Proof.Machine.exec c s = .next { s with dev := d } ∧
        e = { f with lines := e.lines, dir := e.dir, txns := e.txns, useCtr := f.useCtr + 3 } ∧ e.txn l = none ∧ e.dirEnt l = none ∧
        e.cline (8 + lineQuad l) sl l =
          some { x with st := .h, dirty := true, data := BitVec.ofNat 1024 y.1, psn := y.2, used := f.useCtr + 3, held := false } ∧
        (∀ n, n ≠ l → e.dirEnt n = f.dirEnt n ∧ e.txn n = f.txn n) ∧
        (∀ n, n ≠ lineKeyOf (8 + lineQuad l) sl l → NMap.get e.lines n none = NMap.get f.lines n none) ∧
        d = (e.performed m.req).pumpAfter rq)) ∧
  (
  ∀ (via : Via) (q : Quad) (n : Fin 16) (s : State) (l : Nat), s.dev.writable via (pDir q.val n.val) = true →
    l = s.dev.get64 (.dir q n) 0x100 0 % 2 ^ 48 / 128 →
    ∃ d, Sys2Proof.Machine.exec (.dirLookup via q n) s = .next { s with dev := d } ∧ d = { s.dev with regs := d.regs } ∧
      ((isStackLine l = false ∨ lineQuad l ≠ q.val ∨ lineBankNo l ≠ n.val) → d.on (.dir q n) fDIR_LKCMD_ILL 0 = true ∧
        Safety.wordsKept s.dev d [(.dir q n, 0x108, 0)]) ∧
      (isStackLine l = true → lineQuad l = q.val → lineBankNo l = n.val → Safety.wordsKept s.dev d [(.dir q n, 0x10C, 0)] ∧
        ((∀ e, s.dev.dirEnt l = some e → e.st < 4) → d.on (.dir q n) fDIR_LKRES_TXN 0 = (s.dev.txn l).isSome) ∧
        (s.dev.dirEnt l = none → d.get (.dir q n) fDIR_LKRES_STATE 0 = 0 ∧ d.get (.dir q n) fDIR_LKRES_PTRS 0 = 0) ∧
        (∀ e o, s.dev.dirEnt l = some e → e.own? = some o → e.ptrs = [none, none, none] → o < 16 →
          d.get (.dir q n) fDIR_LKRES_STATE 0 = e.st ∧ d.get (.dir q n) fDIR_LKRES_OWNER 0 = o ∧
          d.on (.dir q n) fDIR_LKRES_BCAST 0 = e.bcast ∧ d.get (.dir q n) fDIR_LKRES_PTRS 0 = 0) ∧
        ∀ e a, s.dev.dirEnt l = some e → e.st = 1 → e.ptrs = [some a, none, none] → a < 16 →
          d.get (.dir q n) fDIR_LKRES_STATE 0 = 1 ∧ d.get (.dir q n) fDIR_LKRES_PTRS 0 = 16 + a))

/-- WB, EVE, ADDS and XFER (R238 Table 9.5, R240, R241): each, in its turn, is applied at once and never waits; a late one is
counted. A WB or EvE is acknowledged; the owner's WB gives the home its data and the entry keeps only sharers; its EvE removes
the entry; of any other agent it changes nothing more, but a WB for an entry that is lost gives its data; AddS adds its Galley
to the entry, or to those a transaction invalidates; Xfer of the owner's own Case makes it the owner, and one for a lost entry
is asked again. What the entry does not allow raises PROTO. -/
def Obligations.EvictionsAreApplied : Prop :=
  ∀ (m : HomeMsg) (s : State) (l a q : Nat), l = m.line.toNat → a = m.agent.val → q = lineQuad l → isStackLine l = true →
    (∀ k c, (k = .wb ∧ c = .wb m ∨ k = .eve ∧ c = .eve m) → s.dev.inTurn a l (fromAgent a l) (isReq k m) = true →
      ∀ (v : Svc) (g0 g : Dev), v = (s.dev.hreqOf k m ⟨.clean, false, false⟩).svc →
      g0 = ((s.dev.takeRequest k m).wireMsg (.ack a l)).when v.late (fun d => d.missAt q m.part.val v.tc) →
      g = (if a = 12 then g0.meter q 8 128 else if a < 8 ∧ a / 2 ≠ q ∧ k = .wb then g0.meter q a 128 else g0) →
      (∀ e x, g.dirEnt l = some e → e.own? = some x → x ≠ a → Sys2Proof.Machine.exec c s = .next { s with dev := g }) ∧
      ((∀ e, g.dirEnt l = some e → e.own? = none ∧ e.lost = false) →
        Sys2Proof.Machine.exec c s = .next { s with dev := g.proto l a (if k = .wb then 4 else 5) }) ∧
      (∀ e, g.dirEnt l = some e → e.lost = true → Sys2Proof.Machine.exec c s = .next { s with
        dev := g.when (k == .wb) (fun d => d.putHome l m.part.val m.data.toNat m.psn v) }) ∧
      (k = .wb → ∀ (e : DirEnt) (f : Dev), g.dirEnt l = some e → e.own? = some a →
        f = (g.putHome l m.part.val m.data.toNat m.psn v).setDir l
          (if e.st = 3 ∧ (e.bcast = true ∨ e.sharers ≠ []) then some { e with st := 1 } else none) →
        ∃ d, Sys2Proof.Machine.exec c s = .next { s with dev := d } ∧ Safety.memoryKept s.dev f ∧
          ((∀ t, f.txn l = some t → t.ownerGone = false) → d = f) ∧
          ∀ t, f.txn l = some t → t.ownerGone = true → d = (f.setTxn l (some { t with ownerGone := false })).evalTxn l) ∧
      (k = .eve → ∀ e, g.dirEnt l = some e → e.own? = some a →
        (e.st ≠ 2 → Sys2Proof.Machine.exec c s = .next { s with dev := g.proto l a 5 }) ∧
        (e.st = 2 → (∀ t, g.txn l = some t → t.ownerGone = false) → Sys2Proof.Machine.exec c s = .next { s with dev := g.setDir l none }) ∧
        (e.st = 2 → ∀ t, g.txn l = some t → t.ownerGone = true →
          Sys2Proof.Machine.exec c s = .next { s with dev := ((g.setDir l none).setTxn l (some { t with ownerGone := false })).evalTxn l }))) ∧
    (∀ g : Dev, g = s.dev.takeRequest .adds m → s.dev.inTurn a l (fromAgent a l) (isReq .adds m) = true →
      ((∀ t, g.txn l = some t → t.recalled = false ∧ t.req.kind ≠ .rdx ∧ t.req.kind ≠ .homeop) →
        (∀ e, g.dirEnt l = some e → e.st ≠ 2 →
          Sys2Proof.Machine.exec (.adds m) s = .next { s with dev := g.setDir l (some (e.addSharer (m.req % 8))) }) ∧
        (∀ e, g.dirEnt l = some e → e.st = 2 → e.owner = a →
          Sys2Proof.Machine.exec (.adds m) s = .next { s with dev := g.setDir l (some ({ e with st := 3 }.addSharer (m.req % 8))) }) ∧
        ((∀ e, g.dirEnt l = some e → e.st = 2 ∧ e.owner ≠ a) →
          Sys2Proof.Machine.exec (.adds m) s = .next { s with dev := (g.proto l a 6).wireMsg (.ack a l) })) ∧
      (∀ t, g.txn l = some t → (t.recalled = true ∨ t.req.kind = .rdx ∨ t.req.kind = .homeop) →
        Sys2Proof.Machine.exec (.adds m) s =
          .next { s with dev := (g.wireMsg (.snpInv (m.req % 8) l)).setTxn l (some { t with await := t.await ++ [m.req % 8] }) })) ∧
    (∀ (v : Svc) (g : Dev), v = (s.dev.hreqOf .xfer m ⟨.clean, false, false⟩).svc →
      g = (s.dev.takeRequest .xfer m).when v.late (fun d => d.missAt q m.part.val v.tc) →
      s.dev.inTurn a l (fromAgent a l) (isReq .xfer m) = true →
      (∀ e x, g.dirEnt l = some e → e.own? = some x → x < 8 → a = 8 + x / 2 → (∀ t, g.txn l = some t → t.ownerGone = false) →
        Sys2Proof.Machine.exec (.xfer m) s = .next { s with dev := g.setDir l (some { e with owner := a }) }) ∧
      (∀ e x t, g.dirEnt l = some e → e.own? = some x → x < 8 → a = 8 + x / 2 → g.txn l = some t → t.ownerGone = true →
        Sys2Proof.Machine.exec (.xfer m) s = .next { s with
          dev := ((g.setDir l (some { e with owner := a })).setTxn l (some { t with ownerGone := false })).evalTxn l }) ∧
      (∀ e x, g.dirEnt l = some e → e.own? = some x → ¬(x < 8 ∧ a = 8 + x / 2) →
        Sys2Proof.Machine.exec (.xfer m) s = .next { s with dev := g.wireMsg (.ack a l) }) ∧
      (∀ e, g.dirEnt l = some e → e.lost = true →
        ((∀ t, g.txn l = some t → a ∈ t.await) → Sys2Proof.Machine.exec (.xfer m) s = .next { s with dev := g }) ∧
        ∀ t, g.txn l = some t → a ∉ t.await → Sys2Proof.Machine.exec (.xfer m) s = .next { s with
          dev := (g.wireMsg (.snpOwn a (8 + q) l false)).setTxn l (some { t with await := t.await ++ [a] }) }) ∧
      ((∀ e, g.dirEnt l = some e → e.own? = none ∧ e.lost = false) →
        Sys2Proof.Machine.exec (.xfer m) s = .next { s with dev := (g.proto l a 7).wireMsg (.ack a l) }))

/-- SNPSHR, SNPOWN, SNPINV and SNPCUR (R239, R240, Table 9.6): an agent answers every snoop exactly once, from its state, the
replies sent to it earlier being taken first (the model's reading: log entry 13) and its lookup finding what its array error
leaves: M gives data and goes to O on SnpShr, O keeps it, E goes to S; M, O and E give data and go to I on SnpOwn, E none if
FULL; S acknowledges SnpOwn and SnpInv and goes to I; an owner keeps its state on SnpCur; SnpInv of an owner raises PROTO; else
the answer is absent.  SNOOP_ANSWER, DATA_REPLY and WB_ACK (R240, R241): what reaches its die over links that carry, in its
turn: an awaited answer is struck off, its data kept, and the entry moves as Table 9.5 says; with the last the transaction goes
on; an answer nobody awaits changes nothing; a reply is taken by its agent; an acknowledgement frees the ways of the evicted
line, which a line that waited for one takes with nothing else of it changed, and its agent's requests for the line go on. -/
def Obligations.SnoopsAndRepliesArrive : Prop :=
  (
  ∀ (m : SnoopMsg) (s : State) (l a : Nat), l = m.line.toNat → a = m.agent.val →
    ∀ (k : Nat) (c : Instr) (g f : Dev),
    (k = 0 ∧ c = .snpshr m ∨ k = 1 ∧ c = .snpown m ∨ k = 2 ∧ c = .snpinv m ∨ k = 3 ∧ c = .snpcur m) →
    s.dev.inTurn a l (toAgent a l) (isSnoop k a l) = true → s.dev.repliesCarry a l = true →
    g = { s.dev with wire := dropFirst (isSnoop k a l) s.dev.wire } → f = (g.deliverReplies a l g.wire.length).agentEcc a l m.ecc →
    (f.copyOf a l = none →
      Sys2Proof.Machine.exec c s = .next { s with dev := f.wireMsg (.answer a l none false false false false) }) ∧
    (∀ p x home data, f.copyOf a l = some (p, x) → home = (m.rcv.val == 8 + lineQuad l) → data = some (x.data.toNat, x.psn) →
      (k = 0 → (x.st = .m ∨ x.st = .o) → ∃ d e : Dev, Sys2Proof.Machine.exec c s = .next { s with dev := d } ∧
        d = e.answerSnoop a l home m.rcv.val (some .s) data true true true ∧ e = { f with lines := e.lines } ∧
        e.cline a p l = some { x with st := .o } ∧ ∀ k, k ≠ lineKeyOf a p l → NMap.get e.lines k none = NMap.get f.lines k none) ∧
      (k = 0 → x.st = .e → Sys2Proof.Machine.exec c s = .next { s with
        dev := (f.setCline a p l (some { x with st := .s })).answerSnoop a l home m.rcv.val (some .s) data true false false }) ∧
      (k = 1 → (x.st = .m ∨ x.st = .o ∨ x.st = .e) → Sys2Proof.Machine.exec c s = .next { s with
        dev := (f.setCline a p l none).answerSnoop a l home m.rcv.val none (if x.st = .e ∧ m.full = true then none else data) true
          false (decide (x.st ≠ .e)) }) ∧
      ((k = 1 ∨ k = 2) → x.st = .s → Sys2Proof.Machine.exec c s = .next { s with
        dev := (f.setCline a p l none).wireMsg (.answer a l none true false false false) }) ∧
      (k = 2 → (x.st = .m ∨ x.st = .o ∨ x.st = .e) → Sys2Proof.Machine.exec c s = .next { s with
        dev := (f.proto l a 10).wireMsg (.answer a l none true true false false) }) ∧
      (k = 3 → (x.st = .m ∨ x.st = .o ∨ x.st = .e) → Sys2Proof.Machine.exec c s = .next { s with
        dev := f.answerSnoop a l home m.rcv.val none data true true (decide (x.st ≠ .e)) }) ∧
      ((x.st = .h ∨ (k = 0 ∨ k = 3) ∧ x.st = .s) → Sys2Proof.Machine.exec c s = .next { s with
        dev := f.wireMsg (.answer a l none false false false false) }))) ∧
  (
  ∀ (x : Agent) (ln : BitVec 41) (s : State) (a l : Nat), a = x.val → l = ln.toNat →
    (∀ pre post data present keeps direct dirty, s.dev.wire = pre ++ .answer a l data present keeps direct dirty :: post →
      (∀ y ∈ pre, fromAgent a l y = false) → s.dev.carries (agentDie a) (lineQuad l) = true →
      ∀ f : Dev, f = { s.dev with wire := pre ++ post } →
      ((∀ t, s.dev.txn l = some t → a ∉ t.await) → Sys2Proof.Machine.exec (.snoopAnswer x ln) s = .next { s with dev := f }) ∧
      (∀ t t' g, s.dev.txn l = some t → a ∈ t.await →
        t' = { t with
          await := t.await.erase a
          got := if data.isSome then data else t.got
          gotDirty := if data.isSome then dirty else t.gotDirty
          direct := t.direct || direct
          ownerGone := t.ownerGone || ((s.dev.dirEnt l).bind DirEnt.own? == some a && !present) } →
        g = f.setTxn l (some t') →
        (((s.dev.dirEnt l).bind DirEnt.own? ≠ some a ∨ present = false) →
          Sys2Proof.Machine.exec (.snoopAnswer x ln) s = .next { s with dev := g.evalTxn l }) ∧
        (∀ e, s.dev.dirEnt l = some e → e.own? = some a → present = true →
          ((t.recalled = true ∨ t.req.kind = .rdx ∨ t.req.kind = .homeop) →
            Sys2Proof.Machine.exec (.snoopAnswer x ln) s = .next { s with dev := (g.setDir l (some { e with st := 1 })).evalTxn l }) ∧
          (t.recalled = false → t.req.kind = .rds →
            Sys2Proof.Machine.exec (.snoopAnswer x ln) s = .next { s with
              dev := (g.setDir l (some (if keeps then { e with st := 3 } else { e with st := 1 }.addSharer a))).evalTxn l }) ∧
          (t.recalled = false → t.req.kind = .rdcur →
            Sys2Proof.Machine.exec (.snoopAnswer x ln) s = .next { s with dev := g.evalTxn l })))) ∧
    (∀ pre post die st data part, s.dev.wire = pre ++ .reply die a l st data part :: post → (∀ y ∈ pre, isReply a l y = false) →
      s.dev.carries die (agentDie a) = true →
      Sys2Proof.Machine.exec (.dataReply x ln) s =
        .next { s with dev := ({ s.dev with wire := pre ++ post } : Dev).takeReply a l st data part }) ∧
    (∀ pre post, s.dev.wire = pre ++ .ack a l :: post → (∀ y ∈ pre, toAgent a l y = false) →
      s.dev.carries (agentDie a) (lineQuad l) = true →
      ∃ d f : Dev, Sys2Proof.Machine.exec (.wbAck x ln) s = .next { s with dev := d } ∧ Safety.memoryKept s.dev d ∧
        f = { s.dev with wire := pre ++ post, lines := f.lines } ∧
        d = (if 8 ≤ a ∧ a < 12 then f.pumpQuad (a - 8) l else f.pump a l) ∧
        (∀ p ∈ placesOf a, ∀ c, s.dev.cline a p l = some c → f.cline a p l = if c.leaving then none else some c) ∧
        ∀ n k, n < 2 ^ 41 → n ≠ l → k % 2 ^ 41 = n → (NMap.get f.lines k none).map (fun c => { c with way := 0 }) =
          (NMap.get s.dev.lines k none).map (fun c => { c with way := 0 })))

/-- MC_ISSUE (R266, R268, R269, R271, R272): a channel of a READY stack, or of a RETRAINING one, that serves writes stores the
one first in the order of R281 of those in its queue that are oldest on their line and whose bank is ready, and one that serves
reads issues the first of its ready reads so; each failed try raises CAPAR, and a request whose first try and four retries fail
is lost, with LINK; with nothing ready nothing happens, and with nothing queued a refresh that is due begins.  MC_READ_RETURN
(R258 to R260, R221, R272, R282): the oldest read of a channel returns, its stack's level noted: a lost one as poison; else the
line as a read finds it once what it met is dealt with. That is nothing where the line is poisoned already, a newer write of it
waits, or it cannot be read; a correction is counted; an uncorrectable line outside the stereo regions is poisoned in memory,
and one of an ACTIVE mirrored region whose other copy is good is repaired from it and counted. -/
def Obligations.ControllersIssueAndReturn : Prop :=
  (
  ∀ (q : Quad) (n : Fin 40) (s : State) (k now t : Nat) (c : McChan) (err : Dev → Fin 6 → Dev), k = mcKey q.val n.val →
    now = s.dev.now (mcClk q.val) → t = 5 * q.val + n.val / 8 → c = (s.dev.mc k).direct (s.dev.get (.mc q n) fMC_CFG_WHI 0) →
    (∀ d er, err d er = (if er.val = 5 then ((List.range 4).foldl (fun d i => d.raise (.mc q n) 4 (i + 1)) d).raise (pStk t) 1 (n.val % 8)
      else (List.range er.val).foldl (fun d i => d.raise (.mc q n) 4 (i + 1)) d)) →
    (s.dev.stkState t ≠ 2 → s.dev.stkState t ≠ 3 → ∀ er, Sys2Proof.Machine.exec (.mcIssue q n er) s = .next s) ∧
    ((s.dev.stkState t = 2 ∨ s.dev.stkState t = 3) → ∀ er : Fin 6,
      (c.reads = [] → c.writes = [] →
        Sys2Proof.Machine.exec (.mcIssue q n er) s = .next { s with dev := s.dev.setMc k ((s.dev.mc k).idleRefresh now) }) ∧
      ((c.reads ≠ [] ∨ c.writes ≠ []) →
        (c.writing = true → ∀ ws, ws = c.writeQ.filter (fun w => c.bankReady now w.line && firstOfLine c.writes w) →
          (ws = [] → Sys2Proof.Machine.exec (.mcIssue q n er) s = .next s) ∧
          (∀ w, firstLeast (fun w => svcKey w.svc false) ws = some w → ∀ f : Dev,
            f = s.dev.setMc k (({ c.openRow now w.line with
              writes := dropFirst (fun x => x == w) c.writes
              batch := c.batch - 1
              owed := c.owed || c.batch == 1 } : McChan).idleRefresh now) →
            (er.val < 5 → Sys2Proof.Machine.exec (.mcIssue q n er) s = .next { s with dev := (err f er).storeUnder w.line w.tag w.data w.psn }) ∧
            (er.val = 5 → Sys2Proof.Machine.exec (.mcIssue q n er) s = .next { s with dev := err f er } ∧ (err f er).mem = s.dev.mem))) ∧
        (c.writing = false → ∀ ls, ls = c.readQ.filter (c.bankReady now) →
          (ls = [] → Sys2Proof.Machine.exec (.mcIssue q n er) s = .next s) ∧
          (∀ l, firstLeast s.dev.lineKeyOrd ls = some l → ∀ f : Dev,
            f = s.dev.setMc k (({ c.openRow now l with
              reads := dropFirst (fun x => x == l) c.reads
              inflight := c.inflight ++ [(l, decide (er.val = 5))]
              owed := false } : McChan).idleRefresh now) →
            Sys2Proof.Machine.exec (.mcIssue q n er) s = .next { s with dev := err f er } ∧ (err f er).mem = s.dev.mem))))) ∧
  (
  ∀ (q : Quad) (n : Fin 40) (s : State) (k l : Nat) (lost : Bool) (rest : List (Nat × Bool)) (f : Dev) (mir : Ecc), k = mcKey q.val n.val →
    (s.dev.mc k).inflight = (l, lost) :: rest → f = (s.dev.setMc k { s.dev.mc k with inflight := rest }).replyLevel l →
    (∀ ecc, lost = true → Sys2Proof.Machine.exec (.mcReadReturn q n ecc mir) s = .next { s with dev := f.memReturn l (poisonBytes l) true }) ∧
    (lost = false → ∀ ecc, ∃ d e : Dev, Sys2Proof.Machine.exec (.mcReadReturn q n ecc mir) s = .next { s with dev := d } ∧
      d = (e.dramRead l).2.2.memReturn l (e.dramRead l).1 (e.dramRead l).2.1 ∧
      (ecc = .clean → e = f) ∧
      ((Set.has f.poisoned l = true ∨ f.queuedWrite l ≠ none ∨ f.keyTag l = none ∨ f.stkDead (lineStack l) = true) → e = f) ∧
      (Set.has f.poisoned l = false → f.queuedWrite l = none → (f.keyTag l).isSome = true → f.stkDead (lineStack l) = false →
        (∀ sy : Fin 72, ecc = .corrected sy → e = f.countCe l sy.val) ∧
        (ecc = .uncorrectable → f.srAt (128 * l) = none →
          e = (f.poisonLine l 2).raise (lineMc l) 1 (lineBank l * 2048) ∧ (e.dramRead l).2.1 = true ∧ Set.has e.poisoned l = true) ∧
        (ecc = .uncorrectable → mir = .clean → ∀ sq se m, f.mirrorOf l = some (sq, se, m) → (f.dramRead m).2.1 = false →
          e = (((f.dramRead m).2.2.storeLine l (f.dramRead m).1 false).bump (pQctl sq) fQCTL_SR_STAT_REPAIRS se 1).raise
            (pQctl sq) 5 (srSynd se l)) ∧
        (ecc = .beyond → e = f.beyondEcc l (fun d => d.demandUe l mir)))))

/-- PATROL_SCRUB and SCRUB_READ_DONE (R261): an enabled scrub of a READY stack reads one line of each channel and marks those a waiting
write has overtaken; each return clears its channel's bit and the last moves the scrub on; a corrected line is counted; an
uncorrectable one is dealt with unless it was overtaken, which poisons it outside the stereo regions; a line already poisoned is left
alone.

REFRESH_DUE, STACK_TEMP_HIGH and STACK_TEMP_NORMAL (R266, R267): on a READY stack a refresh that falls due with requests waiting is
postponed while REFPOST allows and begun else; with none waiting one that is due begins unless a bank is still under refresh; a
refresh takes the next bank of the channel for the time the model leaves free (log entry 132); a stack not READY is not refreshed;
the temperature is noted; nothing else changes. -/
def Obligations.StacksScrubbedAndRefreshed : Prop :=
  (
  ∀ (t : Stack) (s : State) (x : StackSt) (mir : Ecc), x = s.dev.stk t.val →
    (s.dev.on (pStk t.val) fSTK_SCRUB_EN 0 = true → x.scrubbing = 0 → s.dev.stkState t.val = 2 →
      ∃ d o, Sys2Proof.Machine.exec (.patrolScrub t) s = .next { s with dev := d } ∧
        d = s.dev.setStk t.val { x with scrubbing := 255, overtaken := o } ∧
        ∀ ch, ch < 8 → o.testBit ch = (s.dev.queuedWrite (scrubLine t.val ch x.scrubAt)).isSome) ∧
    ((s.dev.on (pStk t.val) fSTK_SCRUB_EN 0 = false ∨ x.scrubbing ≠ 0 ∨ s.dev.stkState t.val ≠ 2) →
      Sys2Proof.Machine.exec (.patrolScrub t) s = .next s) ∧
    (∀ (ch : Fin 8) ecc, x.scrubbing.testBit ch.val = false → Sys2Proof.Machine.exec (.scrubReadDone t ch ecc mir) s = .next s) ∧
    (∀ (ch : Fin 8) (l : Nat) (f : Dev), x.scrubbing.testBit ch.val = true → l = scrubLine t.val ch.val x.scrubAt →
      f = s.dev.setStk t.val { x with
        scrubbing := x.scrubbing - 2 ^ ch.val
        scrubAt := if x.scrubbing = 2 ^ ch.val then (x.scrubAt + 1) % chLines else x.scrubAt } →
      ((f.stk t.val).scrubbing.testBit ch.val = false ∧
        ∀ i, i ≠ ch.val → (f.stk t.val).scrubbing.testBit i = x.scrubbing.testBit i) ∧
      (Set.has s.dev.poisoned l = true → ∀ ecc, Sys2Proof.Machine.exec (.scrubReadDone t ch ecc mir) s = .next { s with dev := f }) ∧
      (Set.has s.dev.poisoned l = false →
        Sys2Proof.Machine.exec (.scrubReadDone t ch .clean mir) s = .next { s with dev := f } ∧
        (∀ sy : Fin 72, Sys2Proof.Machine.exec (.scrubReadDone t ch (.corrected sy) mir) s = .next { s with dev := f.countCe l sy.val }) ∧
        (∀ ecc, x.overtaken.testBit ch.val = true → (ecc = .uncorrectable ∨ ecc = .beyond) →
          Sys2Proof.Machine.exec (.scrubReadDone t ch ecc mir) s = .next { s with dev := f }) ∧
        (x.overtaken.testBit ch.val = false →
          Sys2Proof.Machine.exec (.scrubReadDone t ch .uncorrectable mir) s = .next { s with dev := f.scrubUe l mir } ∧
          Sys2Proof.Machine.exec (.scrubReadDone t ch .beyond mir) s = .next { s with dev := f.beyondEcc l (fun d => d.scrubUe l mir) } ∧
          (f.srAt (128 * l) = none → f.scrubUe l mir = (f.poisonLine l 3).raise (lineMc l) 2 (lineBank l * 2048) ∧
            Set.has (f.scrubUe l mir).poisoned l = true))))) ∧
  (
  ∀ (q : Quad) (n : Fin 40) (t : Stack) (s : State) (k now : Nat) (c begun : McChan), k = mcKey q.val n.val → c = s.dev.mc k →
    now = s.dev.now (mcClk q.val) →
    begun = { c with refresh := some (c.nextBank, now + Config.refreshCycles), nextBank := (c.nextBank + 1) % 32 } →
    (s.dev.stkState (5 * q.val + n.val / 8) ≠ 2 → Sys2Proof.Machine.exec (.refreshDue q n) s = .next s) ∧
    (s.dev.stkState (5 * q.val + n.val / 8) = 2 → c.reads = [] → c.writes = [] →
      ((∀ b till, c.refresh = some (b, till) → till ≤ now) →
        Sys2Proof.Machine.exec (.refreshDue q n) s = .next { s with dev := s.dev.setMc k begun }) ∧
      (∀ b till, c.refresh = some (b, till) → now < till →
        Sys2Proof.Machine.exec (.refreshDue q n) s = .next { s with dev := s.dev.setMc k { c with postponed := c.postponed + 1 } })) ∧
    (s.dev.stkState (5 * q.val + n.val / 8) = 2 → (c.reads ≠ [] ∨ c.writes ≠ []) →
      Sys2Proof.Machine.exec (.refreshDue q n) s = .next { s with
        dev := s.dev.setMc k (if c.postponed < s.dev.get (.mc q n) fMC_CFG_REFPOST 0 then { c with postponed := c.postponed + 1 }
          else begun) }) ∧
    Sys2Proof.Machine.exec (.stackTempHigh t) s = .next { s with dev := s.dev.setStk t.val { s.dev.stk t.val with hot := true } } ∧
    Sys2Proof.Machine.exec (.stackTempNormal t) s = .next { s with dev := s.dev.setStk t.val { s.dev.stk t.val with hot := false } })

/-- STK_TRAIN, STK_TRAIN_DONE, RETRAIN and RETRAIN_DONE (R271, R272): TRAIN of an UNTRAINED stack makes it TRAINING, RETRAIN of
a READY one RETRAINING with every postponed refresh issued; each is refused with ILL in every other state; the end, which a
retraining does not reach before its controllers are empty, makes the stack READY, its rows closed after a retraining and what
waited queued in order of arrival, or FAILED with TRAIN_FAIL, when waiting reads complete with poison.  ZEROU and ZEROU_DONE
(R264): on a READY stack a home unit that no stereo region and no reduction buffer reaches is flushed, ZBUSY reading 1; else ILL
is set. Once nothing is in flight on its lines every byte of the unit whose key is loaded reads 0, no other byte changes, and
ZBUSY clears. -/
def Obligations.StacksTrainAndUnitsZeroed : Prop :=
  (
  ∀ (via : Via) (t : Stack) (mask : Byte) (s : State) (p : Page) (key : Nat → Nat), p = pStk t.val →
    (∀ ch, key ch = mcKey (t.val / 5) (8 * (t.val % 5) + ch)) →
    (s.dev.writable via p = true →
      (∃ d, Sys2Proof.Machine.exec (.stkTrain via t) s = .next { s with dev := d } ∧ d = { s.dev with regs := d.regs } ∧
        Safety.wordsKept s.dev d [(p, 0x104, 0)] ∧ (s.dev.stkState t.val = 0 → d.stkState t.val = 1) ∧
        (s.dev.stkState t.val ≠ 0 → d.stkState t.val = s.dev.stkState t.val ∧ d.on p fSTK_STAT_ILL 0 = true)) ∧
      (∃ d, Sys2Proof.Machine.exec (.retrain via t) s = .next { s with dev := d } ∧ d = { s.dev with regs := d.regs, mcs := d.mcs } ∧
        Safety.wordsKept s.dev d [(p, 0x104, 0)] ∧
        (s.dev.stkState t.val = 2 → s.dev.on p fSTK_STAT_ZBUSY 0 = false → d.stkState t.val = 3 ∧
          (∀ ch, ch < 8 → d.mc (key ch) = { s.dev.mc (key ch) with
            nextBank := ((s.dev.mc (key ch)).nextBank + (s.dev.mc (key ch)).postponed) % 32
            postponed := 0 }) ∧ ∀ j, (∀ ch, ch < 8 → j ≠ key ch) → d.mc j = s.dev.mc j) ∧
        ((s.dev.stkState t.val ≠ 2 ∨ s.dev.on p fSTK_STAT_ZBUSY 0 = true) → d.stkState t.val = s.dev.stkState t.val ∧
          d.on p fSTK_STAT_ILL 0 = true ∧ d.mcs = s.dev.mcs))) ∧
    (s.dev.stkState t.val = 1 → ∃ d, Sys2Proof.Machine.exec (.stkTrainDone t true mask) s = .next { s with dev := d } ∧
      d = { s.dev with regs := d.regs, mcs := d.mcs } ∧ Safety.wordsKept s.dev d [(p, 0x104, 0)] ∧ d.stkState t.val = 2 ∧
      (∀ ch c, ch < 8 → c = s.dev.mc (key ch) → d.mc (key ch) = { c with
        reads := c.reads ++ c.waitR
        writes := c.writes ++ c.waitW
        waitR := []
        waitW := [] }) ∧
      ∀ j, (∀ ch, ch < 8 → j ≠ key ch) → d.mc j = s.dev.mc j) ∧
    (s.dev.stkState t.val ≠ 1 → ∀ ok, Sys2Proof.Machine.exec (.stkTrainDone t ok mask) s = .next s) ∧
    (s.dev.stkState t.val = 1 → ∃ d e : Dev, Sys2Proof.Machine.exec (.stkTrainDone t false mask) s = .next { s with dev := d } ∧
      Safety.memoryKept s.dev d ∧ e = { s.dev with regs := e.regs } ∧ Safety.wordsKept s.dev e [(p, 0x104, 0)] ∧ e.stkState t.val = 4 ∧
      d = (e.raise p 0 mask.toNat).failWaiting t.val) ∧
    ((∃ ch, ch < 8 ∧ ((s.dev.mc (key ch)).reads ≠ [] ∨ (s.dev.mc (key ch)).writes ≠ [] ∨ (s.dev.mc (key ch)).inflight ≠ [])) →
      ∀ ok, Sys2Proof.Machine.exec (.retrainDone t ok mask) s = .next s) ∧
    (s.dev.stkState t.val = 3 → (∀ ch, ch < 8 → (s.dev.mc (key ch)).reads = [] ∧ (s.dev.mc (key ch)).writes = [] ∧
        (s.dev.mc (key ch)).inflight = []) → ∃ d, Sys2Proof.Machine.exec (.retrainDone t true mask) s = .next { s with dev := d } ∧
      d = { s.dev with regs := d.regs, mcs := d.mcs } ∧ Safety.wordsKept s.dev d [(p, 0x104, 0)] ∧ d.stkState t.val = 2 ∧
      (∀ ch c, ch < 8 → c = s.dev.mc (key ch) → d.mc (key ch) = { c with
        rows := []
        nextBank := 0
        refresh := none
        reads := c.waitR
        writes := c.waitW
        waitR := []
        waitW := [] }) ∧
      ∀ j, (∀ ch, ch < 8 → j ≠ key ch) → d.mc j = s.dev.mc j) ∧
    (s.dev.stkState t.val = 3 → (∀ ch, ch < 8 → (s.dev.mc (key ch)).reads = [] ∧ (s.dev.mc (key ch)).writes = [] ∧
        (s.dev.mc (key ch)).inflight = []) → ∃ d e : Dev, Sys2Proof.Machine.exec (.retrainDone t false mask) s = .next { s with dev := d } ∧
      Safety.memoryKept s.dev d ∧ e = { s.dev with regs := e.regs, mcs := e.mcs } ∧ e.stkState t.val = 4 ∧
      d = (e.raise p 0 mask.toNat).failWaiting t.val) ∧
    (s.dev.stkState t.val ≠ 3 → ∀ ok, Sys2Proof.Machine.exec (.retrainDone t ok mask) s = .next s)) ∧
  (
  ∀ (via : Via) (t : Stack) (s : State) (p : Page) (q u : Nat), p = pStk t.val → q = t.val / 5 →
    u = 72 * (t.val % 5) + s.dev.get p fSTK_ZUNIT_UNIT 0 →
    (s.dev.writable via p = true → ∀ ok,
      (ok ↔ (∀ e, e < 64 → rbState s.dev q e = 0 ∨
          overlaps (128 * unitLine q u, 2 ^ 30) (rbBase s.dev q e, 384 * rbBlocks s.dev q e) = false) ∧
        (∀ e, e < 2 → s.dev.srState q e = 0 ∨ (srRanges s.dev q e).any (overlaps (128 * unitLine q u, 2 ^ 30)) = false) ∧
        s.dev.stkState t.val = 2 ∧ s.dev.on p fSTK_STAT_ZBUSY 0 = false) →
      (ok → ∃ d e : Dev, Sys2Proof.Machine.exec (.zerou via t) s = .next { s with dev := d } ∧ Safety.memoryKept s.dev d ∧
        e = ({ s.dev with regs := e.regs } : Dev).setStk t.val { s.dev.stk t.val with zunit := u } ∧
        Safety.wordsKept s.dev e [(p, 0x104, 0)] ∧ e.on p fSTK_STAT_ZBUSY 0 = true ∧ e.stkState t.val = 2 ∧
        d = e.flushRange false (unitLine q u) unitLines) ∧
      (¬ok → ∃ d, Sys2Proof.Machine.exec (.zerou via t) s = .next { s with dev := d } ∧ d = { s.dev with regs := d.regs } ∧
        Safety.wordsKept s.dev d [(p, 0x104, 0)] ∧ d.on p fSTK_STAT_ILL 0 = true ∧
        d.on p fSTK_STAT_ZBUSY 0 = s.dev.on p fSTK_STAT_ZBUSY 0)) ∧
    (∀ lo, lo = unitLine q (s.dev.stk t.val).zunit →
      ((s.dev.on p fSTK_STAT_ZBUSY 0 = false ∨ s.dev.rangeIdle lo unitLines = false ∨ s.dev.stkWaits t.val = true) →
        Sys2Proof.Machine.exec (.zerouDone t) s = .next s) ∧
      (s.dev.on p fSTK_STAT_ZBUSY 0 = true → s.dev.rangeIdle lo unitLines = true → s.dev.stkWaits t.val = false →
        ∃ d f : Dev, Sys2Proof.Machine.exec (.zerouDone t) s = .next { s with dev := d } ∧ f = s.dev.flushRange false lo unitLines ∧
          ((∀ l, lo ≤ l → l < lo + unitLines → (f.keyTag l).isSome = true) → Safety.wordsKept f d [(p, 0x104, 0)]) ∧
          d.on p fSTK_STAT_ZBUSY 0 = false ∧
          ∀ a, Memory.read d.mem a = if lo ≤ a / 128 ∧ a / 128 < lo + unitLines ∧ (f.keyTag (a / 128)).isSome = true then 0
            else Memory.read s.dev.mem a)))

/-- WR, ACCW, FLAG_PACKET, RD, ATOM_PACKET, RDATA, ATOMR, LANDED, REFUSE and ILLEGAL_PACKET (R298, R301, R302, R308, R314): a
port that is not receiving takes nothing, and an encrypted packet waits for the check of its block's tag. Else the packet's
flits are numbered and held in its share; a malformed one is discarded with PKT and keeps its credits; one for another device
waits; one for this device joins its share, whose first packet leaves it, if the reply store has room, and is served or taken.
The replies among the packets, at a port of a link in clear (R307, R308, R311, R312): one whose tag is not in use or whose
generation is old is counted STALE and changes nothing else, one whose request was abandoned frees its tag too; data frees its
tag and goes to its request; LANDED frees its tag and those its bitmap names, whose requests may be performed; REFUSE frees its
tag, is recorded, and its requests end in an address error. -/
def Obligations.PacketsArrive : Prop :=
  (
  ∀ (p : Port) (k m : Packet) (s : State) (kind : Nat) (c : Instr),
    (kind = 1 ∧ c = .wr p k ∨ kind = 2 ∧ c = .accw p k ∨ kind = 3 ∧ c = .flagPacket p k ∨ kind = 4 ∧ c = .rd p k ∨
      kind = 5 ∧ c = .atomPacket p k ∨ kind = 6 ∧ c = .rdata p k ∨ kind = 7 ∧ c = .atomr p k ∨ kind = 8 ∧ c = .landed p k ∨
      kind = 9 ∧ c = .refuse p k) → m = { k with kind := BitVec.ofNat 4 kind, rpl := decide (6 ≤ kind) } →
    (s.dev.receiving p.val = false → Sys2Proof.Machine.exec c s = .next s ∧ Sys2Proof.Machine.exec (.illegalPacket p k) s = .next s) ∧
    (s.dev.receiving p.val = true → s.dev.on (pXl p.val) fXL_CFG_ENC 0 = true → ∀ x, x = s.dev.port p.val →
      Sys2Proof.Machine.exec c s = .next { s with dev := s.dev.setPort p.val { x with unchecked := x.unchecked ++ [(kind, k)] } } ∧
      (pkBad k = true → Sys2Proof.Machine.exec (.illegalPacket p k) s =
        .next { s with dev := s.dev.setPort p.val { x with unchecked := x.unchecked ++ [(k.kind.toNat, k)] } })) ∧
    (s.dev.receiving p.val = true → s.dev.on (pXl p.val) fXL_CFG_ENC 0 = false →
      ∃ f g : Dev, f = { s.dev with ports := f.ports } ∧ (∀ i, i ≠ p.val → f.port i = s.dev.port i) ∧
      f.port p.val = { s.dev.port p.val with
        fseqRx := ((s.dev.port p.val).fseqRx + pkFlits m) % 65536
        held := NMap.put (s.dev.port p.val).held (pkShare m) (NMap.get (s.dev.port p.val).held (pkShare m) 0 + pkFlits m) 0 } ∧
      g = f.setPort p.val { f.port p.val with rxq := (s.dev.port p.val).rxq ++ [(pkShare m, m)] } ∧
      (pkBad m = true → Sys2Proof.Machine.exec c s = .next { s with dev := f.raise (pXl p.val) 10 (16 * kind) }) ∧
      (pkBad m = false → m.dst.toNat ≠ s.dev.devId → Sys2Proof.Machine.exec c s = .next { s with dev := g }) ∧
      (pkBad m = false → m.dst.toNat = s.dev.devId →
        (∀ sh : Fin 16, sh.val = pkShare m → Sys2Proof.Machine.exec c s = Sys2Proof.Machine.exec (.requestShareAccept p sh) { s with dev := g }) ∧
        ((∀ e ∈ (s.dev.port p.val).rxq, ¬(e.1 % 16 = pkShare m ∧ e.2.dst = m.dst)) →
          ((pkShare m % 2 = 0 ∧ 524288 < s.dev.replyStore p.val + replyBytes m) → Sys2Proof.Machine.exec c s = .next { s with dev := g }) ∧
          (¬(pkShare m % 2 = 0 ∧ 524288 < s.dev.replyStore p.val + replyBytes m) →
            ∃ d h : Dev, Sys2Proof.Machine.exec c s = .next { s with dev := d } ∧ Safety.memoryKept s.dev d ∧
              h = { s.dev with ports := h.ports } ∧ (h.port p.val).rxq = (s.dev.port p.val).rxq ∧
              NMap.get (h.port p.val).held (pkShare m) 0 = NMap.get (s.dev.port p.val).held (pkShare m) 0 ∧
              NMap.get (h.port p.val).freed (pkShare m) 0 = NMap.get (s.dev.port p.val).freed (pkShare m) 0 + pkFlits m ∧
              d = if kind < 6 then h.servePeer p.val m else h.takePeerReply p.val m)))) ∧
    (s.dev.receiving p.val = true → s.dev.on (pXl p.val) fXL_CFG_ENC 0 = false → pkBad k = true →
      ∀ (n : Packet), n = { k with rpl := if 1 ≤ k.kind.toNat ∧ k.kind.toNat ≤ 9 then decide (6 ≤ k.kind.toNat) else k.rpl } →
      ∃ d f : Dev, Sys2Proof.Machine.exec (.illegalPacket p k) s = .next { s with dev := d } ∧ f = { s.dev with ports := f.ports } ∧
        f.port p.val = { s.dev.port p.val with
          fseqRx := ((s.dev.port p.val).fseqRx + pkFlits n) % 65536
          held := NMap.put (s.dev.port p.val).held (pkShare n) (NMap.get (s.dev.port p.val).held (pkShare n) 0 + pkFlits n) 0 } ∧
        d = f.raise (pXl p.val) 10 (16 * k.kind.toNat))) ∧
  (
  ∀ (p : Port) (k m : Packet) (s : State) (kind q e : Nat) (c : Instr),
    (kind = 6 ∧ c = .rdata p k ∨ kind = 7 ∧ c = .atomr p k ∨ kind = 8 ∧ c = .landed p k ∨ kind = 9 ∧ c = .refuse p k) →
    m = { k with kind := BitVec.ofNat 4 kind, rpl := true } → s.dev.receiving p.val = true →
    s.dev.on (pXl p.val) fXL_CFG_ENC 0 = false → pkBad m = false →
    m.dst.toNat = s.dev.devId → (∀ x ∈ (s.dev.port p.val).rxq, ¬(x.1 % 16 = pkShare m ∧ x.2.dst = m.dst)) →
    q = k.tag.toNat / 16384 → e = k.tag.toNat % 16384 →
    ∃ d h : Dev, Sys2Proof.Machine.exec c s = .next { s with dev := d } ∧ h = { s.dev with ports := h.ports } ∧
      ((s.dev.tagAt q e = none ∨ k.gen.toNat ≠ s.dev.gen (.quad (quad q))) →
        d = (h.bump (pXl p.val) fXL_STALE_COUNT 0 1).raise (pXl p.val) 13 0) ∧
      (∀ t, s.dev.tagAt q e = some t → k.gen.toNat = s.dev.gen (.quad (quad q)) →
        (t.abandoned = true → d = ((h.setTag q e none).bump (pXl p.val) fXL_STALE_COUNT 0 1).raise (pXl p.val) 13 0) ∧
        (t.abandoned = false → kind < 8 → d = (h.setTag q e none).peerData t m) ∧
        (t.abandoned = false → kind = 8 → ∀ es rqs : List Nat,
          es = e :: ((List.range 32).filter (fun b => k.arg.toNat.testBit b)).map (fun b => (e + 1 + b) % 16384) →
          rqs = es.flatMap (fun x => ((s.dev.tagAt q x).map TagEnt.reqs).getD []) →
          d = rqs.foldl (fun d rq => d.peerLanded rq) (es.foldl (fun d x => d.setTag q x none) h)) ∧
        (t.abandoned = false → kind = 9 → d = t.reqs.foldl (fun d rq => d.addrError rq)
          ((h.setTag q e none).raise (pXl t.port) 12 (k.opx.toNat % 8 + 8 * (e % 8192))))))

/-- PEER_REQUEST_ISSUE, PACKET_SEND, REQUEST_SHARE_ACCEPT and LANDED_FLUSH (R294, R296, R299 to R302, R305, R307, R308): a
request, with the one for the other line of its 256-byte block where one packet serves both, leaves as packets once it has a tag
for each and a port is UP; a port with no replay due, outside a control slot, sends the best waiting packet it has credits for,
charges the credits and retains it; a share's first packet is served when the reply store has room; the oldest acknowledgement
leaves after 64 net cycles with those of its source and class that arose meanwhile and that its bitmap reaches. -/
def Obligations.PeerTrafficMoves : Prop :=
  ∀ (q : Quad) (p : Port) (sh : Fin 16) (s : State),
    (∀ rq r dev a x rc lo hi b pk es n, s.dev.req rq = some r → r.tgt = .peer dev a x rc → r.quad = q.val → r.issued = false →
      r.ready = false → s.dev.atomWaits rq = false → s.dev.releaseWaits r = false →
      (lo, hi, b) = (match s.dev.partner r with
        | none => (r, none, a)
        | some m => if m.id < r.id then (m, some r, a - a % 256) else (r, some m, a)) →
      pk = s.dev.packetsOf lo hi dev b rc → n = pk.1.length →
      es = pickTags (s.dev.takenTags q.val) 16384 (NMap.get s.dev.tagNext q.val 0) n →
      (es.length < n → Sys2Proof.Machine.exec (.peerRequestIssue q rq) s = .next s) ∧
      (n ≤ es.length → dev ≠ s.dev.devId → s.dev.routeOf r.cli q.val dev = none →
        Sys2Proof.Machine.exec (.peerRequestIssue q rq) s = .next s) ∧
      (n ≤ es.length → dev ≠ s.dev.devId → ∀ o, s.dev.routeOf r.cli q.val dev = some (o, true) →
        Sys2Proof.Machine.exec (.peerRequestIssue q rq) s = .next { s with dev := s.dev.hostFenced rq }) ∧
      (n ≤ es.length → (dev = s.dev.devId ∨ ∃ o, s.dev.routeOf r.cli q.val dev = some (o, false)) →
        ∃ d f : Dev, Sys2Proof.Machine.exec (.peerRequestIssue q rq) s = .next { s with dev := d } ∧ d.mem = s.dev.mem ∧
          f = (match hi with | none => pk.2.lowerPeer lo | some h => (pk.2.lowerPeer lo).lowerPeer h) ∧
          d = f.sendPeer q.val dev r.cli ⟨lo.id, hi.map (fun h => h.id), 0, s.dev.gen (.quad q), none, false⟩ (pk.1.zip es))) ∧
    (∀ x, x = s.dev.port p.val →
      ((s.dev.portUp p.val = false ∨ s.dev.inReset (pXl p.val) = true ∨ x.replayDue = true ∨ x.slot % 21 = 20) →
        Sys2Proof.Machine.exec (.packetSend p) s = .next s) ∧
      (s.dev.portUp p.val = true → s.dev.inReset (pXl p.val) = false → x.replayDue = false → x.slot % 21 ≠ 20 → ∀ best,
        best = s.dev.bestPkt p.val ((s.dev.sendable p.val).filter (fun e => e.2.2.rpl || !s.dev.on (pXl p.val) fBLK_CTL_QREQ 0)) →
        (best = none → Sys2Proof.Machine.exec (.packetSend p) s = .next s) ∧
        (∀ e k, best = some e → k = s.dev.asSent p.val e.1 e.2.2 →
          ∃ d, Sys2Proof.Machine.exec (.packetSend p) s = .next { s with dev := d } ∧
            d = { s.dev with ports := d.ports, tags := d.tags, out := d.out } ∧
            (d.port p.val).fseqTx = (x.fseqTx + pkFlits k) % 65536 ∧ (d.port p.val).retry = x.retry ++ [(x.fseqTx, k)] ∧
            NMap.get (d.port p.val).credits (pkShare k) 0 = NMap.get x.credits (pkShare k) 0 - pkFlits k ∧
            (d.port p.val).slot = (x.takeSlots (pkFlits k)).slot ∧ (d.port p.val).carry = (x.takeSlots (pkFlits k)).carry ∧
            (s.dev.on (pXl p.val) fXL_CFG_ENC 0 = false → d.out = s.dev.out ++ [.packet p.val k 0] ∧ (d.port p.val).plain = x.plain) ∧
            (s.dev.on (pXl p.val) fXL_CFG_ENC 0 = true → d.out = s.dev.out ∧ (d.port p.val).plain = x.plain ++ pkFlitBytes k)))) ∧
    ((s.dev.shareHead p.val sh.val = none ∨
        (∃ e, s.dev.shareHead p.val sh.val = some e ∧ sh.val % 2 = 0 ∧ 524288 < s.dev.replyStore p.val + replyBytes e.2)) →
      Sys2Proof.Machine.exec (.requestShareAccept p sh) s = .next s) ∧
    (∀ e, s.dev.shareHead p.val sh.val = some e → (sh.val % 2 = 1 ∨ s.dev.replyStore p.val + replyBytes e.2 ≤ 524288) →
      ∃ d h : Dev, Sys2Proof.Machine.exec (.requestShareAccept p sh) s = .next { s with dev := d } ∧ Safety.memoryKept s.dev d ∧
        h = (s.dev.modPort p.val (fun x => { x with rxq := dropFirst (fun y => decide (y = e)) x.rxq })).freeFlits p.val e.1 e.2 ∧
        d = if sh.val % 2 = 0 then h.servePeer p.val e.2 else h.takePeerReply p.val e.2) ∧
    ((s.dev.port p.val).landings = [] → Sys2Proof.Machine.exec (.landedFlush p) s = .next s) ∧
    (∀ x rest now, (s.dev.port p.val).landings = x :: rest → now = s.dev.now (netClk (p.val / 4)) → ∀ reach : Landing → Prop,
      (∀ y, reach y ↔ y.dst = x.dst ∧ y.gen = x.gen ∧ y.svc.tc = x.svc.tc ∧ y.tag / 16384 = x.tag / 16384 ∧ y.at_ ≤ x.at_ + 64 ∧
        1 ≤ (y.tag + 16384 - x.tag) % 16384 ∧ (y.tag + 16384 - x.tag) % 16384 ≤ 32) →
      (now < x.at_ + 64 → Sys2Proof.Machine.exec (.landedFlush p) s = .next s) ∧
      (x.at_ + 64 ≤ now → ∃ d left bits late, Sys2Proof.Machine.exec (.landedFlush p) s = .next { s with dev := d } ∧
        (∀ y, y ∈ left ↔ y ∈ rest ∧ ¬reach y) ∧
        (∀ b : Nat, b < 32 → (Nat.testBit bits b = true ↔ ∃ y ∈ rest, reach y ∧ (y.tag + 16384 - x.tag) % 16384 = b + 1)) ∧
        (late = true ↔ x.svc.late = true ∨ ∃ y ∈ rest, reach y ∧ y.svc.late = true) ∧
        d = (s.dev.modPort p.val (fun z => { z with landings := left })).replyPkt p.val
          { pktBlank 8 x.dst s.dev.devId x.tag x.gen x.svc.tc x.svc.budget late with arg := BitVec.ofNat 32 bits }))

/-- LINK_CONTROL_FLIT, FEC_UNCORRECTABLE, ENCRYPTED_BLOCK_CHECK and CONTROL_SLOT (R294, R301, R304 to R306, R314, R316, R321):
at a port that is UP a control flit brings credits and what the peer has received, a new NAK makes a replay due, and RTRN
retrains; a corrected flit is counted; a lost one makes the port ask for a replay; a good block tag clears the failures and
releases the block's packets, a bad one loses them, and the third in a row takes the port DOWN; a control slot returns at most
63 credits of each share, says what was received and sends a replay that is due, in clear or as blocks. A FENCED port's control
slot shows FENCE and freezes its credits. -/
def Obligations.LinkControlFlows : Prop :=
  ∀ (p : Port) (s : State) (x : PortSt), x = s.dev.port p.val →
    (s.dev.xlState p.val = 2 →
      (∀ f : CtlFlit, f.checked = true →
        ∃ d g h : Dev, Sys2Proof.Machine.exec (.linkControlFlit p f) s = .next { s with dev := d } ∧ g = { s.dev with ports := g.ports } ∧
          (∀ i, i ≠ p.val → g.port i = s.dev.port i) ∧
          g.port p.val = { x with
            lostCtl := 0
            peerFence := f.fence
            credits := (g.port p.val).credits
            credSeen := (g.port p.val).credSeen
            retry := x.retry.filter (fun e => after f.ackseq.toNat e.1 (pkFlits e.2) != 0)
            nak := x.nak && !(f.replay && f.nakid.toNat == x.nakId) } ∧
          (∀ j, j < 16 → NMap.get (g.port p.val).credSeen j 0 = (f.cred.getD j 0).toNat ∧
            NMap.get (g.port p.val).credits j 0 =
              NMap.get x.credits j 0 + (((f.cred.getD j 0).toNat + 256 - NMap.get x.credSeen j 0) % 256 : Nat)) ∧
          ((f.nak = false ∨ x.answered = some f.nakid.toNat) → h = g) ∧
          (f.nak = true → x.answered ≠ some f.nakid.toNat → h = { g with ports := h.ports } ∧
            h.port p.val = { g.port p.val with
              answered := some f.nakid.toNat
              replayDue := true
              replayFrom := f.ackseq.toNat
              credits := (g.port p.val).retry.foldl (fun m e => NMap.put m (pkShare e.2)
                (NMap.get m (pkShare e.2) 0 + (after f.ackseq.toNat e.1 (pkFlits e.2) : Nat)) 0) (g.port p.val).credits }) ∧
          d = if f.rtrn then h.fastRetrain p.val 2 else h) ∧
      (∀ f : CtlFlit, f.checked = false →
        Sys2Proof.Machine.exec (.linkControlFlit p f) s = Sys2Proof.Machine.exec (.fecUncorrectable p .control) s ∧
        Sys2Proof.Machine.exec (.linkControlFlit p f) s = .next { s with
          dev := if x.lostCtl < 2 then s.dev.setPort p.val { x with lostCtl := x.lostCtl + 1 }
            else (s.dev.setPort p.val { x with lostCtl := x.lostCtl + 1 }).fastRetrain p.val 1 }) ∧
      (∀ lane, Sys2Proof.Machine.exec (.fecUncorrectable p (.fecCorrected lane)) s = .next { s with
        dev := (s.dev.bump (pXl p.val) fXL_FECCE_COUNT 0 1).raise (pXl p.val) 0 lane.val }) ∧
      (∀ w n, (w = .fec ∧ n = 1 ∨ w = .crc ∧ n = 2) → ∀ f : Dev, f = s.dev.raise (pXl p.val) n x.fseqRx →
        (x.nak = true → Sys2Proof.Machine.exec (.fecUncorrectable p w) s = .next { s with dev := f }) ∧
        (x.nak = false → ∀ same, same = (if x.nakAck = x.fseqRx then x.nakSame + 1 else 1) → ∀ g : Dev,
          g = f.setPort p.val { x with nak := true, nakId := (x.nakId + 1) % 16, nakSame := same, nakAck := x.fseqRx } →
          Sys2Proof.Machine.exec (.fecUncorrectable p w) s = .next { s with dev := if same < 8 then g else g.fastRetrain p.val 0 })) ∧
      (s.dev.on (pXl p.val) fXL_CFG_ENC 0 = false → ∀ ok, Sys2Proof.Machine.exec (.encryptedBlockCheck p ok) s = .next s ∧
        Sys2Proof.Machine.exec (.fecUncorrectable p .tag) s = .next s) ∧
      (s.dev.on (pXl p.val) fXL_CFG_ENC 0 = true →
        (∀ f : Dev, f = s.dev.setPort p.val { x with rxBlock := x.rxBlock + 1, tagFails := 0, unchecked := [] } →
          Sys2Proof.Machine.exec (.encryptedBlockCheck p true) s = .next { s with
            dev := x.unchecked.foldl (fun d e => d.takePkt p.val e.1 e.2) f }) ∧
        (∀ c y, (c = .encryptedBlockCheck p false ∧ y = { x with rxBlock := x.rxBlock + 1 } ∨ c = .fecUncorrectable p .tag ∧ y = x) →
          ∃ d g : Dev, Sys2Proof.Machine.exec c s = .next { s with dev := d } ∧
            g = (s.dev.setPort p.val { y with tagFails := x.tagFails + 1, unchecked := [] }).loseFlits p.val 3 ∧
            (x.tagFails < 2 → d = g) ∧ (2 ≤ x.tagFails → d = (g.portDown p.val 7).set (pXl p.val) fXL_STAT_CAUSE 0 7))) ∧
      (∃ d f, Sys2Proof.Machine.exec (.controlSlot p) s = .next { s with dev := d } ∧ f.checked = true ∧ f.fence = false ∧
        f.ackseq = BitVec.ofNat 16 x.fseqRx ∧ f.nak = (x.nak && !x.replayDue) ∧ f.replay = x.replayDue ∧ f.rtrn = x.rtrn ∧
        d = { s.dev with regs := d.regs, ports := d.ports, out := d.out } ∧
        (s.dev.on (pXl p.val) fXL_CFG_ENC 0 = false →
          d.out = s.dev.out ++ OutMsg.ctl p.val f (leBytes 4 (crc32 (ctlBytes f)) ++ leBytes 8 0) ::
            (if x.replayDue then x.retry.map (fun e =>
              OutMsg.packet p.val e.2 (pkFlits e.2 - after x.replayFrom e.1 (pkFlits e.2))) else [])) ∧
        (s.dev.on (pXl p.val) fXL_CFG_ENC 0 = true → ∃ cipher check, d.out = s.dev.out ++ [.block p.val cipher, .ctl p.val f check]) ∧
        (x.replayDue = false → d.regs = s.dev.regs) ∧ (d.port p.val).replayDue = false ∧
        ∀ j, j < 16 → NMap.get (d.port p.val).credSent j 0 =
            NMap.get x.credSent j 0 + min 63 (NMap.get x.freed j 0 - NMap.get x.credSent j 0) ∧
          f.cred.getD j 0 = BitVec.ofNat 8 (NMap.get (d.port p.val).credSent j 0))) ∧
    (s.dev.xlState p.val = 3 →
      ∃ d f, Sys2Proof.Machine.exec (.controlSlot p) s = .next { s with dev := d } ∧ d = { s.dev with ports := d.ports, out := d.out } ∧
        f.fence = true ∧ f.replay = false ∧ f.ackseq = BitVec.ofNat 16 x.fseqRx ∧
        (s.dev.on (pXl p.val) fXL_CFG_ENC 0 = false →
          d.out = s.dev.out ++ [.ctl p.val f (leBytes 4 (crc32 (ctlBytes f)) ++ leBytes 8 0)]) ∧
        ∀ j, j < 16 → NMap.get (d.port p.val).credSent j 0 = NMap.get x.credSent j 0 ∧
          f.cred.getD j 0 = BitVec.ofNat 8 (NMap.get x.credSent j 0)) ∧
    (s.dev.xlState p.val ≠ 2 → s.dev.xlState p.val ≠ 3 → ¬(s.dev.xlState p.val = 1 ∧ x.rtrn = true) →
      Sys2Proof.Machine.exec (.controlSlot p) s = .next s) ∧
    (s.dev.xlState p.val ≠ 2 → ∀ f w ok, Sys2Proof.Machine.exec (.linkControlFlit p f) s = .next s ∧
      Sys2Proof.Machine.exec (.fecUncorrectable p w) s = .next s ∧ Sys2Proof.Machine.exec (.encryptedBlockCheck p ok) s = .next s)

/-- XL_TRAIN, XL_RETRAIN, XL_DOWN, XL_TRAIN_FAIL and XL_AUTO_TRAIN (R316, R317, R320): each command is taken in the states that
allow it and refused with ILL in the others; a failed fast retraining becomes a full one; a failed full one leaves the port
DOWN, or waiting for the coordinator with COORD; a DOWN port without COORD trains by itself after 10 ms.  XL_TRAIN_COMPLETE
(R317, R318, R455; Table 12.7): training that finds both ends alike brings the port UP, with the peer recorded, its charge, and
a new epoch, which an encrypted link takes from both ends' with the peer verified; towards a peer of another generation it
starts over with all its credits, and towards the same it sends again what the peer has not received; an end that differs, or
without the identity encryption asks for, fails the training with its cause; a port not TRAINING, or in reset, is left alone. -/
def Obligations.PortsTrainAndFall : Prop :=
  (
  ∀ (via : Via) (p : Port) (s : State) (g : Page) (st : Nat) (x : PortSt), g = pXl p.val → st = s.dev.xlState p.val →
    x = s.dev.port p.val →
    (s.dev.writable via g = true → ∀ c new y,
      (c = .xlTrain via p ∧ new = 1 ∧ (st = 0 ∨ st = 4) ∧ y = { x with fast := false, noAuto := false } ∨
        c = .xlRetrain via p ∧ new = 1 ∧ st = 2 ∧ y = { x with fast := true } ∨
        c = .xlDown via p ∧ new = 0 ∧ st ≠ 3 ∧
          y = { x with fast := false, noAuto := true, downAt := s.dev.now (netClk (p.val / 4)) }) →
      ∃ d, Sys2Proof.Machine.exec c s = .next { s with dev := d } ∧ d = { s.dev with regs := d.regs, ports := d.ports } ∧
        d.xlState p.val = new ∧ d.port p.val = y ∧ (∀ i, i ≠ p.val → d.port i = s.dev.port i) ∧
        Safety.wordsKept s.dev d [(g, 0x108, 0)]) ∧
    (s.dev.writable via g = true → ∀ c, (c = .xlTrain via p ∧ st ≠ 0 ∧ st ≠ 4 ∨ c = .xlRetrain via p ∧ st ≠ 2 ∨ c = .xlDown via p ∧ st = 3) →
      ∃ d, Sys2Proof.Machine.exec c s = .next { s with dev := d } ∧ d = { s.dev with regs := d.regs } ∧ d.on g fXL_STAT_ILL 0 = true ∧
        d.xlState p.val = st ∧ Safety.wordsKept s.dev d [(g, 0x108, 0)]) ∧
    (∀ cause, st ≠ 1 → Sys2Proof.Machine.exec (.xlTrainFail p cause) s = .next s) ∧
    (∀ cause, st = 1 → ∃ d e f : Dev, Sys2Proof.Machine.exec (.xlTrainFail p cause) s = .next { s with dev := d } ∧
      e = { s.dev with regs := e.regs } ∧ e.get g fXL_STAT_CAUSE 0 = cause.val ∧ Safety.wordsKept s.dev e [(g, 0x108, 0)] ∧
      f = e.raise g 6 cause.val ∧
      (x.fast = true → d = f.setPort p.val { x with fast := false, rtrn := false }) ∧
      (x.fast = false → s.dev.coord p.val = false → d.xlState p.val = 0 ∧ d = { f with regs := d.regs, ports := d.ports } ∧
        d.port p.val = { x with rtrn := false, downAt := s.dev.now (netClk (p.val / 4)) }) ∧
      (x.fast = false → s.dev.coord p.val = true → ∃ h : Dev, h = { f with regs := h.regs, ports := h.ports } ∧ h.xlState p.val = 4 ∧
        d = h.notice (h.get g fXL_PEER_DEV 0) 1 p.val)) ∧
    ((st ≠ 0 ∨ s.dev.coord p.val = true ∨ x.noAuto = true ∨ s.dev.inReset g = true ∨ s.dev.now (netClk (p.val / 4)) < x.downAt + 18000000) →
      Sys2Proof.Machine.exec (.xlAutoTrain p) s = .next s) ∧
    (st = 0 → s.dev.coord p.val = false → x.noAuto = false → s.dev.inReset g = false →
      x.downAt + 18000000 ≤ s.dev.now (netClk (p.val / 4)) →
      ∃ d, Sys2Proof.Machine.exec (.xlAutoTrain p) s = .next { s with dev := d } ∧ d = { s.dev with regs := d.regs, ports := d.ports } ∧
        d.xlState p.val = 1 ∧ d.port p.val = { x with fast := false } ∧ Safety.wordsKept s.dev d [(g, 0x108, 0)])) ∧
  (
  ∀ (p : Port) (i : PeerInfo) (s : State) (g : Page) (x : PortSt), g = pXl p.val → x = s.dev.port p.val →
    ((s.dev.xlState p.val ≠ 1 ∨ s.dev.dead g = true) → ∀ r, Sys2Proof.Machine.exec (.xlTrainComplete p i r) s = .next s) ∧
    (s.dev.xlState p.val = 1 → s.dev.dead g = false → ∀ r : Fin 3, ∃ d f : Dev,
      Sys2Proof.Machine.exec (.xlTrainComplete p i r) s = .next { s with dev := d } ∧ Safety.memoryKept s.dev d ∧
      f = { s.dev with regs := f.regs } ∧ Safety.wordsKept s.dev f [(g, 0x10C, 0)] ∧ f.on g fXL_PEER_VALID 0 = true ∧
      f.get g fXL_PEER_PORT 0 = i.port.val ∧ f.get g fXL_PEER_DEV 0 = i.dev.toNat ∧
      (∀ cause, s.dev.step5 p.val i = some cause → d = f.trainFailed p.val cause) ∧
      (s.dev.step5 p.val i = none → s.dev.on g fXL_CFG_ENC 0 = true →
        (i.chainOk = false ∨ r.val ≠ 0 ∨ s.dev.on .dctl fDCTL_ID_STAT_ENTFAIL 0 = true ∨ s.dev.on .boot fBOOT_STAT_NOID 0 = true) →
        ∃ e : Dev, d = e.trainFailed p.val 6) ∧
      (s.dev.step5 p.val i = none → (s.dev.on g fXL_CFG_ENC 0 = true → i.chainOk = true ∧ r.val = 0 ∧
          s.dev.on .dctl fDCTL_ID_STAT_ENTFAIL 0 = false ∧ s.dev.on .boot fBOOT_STAT_NOID 0 = false) →
        d.xlState p.val = 2 ∧ (d.port p.val).peerGen = some i.gen.toNat ∧
        (s.dev.on g fXL_CFG_ENC 0 = false → (d.port p.val).epoch = (x.epoch + 1) % 2 ^ 32) ∧
        (s.dev.on g fXL_CFG_ENC 0 = true → (d.port p.val).epoch = (max x.epoch i.epoch.toNat + 1) % 2 ^ 32 ∧
          (d.port p.val).verified = true ∧ (d.port p.val).peerUid = i.devuid) ∧
        (d.port p.val).nak = false ∧ (d.port p.val).fast = false ∧ (d.port p.val).peerFence = false ∧
        d.get g fXL_CHARGE_CHARGE 0 = min ((5 * i.roundTrip + 87) / 88) 0xFFF ∧
        (x.peerGen = some i.gen.toNat → (∃ e : Dev, d = e.resend p.val i.fseq.toNat) ∧
          (d.port p.val).retry = x.retry.filter (fun e => after i.fseq.toNat e.1 (pkFlits e.2) != 0)) ∧
        (s.dev.on g fXL_CFG_ENC 0 = false → x.peerGen ≠ some i.gen.toNat →
          d = { s.dev with regs := d.regs, ports := d.ports } ∧ (∀ j, j ≠ p.val → d.port j = s.dev.port j) ∧
          Safety.wordsKept s.dev d [(g, 0x108, 0), (g, 0x10C, 0), (g, 0x110, 0)] ∧
          (d.port p.val).retry = [] ∧ (d.port p.val).fseqTx = 0 ∧ (d.port p.val).fseqRx = 0xFFFF ∧
          ∀ j, j < 16 → NMap.get (d.port p.val).credits j 0 = ((i.shares.getD j 0).toNat : Int)))))

/-- PEER_REQUEST_TIMEOUT and CDC_TIMEOUT (R313, R319, R475): a request sent 2^EXP net cycles ago frees its tag, raises PTMO, is
abandoned, with the other line's where its packet served two, and the chapel manager told; before that nothing happens. A
crossing that times out is recorded; a port that was UP goes down, raising DOWN with cause 8, and one in training falls without;
a bridge link goes down at both ends, and it and any other crossing reset the domain of the stopped side. A pulse crossing that
overruns sets its flag, or the CLK page records it, and CDC_OVR is raised.  COORD_COLLECT_EXPIRE, COORD_ACK_TIMEOUT and
MEMBER_ACK_TIMEOUT (R334, R335): before its time each does nothing; the window over, and no member accused, the coordinator of a
link asks both ends to prepare; at an answer's timeout it stops, and records the silent ends failed; a member silent for 50 ms
is recorded failed. -/
def Obligations.TimeoutsAct : Prop :=
  (
  ∀ (q : Quad) (s : State),
    (∀ (e : Fin 16384) rq more port gen at_ ab, s.dev.tagAt q.val e.val = some ⟨rq, more, port, gen, some at_, ab⟩ →
      (s.dev.now (netClk q.val) < at_ + 2 ^ s.dev.get (pXl port) fXL_PTMO_EXP 0 →
        Sys2Proof.Machine.exec (.peerRequestTimeout q e) s = .next s) ∧
      (at_ + 2 ^ s.dev.get (pXl port) fXL_PTMO_EXP 0 ≤ s.dev.now (netClk q.val) → ∀ r dev a x rc, s.dev.req rq = some r →
        r.tgt = .peer dev a x rc → ∃ d, Sys2Proof.Machine.exec (.peerRequestTimeout q e) s = .next { s with dev := d } ∧ d.mem = s.dev.mem ∧
          d = ((rq :: more.toList).foldl (fun d x => d.abandonPeer x)
            ((s.dev.setTag q.val e.val none).raise (pXl port) 14 e.val)).notice dev 2 e.val)) ∧
    (∀ (p : Port) side c, (side = 0 ∧ c = Crossing.xlRx p ∨ side = 1 ∧ c = Crossing.xlTx p) →
      (s.dev.inReset (pXl p.val) = true → Sys2Proof.Machine.exec (.cdcTimeout c) s = .next s) ∧
      (s.dev.inReset (pXl p.val) = false → ∀ f : Dev, f = s.dev.raise (pXl p.val) 7 side →
        (s.dev.xlState p.val = 2 → Sys2Proof.Machine.exec (.cdcTimeout c) s = .next { s with dev := f.portDown p.val 8 }) ∧
        (s.dev.xlState p.val = 1 → Sys2Proof.Machine.exec (.cdcTimeout c) s = .next { s with dev := f.portFalls p.val 8 }) ∧
        (s.dev.xlState p.val ≠ 2 → s.dev.xlState p.val ≠ 1 → Sys2Proof.Machine.exec (.cdcTimeout c) s = .next { s with dev := f }))) ∧
    (∀ (n : Fin 4) side c, (side = 0 ∧ c = Crossing.brgRx q n ∨ side = 1 ∧ c = Crossing.brgTx q n) →
      ((s.dev.brgGated q.val n.val = true ∨ s.dev.brgReady q.val n.val = false) → Sys2Proof.Machine.exec (.cdcTimeout c) s = .next s) ∧
      (s.dev.brgGated q.val n.val = false → s.dev.brgReady q.val n.val = true → ∀ (f : Dev) (x : Dom), f = s.dev.raise (pBrg q.val n.val) 2 side →
        x = (if n.val = q.val then .device else .quad n) →
        (s.dev.brgState q.val n.val ≠ 2 → Sys2Proof.Machine.exec (.cdcTimeout c) s = .next { s with dev := f.startReset x 2 false 0 }) ∧
        (s.dev.brgState q.val n.val = 2 → ∃ d e : Dev, Sys2Proof.Machine.exec (.cdcTimeout c) s = .next { s with dev := d } ∧
          e.brgState q.val n.val ≠ 2 ∧ e.brgState n.val q.val ≠ 2 ∧ d = e.startReset x 2 false 0 ∧
          e = if n.val = q.val then f.brgDown q.val n.val else (f.brgDown q.val n.val).brgDown n.val q.val))) ∧
    (∀ (live : Fin 16) (xid : Fin 5) (stopped : Fin 16),
      ((s.dev.power.pwrgd = false ∨ isDie live.val = false ∨ isDie stopped.val = false) →
        Sys2Proof.Machine.exec (.cdcTimeout (.die live xid stopped)) s = .next s) ∧
      (s.dev.power.pwrgd = true → isDie live.val = true → isDie stopped.val = true →
        ∃ d e : Dev, Sys2Proof.Machine.exec (.cdcTimeout (.die live xid stopped)) s = .next { s with dev := d } ∧ e = { s.dev with regs := e.regs } ∧
          e.on .clk fCLK_CDC_VALID 0 = true ∧ e.get .clk fCLK_CDC_DIE 0 = live.val ∧ e.get .clk fCLK_CDC_XID 0 = xid.val ∧
          Safety.wordsKept s.dev e [(.clk, fCLK_CDC_VALID.off, 0)] ∧
          d = (e.raise .clk 1 (live.val * 4096 + xid.val)).startReset (dieDom stopped.val) 2 false 0)) ∧
    (∀ p : Port,
      (s.dev.inReset (pXl p.val) = true → Sys2Proof.Machine.exec (.cdcTimeout (.xlOvr p)) s = .next s) ∧
      (s.dev.inReset (pXl p.val) = false → ∃ d e : Dev, Sys2Proof.Machine.exec (.cdcTimeout (.xlOvr p)) s = .next { s with dev := d } ∧
        e = { s.dev with regs := e.regs } ∧ e.on (pXl p.val) fXL_STAT_OVR 0 = true ∧
        Safety.wordsKept s.dev e [(pXl p.val, fXL_STAT_OVR.off, 0)] ∧ d = e.raise (pXl p.val) 8 0)) ∧
    (∀ n : Fin 4,
      ((s.dev.brgGated q.val n.val = true ∨ s.dev.brgReady q.val n.val = false) →
        Sys2Proof.Machine.exec (.cdcTimeout (.brgOvr q n)) s = .next s) ∧
      (s.dev.brgGated q.val n.val = false → s.dev.brgReady q.val n.val = true →
        ∃ d e : Dev, Sys2Proof.Machine.exec (.cdcTimeout (.brgOvr q n)) s = .next { s with dev := d } ∧ e = { s.dev with regs := e.regs } ∧
          e.on (pBrg q.val n.val) fBRG_STAT_OVR 0 = true ∧ Safety.wordsKept s.dev e [(pBrg q.val n.val, fBRG_STAT_OVR.off, 0)] ∧
          d = e.raise (pBrg q.val n.val) 3 0)) ∧
    (∀ (live : Fin 16) (xid : Fin 5),
      ((s.dev.power.pwrgd = false ∨ isDie live.val = false) → Sys2Proof.Machine.exec (.cdcTimeout (.dieOvr live xid)) s = .next s) ∧
      (s.dev.power.pwrgd = true → isDie live.val = true →
        ∃ d e : Dev, Sys2Proof.Machine.exec (.cdcTimeout (.dieOvr live xid)) s = .next { s with dev := d } ∧ e = { s.dev with regs := e.regs } ∧
          e.on .clk fCLK_CDC_VALID 0 = true ∧ e.on .clk fCLK_CDC_KIND 0 = true ∧ e.get .clk fCLK_CDC_DIE 0 = live.val ∧
          e.get .clk fCLK_CDC_XID 0 = xid.val ∧ Safety.wordsKept s.dev e [(.clk, fCLK_CDC_VALID.off, 0)] ∧
          d = e.raise .clk 2 (live.val * 4096 + xid.val)))) ∧
  (
  ∀ (k : Nat) (s : State) (now : Nat), now = s.dev.now ctlClk →
    (s.dev.chapel.links[k]? = none → Sys2Proof.Machine.exec (.coordCollectExpire k) s = .next s ∧ Sys2Proof.Machine.exec (.coordAckTimeout k) s = .next s) ∧
    (∀ l, s.dev.chapel.links[k]? = some l →
      ((l.step ≠ 0 ∨ now < l.since + 12000000) → Sys2Proof.Machine.exec (.coordCollectExpire k) s = .next s) ∧
      (l.step = 0 → l.since + 12000000 ≤ now → s.dev.accused l.since = [] → ∀ f : Dev,
        f = s.dev.modChapel (fun c => { c with notices := c.notices.filter (fun n => decide (now < n.at_ + 12000000)) }) →
        (l.isLink = false → Sys2Proof.Machine.exec (.coordCollectExpire k) s = .next { s with
          dev := f.modChapel (fun c => { c with links := c.links.eraseIdx k }) }) ∧
        (l.isLink = true → ∃ d e : Dev, Sys2Proof.Machine.exec (.coordCollectExpire k) s = .next { s with dev := d } ∧
          e = (f.modChapel (fun c => { c with links := c.links.set k { l with step := 1, since := now } })).prepEnd k 0 ∧
          d = if e.chapel.links.length = s.dev.chapel.links.length then e.prepEnd k 1 else e)) ∧
      ((l.step ≠ 1 ∨ now < l.since + 60000000) → Sys2Proof.Machine.exec (.coordAckTimeout k) s = .next s) ∧
      (l.step = 1 → l.since + 60000000 ≤ now → ∀ f : Dev,
        f = s.dev.modChapel (fun c => { c with links := c.links.eraseIdx k }) →
        (0 ∈ l.acks → 1 ∈ l.acks → Sys2Proof.Machine.exec (.coordAckTimeout k) s = .next { s with dev := f }) ∧
        (0 ∉ l.acks → 1 ∈ l.acks → Sys2Proof.Machine.exec (.coordAckTimeout k) s = .next { s with dev := f.recordFailed l.endA }) ∧
        (0 ∈ l.acks → 1 ∉ l.acks → Sys2Proof.Machine.exec (.coordAckTimeout k) s = .next { s with dev := f.recordFailed l.endB }) ∧
        (0 ∉ l.acks → 1 ∉ l.acks → Sys2Proof.Machine.exec (.coordAckTimeout k) s = .next { s with
          dev := (f.recordFailed l.endA).recordFailed l.endB }))) ∧
    (∀ u, s.dev.chapel.unanswered[k]? = some u →
      ((now < u.at_ + 60000000 ∨ s.dev.isMgr = false ∨ u.dst / 256 ≠ s.dev.devId / 256) →
        Sys2Proof.Machine.exec (.memberAckTimeout k) s = .next s) ∧
      (u.at_ + 60000000 ≤ now → s.dev.isMgr = true → u.dst / 256 = s.dev.devId / 256 → ∀ f : Dev,
        f = s.dev.modChapel (fun c => { c with unanswered := c.unanswered.eraseIdx k }) →
        (Set.has (f.recordFailed u.dst).chapel.failed u.dst = true) ∧
        Sys2Proof.Machine.exec (.memberAckTimeout k) s = .next { s with dev := (f.recordFailed u.dst).flushMbox 16 })))

/-- ACK, FAULT_NOTICE, FAULT_RECORD, PLAN and MAILBOX_UNKNOWN_KIND (R332, R335, Table 13.4): the first copy of a message is
acted on, any other discarded, SEQ counting for each sender and lane, and a device that is not running takes none; an ACK ends
the message it answers, passes a relayed answer on, delivers the image whose last answer it is, and answers the coordinator; a
record marks the device failed, a plan is kept for host software, and each is answered; only a manager accepts a notice; an
unknown kind is refused.  LINK_PREP, LINK_GO, FW_CHUNK and DCTL_CHAPEL_WRITE (R331, R333, R334): an end accepts LINK_PREP
exactly if every port named waits for the coordinator and faces the device named, and changes no port, and a manager passes the
top manager's on to the end it is for; LINK_GO trains every port named; a chunk inside the range is passed on where it asks for
that, and noted, and the last one stages the image; the chapel's managers are taken only for this device's own chapel, else ILL,
and not while sealed. -/
def Obligations.ChapelMessagesAreTaken : Prop :=
  (
  ∀ (m : MboxMsg) (s : State) (key : Nat), key = m.lane.val * 65536 + m.src.toNat →
    ((s.dev.power.running = false ∨ m.seq.toNat ∈ NMap.get s.dev.chapel.seen key []) → ∀ c kind,
      (c = .ack m ∨ c = .faultNotice m ∨ c = .faultRecord m ∨ c = .plan m ∨ c = .mailboxUnknownKind m kind ∨ c = .linkPrep m ∨
        c = .linkGo m ∨ c = .fwChunk m) → Sys2Proof.Machine.exec c s = .next s) ∧
    (s.dev.power.running = true → m.seq.toNat ∉ NMap.get s.dev.chapel.seen key [] → ∀ f : Dev,
      f = s.dev.modChapel (fun c => { c with
        seen := NMap.put c.seen key ((m.seq.toNat :: NMap.get s.dev.chapel.seen key []).take 16) [] }) →
      Sys2Proof.Machine.exec (.faultRecord m) s = .next { s with
        dev := (f.modChapel (fun c => { c with failed := Sys2Proof.Machine.Set.add c.failed (msgFld m 0 2) })).answerMsg m 0 } ∧
      Sys2Proof.Machine.exec (.plan m) s = .next { s with
        dev := (f.modChapel (fun c => { c with plans := c.plans ++ [m.payload] })).answerMsg m 0 } ∧
      (s.dev.isMgr = false → Sys2Proof.Machine.exec (.faultNotice m) s = .next { s with dev := f.answerMsg m 1 }) ∧
      (s.dev.isMgr = true → ∀ named cause synd, named = msgFld m 0 2 → cause = msgFld m 2 1 → synd = msgFld m 3 2 →
        ((cause ≠ 1 ∨ portDim (synd % 16) < 2 ∨ s.dev.isTop = true) →
          Sys2Proof.Machine.exec (.faultNotice m) s = .next { s with dev := (f.noteFault m.src.toNat named cause synd).answerMsg m 0 }) ∧
        (cause = 1 → 2 ≤ portDim (synd % 16) → s.dev.isTop = false →
          Sys2Proof.Machine.exec (.faultNotice m) s = .next { s with
            dev := ((f.modChapel (fun c => { c with
              notices := c.notices ++ [⟨named, m.src.toNat, cause, s.dev.now ctlClk⟩] })).sendMbox s.dev.topMgr 5 (leBytes 2 named ++ leBytes 1 cause ++ leBytes 2 synd)).answerMsg m 0 })) ∧
      (∀ kind : Byte, (1 ≤ kind.toNat ∧ kind.toNat ≤ 7 → Sys2Proof.Machine.exec (.mailboxUnknownKind m kind) s = .next s) ∧
        (¬(1 ≤ kind.toNat ∧ kind.toNat ≤ 7) → Sys2Proof.Machine.exec (.mailboxUnknownKind m kind) s = .next { s with dev := f.answerMsg m 1 })) ∧
      (∀ (src seq status : Nat) (casts : List (Nat × List (Nat × Nat))) (mine : Relay → Bool) (g h k : Dev), src = m.src.toNat →
        seq = msgFld m 0 4 → status = msgFld m 4 1 → (∀ r, mine r = (r.dev == src && r.seq == seq && r.phase != 1)) →
        g = f.modChapel (fun c => { c with unanswered := dropFirst (fun u => u.dst == src && u.seq == seq) c.unanswered }) →
        ((∀ r ∈ g.chapel.relays, mine r = false) → h = g) →
        (∀ r, g.chapel.relays.find? mine = some r →
          h = (g.modChapel (fun c => { c with
            relays := if r.phase = 0 ∧ status = 0 then replaceFirst mine (fun r => { r with phase := 1 }) c.relays
              else dropFirst mine c.relays })).sendAck r.top r.topSeq status) →
        casts = h.chapel.casts.map (fun e => (e.1, dropFirst (fun x => x == (src, seq)) e.2)) →
        k = h.modChapel (fun c => { c with
          casts := casts.filter (fun e => !e.2.isEmpty)
          delivered := (casts.filter (fun e => e.2.isEmpty)).foldl (fun l e => Sys2Proof.Machine.Set.add l e.1) c.delivered }) →
        (k.caseOf src seq = none → Sys2Proof.Machine.exec (.ack m) s = .next { s with dev := k.flushMbox 16 }) ∧
        ∀ n e, k.caseOf src seq = some (n, e) → Sys2Proof.Machine.exec (.ack m) s = .next { s with dev := (k.endAnswers n e status).flushMbox 16 }))) ∧
  (
  ∀ (m : MboxMsg) (s : State) (key : Nat), key = m.lane.val * 65536 + m.src.toNat →
    (s.dev.power.running = true → m.seq.toNat ∉ NMap.get s.dev.chapel.seen key [] → ∀ f : Dev,
      f = s.dev.modChapel (fun c => { c with
        seen := NMap.put c.seen key ((m.seq.toNat :: NMap.get s.dev.chapel.seen key []).take 16) [] }) →
      ((m.lane.val ≠ 256 ∨ s.dev.isMgr = false) → ∃ ok : Bool,
        (ok = true ↔ ∀ p ∈ maskPorts (msgFld m 0 2), s.dev.xlState p = 4 ∧ s.dev.get (pXl p) fXL_PEER_DEV 0 = msgFld m 2 2) ∧
        Sys2Proof.Machine.exec (.linkPrep m) s = .next { s with dev := f.answerMsg m (if ok then 0 else 1) }) ∧
      (m.lane.val = 256 → s.dev.isMgr = true → ∀ (e mask peer n : Nat), mask = msgFld m 0 2 → peer = msgFld m 2 2 →
        e = s.dev.facing peer ((maskPorts mask).headD 0) → n = f.nextSeq e →
        (e ≠ s.dev.devId → Sys2Proof.Machine.exec (.linkPrep m) s = .next { s with
          dev := (f.modChapel (fun c => { c with
            relays := c.relays ++ [⟨m.src.toNat, m.seq.toNat, e, n, mask, 0⟩] })).sendMbox e 3 (leBytes 2 mask ++ leBytes 2 peer) }) ∧
        (e = s.dev.devId → ∃ ok : Bool,
          (ok = true ↔ ∀ p ∈ maskPorts mask, s.dev.xlState p = 4 ∧ s.dev.get (pXl p) fXL_PEER_DEV 0 = peer) ∧
          (ok = false → Sys2Proof.Machine.exec (.linkPrep m) s = .next { s with dev := f.answerMsg m 1 }) ∧
          (ok = true → Sys2Proof.Machine.exec (.linkPrep m) s = .next { s with
            dev := (f.answerMsg m 0).modChapel (fun c => { c with
              relays := c.relays ++ [⟨m.src.toNat, m.seq.toNat, e, 0, mask, 1⟩] }) }))) ∧
      (m.lane.val = 256 → s.dev.isMgr = true → ∀ (mine : Relay → Bool) (r : Relay), (∀ r, mine r = (r.mask == msgFld m 0 2 && r.phase == 1)) →
        s.dev.chapel.relays.find? mine = some r → r.dev ≠ s.dev.devId →
        Sys2Proof.Machine.exec (.linkGo m) s = .next { s with
          dev := (f.modChapel (fun c => { c with
            relays := replaceFirst mine (fun _ => { r with topSeq := m.seq.toNat, seq := f.nextSeq r.dev, phase := 2 })
              c.relays })).sendMbox r.dev 4 (leBytes 2 (msgFld m 0 2)) }) ∧
      ((m.lane.val ≠ 256 ∨ s.dev.isMgr = false) → ∃ d g : Dev, Sys2Proof.Machine.exec (.linkGo m) s = .next { s with dev := d } ∧
        g = { f with regs := g.regs, ports := g.ports } ∧ d = g.answerMsg m 0 ∧
        ∀ p, p < 16 → ((p ∈ maskPorts (msgFld m 0 2) → (s.dev.xlState p = 0 ∨ s.dev.xlState p = 4) → g.xlState p = 1) ∧
          (p ∉ maskPorts (msgFld m 0 2) → g.xlState p = s.dev.xlState p ∧ g.port p = s.dev.port p))) ∧
      (∀ comp off len base, comp = msgFld m 0 4 → off = msgFld m 4 8 → len = msgFld m 12 4 → base = s.dev.stagingBase →
        (2 ^ 26 < off + len → Sys2Proof.Machine.exec (.fwChunk m) s = .next { s with dev := f.answerMsg m 1 }) ∧
        (off + len ≤ 2 ^ 26 → ∀ (f' g : Dev) total last,
          f' = (if msgFld m 16 1 = 1 then f.passChunk f.ring1 comp off 0 (f.readCoherent (base + off) len).1 else f) →
          g = f'.modChapel (fun c => { c with chunks := c.chunks ++ [(comp, off, len)] }) →
          total = 256 + leNat (g.readCoherent (base + 0x0C) 4).1 →
          last = (covered g.chapel.chunks comp 256 g.chapel.chunks.length 0 && covered g.chapel.chunks comp total g.chapel.chunks.length 0) →
          (last = false → Sys2Proof.Machine.exec (.fwChunk m) s = .next { s with dev := g.answerMsg m 0 }) ∧
          (last = true → ∀ h : Dev, h = g.modChapel (fun c => { c with chunks := c.chunks.filter (fun e => e.1 != comp) }) →
            ((h.boot.busy ≠ 0 ∨ h.isSealed = true ∨ (h.bootState ≠ 4 ∧ h.bootState ≠ 5)) →
              Sys2Proof.Machine.exec (.fwChunk m) s = .next { s with dev := h.answerMsg m 1 }) ∧
            (h.boot.busy = 0 → h.isSealed = false → (h.bootState = 4 ∨ h.bootState = 5) →
              ∃ d e : Dev, Sys2Proof.Machine.exec (.fwChunk m) s = .next { s with dev := d } ∧ Safety.memoryKept s.dev d ∧
                e = bootCmd (((h.setWord .boot 0x108 0 (base % 2 ^ 32)).setWord .boot 0x10C 0 (base / 2 ^ 32)).set .boot
                  fBOOT_LEN_LEN 0 total) 4 ∧
                d = e.modChapel (fun c => { c with stageAck := some (m.src.toNat, m.seq.toNat) })))))) ∧
    (∀ via (val : Word), s.dev.writable via .dctl = true → val.toNat / 256 % 256 = s.dev.devId / 256 → s.dev.isSealed = true →
      ∃ d, Sys2Proof.Machine.exec (.dctlChapelWrite via val) s = .next { s with dev := d } ∧ d.mgr = s.dev.mgr ∧ d.topMgr = s.dev.topMgr) ∧
    (∀ via (val : Word), s.dev.writable via .dctl = true → (val.toNat / 256 % 256 = s.dev.devId / 256 → s.dev.isSealed = false) →
      ∃ d, Sys2Proof.Machine.exec (.dctlChapelWrite via val) s = .next { s with dev := d } ∧ d = { s.dev with regs := d.regs } ∧
        (val.toNat / 256 % 256 ≠ s.dev.devId / 256 → d.on .dctl fDCTL_ROLE_ILL 0 = true ∧ d.mgr = s.dev.mgr ∧ d.topMgr = s.dev.topMgr ∧
          Safety.wordsKept s.dev d [(.dctl, 0x12C, 0)]) ∧
        (val.toNat / 256 % 256 = s.dev.devId / 256 → d.mgr = val.toNat % 2 ^ 16 ∧ d.topMgr = val.toNat / 2 ^ 16 ∧
          Safety.wordsKept s.dev d [(.dctl, 0x128, 0)])))

/-- HOST_COMPLETION and CPL_TIMEOUT (R343, R353, R496): a request that has left takes its completion: data of the length it
asked for, poison with HOST_PSN, or an address error with UR; one that waits longer than the timeout ends with poison and
CPL_TO, an engine's with cause 5; an answer to a request that does not wait changes nothing, and of one that is gone the port
keeps nothing.  ATS_TRANSLATION_COMPLETION, ATS_INVALIDATION_REQUEST and ATS_INVALIDATION_COMPLETE (R342): a grant enters the
cache and releases the requests of its page; a denial is recorded and fails the request, and the writes behind it go on; an
invalidation removes its entries at once and is answered only when the requests sent under them have completed. -/
def Obligations.HostRequestsAndTranslations : Prop :=
  (
  ∀ (rq : Nat) (data : List Byte) (s : State),
    (s.dev.req rq = none → (∀ ans, Sys2Proof.Machine.exec (.hostCompletion rq ans data) s = .next { s with dev := s.dev.hostForget rq }) ∧
      Sys2Proof.Machine.exec (.cplTimeout rq) s = .next { s with dev := s.dev.hostForget rq }) ∧
    (s.dev.req rq ≠ none → (s.dev.hostUp = false ∨ s.dev.hostWaits rq = false) → ∀ ans,
      Sys2Proof.Machine.exec (.hostCompletion rq ans data) s = .next s) ∧
    (s.dev.req rq ≠ none → s.dev.hostWaits rq = false → s.dev.hostHeld rq = false → Sys2Proof.Machine.exec (.cplTimeout rq) s = .next s) ∧
    (∀ r p, s.dev.req rq = some r → p = pHst (s.dev.chanOf r.quad) →
      (s.dev.hostUp = true → s.dev.hostWaits rq = true → ∀ f : Dev, f = s.dev.hostForget rq → f.hostWaits rq = false ∧
        (data.length = r.answerLen →
          Sys2Proof.Machine.exec (.hostCompletion rq .ok data) s = .next { s with dev := (f.hostData r data).hostAfter r }) ∧
        (data.length ≠ r.answerLen → Sys2Proof.Machine.exec (.hostCompletion rq .ok data) s = .next s) ∧
        Sys2Proof.Machine.exec (.hostCompletion rq .poison data) s = .next { s with
          dev := ((f.raise p 2 r.part).answered rq (poisonBytes (r.addr / 128)) true false).hostAfter r } ∧
        Sys2Proof.Machine.exec (.hostCompletion rq .err data) s = .next { s with dev := ((f.raise p 1 r.part).addrError rq).hostAfter r }) ∧
      ((s.dev.hostWaits rq = true ∨ s.dev.hostHeld rq = true) → ∀ f : Dev, f = (s.dev.hostForget rq).raise p 3 r.part →
        ((∀ c e, r.cli ≠ .dma c e) → Sys2Proof.Machine.exec (.cplTimeout rq) s = .next { s with
          dev := (f.answered rq (poisonBytes (r.addr / 128)) true false).hostAfter r }) ∧
        (∀ c e, r.cli = .dma c e → Sys2Proof.Machine.exec (.cplTimeout rq) s = .next { s with
          dev := ((f.modReq rq (fun r => { r with expect := 5 })).answered rq (poisonBytes (r.addr / 128)) true false).hostAfter r })))) ∧
  (
  ∀ (s : State),
    (∀ rq r h addr, s.dev.req rq = some r → s.dev.atsWaits r = some (h, addr) → s.dev.hostUp = true → ∀ page : BitVec 52,
      (∃ d f : Dev, Sys2Proof.Machine.exec (.atsTranslationCompletion rq true page) s = .next { s with dev := d } ∧
        f = s.dev.atcAdd ⟨h.fn, h.pasid.getD 0, addr / 4096, page.toNat⟩ ∧
        (s.dev.host.atc.length < 4096 → f = { s.dev with
          host := { s.dev.host with atc := s.dev.host.atc ++ [⟨h.fn, h.pasid.getD 0, addr / 4096, page.toNat⟩] } }) ∧
        d = f.atsRelease h (addr / 4096)) ∧
      ((∀ c e, r.cli ≠ .dma c e) → Sys2Proof.Machine.exec (.atsTranslationCompletion rq false page) s = .next { s with
        dev := ((((s.dev.raise (pHst (s.dev.chanOf r.quad)) 0 r.part).hostForget rq).addrError rq).hostAfter r).sendPosted }) ∧
      (∀ c e, r.cli = .dma c e → Sys2Proof.Machine.exec (.atsTranslationCompletion rq false page) s = .next { s with
        dev := (((((s.dev.raise (pHst (s.dev.chanOf r.quad)) 0 r.part).modReq rq (fun r => { r with expect := 4 })).hostForget
          rq).addrError rq).hostAfter r).sendPosted })) ∧
    (∀ (f : Fin 64) (pasid : BitVec 20) (page : BitVec 52) (tag : Fin 32),
      (s.dev.hostUp = false → Sys2Proof.Machine.exec (.atsInvalidationRequest f pasid page tag) s = .next s) ∧
      (s.dev.hostUp = true → ∃ d waits, Sys2Proof.Machine.exec (.atsInvalidationRequest f pasid page tag) s = .next { s with dev := d } ∧
        d = { s.dev with host := { s.dev.host with
          atc := s.dev.host.atc.filter (fun e => !(e.fn == f.val && e.pasid == pasid.toNat && e.page == page.toNat))
          invals := s.dev.host.invals ++ [⟨f.val, tag.val, waits⟩] } } ∧
        ∀ i ∈ waits, s.dev.hostWaits i = true)) ∧
    (∀ tag : Fin 32,
      ((∀ x ∈ s.dev.host.invals, x.tag = tag.val → ∃ i ∈ x.waits, s.dev.hostWaits i = true) →
        Sys2Proof.Machine.exec (.atsInvalidationComplete tag) s = .next s) ∧
      (∀ pre x post, s.dev.host.invals = pre ++ x :: post → (∀ y ∈ pre, y.tag = tag.val → ∃ i ∈ y.waits, s.dev.hostWaits i = true) →
        x.tag = tag.val →
        (∀ i ∈ x.waits, s.dev.hostWaits i = false) → s.dev.hostUp = true →
        Sys2Proof.Machine.exec (.atsInvalidationComplete tag) s = .next { s with
          dev := ({ s.dev with host := { s.dev.host with invals := pre ++ post } } : Dev).send (.atsInvDone x.fn x.tag) })))

/-- PCIE_CONFIG_WRITE, VF_ENABLE_CLEAR, FUNCTION_LEVEL_RESET and FLR_ABANDON (R339, R354, R364, R370): a write of a function the
port does not present is dropped; else the function takes it, and a locked TDI whose interface it changes moves to ERROR; VFs
exist in mediated mode only; a reset quiesces the function's partitions, and once they are quiesced with no queue on, or 50 ms
later, what is left is abandoned and its interrupts and identity cleared; a sealed function's channel is then reset.
LOCK_INTERFACE_REQUEST, START_INTERFACE_REQUEST, INTERFACE_REPORT and TDI_UNLOCK (R354): a presented TDI of a sealed device goes
from CONFIG_UNLOCKED to CONFIG_LOCKED, from there to RUN, and from any state back to CONFIG_UNLOCKED; each is answered, with an
error where it is not allowed; the report names the function's BARs and vectors. -/
def Obligations.FunctionsAndInterfaces : Prop :=
  (
  ∀ (f : Fin 64) (s : State) (x : Func), x = s.dev.func f.val →
    (∀ w, (s.dev.arrives (.pf 0) = false ∨ s.dev.presents f.val = false) → Sys2Proof.Machine.exec (.pcieConfigWrite f w) s = .next s) ∧
    (s.dev.arrives (.pf 0) = true → s.dev.presents f.val = true →
      (∀ w y, (∀ on n, w ≠ .vfEnable on n) → y = s.dev.cfgFunc f.val w x →
        (cfgMmio w = true → x.tdi = 3 → Sys2Proof.Machine.exec (.pcieConfigWrite f w) s = .next s) ∧
        (¬(cfgMmio w = true ∧ x.tdi = 3) → ¬(cfgGuarded w = true ∧ (x.tdi = 1 ∨ x.tdi = 2) ∧ y ≠ x) →
          Sys2Proof.Machine.exec (.pcieConfigWrite f w) s = .next { s with dev := s.dev.setFunc f.val y }) ∧
        (cfgGuarded w = true → (x.tdi = 1 ∨ x.tdi = 2) → y ≠ x →
          ∃ d, Sys2Proof.Machine.exec (.pcieConfigWrite f w) s = .next { s with dev := d } ∧ d = (s.dev.setFunc f.val y).tdiToError f.val ∧
            (d.func f.val).tdi = 3)) ∧
      (∀ on n, f.val ≠ 0 → Sys2Proof.Machine.exec (.pcieConfigWrite f (.vfEnable on n)) s = .next s) ∧
      (∀ on n, f.val = 0 → s.dev.sliceRules = true → Sys2Proof.Machine.exec (.pcieConfigWrite f (.vfEnable on n)) s = .next s) ∧
      (∀ n, f.val = 0 → s.dev.sliceRules = false → x.vfEnable = false →
        Sys2Proof.Machine.exec (.pcieConfigWrite f (.vfEnable true n)) s = .next { s with
          dev := s.dev.setFunc 0 { x with vfEnable := decide (0 < n.val), numVfs := n.val } }) ∧
      (∀ n, f.val = 0 → s.dev.sliceRules = false → x.vfEnable = true →
        Sys2Proof.Machine.exec (.pcieConfigWrite f (.vfEnable true n)) s = .next s ∧
        Sys2Proof.Machine.exec (.pcieConfigWrite f (.vfEnable false n)) s = Sys2Proof.Machine.exec .vfEnableClear s) ∧
      (∀ n, f.val = 0 → s.dev.sliceRules = false → x.vfEnable = false →
        Sys2Proof.Machine.exec (.pcieConfigWrite f (.vfEnable false n)) s = .next { s with dev := s.dev.setFunc 0 { x with numVfs := n.val } })) ∧
    ((s.dev.func 0).vfEnable = false → Sys2Proof.Machine.exec .vfEnableClear s = .next s) ∧
    ((s.dev.func 0).vfEnable = true → ∃ d, Sys2Proof.Machine.exec .vfEnableClear s = .next { s with dev := d } ∧ Safety.memoryKept s.dev d ∧
      (d.func 0).vfEnable = false) ∧
    ((s.dev.flrAble f.val = false ∨ x.flr ≠ none) → Sys2Proof.Machine.exec (.functionLevelReset f) s = .next s) ∧
    (s.dev.flrAble f.val = true → x.flr = none → ∃ d, Sys2Proof.Machine.exec (.functionLevelReset f) s = .next { s with dev := d } ∧
      Safety.memoryKept s.dev d ∧ d = s.dev.flrStart f.val ∧ (d.func f.val).flr = some (s.dev.now ctlClk)) ∧
    (∀ (rest : Bool) (c : Nat) (parts : List Nat), (c, parts) = s.dev.fnParts f.val →
      rest = parts.all (fun part => s.dev.pqState c part == 2 && (s.dev.partQueues c part).isEmpty) →
      ((x.flr = none ∨ ∃ t, x.flr = some t ∧ s.dev.now ctlClk < t + 60000000 ∧ rest = false) →
        Sys2Proof.Machine.exec (.flrAbandon f) s = .next s) ∧
      (∀ t, x.flr = some t → (t + 60000000 ≤ s.dev.now ctlClk ∨ rest = true) →
        ∃ d e : Dev, Sys2Proof.Machine.exec (.flrAbandon f) s = .next { s with dev := d } ∧ Safety.memoryKept s.dev e ∧
          (e.func f.val).flr = none ∧ (e.func f.val).msixOn = false ∧ (e.func f.val).table = [] ∧ (e.func f.val).pendingVec = [] ∧
          (∀ part ∈ parts, e.on (pHst c) fHST_PTAG_VALID part = false) ∧
          d = if e.isSealedOp then e.startReset (.quad (quad ((e.quadsOf c).headD 0))) 3 false 0 else e))) ∧
  (
  ∀ (f : Fin 64) (s : State) (x : Func), x = s.dev.func f.val →
    ((s.dev.arrives (.pf 0) = false ∨ s.dev.presents f.val = false) → ∀ c,
      (c = .lockInterfaceRequest f ∨ c = .startInterfaceRequest f ∨ c = .interfaceReport f ∨ c = .tdiUnlock f) →
      Sys2Proof.Machine.exec c s = .next s) ∧
    (s.dev.arrives (.pf 0) = true → s.dev.presents f.val = true →
      (s.dev.isTdi f.val = true →
        (s.dev.isSealed = true → x.tdi = 0 → Sys2Proof.Machine.exec (.lockInterfaceRequest f) s = .next { s with
          dev := (s.dev.setFunc f.val { x with tdi := 1 }).tdisp f.val tdispLocked [] }) ∧
        (x.tdi = 1 → Sys2Proof.Machine.exec (.startInterfaceRequest f) s = .next { s with
          dev := (s.dev.setFunc f.val { x with tdi := 2 }).tdisp f.val tdispStarted [] }) ∧
        Sys2Proof.Machine.exec (.interfaceReport f) s = .next { s with dev := s.dev.tdisp f.val tdispReport (s.dev.ifReport f.val) } ∧
        Sys2Proof.Machine.exec (.tdiUnlock f) s = .next { s with
          dev := (s.dev.setFunc f.val { x with tdi := 0 }).tdisp f.val tdispStopped [] }) ∧
      (∀ c, (c = .lockInterfaceRequest f ∧ (s.dev.isTdi f.val = false ∨ s.dev.isSealed = false ∨ x.tdi ≠ 0) ∨
          c = .startInterfaceRequest f ∧ (s.dev.isTdi f.val = false ∨ x.tdi ≠ 1) ∨ c = .interfaceReport f ∧ s.dev.isTdi f.val = false ∨
          c = .tdiUnlock f ∧ s.dev.isTdi f.val = false) →
        Sys2Proof.Machine.exec c s = .next { s with dev := s.dev.tdisp f.val tdispError [] })))

/-- HOST_LINK_DOWN, HOST_LINK_UP, MSIX_SEND, HST_PTAG_WRITE, HST_QIRQ_WRITE and VF_DOORBELL_WRITE (R338 to R341, R349, R350,
R363, R496): the link takes only the rates and widths it has, and what was held is sent, in the order of R281, once it is up; a
pending, enabled, unmasked vector is sent once; the identity and interrupt maps take what is legal and refuse the rest with ILL;
a VF's doorbell reaches its own queue or nothing. -/
def Obligations.HostLinkAndMaps : Prop :=
  ∀ (s : State),
    (s.dev.hostUp = false → Sys2Proof.Machine.exec .hostLinkDown s = .next s) ∧
    (s.dev.hostUp = true → ∃ d e : Dev, Sys2Proof.Machine.exec .hostLinkDown s = .next { s with dev := d } ∧ e = { s.dev with regs := e.regs } ∧
      e.hostUp = false ∧ e.get .hst fHST_LINK_WIDTH 0 = 0 ∧ Safety.wordsKept s.dev e [(.hst, 0x100, 0)] ∧ d = e.sendPosted) ∧
    (∀ (rate : Fin 8) (width : Fin 4) (flit : Bool),
      ((s.dev.inReset .hst = true ∨ s.dev.host.perst = true ∨ s.dev.hostUp = true ∨ linkAllowed rate.val width.val flit = false) →
        Sys2Proof.Machine.exec (.hostLinkUp rate width flit) s = .next s) ∧
      (s.dev.inReset .hst = false → s.dev.host.perst = false → s.dev.hostUp = false → linkAllowed rate.val width.val flit = true →
        ∃ d e f : Dev, Sys2Proof.Machine.exec (.hostLinkUp rate width flit) s = .next { s with dev := d } ∧ e = { s.dev with regs := e.regs } ∧
          Safety.wordsKept s.dev e [(.hst, 0x100, 0)] ∧ e.hostUp = true ∧ e.get .hst fHST_LINK_RATE 0 = rate.val ∧
          e.get .hst fHST_LINK_WIDTH 0 = width.val ∧ e.on .hst fHST_LINK_FLIT 0 = flit ∧
          f = e.raiseIf (decide (width.val < 3) || decide (rate.val < 7)) .hst 0 (rate.val + 256 * width.val) ∧
          (s.dev.host.heldReqs = [] → d = f) ∧
          d = ((served Req.key (s.dev.host.heldReqs.filterMap f.req)).map (fun r => r.id)).foldl (fun d id => match d.req id with
            | some r => (match d.hostId (d.chanOf r.quad) r.part with
              | some h => d.hostGo id h
              | none => d.addrError id)
            | none => d) { f with host := { f.host with heldReqs := [] } })) ∧
    (∀ (f : Fin 64) (vec : Fin 512) x e, x = s.dev.func f.val → e = NMap.get x.table vec.val (0, 0, true) →
      ((s.dev.hostUp = false ∨ s.dev.presents f.val = false ∨ x.msixOn = false ∨ x.maskAll = true ∨ e.2.2 = true ∨
          s.dev.vecCount f.val ≤ vec.val ∨ (vec.val ∉ x.pendingVec ∧ ercVec vec.val ∉ x.pendingVec)) →
        Sys2Proof.Machine.exec (.msixSend f vec) s = .next s) ∧
      (s.dev.hostUp = true → s.dev.presents f.val = true → x.msixOn = true → x.maskAll = false → e.2.2 = false →
        vec.val < s.dev.vecCount f.val → (vec.val ∈ x.pendingVec ∨ ercVec vec.val ∈ x.pendingVec) → ∀ g : Dev,
        g = s.dev.setFunc f.val { x with pendingVec := Set.del (Set.del x.pendingVec vec.val) (ercVec vec.val) } →
        Sys2Proof.Machine.exec (.msixSend f vec) s = .next { s with
          dev := if s.dev.fencedFn f.val = true ∧ ercVec vec.val ∉ x.pendingVec then g else g.send (.msix f.val vec.val e.1 e.2.1) })) ∧
    (∀ via (c : Chan) (val : Word), s.dev.writable via (pHst c.val) = true →
      (∀ i, i = s.dev.get (.hstCh c) fHST_PTAG_IDX_PART 0 →
        ∃ d, Sys2Proof.Machine.exec (.hstPtagWrite via c val) s = .next { s with dev := d } ∧ d = { s.dev with regs := d.regs } ∧
          Safety.wordsKept s.dev d [(.hstCh c, 0x108, i)] ∧
          (s.dev.isSealedOp = true → val.toNat.testBit 31 = true → val.toNat % 64 ≠ c.val → d.on (.hstCh c) fHST_PTAG_ILL i = true ∧
            d.get (.hstCh c) fHST_PTAG_FN i = s.dev.get (.hstCh c) fHST_PTAG_FN i ∧
            d.on (.hstCh c) fHST_PTAG_VALID i = s.dev.on (.hstCh c) fHST_PTAG_VALID i) ∧
          ((s.dev.isSealedOp = false ∨ val.toNat.testBit 31 = false ∨ val.toNat % 64 = c.val) →
            d.on (.hstCh c) fHST_PTAG_VALID i = val.toNat.testBit 31 ∧ d.on (.hstCh c) fHST_PTAG_ATS i = val.toNat.testBit 9 ∧
            d.on (.hstCh c) fHST_PTAG_PASIDEN i = val.toNat.testBit 8 ∧ d.get (.hstCh c) fHST_PTAG_FN i = val.toNat % 64)) ∧
      (∀ x i, x = s.dev.get (.hstCh c) fHST_QIRQ_IDX_DIE 0 → i = x * 64 + s.dev.get (.hstCh c) fHST_QIRQ_IDX_Q 0 →
        ∃ d, Sys2Proof.Machine.exec (.hstQirqWrite via c val) s = .next { s with dev := d } ∧ d = { s.dev with regs := d.regs } ∧
          Safety.wordsKept s.dev d [(.hstCh c, 0x114, i)] ∧
          ((s.dev.chanOf (x / 2) ≠ c.val ∨ s.dev.fnOf c.val (val.toNat / 2 ^ 16 % 64) = false) → d.on (.hstCh c) fHST_QIRQ_ILL i = true ∧
            d.on (.hstCh c) fHST_QIRQ_EN i = s.dev.on (.hstCh c) fHST_QIRQ_EN i ∧
            d.get (.hstCh c) fHST_QIRQ_VEC i = s.dev.get (.hstCh c) fHST_QIRQ_VEC i) ∧
          (s.dev.chanOf (x / 2) = c.val → s.dev.fnOf c.val (val.toNat / 2 ^ 16 % 64) = true →
            d.on (.hstCh c) fHST_QIRQ_EN i = val.toNat.testBit 31 ∧ d.on (.hstCh c) fHST_QIRQ_MODE i = val.toNat.testBit 29 ∧
            d.get (.hstCh c) fHST_QIRQ_FN i = val.toNat / 2 ^ 16 % 64 ∧ d.get (.hstCh c) fHST_QIRQ_VEC i = val.toNat % 512))) ∧
    (∀ (v : Fin 64) (k : Fin 16) (val : Word) i x q, i = (v.val - 1) * 16 + k.val → x = s.dev.get (pHst 0) fHST_DBMAP_DIE i →
      q = s.dev.get (pHst 0) fHST_DBMAP_Q i → ∀ ok,
      (ok ↔ s.dev.arrives (.pf 0) = true ∧ v.val ≠ 0 ∧ s.dev.presents v.val = true ∧ s.dev.isSealedOp = false ∧
        (s.dev.func v.val).tdi ≠ 3 ∧ s.dev.on (pHst 0) fHST_DBMAP_VALID i = true ∧
        s.dev.get (pHst 0) fHST_PTAG_FN (s.dev.qPart x q) = v.val ∧ s.dev.inReset (pImp x) = false) →
      (ok → Sys2Proof.Machine.exec (.vfDoorbellWrite v k val) s = .next { s with dev := doorbell s.dev x q val.toNat }) ∧
      (¬ok → Sys2Proof.Machine.exec (.vfDoorbellWrite v k val) s = .next s))

/-- DMA_WP_WRITE, DMA_DESCRIPTOR_ARRIVAL, DMA_DESCRIPTOR_COMPLETE and DMA_RESUME (R351 to R353): a new write pointer makes an
idle engine ACTIVE; a descriptor whose answer can come starts if it is legal, and an illegal one, a failed fetch or a function
that is not the partition's halts the engine with its cause, after the descriptors before it; a finished one advances RP, and
the engine is IDLE again when the ring is empty; a halted engine resumes at RP; in a quiesced partition or page an engine with
nothing in progress halts with cause 6. -/
def Obligations.DmaEnginesRunDescriptors : Prop :=
  ∀ (via : Via) (c : Chan) (e : Fin 32) (s : State) (st rp wp : Nat) (ds : List Desc), st = s.dev.engSt c.val e.val →
    rp = s.dev.engRp c.val e.val → wp = s.dev.engWp c.val e.val → ds = s.dev.engDescs c.val e.val →
    (s.dev.reachesEngine via c.val e.val = true → c.val < s.dev.nChan → e.val < s.dev.nEngine →
      s.dev.quiesced c.val (s.dev.engPart c.val e.val) = false → s.dev.on (pDma c.val) fBLK_CTL_QREQ 0 = false →
      (∀ val : Word, ∃ d, Sys2Proof.Machine.exec (.dmaWpWrite via c e val) s = .next { s with dev := d } ∧ d = { s.dev with regs := d.regs } ∧
        d.engWp c.val e.val = val.toNat ∧ d.engRp c.val e.val = rp ∧
        Safety.wordsKept s.dev d [(.dmaCh c, 0x10C + 32 * e.val, 0), (.dmaCh c, 0x11C + 32 * e.val, 0)] ∧
        d.engSt c.val e.val =
          if st = 0 ∧ val.toNat ≠ rp then 1 else if st = 1 ∧ val.toNat = rp ∧ ds = [] then 0 else st) ∧
      (st ≠ 2 → Sys2Proof.Machine.exec (.dmaResume via c e) s = .next s) ∧
      (st = 2 → ∃ d, Sys2Proof.Machine.exec (.dmaResume via c e) s = .next { s with dev := d } ∧ d = { s.dev with regs := d.regs } ∧
        Safety.wordsKept s.dev d [(.dmaCh c, 0x11C + 32 * e.val, 0)] ∧ d.engSt c.val e.val = if rp = wp then 0 else 1)) ∧
    (s.dev.reachesEngine via c.val e.val = true → c.val < s.dev.nChan → e.val < s.dev.nEngine → ds = [] →
      (s.dev.quiesced c.val (s.dev.engPart c.val e.val) = true ∨ s.dev.on (pDma c.val) fBLK_CTL_QREQ 0 = true) →
      ∀ i, (∃ val : Word, i = .dmaWpWrite via c e val ∧ st = 0 ∧ val.toNat ≠ rp) ∨ (i = .dmaResume via c e ∧ st = 2 ∧ rp ≠ wp) →
        ∃ d f : Dev, Sys2Proof.Machine.exec i s = .next { s with dev := d } ∧ f = { s.dev with regs := f.regs } ∧ f.engSt c.val e.val = 1 ∧
          f.engRp c.val e.val = rp ∧ Safety.wordsKept s.dev f [(.dmaCh c, 0x10C + 32 * e.val, 0), (.dmaCh c, 0x11C + 32 * e.val, 0)] ∧
          d = f.haltEngine c.val e.val 6) ∧
    (∀ host ans, WellFormed.descriptor host ans = true →
      ((s.dev.mayStart c.val e.val = false ∨ s.dev.fetchComes c.val e.val ans = false) → Sys2Proof.Machine.exec (.dmaDescriptorArrival c e host ans) s = .next s) ∧
      (s.dev.mayStart c.val e.val = true → s.dev.fetchComes c.val e.val ans = true → s.dev.isSealedOp = false → s.dev.sliceRules = false →
        s.dev.engFn c.val e.val ≠ s.dev.get (pHst c.val) fHST_PTAG_FN (s.dev.engPart c.val e.val) →
        Sys2Proof.Machine.exec (.dmaDescriptorArrival c e host ans) s =
          .next { s with dev := if ds = [] then s.dev.haltEngine c.val e.val 2 else s.dev }) ∧
      (s.dev.mayStart c.val e.val = true → s.dev.fetchComes c.val e.val ans = true →
        (s.dev.isSealedOp = true ∨ s.dev.sliceRules = true ∨ s.dev.engFn c.val e.val = s.dev.get (pHst c.val) fHST_PTAG_FN (s.dev.engPart c.val e.val)) →
        ∀ pos (f : Dev), pos = (rp + ds.length) % 2 ^ 32 →
        (∀ cause, s.dev.fetchDesc c.val e.val pos host ans = (.inr cause, f) →
          Sys2Proof.Machine.exec (.dmaDescriptorArrival c e host ans) s =
            .next { s with dev := if ds = [] then f.haltEngine c.val e.val cause else s.dev }) ∧
        ∀ b, s.dev.fetchDesc c.val e.val pos host ans = (.inl b, f) →
        (descIllegal b = true → ds = [] →
          Sys2Proof.Machine.exec (.dmaDescriptorArrival c e host ans) s = .next { s with dev := f.haltEngine c.val e.val 1 }) ∧
        (descIllegal b = true → ds ≠ [] → Sys2Proof.Machine.exec (.dmaDescriptorArrival c e host ans) s = .next s) ∧
        (descIllegal b = false → (dFence b = false ∨ ds = []) → ∃ d, Sys2Proof.Machine.exec (.dmaDescriptorArrival c e host ans) s = .next { s with dev := d } ∧
          Safety.memoryKept s.dev d ∧ d = (f.setDescs c.val e.val (ds ++ [⟨pos, b⟩])).startDesc c.val e.val pos b) ∧
        (descIllegal b = false → dFence b = true → ds ≠ [] → Sys2Proof.Machine.exec (.dmaDescriptorArrival c e host ans) s = .next s))) ∧
    (st ≠ 1 → Sys2Proof.Machine.exec (.dmaDescriptorComplete c e) s = .next s) ∧
    (st = 1 → s.dev.engReqs c.val e.val = [] → ds = [] →
      Sys2Proof.Machine.exec (.dmaDescriptorComplete c e) s = .next { s with dev := s.dev.restEngine c.val e.val }) ∧
    (st = 1 → s.dev.engReqs c.val e.val = [] → ∀ x rest, ds = x :: rest →
      ∃ (d f : Dev) (w : Req), Sys2Proof.Machine.exec (.dmaDescriptorComplete c e) s = .next { s with dev := d } ∧ Safety.memoryKept s.dev d ∧
        f = { s.dev with regs := f.regs, host := f.host } ∧ f.engDescs c.val e.val = rest ∧ f.engRp c.val e.val = (rp + 1) % 2 ^ 32 ∧
        f.engSt c.val e.val = (if (rp + 1) % 2 ^ 32 = wp then 0 else 1) ∧
        Safety.wordsKept s.dev f [(.dmaCh c, 0x110 + 32 * e.val, 0), (.dmaCh c, 0x11C + 32 * e.val, 0)] ∧
        d = (f.issue w).restEngine c.val e.val)

/-- QUIESCE, QUIESCE_URGENT, QUIESCE_INFENCE and PQ_RESUME (R366 to R368): a partition of the channel that is not being quiesced
is quiesced, urgently or fenced in as the command says; ILL is set if it is already, or is none of the channel's; RESUME ends
the quiescing of that partition and of no other.  BLK_CTL_QREQ and DCTL_ARRANGE_WRITE (R42, R356, R369): QREQ is taken in reset
too; set, it holds an Imposer's queues or halts a channel's engines; cleared, it lets a channel's host requests go; elsewhere
only the bit changes. The arrangement is taken only before bring-up releases the quadrants, each of them in reset, and never
with ARR 3; else ILL; it does not change once sealed. -/
def Obligations.QuiesceAndArrange : Prop :=
  (
  ∀ (via : Via) (c : Chan) (p : Fin 64) (s : State), s.dev.writable via (pHst c.val) = true →
    (∀ cmd urgent infence, (cmd = .quiesce via c p ∧ urgent = false ∧ infence = false ∨
        cmd = .quiesceUrgent via c p ∧ urgent = true ∧ infence = false ∨ cmd = .quiesceInfence via c p urgent ∧ infence = true) →
      (s.dev.nPart ≤ p.val → ∃ d, Sys2Proof.Machine.exec cmd s = .next { s with dev := d } ∧ d = { s.dev with regs := d.regs } ∧
        d.on (.hstCh c) fHST_PQSTAT_ILL (s.dev.get (.hstCh c) fHST_PQCMD_PART 0) = true ∧
        Safety.wordsKept s.dev d [(.hstCh c, 0x154, s.dev.get (.hstCh c) fHST_PQCMD_PART 0)]) ∧
      (p.val < s.dev.nPart → ∃ d e : Dev, Sys2Proof.Machine.exec cmd s = .next { s with dev := d } ∧ e = { s.dev with regs := e.regs } ∧
        e.get (.hstCh c) fHST_PQCMD_PART 0 = p.val ∧
        (s.dev.quiesced c.val p.val = true → d = { e with regs := d.regs } ∧ d.on (.hstCh c) fHST_PQSTAT_ILL p.val = true ∧
          Safety.wordsKept s.dev d [(.hstCh c, 0x150, 0), (.hstCh c, 0x154, p.val)]) ∧
        (s.dev.quiesced c.val p.val = false → Safety.wordsKept s.dev e [(.hstCh c, 0x150, 0)] ∧ Safety.memoryKept s.dev d ∧
          d = e.quiescePart c.val p.val urgent infence none ∧ d.quiesced c.val p.val = true))) ∧
    (p.val < s.dev.nPart → ∃ d, Sys2Proof.Machine.exec (.pqResume via c p) s = .next { s with dev := d } ∧
      d = { s.dev with regs := d.regs, quiesces := d.quiesces } ∧ Safety.wordsKept s.dev d [(.hstCh c, 0x150, 0)] ∧
      d.quiesced c.val p.val = false ∧ ∀ ch part, (ch ≠ c.val ∨ part ≠ p.val) → d.quiesced ch part = s.dev.quiesced ch part)) ∧
  (
  ∀ (via : Via) (s : State),
    (∀ (p : Page) (on : Bool), s.dev.ctlWritable via p = false → Sys2Proof.Machine.exec (.blkCtlQreq via p on) s = .next s) ∧
    (∀ (p : Page) (on : Bool), s.dev.ctlWritable via p = true →
      ∃ d e : Dev, Sys2Proof.Machine.exec (.blkCtlQreq via p on) s = .next { s with dev := d } ∧ Safety.memoryKept s.dev d ∧
        e = { s.dev with regs := e.regs } ∧ e.on p fBLK_CTL_QREQ 0 = on ∧ Safety.wordsKept s.dev e [(p, 0x010, 0)] ∧
        (∀ x, p = .imp x → on = true → d = (List.range 64).foldl
          (fun d q => if d.qState x.val q = 1 ∨ d.qState x.val q = 2 then d.holdQueue x.val q true else d) e) ∧
        (∀ c, p = .dmaCh c → on = true → d = e.haltAll c.val 6 (fun _ _ => true)) ∧
        (∀ c, p = .hstCh c → on = false → d = e.releaseHost c.val) ∧
        (((∀ x, p ≠ .imp x) ∧ (∀ c, p ≠ .dmaCh c) ∧ (∀ c, p ≠ .hstCh c) ∨ (∃ x, p = .imp x) ∧ on = false ∨
            (∃ c, p = .dmaCh c) ∧ on = false ∨ (∃ c, p = .hstCh c) ∧ on = true) → d = e)) ∧
    (∀ (val : Word), s.dev.writable via .dctl = true → s.dev.isSealed = false →
      ∃ d, Sys2Proof.Machine.exec (.dctlArrangeWrite via val) s = .next { s with dev := d } ∧ Safety.memoryKept s.dev d ∧
        ((s.dev.power.running = true ∨ (∃ q, q < 4 ∧ s.dev.inReset (pQctl q) = false) ∨ val.toNat / 256 % 4 = 3) →
          d = { s.dev with regs := d.regs } ∧ d.on .dctl fDCTL_ARRANGE_ILL 0 = true ∧ d.arr? = s.dev.arr? ∧
          Safety.wordsKept s.dev d [(.dctl, fDCTL_ARRANGE_ILL.off, 0)]) ∧
        (s.dev.power.running = false → (∀ q, q < 4 → s.dev.inReset (pQctl q) = true) → val.toNat / 256 % 4 ≠ 3 →
          d = { s.dev with regs := d.regs, power := d.power } ∧ d.arr? = val.toNat / 256 % 4 ∧
          Safety.wordsKept s.dev d [(.dctl, fDCTL_ARRANGE_ILL.off, 0)] ∧ (d.arr? = s.dev.arr? → d.power = s.dev.power))) ∧
    (∀ (val : Word), s.dev.writable via .dctl = true → s.dev.isSealed = true →
      ∃ d, Sys2Proof.Machine.exec (.dctlArrangeWrite via val) s = .next { s with dev := d } ∧ Safety.memoryKept s.dev d ∧ d.arr? = s.dev.arr?))

/-- EVENT_MESSAGE (R379, R384 to R387): the collector's next event, the oldest and of one cycle's the first by status bit and
source, sets its status bit; one that failed its check is lost and MSG raised; a masked event or one of severity 0 does nothing
more; another opens an episode in the history's next entry, or is merged into the one that is open, and then, unless it is a
summary, its reactions are taken. -/
def Obligations.EventsOpenAndMergeEpisodes : Prop :=
  ∀ (k : Fin 9) (s : State),
    ((∀ e ∈ s.dev.evq, e.coll ≠ k.val) → ∀ good, Sys2Proof.Machine.exec (.eventMessage k good) s = .next s) ∧
    (∀ e rest, nextEvent k.val s.dev.evq = some e → rest = dropFirst (fun x => decide (x = e)) s.dev.evq → e.bit < 64 →
      (s.dev.power.pwrgd = false → ∀ good, Sys2Proof.Machine.exec (.eventMessage k good) s = .next { s with
        dev := { s.dev with evq := rest } }) ∧
      (s.dev.power.pwrgd = true → ∃ f : Dev, f = { s.dev with regs := f.regs, evq := rest } ∧
        f.collStat k.val = s.dev.collStat k.val ||| 2 ^ e.bit ∧
        Safety.wordsKept s.dev f [(collPage k.val, 0x100, 0), (collPage k.val, 0x104, 0)] ∧
        Sys2Proof.Machine.exec (.eventMessage k false) s = .next { s with dev := f.raise (collPage k.val) 2 e.bit } ∧
        ((e.sev = 0 ∨ (s.dev.collMask k.val).testBit e.bit = true) → Sys2Proof.Machine.exec (.eventMessage k true) s = .next { s with dev := f }) ∧
        (e.sev ≠ 0 → (s.dev.collMask k.val).testBit e.bit = false → ∃ d g : Dev,
          Sys2Proof.Machine.exec (.eventMessage k true) s = .next { s with dev := d } ∧ Safety.memoryKept s.dev d ∧
          d = (if e.summary then g else g.react k.val e) ∧ ∀ c, c = s.dev.coll k.val →
          (c.isOpen = false → (g.coll k.val).isOpen = true ∧ (g.coll k.val).ent = c.next ∧ (g.coll k.val).next = (c.next + 1) % 16 ∧
            (g.coll k.val).seq = (c.seq + 1) % 65536 ∧ ∀ h, h = NMap.get (g.coll k.val).hist c.next Hist.init →
            h.valid = true ∧ h.opened = true ∧ h.ack = false ∧ h.sev = e.sev ∧ h.bit = e.bit ∧ h.src = e.src ∧ h.synd = e.synd ∧
              h.stamp = e.stamp ∧ h.seq = c.seq ∧ h.merge = 0 ∧ h.merged = 2 ^ e.bit) ∧
          (c.isOpen = true → (g.coll k.val).isOpen = true ∧ (g.coll k.val).ent = c.ent ∧ ∀ h h', h = NMap.get c.hist c.ent Hist.init →
            h' = NMap.get (g.coll k.val).hist c.ent Hist.init → h'.sev = max h.sev e.sev ∧ h'.merged = h.merged ||| 2 ^ e.bit ∧
              h'.merge = (if h.merge = 0xFFFF then h.merge else h.merge + 1) ∧ h'.src = h.src ∧ h'.stamp = h.stamp))))

/-- BLK_CTL_BRST, CORE_RESET, CLUSTER_RESET, PARTITION_RESET, DEVICE_RESET and CONTROLLER_WATCHDOG_EXPIRE (R42, R397, R402,
R407): the domain of a running device, and of a powered one for the device itself, enters reset; nothing happens where it is in
reset already; the stacks' bytes stand.  CLUSTER_RESET, REPAIR and RETIRE (R409, R414, R415): a row's reset starts unless
another row of the die is in reset; a repair needs a working position, a free spare and held, drained queues; a retirement no
spare and no queue; each resets the row, and is refused with ILL otherwise. -/
def Obligations.ResetsStart : Prop :=
  (
  ∀ (s : State) (dom : Dom) (cause : Nat) (c : Instr),
    ((∃ via p, c = .blkCtlBrst via p ∧ dom = s.dev.pageDom p ∧ cause = 1 ∧ s.dev.ctlWritable via p = true) ∨
      (∃ x, c = .coreReset x ∧ dom = .core x ∧ cause = 1) ∨
      (∃ q, ∃ n : Fin 7, c = .partitionReset q n ∧ dom = .quad q ∧ cause = n.val ∧ n.val ≠ 0) ∨
      (∃ n : Fin 7, c = .deviceReset n ∧ dom = .device ∧ cause = n.val ∧ n.val ≠ 0) ∨
      (∃ q, c = .controllerWatchdogExpire (some q) ∧ dom = .quad q ∧ cause = 5 ∧ s.dev.power.running = true) ∨
      (c = .controllerWatchdogExpire none ∧ dom = .device ∧ cause = 5 ∧ s.dev.power.running = true)) →
    ((s.dev.power.pwrgd = false ∨ s.dev.domInReset (s.dev.normDom dom) = true ∨ (dom ≠ .device ∧ s.dev.power.running = false)) →
      Sys2Proof.Machine.exec c s = .next s) ∧
    (s.dev.power.pwrgd = true → s.dev.domInReset (s.dev.normDom dom) = false → (dom = .device ∨ s.dev.power.running = true) →
      ∃ d, Sys2Proof.Machine.exec c s = .next { s with dev := d } ∧ Safety.memoryKept s.dev d ∧ d = s.dev.startReset dom cause false 0 ∧
        ∃ r ∈ d.rsts, r.dom = s.dev.normDom dom ∧ r.phase = 0 ∧ r.cause = cause ∧ r.esc = false ∧
          r.since = s.dev.now (domClk (s.dev.normDom dom)))) ∧
  (
  ∀ (via : Via) (x : Die) (r : Fin 24) (col : Fin 25) (s : State), s.dev.writable via (pImp x.val) = true →
    (∃ d e : Dev, Sys2Proof.Machine.exec (.clusterReset via x r) s = .next { s with dev := d } ∧ e = { s.dev with regs := e.regs } ∧
      e.get (.imp x) fIMP_CRST_ROW 0 = r.val ∧ Safety.wordsKept s.dev e [(.imp x, fIMP_CRST_ROW.off, 0)] ∧
      ((∃ y ∈ s.dev.rsts, ∃ t, y.dom = .cluster x t ∧ t ≠ r) → d = e) ∧
      ((∀ y ∈ s.dev.rsts, ∀ t, y.dom = .cluster x t → t = r) → d = e.startReset (.cluster x r) 1 false 0)) ∧
    (∀ fix : Bool, ∃ d e : Dev, Sys2Proof.Machine.exec (if fix then .repair via x r col else .retire via x r col) s = .next { s with dev := d } ∧
      Safety.memoryKept s.dev d ∧ e = { s.dev with regs := e.regs } ∧ e.get (.imp x) fIMP_RPR_ROW 0 = r.val ∧
      e.get (.imp x) fIMP_RPR_PCOL 0 = col.val ∧ Safety.wordsKept s.dev e [(.imp x, fIMP_RPR_ROW.off, 0)] ∧ ∀ ok,
      (ok ↔ (s.dev.logCol x.val r.val col.val).isSome = true ∧ (∀ y ∈ s.dev.rsts, ∀ t, y.dom = .cluster x t → y.rpr = 0) ∧
        (if fix then s.dev.hasSpare x.val r.val = true ∧
            ∀ q ∈ s.dev.rowQueues x.val r.val, s.dev.qState x.val q = 3 ∧ s.dev.qBegun x.val q = 0
          else s.dev.hasSpare x.val r.val = false ∧ s.dev.rowQueues x.val r.val = [])) →
      (¬ok → d = { e with regs := d.regs } ∧ d.on (.imp x) fIMP_RPR_ILL 0 = true ∧
        Safety.wordsKept s.dev d [(.imp x, fIMP_RPR_ROW.off, 0)]) ∧
      (ok → s.dev.rstOf (.cluster x r) = none → d = e.startReset (.cluster x r) 1 false (2 ^ col.val)) ∧
      (ok → ∀ y, s.dev.rstOf (.cluster x r) = some y →
        (y.phase = 0 → d = { e with rsts := s.dev.rsts.map (fun z => if z.dom = .cluster x r then { z with rpr := 2 ^ col.val } else z) }) ∧
        (y.phase ≠ 0 → d = e.repairDone x.val r.val (2 ^ col.val)))))

/-- RESET_DRAIN_DONE and DRAIN_ESCALATE (R289, R401, R403): a domain whose drain has finished has its ledgers tested and is
reset, and then waits to leave; in a partition's or the device's drain the Deliveries that still issue are abandoned after 9,600
cycles; a drain that exceeds its budget widens to the next domain, its Deliveries abandoned, and the device's is forced; before
that nothing happens.  DOMAIN_LEAVE_RESET (R397, R400, R406, Table 17.4): a domain whose blocks have been reset and that nothing
holds leaves reset: its reset is over, its generation is one more modulo 256 (a partition's in each of its quadrants, and in
sealed operation in its channel's HST and DMA pages), and the quadrants of a partition or of the device record it. No byte of
the stacks changes. -/
def Obligations.ResetsFinish : Prop :=
  (
  ∀ (dom : Dom) (s : State),
    (s.dev.rstOf dom = none → Sys2Proof.Machine.exec (.resetDrainDone dom) s = .next s ∧ Sys2Proof.Machine.exec (.drainEscalate dom) s = .next s) ∧
    (∀ r, s.dev.rstOf dom = some r →
      (r.phase ≠ 0 → Sys2Proof.Machine.exec (.resetDrainDone dom) s = .next s) ∧
      (r.phase = 0 → ∀ f : Dev,
        ((∃ q, r.dom = .quad q) ∨ r.dom = .device → r.since + 9600 ≤ s.dev.now (domClk r.dom) → f = s.dev.cutDeliveries r.dom) →
        ((∀ q, r.dom ≠ .quad q) ∧ r.dom ≠ .device ∨ s.dev.now (domClk r.dom) < r.since + 9600 → f = s.dev) →
        ∃ d, Sys2Proof.Machine.exec (.resetDrainDone dom) s = .next { s with dev := d } ∧
          (f.drained r.dom = false → d = f) ∧
          (f.drained r.dom = true → d = (f.drainLedger r.dom).clearDom r ∧ ∀ x ∈ d.rsts, x.dom = r.dom → x.phase = 1)) ∧
      ((r.phase ≠ 0 ∨ s.dev.now (domClk r.dom) < r.since + drainBudget r.dom) → Sys2Proof.Machine.exec (.drainEscalate dom) s = .next s) ∧
      (r.phase = 0 → r.since + drainBudget r.dom ≤ s.dev.now (domClk r.dom) → ∀ f : Dev,
        f = s.dev.cutDeliveries r.dom →
        (r.dom = .device → ∃ d, Sys2Proof.Machine.exec (.drainEscalate dom) s = .next { s with dev := d } ∧ d = f.clearDom { r with forced := true } ∧
          ∀ x ∈ d.rsts, x.dom = .device → x.phase = 1 ∧ x.forced = true) ∧
        (r.dom ≠ .device → Sys2Proof.Machine.exec (.drainEscalate dom) s = .next { s with dev := f.startReset (f.outerDom r.dom) 4 true 0 })))) ∧
  (
  ∀ (dom : Dom) (s : State) (r : Rst), s.dev.rstOf dom = some r →
    (s.dev.mayLeave r = false → Sys2Proof.Machine.exec (.domainLeaveReset dom) s = .next s) ∧
    (s.dev.mayLeave r = true → ∃ d, Sys2Proof.Machine.exec (.domainLeaveReset dom) s = .next { s with dev := d } ∧ Safety.memoryKept s.dev d ∧
      d = { s.dev with regs := d.regs, wtab := d.wtab, cores := d.cores, rsts := d.rsts, gens := d.gens } ∧
      (∀ x, x ∈ d.rsts ↔ x ∈ s.dev.rsts ∧ x.dom ≠ r.dom) ∧
      (∀ k, k ∈ s.dev.genKeys r.dom → NMap.get d.gens k 0 = (NMap.get s.dev.gens k 0 + 1) % 256) ∧
      (∀ k, k ∉ s.dev.genKeys r.dom → NMap.get d.gens k 0 = NMap.get s.dev.gens k 0) ∧
      ((∀ q, r.dom ≠ .quad q) → s.dev.genKeys r.dom = [domKey r.dom]) ∧
      (∀ q, r.dom = .quad q → ∀ k, k ∈ s.dev.genKeys r.dom ↔ (∃ y ∈ s.dev.domQuads r.dom, k = 1 + y) ∨
        s.dev.isSealedOp = true ∧ k = chanGenKey (s.dev.chanOf q.val)) ∧
      ((∀ q, r.dom ≠ .quad q) ∨ s.dev.isSealedOp = true → d.wtab = s.dev.wtab) ∧
      (∀ q ∈ s.dev.domQuads r.dom, d.get (pQctl q) fQCTL_RSTINFO_DOM 0 = (if r.dom = .device then 3 else 2) ∧
        d.on (pQctl q) fQCTL_RSTINFO_ESC 0 = r.esc ∧ d.on (pQctl q) fQCTL_RSTINFO_FORCED 0 = r.forced) ∧
      (∀ x t, r.dom = .cluster x t → d.regs = s.dev.regs)))

/-- SELFTEST, MARK, FPCOMMIT, STAGE, LICENCE and START (R419 to R422, R425, R430, R431): a write while a command is in progress,
or of a mark past column 24, sets ILL and leaves CODE; one after the seal, or in a state Table 18.2 does not list, sets CODE
only; one accepted has the effect and the state that table gives; STAGE and LICENCE take their source and length then, and a
read of a host source of a legal length leaves under PF0. -/
def Obligations.BootCommandsTaken : Prop :=
  ∀ (via : Via) (col : Fin 32) (s : State), s.dev.writable via .boot = true →
    (∀ cmd states, (cmd, states) ∈ [(Instr.selftest via, [1]), (.mark via col, [3]), (.fpcommit via, [3]), (.stage via, [4, 5]),
        (.licence via, [4, 5]), (.start via, [4])] →
      ((s.dev.boot.busy ≠ 0 ∨ cmd = .mark via col ∧ 24 < col.val) →
        ∃ d, Sys2Proof.Machine.exec cmd s = .next { s with dev := d } ∧ d = { s.dev with regs := d.regs } ∧
          d.on .boot fBOOT_STAT_ILL 0 = true ∧ d.get .boot fBOOT_STAT_CODE 0 = s.dev.get .boot fBOOT_STAT_CODE 0 ∧
          d.bootState = s.dev.bootState ∧ Safety.wordsKept s.dev d [(.boot, 0x100, 0)]) ∧
      (s.dev.boot.busy = 0 → (cmd = .mark via col → col.val ≤ 24) → (s.dev.isSealed = true ∨ s.dev.bootState ∉ states) →
        ∃ d, Sys2Proof.Machine.exec cmd s = .next { s with dev := d } ∧ d = { s.dev with regs := d.regs } ∧
          d.get .boot fBOOT_STAT_CODE 0 = (if s.dev.isSealed then 0x0C else 0x0B) ∧ d.bootState = s.dev.bootState ∧
          Safety.wordsKept s.dev d [(.boot, 0x100, 0)])) ∧
    (s.dev.boot.busy = 0 → s.dev.isSealed = false →
      (s.dev.bootState = 1 →
        ∃ d, Sys2Proof.Machine.exec (.selftest via) s = .next { s with dev := d } ∧
          d = { s.dev with regs := d.regs, boot := { s.dev.boot with busy := 1 }, power := { s.dev.power with
            locked := d.power.locked, press := d.power.press } } ∧
          d.bootState = 2 ∧ d.on .boot fBOOT_STAT_BUSY 0 = true ∧ d.get .boot fBOOT_STAT_CODE 0 = 0 ∧
          (∀ x, x < 8 → NMap.get d.power.press x 45 = 30) ∧ (∀ k, k < 20 → NMap.get d.power.locked k false = true) ∧
          Safety.wordsKept s.dev d [(.boot, 0x100, 0)]) ∧
      (s.dev.bootState = 3 →
        (∃ d, Sys2Proof.Machine.exec (.fpcommit via) s = .next { s with dev := d } ∧
          d = { s.dev with regs := d.regs, boot := { s.dev.boot with committed := true, mrs := d.boot.mrs } } ∧
          d.bootState = 4 ∧ d.get .boot fBOOT_STAT_CODE 0 = 0 ∧
          NMap.get d.boot.mrs 8 (0 : BitVec 512) = sha512 (digestBytes (NMap.get s.dev.boot.mrs 8 (0 : BitVec 512)) ++
            sha ((List.range 192).flatMap (fun i => leBytes 4 (s.dev.fpRow (i / 24) (i % 24))))) ∧
          (∀ k, k ≠ 8 → NMap.get d.boot.mrs k (0 : BitVec 512) = NMap.get s.dev.boot.mrs k (0 : BitVec 512)) ∧
          Safety.wordsKept s.dev d [(.boot, 0x100, 0)]) ∧
        (col.val ≤ 24 → ∃ d, Sys2Proof.Machine.exec (.mark via col) s = .next { s with dev := d } ∧
          d = { s.dev with regs := d.regs, boot := { s.dev.boot with defects := d.boot.defects } } ∧
          d.get .boot fBOOT_STAT_CODE 0 = 0 ∧ d.bootState = 3 ∧ Safety.wordsKept s.dev d [(.boot, 0x100, 0)] ∧
          ∀ x r c, x < 8 → r < 24 → c < 25 → (d.defective x r c = true ↔ s.dev.defective x r c = true ∨
            x = s.dev.get .boot fBOOT_FP_IDX_DIE 0 ∧ r = s.dev.get .boot fBOOT_FP_IDX_ROW 0 ∧ c = col.val))) ∧
      ((s.dev.bootState = 4 ∨ s.dev.bootState = 5) → ∀ cmd n legal, (cmd, n) ∈ [(Instr.stage via, 3), (.licence via, 4)] →
        (∀ len host addr, len = s.dev.get .boot fBOOT_LEN_LEN 0 → host = (s.dev.get64 .boot 0x108 0).testBit 63 →
          addr = s.dev.get64 .boot 0x108 0 % 2 ^ 63 → (legal ↔ (n = 3 → 272 ≤ len ∧ len ≤ 256 + 2 ^ 25 ∧
            (host = true ∨ inStaging addr len = true)) ∧ (n = 4 → len ≤ 4096))) →
        ∃ d, Sys2Proof.Machine.exec cmd s = .next { s with dev := d } ∧
          d = { s.dev with
            regs := d.regs, out := d.out, nextReq := d.nextReq,
            boot := { s.dev.boot with
              busy := n, src := s.dev.get64 .boot 0x108 0, len := s.dev.get .boot fBOOT_LEN_LEN 0 } } ∧
          d.on .boot fBOOT_STAT_BUSY 0 = true ∧ d.get .boot fBOOT_STAT_CODE 0 = 0 ∧ d.bootState = s.dev.bootState ∧
          (legal ∧ d.bootSrc.1 = true ∧ (s.dev.func 0).busMaster = true ∧ s.dev.hostUp = true →
            d.nextReq = s.dev.nextReq + 1 ∧ d.out = s.dev.out ++ [.hostRead s.dev.nextReq (pfId 0) d.bootSrc.2 d.bootLen]) ∧
          (¬(legal ∧ d.bootSrc.1 = true ∧ (s.dev.func 0).busMaster = true ∧ s.dev.hostUp = true) →
            d.nextReq = s.dev.nextReq ∧ d.out = s.dev.out) ∧
          Safety.wordsKept s.dev d [(.boot, 0x100, 0)]) ∧
      (s.dev.bootState = 4 →
        ((∃ c, 2 ≤ c ∧ c ≤ 5 ∧ s.dev.compLoaded c = false) →
          ∃ d, Sys2Proof.Machine.exec (.start via) s = .next { s with dev := d } ∧ d = { s.dev with regs := d.regs } ∧
            d.get .boot fBOOT_STAT_CODE 0 = 9 ∧ d.bootState = 4 ∧ Safety.wordsKept s.dev d [(.boot, 0x100, 0)]) ∧
        ((∀ c, 2 ≤ c → c ≤ 5 → s.dev.compLoaded c = true) →
          ∃ d e : Dev, Sys2Proof.Machine.exec (.start via) s = .next { s with dev := d } ∧
            e = { s.dev with regs := e.regs, boot := { s.dev.boot with busy := 5 } } ∧
            e.on .boot fBOOT_STAT_BUSY 0 = true ∧ e.get .boot fBOOT_STAT_CODE 0 = 0 ∧
            e.hostUp = (s.dev.hostUp && !s.dev.isSealedOp) ∧ (s.dev.isSealedOp = true → e.get .hst fHST_LINK_WIDTH 0 = 0) ∧
            Safety.wordsKept s.dev e [(.boot, 0x100, 0), (.hst, fHST_LINK_UP.off, 0)] ∧
            d = if s.dev.isSealedOp then e.sendPosted else e)))

/-- PYRUNO_INIT_DONE and SELFTEST_DONE (R420, R429, R434, R438 to R440, R444): INIT ends READY, or after a device reset STAGING,
or FAILED where a self-test since power-up failed (the model's reading, log entry 139); it measures the ROM, derives the
identity or sets NOID and raises IDFAIL and FLASH, and takes the flash manifest or sets NOMAN. Self-test ends in FLOORPLAN with
the failing cores defective, or FAILED with the first failing block and BISTFAIL. Before either was begun nothing happens. -/
def Obligations.InitAndSelftestEnd : Prop :=
  ∀ (s : State),
    (∀ fl raw, (s.dev.bootState ≠ 0 ∨ s.dev.inReset .boot = true) → Sys2Proof.Machine.exec (.pyrunoInitDone fl raw) s = .next s) ∧
    (∀ fl raw, s.dev.bootState = 0 → s.dev.inReset .boot = false →
      ∃ d, Sys2Proof.Machine.exec (.pyrunoInitDone fl raw) s = .next { s with dev := d } ∧
        d = { s.dev with regs := d.regs, evq := d.evq, boot := { s.dev.boot with
          combos := d.boot.combos, mrs := d.boot.mrs, idWords := d.boot.idWords, devSeed := d.boot.devSeed,
          devCert := fl.devCert.getD [], caCert := fl.caCert.getD [] } } ∧
        d.bootState = (if s.dev.on .boot fBOOT_BIST_FAIL_VALID 0 then 6 else if s.dev.on .boot fBOOT_STAT_WARM 0 then 4 else 1) ∧
        NMap.get d.boot.mrs 0 (0 : BitVec 512) =
          sha512 (digestBytes (NMap.get s.dev.boot.mrs 0 (0 : BitVec 512)) ++ sha Config.romImage) ∧
        (∀ seed, deriveSeed raw fl.helper = some seed → d.boot.devSeed = seed ∧
          d.boot.idWords = idWordsOf (ed25519Public seed) ∧ d.on .boot fBOOT_STAT_NOID 0 = s.dev.on .boot fBOOT_STAT_NOID 0) ∧
        (deriveSeed raw fl.helper = none → d.on .boot fBOOT_STAT_NOID 0 = true ∧ d.on .dctl fDCTL_ID_STAT_NOID 0 = true ∧
          (d.get .boot fERR_STAT_SRC 0).testBit 3 = true ∧ (d.get .boot fERR_STAT_SRC 0).testBit 2 = true ∧
          d.boot.devSeed = s.dev.boot.devSeed) ∧
        (∀ b, fl.manifest = some b → imageErr b = none → iComp b = 15 →
          d.on .boot fBOOT_MAN_VALID 0 = true ∧ d.on .boot fBOOT_MAN_HOSTSRC 0 = false ∧ d.boot.combos = manCombos (iBody b) ∧
          d.get .boot fBOOT_MAN_MVER 0 = fieldLE (iBody b) 0 2 % 65536 ∧
          NMap.get d.boot.mrs 1 (0 : BitVec 512) =
            sha512 (digestBytes (NMap.get s.dev.boot.mrs 1 (0 : BitVec 512)) ++ sha (b.take 0x80))) ∧
        ((∀ b, fl.manifest = some b → imageErr b ≠ none ∨ iComp b ≠ 15) →
          d.on .boot fBOOT_STAT_NOMAN 0 = true ∧ (d.get .boot fERR_STAT_SRC 0).testBit 2 = true ∧
          d.boot.combos = s.dev.boot.combos) ∧
        Safety.wordsKept s.dev d [(.boot, 0x100, 0), (.boot, 0x11C, 0), (.dctl, 0x200, 0), (.boot, 0x020, 0), (.boot, 0x030, 0)]) ∧
    (∀ defects fail nfail, s.dev.boot.busy ≠ 1 → Sys2Proof.Machine.exec (.selftestDone defects fail nfail) s = .next s) ∧
    (∀ defects fail nfail, s.dev.boot.busy = 1 →
      ∃ d, Sys2Proof.Machine.exec (.selftestDone defects fail nfail) s = .next { s with dev := d } ∧
        d = { s.dev with regs := d.regs, evq := d.evq, power := { s.dev.power with press := [] }, boot := { s.dev.boot with
          busy := 0, defects := d.boot.defects } } ∧
        (∀ c : CoreId, d.defective c.die.val c.row.val c.col.val = true ↔
          s.dev.defective c.die.val c.row.val c.col.val = true ∨ c ∈ defects) ∧
        d.on .boot fBOOT_STAT_BUSY 0 = false ∧
        (fail = none → d.bootState = 3 ∧ d.get .boot fBOOT_STAT_CODE 0 = 0 ∧ Safety.wordsKept s.dev d [(.boot, 0x100, 0)]) ∧
        (∀ w t, fail = some (w, t) → d.bootState = 6 ∧ d.get .boot fBOOT_STAT_CODE 0 = 0x11 ∧
          d.on .boot fBOOT_BIST_FAIL_VALID 0 = true ∧ d.get .boot fBOOT_BIST_FAIL_COUNT 0 = nfail.toNat ∧
          d.get .boot fBOOT_BIST_FAIL_DIE 0 = dieNo w ∧ d.get .boot fBOOT_BIST_FAIL_TYPE 0 = t.toNat ∧
          (s.dev.inReset .boot = false → (d.get .boot fERR_STAT_SRC 0).testBit 1 = true) ∧
          Safety.wordsKept s.dev d [(.boot, 0x100, 0), (.boot, 0x130, 0), (.boot, 0x020, 0), (.boot, 0x030, 0)]))

/-- STAGE_COMPLETE, LICENCE_COMPLETE and START_COMPLETE (R425, R428, R430, R431, R450, R451, R454). The first check to fail
gives its CODE, raises IMGREF and leaves components and licences as they were. An image accepted is kept, its component reads
loaded with the header's version and epoch, it is measured, and a running manager delivers it (when it does is the model's
choice, log entry 136); a token applied for the first time is measured and has its kind's effect. START ends RUNNING with the
components started, and the keys are cleared where the arrangement differs from the last START's. -/
def Obligations.StageLicenceAndStartEnd : Prop :=
  ∀ (data : List Byte) (ans : Answer) (s : State),
    (s.dev.boot.busy ≠ 3 → Sys2Proof.Machine.exec (.stageComplete data ans) s = .next s) ∧
    (s.dev.boot.busy ≠ 4 → Sys2Proof.Machine.exec (.licenceComplete data ans) s = .next s) ∧
    (s.dev.boot.busy ≠ 5 → Sys2Proof.Machine.exec .startComplete s = .next s) ∧
    (s.dev.boot.busy = 3 → ∀ bad,
      (bad ↔ s.dev.bootLen < 272 ∨ 256 + 2 ^ 25 < s.dev.bootLen ∨
        s.dev.bootSrc.1 = false ∧ inStaging s.dev.bootSrc.2 s.dev.bootLen = false) →
      (∀ c, (bad ∧ c = 0x02 ∨ ¬bad ∧ (s.dev.bootData data ans = none ∧ c = 0x0A ∨
          ∃ b, s.dev.bootData data ans = some b ∧ (imageErr b = some c ∨ imageErr b = none ∧ s.dev.admitErr b = some c))) →
        ∃ e : Dev, Sys2Proof.Machine.exec (.stageComplete data ans) s = .next { s with dev := e.ackStage 1 } ∧
          e = { s.dev with regs := e.regs, evq := e.evq, boot := { s.dev.boot with busy := 0 } } ∧
          e.get .boot fBOOT_STAT_CODE 0 = c % 256 ∧ e.on .boot fBOOT_STAT_BUSY 0 = false ∧
          (s.dev.inReset .boot = false → (e.get .boot fERR_STAT_SRC 0).testBit 0 = true) ∧
          Safety.wordsKept s.dev e [(.boot, 0x100, 0), (.boot, 0x020, 0), (.boot, 0x030, 0)]) ∧
      (∀ b, ¬bad → s.dev.bootData data ans = some b → imageErr b = none → s.dev.admitErr b = none →
        ∃ e d : Dev, Sys2Proof.Machine.exec (.stageComplete data ans) s = .next { s with dev := d } ∧
          d = (e.ackStage 0).castImage (iComp b) b ∧ (e.isMgr = false → d = e.ackStage 0) ∧
          e = { s.dev with regs := e.regs, boot := e.boot } ∧ e.boot.busy = 0 ∧ e.boot.licences = s.dev.boot.licences ∧
          e.get .boot fBOOT_STAT_CODE 0 = 0 ∧ e.on .boot fBOOT_STAT_BUSY 0 = false ∧
          Safety.wordsKept s.dev e ([(.boot, 0x100, 0), (.boot, 0x11C, 0)] ++ (List.range 7).map (fun c => (.boot, 0x118, c))) ∧
          e.boot.images = s.dev.boot.images.filter (fun x => x.comp != iComp b) ++ [⟨iComp b, b⟩] ∧
          (iComp b ≠ 15 → e.on .boot fBOOT_COMP_LOADED (iComp b) = true ∧
            e.get .boot fBOOT_COMP_VERSION (iComp b) = iVer b % 65536 ∧ e.get .boot fBOOT_COMP_EPOCH (iComp b) = iEpoch b % 256 ∧
            NMap.get e.boot.mrs (iComp b) (0 : BitVec 512) =
              sha512 (digestBytes (NMap.get s.dev.boot.mrs (iComp b) (0 : BitVec 512)) ++ sha (b.take 0x80)) ∧
            (iComp b = 6 → s.dev.bootState = 5 → e.boot.rtStore = true ∧ e.on .boot fBOOT_COMP_STARTED 6 = true)) ∧
          (iComp b = 15 → e.on .boot fBOOT_MAN_VALID 0 = true ∧ e.on .boot fBOOT_MAN_HOSTSRC 0 = true ∧
            e.get .boot fBOOT_MAN_MVER 0 = fieldLE (iBody b) 0 2 % 65536 ∧ e.boot.combos = manCombos (iBody b)))) ∧
    (s.dev.boot.busy = 4 →
      (∀ c, (4096 < s.dev.bootLen ∧ c = 0x02 ∨ s.dev.bootLen ≤ 4096 ∧ (s.dev.bootData data ans = none ∧ c = 0x0A ∨
          ∃ b, s.dev.bootData data ans = some b ∧ (s.dev.licErr b = some c ∨ s.dev.licErr b = none ∧
            sha (b.take (licLen b)) ∉ s.dev.boot.licences ∧ 30 ≤ s.dev.boot.licences.length ∧ c = 0x02))) →
        ∃ d, Sys2Proof.Machine.exec (.licenceComplete data ans) s = .next { s with dev := d } ∧
          d = { s.dev with regs := d.regs, evq := d.evq, boot := { s.dev.boot with busy := 0 } } ∧
          d.get .boot fBOOT_STAT_CODE 0 = c % 256 ∧ d.on .boot fBOOT_STAT_BUSY 0 = false ∧
          (s.dev.inReset .boot = false → (d.get .boot fERR_STAT_SRC 0).testBit 0 = true) ∧
          Safety.wordsKept s.dev d [(.boot, 0x100, 0), (.boot, 0x020, 0), (.boot, 0x030, 0)]) ∧
      (∀ b t, s.dev.bootLen ≤ 4096 → s.dev.bootData data ans = some b → s.dev.licErr b = none → t = b.take (licLen b) →
        (sha t ∈ s.dev.boot.licences ∨ s.dev.boot.licences.length < 30) →
        ∃ d, Sys2Proof.Machine.exec (.licenceComplete data ans) s = .next { s with dev := d } ∧
          d.get .boot fBOOT_STAT_CODE 0 = 0 ∧ d.on .boot fBOOT_STAT_BUSY 0 = false ∧
          d = { s.dev with regs := d.regs, boot := d.boot } ∧ d.boot.busy = 0 ∧ d.boot.images = s.dev.boot.images ∧
          (sha t ∈ s.dev.boot.licences → d.boot = { s.dev.boot with busy := 0 } ∧ Safety.wordsKept s.dev d [(.boot, 0x100, 0)]) ∧
          (sha t ∉ s.dev.boot.licences → d.boot.licences = s.dev.boot.licences ++ [sha t] ∧
            NMap.get d.boot.mrs 7 (0 : BitVec 512) =
              sha512 (digestBytes (NMap.get s.dev.boot.mrs 7 (0 : BitVec 512)) ++ sha t) ∧
            Safety.wordsKept s.dev d [(.boot, 0x100, 0), (.boot, 0x134, 0), (.dctl, fDCTL_ROLE_LIC.off, 0)] ∧
            (fieldLE t 5 1 = 1 → d.on .dctl fDCTL_ROLE_LIC 0 = true ∧ d.on .boot fBOOT_LIC_MGR 0 = true ∧
              d.boot.overrides = s.dev.boot.overrides) ∧
            (fieldLE t 5 1 = 2 → d.boot.overrides = s.dev.boot.overrides ++ [(t.drop 0x20).take 48] ∧
              d.get .boot fBOOT_LIC_NOVR 0 = min (s.dev.get .boot fBOOT_LIC_NOVR 0 + 1) 255)))) ∧
    (s.dev.boot.busy = 5 →
      ∃ d, Sys2Proof.Machine.exec .startComplete s = .next { s with dev := d } ∧
        d = { s.dev with regs := d.regs, boot := { s.dev.boot with busy := 0, rtStore := s.dev.compLoaded 6 },
                         power := { s.dev.power with running := true }, trust := d.trust } ∧
        d.bootState = 5 ∧ d.on .boot fBOOT_STAT_BUSY 0 = false ∧ d.get .boot fBOOT_STAT_CODE 0 = 0 ∧
        (∀ c, 2 ≤ c → c ≤ 5 → d.on .boot fBOOT_COMP_STARTED c = true) ∧
        (s.dev.compLoaded 6 = true → d.on .boot fBOOT_COMP_STARTED 6 = true) ∧
        d.trust.lastArr = some s.dev.arr? ∧
        ((s.dev.trust.lastArr = none ∨ s.dev.trust.lastArr = some s.dev.arr?) →
          d.trust = { s.dev.trust with lastArr := some s.dev.arr? }) ∧
        (∀ a, s.dev.trust.lastArr = some a → a ≠ s.dev.arr? → d.trust.keys = [] ∧ d.trust.loaded = []) ∧
        Safety.wordsKept s.dev d ((.boot, 0x100, 0) :: [2, 3, 4, 5, 6].map (fun c => (.boot, 0x118, c))))

/-- REPORT, CERT, EXTEND and ATT_COMMAND_COMPLETE (R439, R444, R446 to R448): a command written while one is in progress sets
ILL; a report without an identity ends with CODE 1, the chain where there is none with 2; else the command is in progress with
the bytes it will write and the address as it stands, a report counted and signed over its layout, an extension's 64 bytes asked
for. A host access that fails ends with 3; the bytes leave for that address under the channel's function, or extend the
register. -/
def Obligations.AttestationCommandsRun : Prop :=
  ∀ (via : Via) (c : Chan) (s : State),
    (s.dev.writable via (pHst c.val) = true → s.dev.on (.hstCh c) fHST_ATT_STAT_BUSY 0 = true → ∀ mr cmd,
      cmd ∈ [Instr.report via c, .cert via c, .extend via c mr] →
      ∃ d, Sys2Proof.Machine.exec cmd s = .next { s with dev := d } ∧ d = { s.dev with regs := d.regs } ∧
        d.on (.hstCh c) fHST_ATT_STAT_ILL 0 = true ∧ d.on (.hstCh c) fHST_ATT_STAT_BUSY 0 = true ∧
        Safety.wordsKept s.dev d [(.hstCh c, 0x194, 0)]) ∧
    (s.dev.writable via (pHst c.val) = true → s.dev.on (.hstCh c) fHST_ATT_STAT_BUSY 0 = false →
      (∀ cmd n, (cmd, n) ∈ [(Instr.report via c, 1), (.cert via c, 2)] →
        (if n = 1 then s.dev.hasId = false else s.dev.noCert = true) →
        ∃ d, Sys2Proof.Machine.exec cmd s = .next { s with dev := d } ∧ d = { s.dev with regs := d.regs, trust := d.trust } ∧
          d.get (.hstCh c) fHST_ATT_STAT_CODE 0 = n ∧ d.get (.hstCh c) fHST_ATT_STAT_LEN 0 = 0 ∧
          d.on (.hstCh c) fHST_ATT_STAT_BUSY 0 = false ∧ NMap.get d.trust.att c.val 0 = 0 ∧
          Safety.wordsKept s.dev d [(.hstCh c, 0x190, 0), (.hstCh c, 0x194, 0)]) ∧
      (s.dev.hasId = true →
        ∃ d e : Dev, Sys2Proof.Machine.exec (.report via c) s = .next { s with dev := d } ∧
          e = { s.dev with regs := e.regs } ∧ Safety.wordsKept s.dev e [(.hstCh c, 0x190, 0)] ∧
          d = { e with regs := d.regs, trust := d.trust } ∧ Safety.wordsKept e d [(.hstCh c, 0x194, 0)] ∧
          d.on (.hstCh c) fHST_ATT_STAT_BUSY 0 = true ∧ NMap.get d.trust.att c.val 0 = 1 ∧
          NMap.get d.trust.attTo c.val 0 = s.dev.attAddr c.val ∧
          NMap.get d.trust.attCount c.val 0 = NMap.get s.dev.trust.attCount c.val 0 + 1 ∧
          NMap.get d.trust.attBytes c.val [] = e.signReport (e.repBody c.val (e.attNonce c.val)
            (NMap.get s.dev.trust.attCount c.val 0 + 1))) ∧
      (s.dev.noCert = false →
        ∃ d, Sys2Proof.Machine.exec (.cert via c) s = .next { s with dev := d } ∧ d = { s.dev with regs := d.regs, trust := d.trust } ∧
          d.on (.hstCh c) fHST_ATT_STAT_BUSY 0 = true ∧ NMap.get d.trust.att c.val 0 = 2 ∧
          NMap.get d.trust.attTo c.val 0 = s.dev.attAddr c.val ∧
          NMap.get d.trust.attBytes c.val [] = s.dev.boot.caCert ++ s.dev.boot.devCert ∧
          Safety.wordsKept s.dev d [(.hstCh c, 0x190, 0), (.hstCh c, 0x194, 0)]) ∧
      (∀ mr : Fin 4, ∃ d, Sys2Proof.Machine.exec (.extend via c mr) s = .next { s with dev := d } ∧
        d = { s.dev with regs := d.regs, trust := d.trust, out := d.out, nextReq := d.nextReq } ∧
        d.on (.hstCh c) fHST_ATT_STAT_BUSY 0 = true ∧ d.get (.hstCh c) fHST_ATT_CMD_MRIDX 0 = mr.val ∧
        NMap.get d.trust.att c.val 0 = 3 + mr.val ∧
        (if s.dev.hostUp then d.nextReq = s.dev.nextReq + 1 ∧ d.out = s.dev.out ++
          [.hostRead s.dev.nextReq (pfId (if s.dev.isSealedOp then c.val else 0)) (s.dev.attAddr c.val) 64]
         else d.nextReq = s.dev.nextReq ∧ d.out = s.dev.out) ∧
        Safety.wordsKept s.dev d [(.hstCh c, 0x190, 0), (.hstCh c, 0x194, 0)])) ∧
    (∀ data ans n f ok, n = NMap.get s.dev.trust.att c.val 0 → f = (if s.dev.isSealedOp then c.val else 0) →
      (ok ↔ ans = .ok ∧ s.dev.hostUp = true ∧ (s.dev.func f).tdi ≠ 3 ∧ s.dev.fencedFn f = false) →
      (n = 0 → Sys2Proof.Machine.exec (.attCommandComplete c data ans) s = .next s) ∧
      (n ≠ 0 → ∃ d, Sys2Proof.Machine.exec (.attCommandComplete c data ans) s = .next { s with dev := d } ∧
        d = { s.dev with regs := d.regs, trust := d.trust, boot := d.boot, out := d.out } ∧
        d.on (.hstCh c) fHST_ATT_STAT_BUSY 0 = false ∧ NMap.get d.trust.att c.val 0 = 0 ∧
        Safety.wordsKept s.dev d [(.hstCh c, 0x194, 0)] ∧
        (¬ok ∨ 3 ≤ n ∧ data.length ≠ 64 → d.get (.hstCh c) fHST_ATT_STAT_CODE 0 = 3 ∧ d.boot = s.dev.boot ∧ d.out = s.dev.out) ∧
        (ok → n < 3 → d.get (.hstCh c) fHST_ATT_STAT_CODE 0 = 0 ∧ d.boot = s.dev.boot ∧
          d.get (.hstCh c) fHST_ATT_STAT_LEN 0 = (NMap.get s.dev.trust.attBytes c.val []).length % 4096 ∧
          d.out = s.dev.out ++ [.hostWrite (pfId f) (NMap.get s.dev.trust.attTo c.val 0) (NMap.get s.dev.trust.attBytes c.val []) false false]) ∧
        (ok → 3 ≤ n → data.length = 64 → d.get (.hstCh c) fHST_ATT_STAT_CODE 0 = 0 ∧ d.out = s.dev.out ∧
          d.boot = { s.dev.boot with mrs := d.boot.mrs } ∧
          NMap.get d.boot.mrs (16 * (c.val + 1) + (12 + (n - 3))) (0 : BitVec 512) = sha512 (digestBytes
            (NMap.get s.dev.boot.mrs (16 * (c.val + 1) + (12 + (n - 3))) (0 : BitVec 512)) ++ data))))

/-- KEY_LOAD, KEY_RENEW and KEY_COMMAND_DONE (R452 to R454): a command while one is in progress, or of a slot the channel does
not have, sets ILL; RENEW of a slot in use is refused INUSE; without entropy, or where the draw's test fails, the command ends
ENTROPY, a failed test raising TRNG; else key and slot are loaded, a fresh key drawn by RENEW, or by LOAD where there is none.
-/
def Obligations.KeyCommandsRun : Prop :=
  ∀ (via : Via) (c : Chan) (trng : Fin 3) (s : State) (k : Nat), k = s.dev.get (.hstCh c) fHST_KEY_IDX_SLOT 0 →
    (s.dev.writable via (pHst c.val) = true → ∀ renew cmd, cmd = (if renew then Instr.keyRenew via c trng else .keyLoad via c trng) →
      (∀ busy, busy = s.dev.on (.hstCh c) fHST_KEY_STAT_BUSY 0 →
        ((busy = true ∨ s.dev.nPart ≤ k ∨ renew = true ∧ s.dev.keyInUse c.val k = true) →
          ∃ d, Sys2Proof.Machine.exec cmd s = .next { s with dev := d } ∧ d = { s.dev with regs := d.regs } ∧
            d.on (.hstCh c) fHST_KEY_STAT_ILL 0 = true ∧ d.on (.hstCh c) fHST_KEY_STAT_BUSY 0 = busy ∧
            (busy = false → k < s.dev.nPart → d.get (.hstCh c) fHST_KEY_STAT_CODE 0 = 1) ∧
            Safety.wordsKept s.dev d [(.hstCh c, 0x1A8, 0)]) ∧
        (busy = false → k < s.dev.nPart → (renew = true → s.dev.keyInUse c.val k = false) →
          ∀ draw, (draw ↔ renew = true ∨ s.dev.keyOf c.val k = none) →
          (s.dev.on .dctl fDCTL_ID_STAT_ENTFAIL 0 = true →
            ∃ d, Sys2Proof.Machine.exec cmd s = .next { s with dev := d } ∧ d = { s.dev with regs := d.regs } ∧
              d.get (.hstCh c) fHST_KEY_STAT_CODE 0 = 2 ∧ Safety.wordsKept s.dev d [(.hstCh c, 0x1A8, 0)]) ∧
          (s.dev.on .dctl fDCTL_ID_STAT_ENTFAIL 0 = false → draw → trng.val ≠ 0 →
            ∃ d, Sys2Proof.Machine.exec cmd s = .next { s with dev := d } ∧ d = { s.dev with regs := d.regs, evq := d.evq } ∧
              d.get (.hstCh c) fHST_KEY_STAT_CODE 0 = 2 ∧ d.on .dctl fDCTL_ID_STAT_ENTFAIL 0 = true ∧
              (s.dev.inReset .dctl = false → (d.get .dctl fERR_STAT_SRC 0).testBit 0 = true) ∧
              Safety.wordsKept s.dev d [(.hstCh c, 0x1A8, 0), (.dctl, 0x200, 0), (.dctl, 0x020, 0), (.dctl, 0x030, 0)]) ∧
          (s.dev.on .dctl fDCTL_ID_STAT_ENTFAIL 0 = false → (draw → trng.val = 0) →
            ∃ d, Sys2Proof.Machine.exec cmd s = .next { s with dev := d } ∧
              d = { s.dev with regs := d.regs, freeCtr := d.freeCtr, trust := { s.dev.trust with
                keys := d.trust.keys, keyBusy := d.trust.keyBusy } } ∧
              d.on (.hstCh c) fHST_KEY_STAT_BUSY 0 = true ∧ NMap.get d.trust.keyBusy c.val 0 = k + 1 ∧
              (¬draw → d.trust.keys = s.dev.trust.keys ∧ d.freeCtr = s.dev.freeCtr) ∧
              (draw → d.freeCtr = s.dev.freeCtr + 1 ∧ ∃ v, d.keyOf c.val k = some ⟨c.val, k, v⟩) ∧
              (∀ ch j, (ch ≠ c.val ∨ j ≠ k) → d.keyOf ch j = s.dev.keyOf ch j) ∧
              Safety.wordsKept s.dev d [(.hstCh c, 0x1A8, 0)])))) ∧
    (NMap.get s.dev.trust.keyBusy c.val 0 = 0 → Sys2Proof.Machine.exec (.keyCommandDone c) s = .next s) ∧
    (∀ j, NMap.get s.dev.trust.keyBusy c.val 0 = j + 1 →
      ∃ d, Sys2Proof.Machine.exec (.keyCommandDone c) s = .next { s with dev := d } ∧
        d = { s.dev with regs := d.regs, trust := { s.dev.trust with keyBusy := d.trust.keyBusy, loaded := d.trust.loaded } } ∧
        d.on (.hstCh c) fHST_KEY_STAT_BUSY 0 = false ∧ d.get (.hstCh c) fHST_KEY_STAT_CODE 0 = 0 ∧
        NMap.get d.trust.keyBusy c.val 0 = 0 ∧ Safety.wordsKept s.dev d [(.hstCh c, 0x1A8, 0)] ∧
        (∀ x, s.dev.keyOf c.val j = some x → (∀ q ∈ s.dev.quadsOf c.val, (q, j, x.value) ∈ d.trust.loaded) ∧
          (∀ e ∈ d.trust.loaded, e.1 ∈ s.dev.quadsOf c.val → e.2.1 = j → e.2.2 = x.value) ∧
          (∀ e : Nat × Nat × BitVec 512, (e.1 ∉ s.dev.quadsOf c.val ∨ e.2.1 ≠ j) → (e ∈ d.trust.loaded ↔ e ∈ s.dev.trust.loaded))))

/-- The SPDM requests of R449 and IDE_KM (R456), at a function with a mailbox whose host link is up: without an identity only
GET_VERSION is answered (R439). The chain, its digest and challenges are answered from slot 0 alone; the report or a measurement
register is answered by index; KEY_EXCHANGE and FINISH make a session, inside which IDE streams are keyed and which END_SESSION
ends. The codes of the messages and their bodies' form are the model's (log entries 4 and 22), and so is what is answered with
ERROR. -/
def Obligations.SpdmResponderAnswers : Prop :=
  ∀ (r : SpdmReq) (stream : Fin 5) (on : Bool) (s : State) (d : Dev) (f : Nat), d = s.dev → f = r.fn.val →
    d.arrives (.pf 0) = true → d.hasDoe f = true →
    Sys2Proof.Machine.exec (.getVersion r) s = .next { s with dev := d.spdmSay f spdmVersion [] } ∧
    (d.hasId = false → ∀ cmd ∈ [Instr.getCapabilities r, .negotiateAlgorithms r, .getDigests r, .getCertificate r, .challenge r,
      .getMeasurements r, .keyExchange r, .finish r, .endSession r, .ideKm r stream on], Sys2Proof.Machine.exec cmd s = .next s) ∧
    (d.hasId = true →
      Sys2Proof.Machine.exec (.getCapabilities r) s = .next { s with dev := d.spdmSay f spdmCapabilities [] } ∧
      (∃ e : Dev, Sys2Proof.Machine.exec (.negotiateAlgorithms r) s = .next { s with dev := e.spdmSay f spdmAlgorithms [] } ∧
        e = { d with trust := { d.trust with algos := e.trust.algos } } ∧
        ∀ x, x ∈ e.trust.algos ↔ x ∈ d.trust.algos ∨ x = f) ∧
      Sys2Proof.Machine.exec (.getDigests r) s = .next { s with
        dev := if d.noCert then d.spdmErr f else d.spdmSay f spdmDigests (sha (d.boot.caCert ++ d.boot.devCert)) } ∧
      ((r.slot.val ≠ 0 ∨ d.noCert = true) → ∀ cmd ∈ [Instr.getCertificate r, .challenge r, .keyExchange r],
        Sys2Proof.Machine.exec cmd s = .next { s with dev := d.spdmErr f }) ∧
      (r.slot.val = 0 → d.noCert = false →
        Sys2Proof.Machine.exec (.getCertificate r) s = .next { s with
          dev := d.spdmSay f spdmCertificate (d.boot.caCert ++ d.boot.devCert) } ∧
        Sys2Proof.Machine.exec (.challenge r) s = .next { s with
          dev := d.spdmSigned f spdmChallengeAuth (sha (d.boot.caCert ++ d.boot.devCert) ++ leBytes 32 r.nonce.toNat) } ∧
        ∃ e : Dev, Sys2Proof.Machine.exec (.keyExchange r) s = .next { s with
            dev := e.spdmSigned f spdmKeyExchangeRsp (leBytes 32 r.nonce.toNat) } ∧
          e = { d with trust := { d.trust with sessions := e.trust.sessions } } ∧ e.session f = 1 ∧
          ∀ g, g ≠ f → e.session g = d.session g) ∧
      (r.index.toNat = 1 → d.on (pHst (d.fnChan f)) fHST_ATT_STAT_BUSY 0 = false →
        ∃ e : Dev, Sys2Proof.Machine.exec (.getMeasurements r) s = .next { s with
            dev := e.spdmSay f spdmMeasurements (d.signReport (d.repBody (d.fnChan f) r.nonce
              (NMap.get d.trust.attCount (d.fnChan f) 0 + 1))) } ∧
          e = { d with trust := { d.trust with attCount := e.trust.attCount } } ∧
          NMap.get e.trust.attCount (d.fnChan f) 0 = NMap.get d.trust.attCount (d.fnChan f) 0 + 1) ∧
      (∀ m, r.index.toNat = 2 + m → m < 16 → Sys2Proof.Machine.exec (.getMeasurements r) s = .next { s with
        dev := d.spdmSay f spdmMeasurements (digestBytes (d.mr (d.fnChan f) m)) }) ∧
      ((r.index.toNat = 0 ∨ 17 < r.index.toNat ∨ r.index.toNat = 1 ∧ d.on (pHst (d.fnChan f)) fHST_ATT_STAT_BUSY 0 = true) →
        Sys2Proof.Machine.exec (.getMeasurements r) s = .next { s with dev := d.spdmErr f }) ∧
      (d.session f ≠ 1 → Sys2Proof.Machine.exec (.finish r) s = .next { s with dev := d.spdmErr f }) ∧
      (d.session f = 1 → ∃ e : Dev, Sys2Proof.Machine.exec (.finish r) s = .next { s with dev := e.spdmSay f spdmFinishRsp [] } ∧
        e = { d with trust := { d.trust with sessions := e.trust.sessions } } ∧ e.session f = 2) ∧
      (d.session f = 0 → Sys2Proof.Machine.exec (.endSession r) s = .next { s with dev := d.spdmErr f }) ∧
      (d.session f ≠ 0 → ∃ e : Dev, Sys2Proof.Machine.exec (.endSession r) s = .next { s with dev := e.spdmSay f spdmEndSessionAck [] } ∧
        e = { d with trust := { d.trust with sessions := e.trust.sessions } } ∧ e.session f = 0) ∧
      (d.session f ≠ 2 → Sys2Proof.Machine.exec (.ideKm r stream on) s = .next { s with dev := d.spdmErr f }) ∧
      (d.session f = 2 → ∃ e : Dev, Sys2Proof.Machine.exec (.ideKm r stream on) s = .next { s with dev := e.spdmSay f spdmVendor [] } ∧
        e = { d with trust := { d.trust with ide := e.trust.ide } } ∧
        ∀ x, x ∈ e.trust.ide ↔ if on then x ∈ d.trust.ide ∨ x = stream.val else x ∈ d.trust.ide ∧ x ≠ stream.val))

/-- INPUT_RISE, SOFT_START_DONE, PWRGD_RISE and INPUT_FAULT (R459, R460, R484, R485): power-good that rises before soft start is
complete takes effect when it completes; taken, it samples the straps and locks the H-die's PLLs. An input fault takes
everything to the state of a power-down, but for what has left the package and the levels of the platform's pins. -/
def Obligations.SupplyRisesAndFalls : Prop :=
  ∀ (s : State) (x : Straps) (w : InputFault),
    Sys2Proof.Machine.exec .inputRise s = .next { s with dev := { s.dev with power := { s.dev.power with vin := true } } } ∧
    ((s.dev.power.vin = false ∨ s.dev.power.softStart = true) → Sys2Proof.Machine.exec .softStartDone s = .next s) ∧
    (s.dev.power.vin = true → s.dev.power.softStart = false → s.dev.power.early = none →
      Sys2Proof.Machine.exec .softStartDone s = .next { s with dev := { s.dev with power := { s.dev.power with softStart := true } } }) ∧
    (s.dev.power.pwrgd = true → Sys2Proof.Machine.exec (.pwrgdRise x) s = .next s) ∧
    (s.dev.power.pwrgd = false → (s.dev.power.vin = false ∨ s.dev.power.softStart = false) →
      Sys2Proof.Machine.exec (.pwrgdRise x) s = .next { s with
        dev := { s.dev with power := { s.dev.power with early := some (x.i3c, x.addr.val) } } }) ∧
    (∀ c i3c a, (c = Instr.softStartDone ∧ s.dev.power.vin = true ∧ s.dev.power.softStart = false ∧
          s.dev.power.early = some (i3c, a) ∨
        c = .pwrgdRise x ∧ s.dev.power.vin = true ∧ s.dev.power.softStart = true ∧ s.dev.power.pwrgd = false ∧
          i3c = x.i3c ∧ a = x.addr.val) →
      ∃ d, Sys2Proof.Machine.exec c s = .next { s with dev := d } ∧
        d = { s.dev with power := { s.dev.power with
          pwrgd := true, softStart := true, early := none, i3c := i3c, strap := a, sbOff := none, sbDyn := none,
          locked := d.power.locked } } ∧
        NMap.get d.power.locked 20 false = true ∧ NMap.get d.power.locked 21 false = true ∧
        ∀ k, k ≠ 20 → k ≠ 21 → NMap.get d.power.locked k false = NMap.get s.dev.power.locked k false) ∧
    (∀ hit, (hit ↔ s.dev.power.vin = true ∧ (w = .pwrgdLow → s.dev.power.pwrgd = true)) →
      (¬hit → Sys2Proof.Machine.exec (.inputFault w) s = .next s) ∧
      (hit → ∃ d, Sys2Proof.Machine.exec (.inputFault w) s = .next { s with dev := d } ∧
        d = { State.reset.dev with
          out := s.dev.out, freeCtr := s.dev.freeCtr,
          host := { State.reset.dev.host with perst := s.dev.host.perst },
          power := { State.reset.dev.power with vin := decide (w = .pwrgdLow), fpl := s.dev.power.fpl } }))

/-- PWR_CAP_WRITE, PWR_MODE_WRITE, FPL_ASSERT, FPL_RELEASE, CAP_CONTROLLER_SAMPLE and DROOP_DETECT (R463, R464, R468, R469,
R471): a cap outside 24 to 88, or under the fixed mode's minimum, is refused; so is a fixed mode whose minimum exceeds the cap;
a fixed mode sets every press clock. FPL is raised when the input begins to hold issue. The controller keeps a clock between
0.80 and 2.25 GHz, and neither it nor a droop acts in fixed-frequency mode. That a cap refused under R468 sets the ILL of both
registers is the model's reading (log entry 28). -/
def Obligations.CapAndModeAreKept : Prop :=
  ∀ (via : Via) (val : Word) (s : State), s.dev.writable via .pwr = true →
    (∀ u, u = val.toNat % 128 →
      ∃ d, Sys2Proof.Machine.exec (.pwrCapWrite via val) s = .next { s with dev := d } ∧ d = { s.dev with regs := d.regs, evq := d.evq } ∧
        ((u < 24 ∨ 88 < u) → d.get .pwr fPWR_CAP_UNITS 0 = s.dev.get .pwr fPWR_CAP_UNITS 0 ∧ d.on .pwr fPWR_CAP_ILL 0 = true ∧
          Safety.wordsKept s.dev d [(.pwr, 0x100, 0)]) ∧
        (24 ≤ u → u ≤ 88 → s.dev.fixed = true → u < freqMin (s.dev.get .pwr fPWR_MODE_FREQ 0) →
          d.get .pwr fPWR_CAP_UNITS 0 = s.dev.get .pwr fPWR_CAP_UNITS 0 ∧ d.on .pwr fPWR_CAP_ILL 0 = true ∧
          d.on .pwr fPWR_MODE_ILL 0 = true ∧ d.fixed = true ∧ Safety.wordsKept s.dev d [(.pwr, 0x100, 0), (.pwr, 0x104, 0)]) ∧
        (24 ≤ u → u ≤ 88 → (s.dev.fixed = true → freqMin (s.dev.get .pwr fPWR_MODE_FREQ 0) ≤ u) →
          d.get .pwr fPWR_CAP_UNITS 0 = u ∧ Safety.wordsKept s.dev d [(.pwr, 0x100, 0), (.pwr, 0x020, 0), (.pwr, 0x030, 0)])) ∧
    (∀ f, f = val.toNat % 4 →
      ∃ d, Sys2Proof.Machine.exec (.pwrModeWrite via val) s = .next { s with dev := d } ∧
        d = { s.dev with regs := d.regs, evq := d.evq, power := { s.dev.power with
          press := d.power.press, limit := d.power.limit, stretch := d.power.stretch } } ∧
        (val.toNat.testBit 8 = true → s.dev.get .pwr fPWR_CAP_UNITS 0 < freqMin f →
          d.on .pwr fPWR_MODE_ILL 0 = true ∧ d.fixed = s.dev.fixed ∧ d.get .pwr fPWR_MODE_FREQ 0 = s.dev.get .pwr fPWR_MODE_FREQ 0 ∧
          d.power = s.dev.power ∧ Safety.wordsKept s.dev d [(.pwr, 0x104, 0)]) ∧
        ((val.toNat.testBit 8 = true → freqMin f ≤ s.dev.get .pwr fPWR_CAP_UNITS 0) →
          d.fixed = val.toNat.testBit 8 ∧ d.get .pwr fPWR_MODE_FREQ 0 = f ∧
          (val.toNat.testBit 8 = false → d.power = s.dev.power) ∧
          (val.toNat.testBit 8 = true → d.power.limit = [] ∧ d.power.stretch = [] ∧
            ∀ x, x < 8 → NMap.get d.power.press x 45 = freqClock f) ∧
          Safety.wordsKept s.dev d [(.pwr, 0x104, 0), (.pwr, 0x020, 0), (.pwr, 0x030, 0)])) ∧
    (∃ d, Sys2Proof.Machine.exec .fplAssert s = .next { s with dev := d } ∧
      d = { s.dev with regs := d.regs, evq := d.evq, power := { s.dev.power with fpl := true } } ∧
      Safety.wordsKept s.dev d [(.pwr, 0x020, 0), (.pwr, 0x030, 0)] ∧
      (s.dev.power.fpl = false → s.dev.fixed = true → s.dev.get .pwr fPWR_FPL_UNITS 0 < freqMin (s.dev.get .pwr fPWR_MODE_FREQ 0) →
        (d.get .pwr fERR_STAT_SRC 0).testBit 2 = true)) ∧
    Sys2Proof.Machine.exec .fplRelease s = .next { s with dev := { s.dev with power := { s.dev.power with fpl := false } } } ∧
    (∀ q : Quad,
      ((s.dev.fixed = true ∨ s.dev.power.running = false) → Sys2Proof.Machine.exec (.capControllerSample q) s = .next s) ∧
      (s.dev.fixed = false → s.dev.power.running = true →
        ∃ d, Sys2Proof.Machine.exec (.capControllerSample q) s = .next { s with dev := d } ∧
          d = { s.dev with freeCtr := d.freeCtr, power := { s.dev.power with
            press := d.power.press, limit := d.power.limit, learned := d.power.learned } } ∧
          (∀ x, x < 8 → (x / 2 ≠ q.val ∨ s.dev.inReset (pImp x) = true) →
            NMap.get d.power.press x 45 = NMap.get s.dev.power.press x 45) ∧
          ∀ x, x / 2 = q.val → s.dev.inReset (pImp x) = false →
            16 ≤ NMap.get d.power.press x 45 ∧ NMap.get d.power.press x 45 ≤ 45)) ∧
    (∀ x : Die,
      ((s.dev.fixed = true ∨ s.dev.quadsClocked = false) → Sys2Proof.Machine.exec (.droopDetect x) s = .next s) ∧
      (s.dev.fixed = false → s.dev.quadsClocked = true →
        ∃ d, Sys2Proof.Machine.exec (.droopDetect x) s = .next { s with dev := d } ∧
          d = { s.dev with power := { s.dev.power with stretch := d.power.stretch } } ∧
          NMap.get d.power.stretch x.val false = true ∧
          ∀ k, k ≠ x.val → NMap.get d.power.stretch k false = NMap.get s.dev.power.stretch k false))

/-- UNDERVOLTAGE, JTRIP, THERM, TRIP_REARM, PLL_LOCK_LOSS, PLL_RELOCK, PERST_ASSERT and PERST_RELEASE (R472, R473, R475, R484):
a trip raises its source, holds its die or stack as tripped until it is below its re-arm temperature, and resets the domain that
holds it with cause 2; a PLL without lock raises PLL_LOCK and holds its domain likewise; PERST# holds the host link down and
resets the device with cause 6. No byte of memory changes. -/
def Obligations.TripsAndPinsReset : Prop :=
  ∀ (s : State),
    (∀ c, (s.dev.power.pwrgd = false ∧ ((∃ w, c = Instr.undervoltage w ∨ c = .jtrip w) ∨ (∃ t, c = .therm t) ∨ (∃ p, c = .pllLockLoss p)) ∨
        s.dev.host.perst = true ∧ c = .perstAssert) → Sys2Proof.Machine.exec c s = .next s) ∧
    (s.dev.power.pwrgd = true → ∀ c p src dom x,
      ((∃ w, c = Instr.undervoltage w ∧ p = .pwr ∧ src = 1 ∧ dom = dieDom (dieNo w) ∧ x = none) ∨
        (∃ w, c = .jtrip w ∧ p = .pwr ∧ src = 0 ∧ dom = dieDom (dieNo w) ∧ x = some (dieNo w)) ∨
        (∃ t, c = .therm t ∧ p = pStk t.val ∧ src = 2 ∧ dom = .quad (quad (t.val / 5)) ∧ x = some (32 + t.val))) →
      ∃ d e : Dev, Sys2Proof.Machine.exec c s = .next { s with dev := d } ∧ Safety.memoryKept s.dev d ∧
        e = { s.dev with regs := e.regs, evq := e.evq, power := { s.dev.power with tripped := e.power.tripped } } ∧
        (∀ y, y ∈ e.power.tripped ↔ y ∈ s.dev.power.tripped ∨ some y = x) ∧
        (s.dev.inReset p = false → (e.get p fERR_STAT_SRC 0).testBit src = true) ∧
        Safety.wordsKept s.dev e [(p, 0x020, 0), (p, 0x030, 0)] ∧ d = e.startReset dom 2 false 0) ∧
    (∀ dom, ∃ d, Sys2Proof.Machine.exec (.tripRearm dom) s = .next { s with dev := d } ∧
      d = { s.dev with power := { s.dev.power with tripped := d.power.tripped } } ∧
      ∀ y, y ∈ d.power.tripped ↔ y ∈ s.dev.power.tripped ∧ (y < 128 → s.dev.contains dom (tripDom y) = false)) ∧
    (∀ p : Pll, s.dev.power.pwrgd = true →
      ∃ d, Sys2Proof.Machine.exec (.pllLockLoss p) s = .next { s with dev := d } ∧
        d = { s.dev with regs := d.regs, evq := d.evq, power := { s.dev.power with
          tripped := d.power.tripped, locked := d.power.locked } } ∧
        NMap.get d.power.locked p.val false = false ∧ (∀ y, y ∈ d.power.tripped ↔ y ∈ s.dev.power.tripped ∨ y = 128 + p.val) ∧
        (d.get .clk fERR_STAT_SRC 0).testBit 0 = (!s.dev.inReset .clk || (s.dev.get .clk fERR_STAT_SRC 0).testBit 0) ∧
        Safety.wordsKept s.dev d [(.clk, 0x020, 0), (.clk, 0x030, 0)]) ∧
    (∀ p : Pll, (128 + p.val ∉ s.dev.power.tripped → Sys2Proof.Machine.exec (.pllRelock p) s = .next s) ∧
      (128 + p.val ∈ s.dev.power.tripped →
        ∃ d, Sys2Proof.Machine.exec (.pllRelock p) s = .next { s with dev := d } ∧
          d = { s.dev with power := { s.dev.power with tripped := d.power.tripped, locked := d.power.locked } } ∧
          NMap.get d.power.locked p.val false = true ∧
          (∀ y, y ∈ d.power.tripped ↔ y ∈ s.dev.power.tripped ∧ y ≠ 128 + p.val))) ∧
    (s.dev.host.perst = false →
      ∃ d e : Dev, Sys2Proof.Machine.exec .perstAssert s = .next { s with dev := d } ∧ Safety.memoryKept s.dev d ∧
        e = { s.dev with regs := e.regs, host := { s.dev.host with perst := true } } ∧ e.hostUp = false ∧
        e.get .hst fHST_LINK_WIDTH 0 = 0 ∧ Safety.wordsKept s.dev e [(.hst, 0x100, 0)] ∧
        d = if s.dev.power.pwrgd then e.sendPosted.startReset .device 6 false 0 else e.sendPosted) ∧
    Sys2Proof.Machine.exec .perstRelease s = .next { s with dev := { s.dev with host := { s.dev.host with perst := false } } }

/-- The sideband's commands (R485, R486, R488): it answers while power-good is asserted; a transaction whose PEC fails is NACKed
and has no effect; a register write in the device-wide pages is the register write of the sideband's path, outside them nothing;
a read answers the register at the read offset with STATUS 0, or 3 misaligned, 1 outside the range, 2 with no offset set (its
DATA then free); an unknown code is NACKed; the alert is answered and released; dynamic addresses are taken in I3C mode, by
ENTDAA only without one.  The test access port (R491): an instruction is loaded while power-good is asserted; EXTEST, CLAMP,
HIGHZ, EXTEST_PULSE and EXTEST_TRAIN take effect in INIT and READY, and act as BYPASS in a later state; TRST# resets the port at
any time, to IDCODE (IEEE 1149.1's, log entry 33), which reads 0x1539A6B7. Nothing else of the device is reached. -/
def Obligations.SidebandAndTestPort : Prop :=
  (
  ∀ (off val : Word) (pec again : Bool) (code : Byte) (addr : BitVec 7) (s : State),
    (s.dev.power.pwrgd = false → ∀ c ∈ [Instr.sbRegisterWrite off val pec, .sbSetReadOffset off pec, .sbRegisterRead,
      .sbUnknownCommand code, .sbAlertResponse again, .setdasa addr, .entdaa addr], Sys2Proof.Machine.exec c s = .next s) ∧
    (s.dev.power.pwrgd = true →
      (s.dev.power.i3c = false → pec = false → ∀ c ∈ [Instr.sbRegisterWrite off val pec, .sbSetReadOffset off pec],
        Sys2Proof.Machine.exec c s = .next { s with dev := s.dev.send .sbNack }) ∧
      ((s.dev.power.i3c = true ∨ pec = true) →
        (∀ o : BitVec 27, o.toNat = off.toNat → off.toNat < 0x6000 →
          Sys2Proof.Machine.exec (.sbRegisterWrite off val pec) s = Sys2Proof.Machine.exec (.registerWrite .sb o true val) s) ∧
        (0x6000 ≤ off.toNat → Sys2Proof.Machine.exec (.sbRegisterWrite off val pec) s = .next s) ∧
        Sys2Proof.Machine.exec (.sbSetReadOffset off pec) s = .next { s with
          dev := { s.dev with power := { s.dev.power with sbOff := some off } } }) ∧
      (s.dev.power.sbOff = none → ∃ v, Sys2Proof.Machine.exec .sbRegisterRead s = .next { s with
        dev := { s.dev with out := s.dev.out ++ [.sbData 2 v], freeCtr := s.dev.freeCtr + 1 } }) ∧
      (∀ o, s.dev.power.sbOff = some o →
        (0x6000 ≤ o.toNat → Sys2Proof.Machine.exec .sbRegisterRead s = .next { s with dev := s.dev.send (.sbData 1 0) }) ∧
        (o.toNat < 0x6000 → o.toNat % 4 = 0 →
          ∃ d, Sys2Proof.Machine.exec .sbRegisterRead s = .next { s with dev := d } ∧
            d = { s.dev with rdShadow := d.rdShadow, out := s.dev.out ++
              [.sbData 0 (BitVec.ofNat 32 (regRead s.dev .sb o.toNat true).1)] }) ∧
        (o.toNat < 0x6000 → o.toNat % 4 ≠ 0 → ∀ p, pageOfNo (o.toNat / 4096) = some p → s.dev.reaches .sb p = true →
          ∃ d, Sys2Proof.Machine.exec .sbRegisterRead s = .next { s with dev := d } ∧
            d = { s.dev with regs := d.regs, out := s.dev.out ++ [.sbData 3 (BitVec.ofNat 32 0xFFFFFFFF)] } ∧
            d.on p fBLK_STAT_BADACC 0 = true ∧ Safety.wordsKept s.dev d [(p, 0x014, 0)])) ∧
      Sys2Proof.Machine.exec (.sbUnknownCommand code) s = .next { s with
        dev := if code.toNat ∈ [0xA1, 0xA2, 0xA3] then s.dev else s.dev.send .sbNack } ∧
      ((s.dev.power.alert = false ∨ s.dev.power.i3c = true) → Sys2Proof.Machine.exec (.sbAlertResponse again) s = .next s) ∧
      (s.dev.power.alert = true → s.dev.power.i3c = false → Sys2Proof.Machine.exec (.sbAlertResponse again) s = .next { s with
        dev := { s.dev with out := s.dev.out ++ [.sbAra (0x58 + s.dev.power.strap % 4)],
                            power := { s.dev.power with alert := again } } }) ∧
      (s.dev.power.i3c = false → ∀ c ∈ [Instr.setdasa addr, .entdaa addr], Sys2Proof.Machine.exec c s = .next s) ∧
      (s.dev.power.i3c = true → ∀ c, (c = Instr.setdasa addr ∨ c = .entdaa addr ∧ s.dev.power.sbDyn = none) →
        Sys2Proof.Machine.exec c s = .next { s with
          dev := { s.dev with power := { s.dev.power with sbDyn := some addr.toNat } } }) ∧
      (∀ a, s.dev.power.sbDyn = some a → Sys2Proof.Machine.exec (.entdaa addr) s = .next s))) ∧
  (
  ∀ (s : State) (c : Instr) (n : Nat) (boundary : Bool),
    (c, n, boundary) ∈ [(Instr.idcode, tapIdcode, false), (.bypass, tapBypass, false), (.samplePreload, tapSample, false),
      (.extest, tapExtest, true), (.clamp, tapClamp, true), (.highz, tapHighz, true), (.extestPulse, tapExtestPulse, true),
      (.extestTrain, tapExtestTrain, true)] →
    (s.dev.power.pwrgd = false → Sys2Proof.Machine.exec c s = .next s) ∧
    (s.dev.power.pwrgd = true → Sys2Proof.Machine.exec c s = .next { s with dev := { s.dev with power := { s.dev.power with
      tap := if boundary = true ∧ 1 < s.dev.bootState then tapBypass else n } } }) ∧
    Sys2Proof.Machine.exec .trst s = .next { s with dev := { s.dev with power := { s.dev.power with tap := tapIdcode } } } ∧
    (s.dev.power.tap = tapIdcode → s.dev.tapCapture = some 0x1539A6B7) ∧ (s.dev.power.tap = tapBypass → s.dev.tapCapture = some 0))
end

