-- ==== Sys2Proof/Laws/Maps.lean ====
section
/-!
SUPPORT. What the sparse maps, the sets and the byte memory of the state answer after a change. The laws hold of every list; the
canonical forms are kept by every operation.
-/

namespace Sys2Proof.Machine

open Sys2Proof

/-! ### Maps -/

section maps

variable {β : Type} (m : NMap β) (d : β)

@[simp] theorem NMap.get_nil (k : Nat) : NMap.get ([] : NMap β) k d = d := rfl

theorem NMap.get_cons (j k : Nat) (v : β) : NMap.get ((j, v) :: m) k d = if j = k then v else NMap.get m k d := rfl

/-- Dropping keys. -/
theorem NMap.get_dropIf (f : Nat → Bool) (k : Nat) : NMap.get (NMap.dropIf m f) k d = if f k then d else NMap.get m k d := by
  induction m with
  | nil => simp [NMap.dropIf]
  | cons e r ih =>
    obtain ⟨j, v⟩ := e
    unfold NMap.dropIf at ih ⊢
    by_cases h : f j
    · rw [List.filter_cons_of_neg (by simp [h]), ih, NMap.get_cons]
      by_cases hk : j = k
      · subst hk; simp [h]
      · simp [hk]
    · rw [List.filter_cons_of_pos (by simp [h]), NMap.get_cons, NMap.get_cons, ih]
      by_cases hk : j = k
      · subst hk; simp [h]
      · simp [hk]

@[simp] theorem NMap.get_erase_same (k : Nat) : NMap.get (NMap.erase m k) k d = d := by
  simp [NMap.erase, NMap.get_dropIf]

theorem NMap.get_erase_ne {j k : Nat} (h : k ≠ j) : NMap.get (NMap.erase m j) k d = NMap.get m k d := by
  simp [NMap.erase, NMap.get_dropIf, h]

/-- What a key reads after a write of a key. -/
theorem NMap.get_put [DecidableEq β] (j k : Nat) (v : β) :
    NMap.get (NMap.put m j v d) k d = if k = j then v else NMap.get m k d := by
  induction m with
  | nil =>
    by_cases hv : v = d
    · simp [NMap.put, hv]
    · by_cases hk : k = j
      · simp [NMap.put, hv, NMap.get_cons, hk]
      · simp [NMap.put, hv, NMap.get_cons, hk, Ne.symm hk]
  | cons e r ih =>
    obtain ⟨i, w⟩ := e
    unfold NMap.put
    by_cases h1 : j < i
    · rw [if_pos h1]
      have hne : i ≠ j := by omega
      by_cases hv : v = d
      · rw [if_pos hv, NMap.get_cons]
        by_cases hk : k = j
        · subst hk; rw [if_neg hne, NMap.get_erase_same, if_pos rfl, hv]
        · rw [NMap.get_erase_ne _ _ hk, if_neg hk, NMap.get_cons]
      · rw [if_neg hv, NMap.get_cons]
        by_cases hk : k = j
        · subst hk; simp
        · simp [hk, Ne.symm hk]
    · rw [if_neg h1]
      by_cases h2 : j = i
      · subst h2
        rw [if_pos rfl]
        by_cases hv : v = d
        · rw [if_pos hv]
          by_cases hk : k = j
          · subst hk; rw [NMap.get_erase_same, if_pos rfl, hv]
          · rw [NMap.get_erase_ne _ _ hk, if_neg hk, NMap.get_cons, if_neg (Ne.symm hk)]
        · rw [if_neg hv, NMap.get_cons, NMap.get_cons]
          by_cases hk : k = j
          · subst hk; simp
          · simp [hk, Ne.symm hk]
      · rw [if_neg h2, NMap.get_cons, NMap.get_cons, ih]
        by_cases hk : k = j
        · subst hk; simp [Ne.symm h2]
        · simp [hk]

@[simp] theorem NMap.get_put_same [DecidableEq β] (k : Nat) (v : β) : NMap.get (NMap.put m k v d) k d = v := by
  simp [NMap.get_put]

theorem NMap.get_put_ne [DecidableEq β] {j k : Nat} (v : β) (h : k ≠ j) :
    NMap.get (NMap.put m j v d) k d = NMap.get m k d := by simp [NMap.get_put, h]

/-- A write of another key, under whatever default. -/
theorem NMap.get_put_other [DecidableEq β] {j k : Nat} (v e x : β) (h : k ≠ j) :
    NMap.get (NMap.put m j v e) k x = NMap.get m k x := by
  induction m with
  | nil =>
    unfold NMap.put
    split
    · rfl
    · simp [NMap.get_cons, Ne.symm h]
  | cons y r ih =>
    obtain ⟨i, w⟩ := y
    unfold NMap.put
    split
    · split
      · rw [NMap.get_cons, NMap.get_cons, NMap.get_erase_ne _ _ h]
      · rw [NMap.get_cons, if_neg (Ne.symm h)]
    · split
      · next he =>
        subst he
        split
        · rw [NMap.get_erase_ne _ _ h, NMap.get_cons, if_neg (Ne.symm h)]
        · rw [NMap.get_cons, NMap.get_cons, if_neg (Ne.symm h), if_neg (Ne.symm h)]
      · rw [NMap.get_cons, NMap.get_cons, ih]

/-- What a key reads after every listed value has been changed, where the change keeps the default. -/
theorem NMap.get_update [DecidableEq β] (f : Nat → β → β) (hd : ∀ k, f k d = d) (k : Nat) :
    NMap.get (NMap.update m d f) k d = f k (NMap.get m k d) := by
  induction m with
  | nil => simp [NMap.update, hd]
  | cons e r ih =>
    obtain ⟨j, v⟩ := e
    unfold NMap.update
    by_cases hv : f j v = d
    · rw [if_pos hv]
      by_cases hk : k = j
      · subst hk; rw [NMap.get_erase_same, NMap.get_cons, if_pos rfl, hv]
      · rw [NMap.get_erase_ne _ _ hk, ih, NMap.get_cons, if_neg (Ne.symm hk)]
    · rw [if_neg hv, NMap.get_cons, NMap.get_cons]
      by_cases hk : j = k
      · subst hk; simp
      · simp [hk, ih]

end maps

/-! ### Sets -/

theorem Set.mem_add (s : List Nat) (j k : Nat) : k ∈ Set.add s j ↔ k = j ∨ k ∈ s := by
  induction s with
  | nil => simp [Set.add]
  | cons i r ih =>
    unfold Set.add
    by_cases h1 : j < i
    · simp [h1]
    · rw [if_neg h1]
      by_cases h2 : j = i
      · subst h2
        simp only [↓reduceIte, List.mem_cons]
        constructor
        · exact Or.inr
        · rintro (h | h)
          · exact Or.inl h
          · exact h
      · rw [if_neg h2, List.mem_cons, List.mem_cons, ih]
        constructor
        · rintro (h | h | h)
          · exact Or.inr (Or.inl h)
          · exact Or.inl h
          · exact Or.inr (Or.inr h)
        · rintro (h | h | h)
          · exact Or.inr (Or.inl h)
          · exact Or.inl h
          · exact Or.inr (Or.inr h)

theorem Set.has_iff (s : List Nat) (k : Nat) : Set.has s k = true ↔ k ∈ s := by simp [Set.has]

@[simp] theorem Set.has_add_same (s : List Nat) (k : Nat) : Set.has (Set.add s k) k = true := by
  simp [Set.has_iff, Set.mem_add]

theorem Set.mem_del (s : List Nat) (j k : Nat) : k ∈ Set.del s j ↔ k ∈ s ∧ k ≠ j := by simp [Set.del]

@[simp] theorem Set.has_del_same (s : List Nat) (k : Nat) : Set.has (Set.del s k) k = false := by
  simp [Set.has, Set.del]

/-! ### The memory's canonical form -/

/-- Every cell of the list stands above an address. -/
def Memory.above (m : Memory) (a : Nat) : Prop := ∀ e ∈ m, a < e.1

theorem Memory.wf_cons (e : Host.Cell) (m : Memory) :
    Memory.wf (e :: m) = true ↔ e.2 ≠ Memory.unlisted ∧ Memory.above m e.1 ∧ Memory.wf m = true := by
  induction m generalizing e with
  | nil => simp [Memory.wf, Memory.above]
  | cons x r ih =>
    have hx := ih x
    rw [Memory.wf]
    simp only [Bool.and_eq_true, bne_iff_ne, ne_eq, decide_eq_true_eq]
    constructor
    · rintro ⟨⟨h1, h2⟩, h3⟩
      refine ⟨h1, ?_, h3⟩
      intro y hy
      rcases List.mem_cons.mp hy with rfl | hy
      · exact h2
      · exact Nat.lt_trans h2 ((hx.mp h3).2.1 y hy)
    · rintro ⟨h1, h2, h3⟩
      exact ⟨⟨h1, h2 x (by simp)⟩, h3⟩

/-- Dropping cells keeps the form. -/
theorem Memory.wf_filter (m : Memory) (f : Host.Cell → Bool) (h : Memory.wf m = true) : Memory.wf (m.filter f) = true := by
  induction m with
  | nil => simpa using h
  | cons e r ih =>
    have he := (Memory.wf_cons e r).mp h
    by_cases hf : f e
    · rw [List.filter_cons_of_pos hf]
      exact (Memory.wf_cons _ _).mpr ⟨he.1, fun y hy => he.2.1 y (List.mem_filter.mp hy).1, ih he.2.2⟩
    · rw [List.filter_cons_of_neg hf]
      exact ih he.2.2

theorem Memory.wf_dropIf (m : Memory) (f : Nat → Bool) (h : Memory.wf m = true) : Memory.wf (NMap.dropIf m f) = true :=
  Memory.wf_filter m _ h

theorem Memory.above_put (m : Memory) (a b : Nat) (v : Byte) (h : Memory.above m a) (hb : a < b) :
    Memory.above (NMap.put m b v Memory.unlisted) a := by
  induction m with
  | nil =>
    intro e he
    unfold NMap.put at he
    split at he
    · simp at he
    · simp at he; subst he; exact hb
  | cons x r ih =>
    obtain ⟨j, w⟩ := x
    have hr : Memory.above r a := fun e he => h e (by simp [he])
    have hj : a < j := h (j, w) (by simp)
    have hdrop : Memory.above (NMap.erase r b) a := fun e he => hr e (List.mem_filter.mp he).1
    intro e he
    unfold NMap.put at he
    split at he
    · split at he
      · rcases List.mem_cons.mp he with rfl | he
        · exact hj
        · exact hdrop e he
      · rcases List.mem_cons.mp he with rfl | he
        · exact hb
        · exact h e he
    · split at he
      · split at he
        · exact hdrop e he
        · rcases List.mem_cons.mp he with rfl | he
          · exact hb
          · exact hr e he
      · rcases List.mem_cons.mp he with rfl | he
        · exact hj
        · exact ih hr e he

/-- A write of one byte keeps the form. -/
theorem Memory.wf_write (m : Memory) (a : Nat) (b : Byte) (h : Memory.wf m = true) : Memory.wf (m.write a b) = true := by
  unfold Memory.write
  induction m with
  | nil =>
    unfold NMap.put
    split
    · rfl
    · next hb => exact (Memory.wf_cons _ _).mpr ⟨hb, by simp [Memory.above], rfl⟩
  | cons x r ih =>
    obtain ⟨j, w⟩ := x
    have hx := (Memory.wf_cons _ _).mp h
    have hdrop : Memory.wf (NMap.erase r a) = true := Memory.wf_dropIf r _ hx.2.2
    unfold NMap.put
    split
    · next hlt =>
      split
      · exact (Memory.wf_cons _ _).mpr ⟨hx.1, fun y hy => hx.2.1 y (List.mem_filter.mp hy).1, hdrop⟩
      · next hb =>
        refine (Memory.wf_cons _ _).mpr ⟨hb, ?_, h⟩
        intro y hy
        rcases List.mem_cons.mp hy with rfl | hy
        · exact hlt
        · exact Nat.lt_trans hlt (hx.2.1 y hy)
    · next hge =>
      split
      · next heq =>
        split
        · exact hdrop
        · next hb =>
          subst heq
          exact (Memory.wf_cons _ _).mpr ⟨hb, hx.2.1, hx.2.2⟩
      · next hne =>
        exact (Memory.wf_cons _ _).mpr ⟨hx.1, Memory.above_put r j a b hx.2.1 (by omega), ih hx.2.2⟩

/-- A write of several bytes keeps the form. -/
theorem Memory.wf_writeN (m : Memory) (a n mask v : Nat) (h : Memory.wf m = true) :
    Memory.wf (Memory.writeN m a n mask v) = true := by
  induction n generalizing m a mask v with
  | zero => exact h
  | succ n ih =>
    unfold Memory.writeN
    split
    · exact ih _ _ _ _ (Memory.wf_write m a _ h)
    · exact ih _ _ _ _ h

/-! ### Reading the memory back -/

theorem Memory.read_write (m : Memory) (a b : Nat) (v : Byte) :
    (m.write a v).read b = if b = a then v else m.read b := NMap.get_put m Memory.unlisted a b v

/-- A byte below or above a written range reads as before. -/
theorem Memory.read_writeN_outside (m : Memory) (a n mask v b : Nat) (h : b < a ∨ a + n ≤ b) :
    (Memory.writeN m a n mask v).read b = m.read b := by
  induction n generalizing m a mask v with
  | zero => rfl
  | succ n ih =>
    unfold Memory.writeN
    rw [ih _ _ _ _ (by omega)]
    split
    · rw [Memory.read_write, if_neg (by omega)]
    · rfl

/-- A byte of a written range: the mask's bit chooses the new byte. -/
theorem Memory.read_writeN (m : Memory) (a n mask v i : Nat) (h : i < n) :
    (Memory.writeN m a n mask v).read (a + i) =
      if mask.testBit i then BitVec.ofNat 8 (v / 256 ^ i) else m.read (a + i) := by
  induction n generalizing m a mask v i with
  | zero => omega
  | succ n ih =>
    unfold Memory.writeN
    cases i with
    | zero =>
      rw [Memory.read_writeN_outside _ _ _ _ _ _ (by omega)]
      have ht : mask.testBit 0 = decide (mask % 2 = 1) := by simp [Nat.testBit_zero]
      by_cases hm : mask % 2 = 1
      · simp [hm, Memory.read_write]
      · simp [hm]
    | succ i =>
      have := ih (if mask % 2 = 1 then m.write a (BitVec.ofNat 8 v) else m) (a + 1) (mask / 2) (v / 256) i (by omega)
      rw [show a + (i + 1) = a + 1 + i by omega, this]
      have e1 : (mask / 2).testBit i = mask.testBit (i + 1) := by rw [Nat.testBit_succ]
      have e2 : v / 256 / 256 ^ i = v / 256 ^ (i + 1) := by rw [Nat.div_div_eq_div_mul, Nat.pow_succ, Nat.mul_comm]
      rw [e1, e2]
      split
      · rfl
      · split
        · rw [Memory.read_write, if_neg (by omega)]
        · rfl

end Sys2Proof.Machine
end

