-- ==== Sys2Proof/Laws/Registers.lean ====
section
/-!
SUPPORT. What a register field reads after the block or software has set a field, which keys tell registers apart, and everything that
raising an error does.
-/

namespace Sys2Proof.Machine

open Sys2Proof

/-! ### Bit fields -/

/-- A number with a field replaced is what stood above it, the new value, and what stood below. -/
theorem setBits_eq (n hi lo v : Nat) (h : lo ≤ hi + 1) :
    setBits n hi lo v = n / 2 ^ (hi + 1) * 2 ^ (hi + 1) + (v % 2 ^ (hi + 1 - lo)) * 2 ^ lo + n % 2 ^ lo := by
  unfold setBits bitsOf
  rw [Nat.shiftRight_eq_div_pow]
  have e : 2 ^ (hi + 1) = 2 ^ lo * 2 ^ (hi + 1 - lo) := by rw [← Nat.pow_add]; congr 1; omega
  have hq : n / 2 ^ (hi + 1) = n / 2 ^ lo / 2 ^ (hi + 1 - lo) := by rw [e, Nat.div_div_eq_div_mul]
  rw [hq]
  generalize hb : 2 ^ (hi + 1 - lo) = b at *
  generalize hc : 2 ^ lo = c at *
  rw [e]
  generalize v % b = w
  have h1 := Nat.div_add_mod n c
  have h2 := Nat.div_add_mod (n / c) b
  generalize n / c = q at *
  generalize n % c = r at *
  generalize q / b = x at *
  generalize q % b = y at *
  subst h2
  subst h1
  have : c * (b * x + y) = x * (c * b) + y * c := by
    rw [Nat.mul_add]
    congr 1
    · rw [Nat.mul_comm x (c * b), Nat.mul_assoc]
    · exact Nat.mul_comm c y
  rw [this]
  omega

theorem setBits_lt (n hi lo v k : Nat) (h : lo ≤ hi + 1) (hk : hi < k) (hn : n < 2 ^ k) : setBits n hi lo v < 2 ^ k := by
  rw [setBits_eq n hi lo v h]
  have e : 2 ^ k = 2 ^ (hi + 1) * 2 ^ (k - (hi + 1)) := by rw [← Nat.pow_add]; congr 1; omega
  have e2 : 2 ^ (hi + 1) = 2 ^ lo * 2 ^ (hi + 1 - lo) := by rw [← Nat.pow_add]; congr 1; omega
  have h1 : n / 2 ^ (hi + 1) < 2 ^ (k - (hi + 1)) := by
    rw [Nat.div_lt_iff_lt_mul (Nat.pow_pos (by omega)), Nat.mul_comm, ← e]; exact hn
  have h2 : v % 2 ^ (hi + 1 - lo) < 2 ^ (hi + 1 - lo) := Nat.mod_lt _ (Nat.pow_pos (by omega))
  have h3 : n % 2 ^ lo < 2 ^ lo := Nat.mod_lt _ (Nat.pow_pos (by omega))
  have h4 : (v % 2 ^ (hi + 1 - lo)) * 2 ^ lo + n % 2 ^ lo < 2 ^ (hi + 1) := by
    rw [e2]
    calc (v % 2 ^ (hi + 1 - lo)) * 2 ^ lo + n % 2 ^ lo < (v % 2 ^ (hi + 1 - lo)) * 2 ^ lo + 2 ^ lo := by omega
      _ = (v % 2 ^ (hi + 1 - lo) + 1) * 2 ^ lo := by rw [Nat.add_mul, Nat.one_mul]
      _ ≤ 2 ^ (hi + 1 - lo) * 2 ^ lo := Nat.mul_le_mul_right _ h2
      _ = 2 ^ lo * 2 ^ (hi + 1 - lo) := Nat.mul_comm _ _
  calc _ = n / 2 ^ (hi + 1) * 2 ^ (hi + 1) + ((v % 2 ^ (hi + 1 - lo)) * 2 ^ lo + n % 2 ^ lo) := by omega
    _ < n / 2 ^ (hi + 1) * 2 ^ (hi + 1) + 2 ^ (hi + 1) := by omega
    _ = (n / 2 ^ (hi + 1) + 1) * 2 ^ (hi + 1) := by rw [Nat.add_mul, Nat.one_mul]
    _ ≤ 2 ^ (k - (hi + 1)) * 2 ^ (hi + 1) := Nat.mul_le_mul_right _ h1
    _ = 2 ^ k := by rw [e, Nat.mul_comm]

/-- A field that has been replaced reads the new value. -/
theorem bitsOf_setBits (n hi lo v : Nat) (h : lo ≤ hi + 1) : bitsOf (setBits n hi lo v) hi lo = v % 2 ^ (hi + 1 - lo) := by
  rw [setBits_eq n hi lo v h]
  unfold bitsOf
  rw [Nat.shiftRight_eq_div_pow]
  have e2 : 2 ^ (hi + 1) = 2 ^ (hi + 1 - lo) * 2 ^ lo := by rw [← Nat.pow_add]; congr 1; omega
  rw [e2, ← Nat.mul_assoc, ← Nat.add_mul]
  have h3 : n % 2 ^ lo < 2 ^ lo := Nat.mod_lt _ (Nat.pow_pos (by omega))
  rw [Nat.add_comm, Nat.add_mul_div_right _ _ (Nat.pow_pos (by omega)), Nat.div_eq_of_lt h3, Nat.zero_add]
  rw [Nat.add_comm, Nat.add_mul_mod_self_right, Nat.mod_mod]

/-- A field that stands apart from a replaced one reads as before. -/
theorem bitsOf_setBits_apart (n hi lo v hi' lo' : Nat) (h : lo ≤ hi + 1) (h' : lo' ≤ hi') (ha : hi < lo' ∨ hi' < lo) :
    bitsOf (setBits n hi lo v) hi' lo' = bitsOf n hi' lo' := by
  rw [setBits_eq n hi lo v h]
  unfold bitsOf
  rw [Nat.shiftRight_eq_div_pow, Nat.shiftRight_eq_div_pow]
  have h3 : n % 2 ^ lo < 2 ^ lo := Nat.mod_lt _ (Nat.pow_pos (by omega))
  have hw : v % 2 ^ (hi + 1 - lo) < 2 ^ (hi + 1 - lo) := Nat.mod_lt _ (Nat.pow_pos (by omega))
  have e2 : 2 ^ (hi + 1) = 2 ^ (hi + 1 - lo) * 2 ^ lo := by rw [← Nat.pow_add]; congr 1; omega
  have hlow : (v % 2 ^ (hi + 1 - lo)) * 2 ^ lo + n % 2 ^ lo < 2 ^ (hi + 1) := by
    rw [e2]
    calc (v % 2 ^ (hi + 1 - lo)) * 2 ^ lo + n % 2 ^ lo < (v % 2 ^ (hi + 1 - lo)) * 2 ^ lo + 2 ^ lo := by omega
      _ = (v % 2 ^ (hi + 1 - lo) + 1) * 2 ^ lo := by rw [Nat.add_mul, Nat.one_mul]
      _ ≤ 2 ^ (hi + 1 - lo) * 2 ^ lo := Nat.mul_le_mul_right _ hw
  rcases ha with ha | ha
  · -- the field stands above
    have e3 : 2 ^ lo' = 2 ^ (hi + 1) * 2 ^ (lo' - (hi + 1)) := by rw [← Nat.pow_add]; congr 1; omega
    have : (n / 2 ^ (hi + 1) * 2 ^ (hi + 1) + v % 2 ^ (hi + 1 - lo) * 2 ^ lo + n % 2 ^ lo) / 2 ^ (hi + 1) = n / 2 ^ (hi + 1) := by
      rw [Nat.add_assoc, Nat.add_comm, Nat.add_mul_div_right _ _ (Nat.pow_pos (by omega)), Nat.div_eq_of_lt hlow, Nat.zero_add]
    rw [e3, ← Nat.div_div_eq_div_mul, ← Nat.div_div_eq_div_mul, this]
  · -- the field stands below
    have e4 : 2 ^ lo = 2 ^ (hi' + 1) * 2 ^ (lo - (hi' + 1)) := by rw [← Nat.pow_add]; congr 1; omega
    have e5 : 2 ^ (hi' + 1) = 2 ^ lo' * 2 ^ (hi' + 1 - lo') := by rw [← Nat.pow_add]; congr 1; omega
    have cut : ∀ x : Nat, x / 2 ^ lo' % 2 ^ (hi' + 1 - lo') = x % 2 ^ (hi' + 1) / 2 ^ lo' := by
      intro x; rw [e5, Nat.mod_mul_right_div_self]
    rw [cut, cut]
    congr 1
    have e6 : 2 ^ (hi + 1) = 2 ^ (hi' + 1) * 2 ^ (hi + 1 - (hi' + 1)) := by rw [← Nat.pow_add]; congr 1; omega
    have hm : n % 2 ^ lo % 2 ^ (hi' + 1) = n % 2 ^ (hi' + 1) := Nat.mod_mod_of_dvd n ⟨_, e4⟩
    rw [Nat.add_mod, hm, Nat.add_mod (n / 2 ^ (hi + 1) * 2 ^ (hi + 1))]
    have z1 : n / 2 ^ (hi + 1) * 2 ^ (hi + 1) % 2 ^ (hi' + 1) = 0 := by
      rw [e6]; rw [Nat.mul_comm, Nat.mul_assoc, Nat.mul_mod_right]
    have z2 : v % 2 ^ (hi + 1 - lo) * 2 ^ lo % 2 ^ (hi' + 1) = 0 := by
      rw [e4]; rw [Nat.mul_comm, Nat.mul_assoc, Nat.mul_mod_right]
    rw [z1, z2]
    simp

/-! ### Keys of registers -/

theorem pageNo_lt (p : Page) : pageNo p < 0x5000 := by
  cases p <;> simp only [pageNo] <;> omega

/-- The key tells page, word and entry apart. -/
theorem regKey_inj {p q : Page} {a b i j : Nat} (ha : a < 4096) (hb : b < 4096) (hi : i < 16384) (hj : j < 16384)
    (h : regKey p a i = regKey q b j) : pageNo p = pageNo q ∧ a / 4 = b / 4 ∧ i = j := by
  unfold regKey at h
  omega

/-! ### Words and fields -/

theorem Dev.word_lt (d : Dev) (p : Page) (off i : Nat) : d.word p off i < 2 ^ 32 := by
  unfold Dev.word; exact BitVec.isLt _

@[simp] theorem Dev.word_setWord_same (d : Dev) (p : Page) (off i v : Nat) : (d.setWord p off i v).word p off i = v % 2 ^ 32 := by
  simp [Dev.word, Dev.setWord, NMap.get_put_same]

theorem Dev.word_setWord_ne (d : Dev) {p q : Page} {a b i j : Nat} (v : Nat) (h : regKey q b j ≠ regKey p a i) :
    (d.setWord p a i v).word q b j = d.word q b j := by
  unfold Dev.word Dev.setWord
  simp only
  congr 1
  have : ∀ (m : NMap Word) (x y : Word), NMap.get (NMap.put m (regKey p a i) x y) (regKey q b j)
      (BitVec.ofNat 32 (wordReset (pageKind q) b j)) = NMap.get m (regKey q b j) (BitVec.ofNat 32 (wordReset (pageKind q) b j)) := by
    intro m x y
    exact NMap.get_put_other m x y _ h
  exact this _ _ _

/-- A field reads the value the block has given it. -/
theorem Dev.get_set (d : Dev) (p : Page) (f : FieldDef) (i v : Nat) (h1 : f.lo ≤ f.hi) (h2 : f.hi < 32) :
    (d.set p f i v).get p f i = v % 2 ^ (f.hi + 1 - f.lo) := by
  unfold Dev.get Dev.set
  rw [Dev.word_setWord_same, Nat.mod_eq_of_lt (setBits_lt _ _ _ _ 32 (by omega) h2 (Dev.word_lt _ _ _ _)),
    bitsOf_setBits _ _ _ _ (by omega)]

/-- Another field of the same register stands. -/
theorem Dev.get_set_apart (d : Dev) (p : Page) (f g : FieldDef) (i v : Nat) (ho : g.off = f.off) (h1 : f.lo ≤ f.hi) (h2 : f.hi < 32)
    (h3 : g.lo ≤ g.hi) (ha : f.hi < g.lo ∨ g.hi < f.lo) : (d.set p f i v).get p g i = d.get p g i := by
  unfold Dev.get Dev.set
  rw [ho, Dev.word_setWord_same, Nat.mod_eq_of_lt (setBits_lt _ _ _ _ 32 (by omega) h2 (Dev.word_lt _ _ _ _)),
    bitsOf_setBits_apart _ _ _ _ _ _ (by omega) h3 ha]

/-- A field of another register stands. -/
theorem Dev.get_set_ne (d : Dev) {p q : Page} {f g : FieldDef} {i j : Nat} (v : Nat)
    (h : regKey q g.off j ≠ regKey p f.off i) : (d.set p f i v).get q g j = d.get q g j := by
  unfold Dev.get Dev.set
  rw [Dev.word_setWord_ne _ _ h]

/-- Registers of one page at different words are different. -/
theorem regKey_ne_off {p q : Page} {a b i j : Nat} (ha : a < 4096) (hb : b < 4096) (hi : i < 16384) (hj : j < 16384)
    (h : b / 4 ≠ a / 4) : regKey q b j ≠ regKey p a i := fun e => h (regKey_inj hb ha hj hi e).2.1

/-- Registers of different pages are different. -/
theorem regKey_ne_page {p q : Page} {a b i j : Nat} (ha : a < 4096) (hb : b < 4096) (hi : i < 16384) (hj : j < 16384)
    (h : pageNo q ≠ pageNo p) : regKey q b j ≠ regKey p a i := fun e => h (regKey_inj hb ha hj hi e).1

/-- Entries of one register are different. -/
theorem regKey_ne_idx {p : Page} {a i j : Nat} (h : j ≠ i) : regKey p a j ≠ regKey p a i := by
  unfold regKey; omega

/-- A single bit that has been set to 1 is on. -/
theorem Dev.on_set_one (d : Dev) (p : Page) (f : FieldDef) (i : Nat) (h1 : f.lo ≤ f.hi) (h2 : f.hi < 32) :
    (d.set p f i 1).on p f i = true := by
  unfold Dev.on
  rw [Dev.get_set _ _ _ _ _ h1 h2]
  have : 1 % 2 ^ (f.hi + 1 - f.lo) = 1 := Nat.mod_eq_of_lt (by
    have : 2 ^ 1 ≤ 2 ^ (f.hi + 1 - f.lo) := Nat.pow_le_pow_right (by omega) (by omega)
    omega)
  simp [this]

/-! ### Pages of numbered things -/

@[simp] theorem quad_val (q : Quad) : quad q.val = q := by
  apply Fin.ext; simp [quad, finM]
@[simp] theorem die_val (x : Die) : die x.val = x := by
  apply Fin.ext; simp [die, finM]
@[simp] theorem chan_val (c : Chan) : chan c.val = c := by
  apply Fin.ext; simp [chan, finM]
@[simp] theorem pQctl_val (q : Quad) : pQctl q.val = .qctl q := by simp [pQctl]
@[simp] theorem pImp_val (x : Die) : pImp x.val = .imp x := by simp [pImp]
@[simp] theorem pGal_val (x : Die) : pGal x.val = .gal x := by simp [pGal]
@[simp] theorem pHst_val (c : Chan) : pHst c.val = .hstCh c := by simp [pHst]
@[simp] theorem pDma_val (c : Chan) : pDma c.val = .dmaCh c := by simp [pDma]
@[simp] theorem pCase_val (q : Quad) (n : Fin 16) : pCase q.val n.val = .case q n := by
  simp only [pCase, quad_val]; congr 1; apply Fin.ext; simp [finM]
@[simp] theorem pDir_val (q : Quad) (n : Fin 16) : pDir q.val n.val = .dir q n := by
  simp only [pDir, quad_val]; congr 1; apply Fin.ext; simp [finM]
@[simp] theorem pBrg_val (q : Quad) (n : Fin 4) : pBrg q.val n.val = .brg q n := by
  simp only [pBrg, quad_val]; congr 1; apply Fin.ext; simp [finM]

/-! ### Register accesses -/

theorem Dev.viaWrite_of_writable (d : Dev) (via : Via) (p : Page) (f : Dev → Dev) (h : d.writable via p = true) :
    d.viaWrite via p f = f d := by simp [Dev.viaWrite, h]

theorem Dev.viaWrite_of_not_writable (d : Dev) (via : Via) (p : Page) (f : Dev → Dev) (h : d.writable via p = false) :
    d.viaWrite via p f = d := by simp [Dev.viaWrite, h]

end Sys2Proof.Machine
end

