-- ==== Sys2Proof/Laws/State.lean ====
section
/-!
SUPPORT. What each update of the device leaves as it was, field by field, so that no proof unfolds a record update.
-/

namespace Sys2Proof.Machine

open Sys2Proof

theorem onDev_eq (f : Dev → Dev) (s : State) : onDev f s = .next { s with dev := f s.dev } := rfl
theorem onDevIf_true (f : Dev → Dev) (s : State) : onDevIf true f s = .next { s with dev := f s.dev } := rfl
theorem onDevIf_false (f : Dev → Dev) (s : State) : onDevIf false f s = .fault .illFormed := rfl

/-- Everything that raising an error can do: it writes error registers of the page and adds at most one event. -/
theorem Dev.raise_eq (d : Dev) (p : Page) (n s : Nat) :
    d.raise p n s = { d with regs := (d.raise p n s).regs, evq := (d.raise p n s).evq } := by
  unfold Dev.raise
  dsimp only
  split
  · rfl
  · split
    · rfl
    · split <;> rfl

/-! ### setWord -/

@[simp] theorem Dev.setWord_rdShadow (d : Dev) (p : Page) (off i v : Nat) : (d.setWord p off i v).rdShadow = d.rdShadow := id rfl
@[simp] theorem Dev.setWord_wrShadow (d : Dev) (p : Page) (off i v : Nat) : (d.setWord p off i v).wrShadow = d.wrShadow := id rfl
@[simp] theorem Dev.setWord_wtab (d : Dev) (p : Page) (off i v : Nat) : (d.setWord p off i v).wtab = d.wtab := id rfl
@[simp] theorem Dev.setWord_mem (d : Dev) (p : Page) (off i v : Nat) : (d.setWord p off i v).mem = d.mem := id rfl
@[simp] theorem Dev.setWord_poisoned (d : Dev) (p : Page) (off i v : Nat) : (d.setWord p off i v).poisoned = d.poisoned := id rfl
@[simp] theorem Dev.setWord_lineKey (d : Dev) (p : Page) (off i v : Nat) : (d.setWord p off i v).lineKey = d.lineKey := id rfl
@[simp] theorem Dev.setWord_srKey (d : Dev) (p : Page) (off i v : Nat) : (d.setWord p off i v).srKey = d.srKey := id rfl
@[simp] theorem Dev.setWord_lines (d : Dev) (p : Page) (off i v : Nat) : (d.setWord p off i v).lines = d.lines := id rfl
@[simp] theorem Dev.setWord_dir (d : Dev) (p : Page) (off i v : Nat) : (d.setWord p off i v).dir = d.dir := id rfl
@[simp] theorem Dev.setWord_txns (d : Dev) (p : Page) (off i v : Nat) : (d.setWord p off i v).txns = d.txns := id rfl
@[simp] theorem Dev.setWord_homeq (d : Dev) (p : Page) (off i v : Nat) : (d.setWord p off i v).homeq = d.homeq := id rfl
@[simp] theorem Dev.setWord_wire (d : Dev) (p : Page) (off i v : Nat) : (d.setWord p off i v).wire = d.wire := id rfl
@[simp] theorem Dev.setWord_mshr (d : Dev) (p : Page) (off i v : Nat) : (d.setWord p off i v).mshr = d.mshr := id rfl
@[simp] theorem Dev.setWord_useCtr (d : Dev) (p : Page) (off i v : Nat) : (d.setWord p off i v).useCtr = d.useCtr := id rfl
@[simp] theorem Dev.setWord_reqs (d : Dev) (p : Page) (off i v : Nat) : (d.setWord p off i v).reqs = d.reqs := id rfl
@[simp] theorem Dev.setWord_nextReq (d : Dev) (p : Page) (off i v : Nat) : (d.setWord p off i v).nextReq = d.nextReq := id rfl
@[simp] theorem Dev.setWord_redq (d : Dev) (p : Page) (off i v : Nat) : (d.setWord p off i v).redq = d.redq := id rfl
@[simp] theorem Dev.setWord_redMc (d : Dev) (p : Page) (off i v : Nat) : (d.setWord p off i v).redMc = d.redMc := id rfl
@[simp] theorem Dev.setWord_cores (d : Dev) (p : Page) (off i v : Nat) : (d.setWord p off i v).cores = d.cores := id rfl
@[simp] theorem Dev.setWord_signals (d : Dev) (p : Page) (off i v : Nat) : (d.setWord p off i v).signals = d.signals := id rfl
@[simp] theorem Dev.setWord_queues (d : Dev) (p : Page) (off i v : Nat) : (d.setWord p off i v).queues = d.queues := id rfl
@[simp] theorem Dev.setWord_onset (d : Dev) (p : Page) (off i v : Nat) : (d.setWord p off i v).onset = d.onset := id rfl
@[simp] theorem Dev.setWord_arr (d : Dev) (p : Page) (off i v : Nat) : (d.setWord p off i v).arr = d.arr := id rfl
@[simp] theorem Dev.setWord_grps (d : Dev) (p : Page) (off i v : Nat) : (d.setWord p off i v).grps = d.grps := id rfl
@[simp] theorem Dev.setWord_hmapBusy (d : Dev) (p : Page) (off i v : Nat) : (d.setWord p off i v).hmapBusy = d.hmapBusy := id rfl
@[simp] theorem Dev.setWord_rbWait (d : Dev) (p : Page) (off i v : Nat) : (d.setWord p off i v).rbWait = d.rbWait := id rfl
@[simp] theorem Dev.setWord_mcs (d : Dev) (p : Page) (off i v : Nat) : (d.setWord p off i v).mcs = d.mcs := id rfl
@[simp] theorem Dev.setWord_stks (d : Dev) (p : Page) (off i v : Nat) : (d.setWord p off i v).stks = d.stks := id rfl
@[simp] theorem Dev.setWord_traffic (d : Dev) (p : Page) (off i v : Nat) : (d.setWord p off i v).traffic = d.traffic := id rfl
@[simp] theorem Dev.setWord_ports (d : Dev) (p : Page) (off i v : Nat) : (d.setWord p off i v).ports = d.ports := id rfl
@[simp] theorem Dev.setWord_tags (d : Dev) (p : Page) (off i v : Nat) : (d.setWord p off i v).tags = d.tags := id rfl
@[simp] theorem Dev.setWord_tagNext (d : Dev) (p : Page) (off i v : Nat) : (d.setWord p off i v).tagNext = d.tagNext := id rfl
@[simp] theorem Dev.setWord_rail (d : Dev) (p : Page) (off i v : Nat) : (d.setWord p off i v).rail = d.rail := id rfl
@[simp] theorem Dev.setWord_halves (d : Dev) (p : Page) (off i v : Nat) : (d.setWord p off i v).halves = d.halves := id rfl
@[simp] theorem Dev.setWord_refused (d : Dev) (p : Page) (off i v : Nat) : (d.setWord p off i v).refused = d.refused := id rfl
@[simp] theorem Dev.setWord_chapel (d : Dev) (p : Page) (off i v : Nat) : (d.setWord p off i v).chapel = d.chapel := id rfl
@[simp] theorem Dev.setWord_host (d : Dev) (p : Page) (off i v : Nat) : (d.setWord p off i v).host = d.host := id rfl
@[simp] theorem Dev.setWord_evq (d : Dev) (p : Page) (off i v : Nat) : (d.setWord p off i v).evq = d.evq := id rfl
@[simp] theorem Dev.setWord_colls (d : Dev) (p : Page) (off i v : Nat) : (d.setWord p off i v).colls = d.colls := id rfl
@[simp] theorem Dev.setWord_rsts (d : Dev) (p : Page) (off i v : Nat) : (d.setWord p off i v).rsts = d.rsts := id rfl
@[simp] theorem Dev.setWord_gens (d : Dev) (p : Page) (off i v : Nat) : (d.setWord p off i v).gens = d.gens := id rfl
@[simp] theorem Dev.setWord_quiesces (d : Dev) (p : Page) (off i v : Nat) : (d.setWord p off i v).quiesces = d.quiesces := id rfl
@[simp] theorem Dev.setWord_boot (d : Dev) (p : Page) (off i v : Nat) : (d.setWord p off i v).boot = d.boot := id rfl
@[simp] theorem Dev.setWord_trust (d : Dev) (p : Page) (off i v : Nat) : (d.setWord p off i v).trust = d.trust := id rfl
@[simp] theorem Dev.setWord_power (d : Dev) (p : Page) (off i v : Nat) : (d.setWord p off i v).power = d.power := id rfl
@[simp] theorem Dev.setWord_clk (d : Dev) (p : Page) (off i v : Nat) : (d.setWord p off i v).clk = d.clk := id rfl
@[simp] theorem Dev.setWord_out (d : Dev) (p : Page) (off i v : Nat) : (d.setWord p off i v).out = d.out := id rfl
@[simp] theorem Dev.setWord_freeCtr (d : Dev) (p : Page) (off i v : Nat) : (d.setWord p off i v).freeCtr = d.freeCtr := id rfl

/-! ### set -/

@[simp] theorem Dev.set_rdShadow (d : Dev) (p : Page) (f : FieldDef) (i v : Nat) : (d.set p f i v).rdShadow = d.rdShadow := id rfl
@[simp] theorem Dev.set_wrShadow (d : Dev) (p : Page) (f : FieldDef) (i v : Nat) : (d.set p f i v).wrShadow = d.wrShadow := id rfl
@[simp] theorem Dev.set_wtab (d : Dev) (p : Page) (f : FieldDef) (i v : Nat) : (d.set p f i v).wtab = d.wtab := id rfl
@[simp] theorem Dev.set_mem (d : Dev) (p : Page) (f : FieldDef) (i v : Nat) : (d.set p f i v).mem = d.mem := id rfl
@[simp] theorem Dev.set_poisoned (d : Dev) (p : Page) (f : FieldDef) (i v : Nat) : (d.set p f i v).poisoned = d.poisoned := id rfl
@[simp] theorem Dev.set_lineKey (d : Dev) (p : Page) (f : FieldDef) (i v : Nat) : (d.set p f i v).lineKey = d.lineKey := id rfl
@[simp] theorem Dev.set_srKey (d : Dev) (p : Page) (f : FieldDef) (i v : Nat) : (d.set p f i v).srKey = d.srKey := id rfl
@[simp] theorem Dev.set_lines (d : Dev) (p : Page) (f : FieldDef) (i v : Nat) : (d.set p f i v).lines = d.lines := id rfl
@[simp] theorem Dev.set_dir (d : Dev) (p : Page) (f : FieldDef) (i v : Nat) : (d.set p f i v).dir = d.dir := id rfl
@[simp] theorem Dev.set_txns (d : Dev) (p : Page) (f : FieldDef) (i v : Nat) : (d.set p f i v).txns = d.txns := id rfl
@[simp] theorem Dev.set_homeq (d : Dev) (p : Page) (f : FieldDef) (i v : Nat) : (d.set p f i v).homeq = d.homeq := id rfl
@[simp] theorem Dev.set_wire (d : Dev) (p : Page) (f : FieldDef) (i v : Nat) : (d.set p f i v).wire = d.wire := id rfl
@[simp] theorem Dev.set_mshr (d : Dev) (p : Page) (f : FieldDef) (i v : Nat) : (d.set p f i v).mshr = d.mshr := id rfl
@[simp] theorem Dev.set_useCtr (d : Dev) (p : Page) (f : FieldDef) (i v : Nat) : (d.set p f i v).useCtr = d.useCtr := id rfl
@[simp] theorem Dev.set_reqs (d : Dev) (p : Page) (f : FieldDef) (i v : Nat) : (d.set p f i v).reqs = d.reqs := id rfl
@[simp] theorem Dev.set_nextReq (d : Dev) (p : Page) (f : FieldDef) (i v : Nat) : (d.set p f i v).nextReq = d.nextReq := id rfl
@[simp] theorem Dev.set_redq (d : Dev) (p : Page) (f : FieldDef) (i v : Nat) : (d.set p f i v).redq = d.redq := id rfl
@[simp] theorem Dev.set_redMc (d : Dev) (p : Page) (f : FieldDef) (i v : Nat) : (d.set p f i v).redMc = d.redMc := id rfl
@[simp] theorem Dev.set_cores (d : Dev) (p : Page) (f : FieldDef) (i v : Nat) : (d.set p f i v).cores = d.cores := id rfl
@[simp] theorem Dev.set_signals (d : Dev) (p : Page) (f : FieldDef) (i v : Nat) : (d.set p f i v).signals = d.signals := id rfl
@[simp] theorem Dev.set_queues (d : Dev) (p : Page) (f : FieldDef) (i v : Nat) : (d.set p f i v).queues = d.queues := id rfl
@[simp] theorem Dev.set_onset (d : Dev) (p : Page) (f : FieldDef) (i v : Nat) : (d.set p f i v).onset = d.onset := id rfl
@[simp] theorem Dev.set_arr (d : Dev) (p : Page) (f : FieldDef) (i v : Nat) : (d.set p f i v).arr = d.arr := id rfl
@[simp] theorem Dev.set_grps (d : Dev) (p : Page) (f : FieldDef) (i v : Nat) : (d.set p f i v).grps = d.grps := id rfl
@[simp] theorem Dev.set_hmapBusy (d : Dev) (p : Page) (f : FieldDef) (i v : Nat) : (d.set p f i v).hmapBusy = d.hmapBusy := id rfl
@[simp] theorem Dev.set_rbWait (d : Dev) (p : Page) (f : FieldDef) (i v : Nat) : (d.set p f i v).rbWait = d.rbWait := id rfl
@[simp] theorem Dev.set_mcs (d : Dev) (p : Page) (f : FieldDef) (i v : Nat) : (d.set p f i v).mcs = d.mcs := id rfl
@[simp] theorem Dev.set_stks (d : Dev) (p : Page) (f : FieldDef) (i v : Nat) : (d.set p f i v).stks = d.stks := id rfl
@[simp] theorem Dev.set_traffic (d : Dev) (p : Page) (f : FieldDef) (i v : Nat) : (d.set p f i v).traffic = d.traffic := id rfl
@[simp] theorem Dev.set_ports (d : Dev) (p : Page) (f : FieldDef) (i v : Nat) : (d.set p f i v).ports = d.ports := id rfl
@[simp] theorem Dev.set_tags (d : Dev) (p : Page) (f : FieldDef) (i v : Nat) : (d.set p f i v).tags = d.tags := id rfl
@[simp] theorem Dev.set_tagNext (d : Dev) (p : Page) (f : FieldDef) (i v : Nat) : (d.set p f i v).tagNext = d.tagNext := id rfl
@[simp] theorem Dev.set_rail (d : Dev) (p : Page) (f : FieldDef) (i v : Nat) : (d.set p f i v).rail = d.rail := id rfl
@[simp] theorem Dev.set_halves (d : Dev) (p : Page) (f : FieldDef) (i v : Nat) : (d.set p f i v).halves = d.halves := id rfl
@[simp] theorem Dev.set_refused (d : Dev) (p : Page) (f : FieldDef) (i v : Nat) : (d.set p f i v).refused = d.refused := id rfl
@[simp] theorem Dev.set_chapel (d : Dev) (p : Page) (f : FieldDef) (i v : Nat) : (d.set p f i v).chapel = d.chapel := id rfl
@[simp] theorem Dev.set_host (d : Dev) (p : Page) (f : FieldDef) (i v : Nat) : (d.set p f i v).host = d.host := id rfl
@[simp] theorem Dev.set_evq (d : Dev) (p : Page) (f : FieldDef) (i v : Nat) : (d.set p f i v).evq = d.evq := id rfl
@[simp] theorem Dev.set_colls (d : Dev) (p : Page) (f : FieldDef) (i v : Nat) : (d.set p f i v).colls = d.colls := id rfl
@[simp] theorem Dev.set_rsts (d : Dev) (p : Page) (f : FieldDef) (i v : Nat) : (d.set p f i v).rsts = d.rsts := id rfl
@[simp] theorem Dev.set_gens (d : Dev) (p : Page) (f : FieldDef) (i v : Nat) : (d.set p f i v).gens = d.gens := id rfl
@[simp] theorem Dev.set_quiesces (d : Dev) (p : Page) (f : FieldDef) (i v : Nat) : (d.set p f i v).quiesces = d.quiesces := id rfl
@[simp] theorem Dev.set_boot (d : Dev) (p : Page) (f : FieldDef) (i v : Nat) : (d.set p f i v).boot = d.boot := id rfl
@[simp] theorem Dev.set_trust (d : Dev) (p : Page) (f : FieldDef) (i v : Nat) : (d.set p f i v).trust = d.trust := id rfl
@[simp] theorem Dev.set_power (d : Dev) (p : Page) (f : FieldDef) (i v : Nat) : (d.set p f i v).power = d.power := id rfl
@[simp] theorem Dev.set_clk (d : Dev) (p : Page) (f : FieldDef) (i v : Nat) : (d.set p f i v).clk = d.clk := id rfl
@[simp] theorem Dev.set_out (d : Dev) (p : Page) (f : FieldDef) (i v : Nat) : (d.set p f i v).out = d.out := id rfl
@[simp] theorem Dev.set_freeCtr (d : Dev) (p : Page) (f : FieldDef) (i v : Nat) : (d.set p f i v).freeCtr = d.freeCtr := id rfl

/-! ### bump -/

@[simp] theorem Dev.bump_rdShadow (d : Dev) (p : Page) (f : FieldDef) (i n : Nat) : (d.bump p f i n).rdShadow = d.rdShadow := id rfl
@[simp] theorem Dev.bump_wrShadow (d : Dev) (p : Page) (f : FieldDef) (i n : Nat) : (d.bump p f i n).wrShadow = d.wrShadow := id rfl
@[simp] theorem Dev.bump_wtab (d : Dev) (p : Page) (f : FieldDef) (i n : Nat) : (d.bump p f i n).wtab = d.wtab := id rfl
@[simp] theorem Dev.bump_mem (d : Dev) (p : Page) (f : FieldDef) (i n : Nat) : (d.bump p f i n).mem = d.mem := id rfl
@[simp] theorem Dev.bump_poisoned (d : Dev) (p : Page) (f : FieldDef) (i n : Nat) : (d.bump p f i n).poisoned = d.poisoned := id rfl
@[simp] theorem Dev.bump_lineKey (d : Dev) (p : Page) (f : FieldDef) (i n : Nat) : (d.bump p f i n).lineKey = d.lineKey := id rfl
@[simp] theorem Dev.bump_srKey (d : Dev) (p : Page) (f : FieldDef) (i n : Nat) : (d.bump p f i n).srKey = d.srKey := id rfl
@[simp] theorem Dev.bump_lines (d : Dev) (p : Page) (f : FieldDef) (i n : Nat) : (d.bump p f i n).lines = d.lines := id rfl
@[simp] theorem Dev.bump_dir (d : Dev) (p : Page) (f : FieldDef) (i n : Nat) : (d.bump p f i n).dir = d.dir := id rfl
@[simp] theorem Dev.bump_txns (d : Dev) (p : Page) (f : FieldDef) (i n : Nat) : (d.bump p f i n).txns = d.txns := id rfl
@[simp] theorem Dev.bump_homeq (d : Dev) (p : Page) (f : FieldDef) (i n : Nat) : (d.bump p f i n).homeq = d.homeq := id rfl
@[simp] theorem Dev.bump_wire (d : Dev) (p : Page) (f : FieldDef) (i n : Nat) : (d.bump p f i n).wire = d.wire := id rfl
@[simp] theorem Dev.bump_mshr (d : Dev) (p : Page) (f : FieldDef) (i n : Nat) : (d.bump p f i n).mshr = d.mshr := id rfl
@[simp] theorem Dev.bump_useCtr (d : Dev) (p : Page) (f : FieldDef) (i n : Nat) : (d.bump p f i n).useCtr = d.useCtr := id rfl
@[simp] theorem Dev.bump_reqs (d : Dev) (p : Page) (f : FieldDef) (i n : Nat) : (d.bump p f i n).reqs = d.reqs := id rfl
@[simp] theorem Dev.bump_nextReq (d : Dev) (p : Page) (f : FieldDef) (i n : Nat) : (d.bump p f i n).nextReq = d.nextReq := id rfl
@[simp] theorem Dev.bump_redq (d : Dev) (p : Page) (f : FieldDef) (i n : Nat) : (d.bump p f i n).redq = d.redq := id rfl
@[simp] theorem Dev.bump_redMc (d : Dev) (p : Page) (f : FieldDef) (i n : Nat) : (d.bump p f i n).redMc = d.redMc := id rfl
@[simp] theorem Dev.bump_cores (d : Dev) (p : Page) (f : FieldDef) (i n : Nat) : (d.bump p f i n).cores = d.cores := id rfl
@[simp] theorem Dev.bump_signals (d : Dev) (p : Page) (f : FieldDef) (i n : Nat) : (d.bump p f i n).signals = d.signals := id rfl
@[simp] theorem Dev.bump_queues (d : Dev) (p : Page) (f : FieldDef) (i n : Nat) : (d.bump p f i n).queues = d.queues := id rfl
@[simp] theorem Dev.bump_onset (d : Dev) (p : Page) (f : FieldDef) (i n : Nat) : (d.bump p f i n).onset = d.onset := id rfl
@[simp] theorem Dev.bump_arr (d : Dev) (p : Page) (f : FieldDef) (i n : Nat) : (d.bump p f i n).arr = d.arr := id rfl
@[simp] theorem Dev.bump_grps (d : Dev) (p : Page) (f : FieldDef) (i n : Nat) : (d.bump p f i n).grps = d.grps := id rfl
@[simp] theorem Dev.bump_hmapBusy (d : Dev) (p : Page) (f : FieldDef) (i n : Nat) : (d.bump p f i n).hmapBusy = d.hmapBusy := id rfl
@[simp] theorem Dev.bump_rbWait (d : Dev) (p : Page) (f : FieldDef) (i n : Nat) : (d.bump p f i n).rbWait = d.rbWait := id rfl
@[simp] theorem Dev.bump_mcs (d : Dev) (p : Page) (f : FieldDef) (i n : Nat) : (d.bump p f i n).mcs = d.mcs := id rfl
@[simp] theorem Dev.bump_stks (d : Dev) (p : Page) (f : FieldDef) (i n : Nat) : (d.bump p f i n).stks = d.stks := id rfl
@[simp] theorem Dev.bump_traffic (d : Dev) (p : Page) (f : FieldDef) (i n : Nat) : (d.bump p f i n).traffic = d.traffic := id rfl
@[simp] theorem Dev.bump_ports (d : Dev) (p : Page) (f : FieldDef) (i n : Nat) : (d.bump p f i n).ports = d.ports := id rfl
@[simp] theorem Dev.bump_tags (d : Dev) (p : Page) (f : FieldDef) (i n : Nat) : (d.bump p f i n).tags = d.tags := id rfl
@[simp] theorem Dev.bump_tagNext (d : Dev) (p : Page) (f : FieldDef) (i n : Nat) : (d.bump p f i n).tagNext = d.tagNext := id rfl
@[simp] theorem Dev.bump_rail (d : Dev) (p : Page) (f : FieldDef) (i n : Nat) : (d.bump p f i n).rail = d.rail := id rfl
@[simp] theorem Dev.bump_halves (d : Dev) (p : Page) (f : FieldDef) (i n : Nat) : (d.bump p f i n).halves = d.halves := id rfl
@[simp] theorem Dev.bump_refused (d : Dev) (p : Page) (f : FieldDef) (i n : Nat) : (d.bump p f i n).refused = d.refused := id rfl
@[simp] theorem Dev.bump_chapel (d : Dev) (p : Page) (f : FieldDef) (i n : Nat) : (d.bump p f i n).chapel = d.chapel := id rfl
@[simp] theorem Dev.bump_host (d : Dev) (p : Page) (f : FieldDef) (i n : Nat) : (d.bump p f i n).host = d.host := id rfl
@[simp] theorem Dev.bump_evq (d : Dev) (p : Page) (f : FieldDef) (i n : Nat) : (d.bump p f i n).evq = d.evq := id rfl
@[simp] theorem Dev.bump_colls (d : Dev) (p : Page) (f : FieldDef) (i n : Nat) : (d.bump p f i n).colls = d.colls := id rfl
@[simp] theorem Dev.bump_rsts (d : Dev) (p : Page) (f : FieldDef) (i n : Nat) : (d.bump p f i n).rsts = d.rsts := id rfl
@[simp] theorem Dev.bump_gens (d : Dev) (p : Page) (f : FieldDef) (i n : Nat) : (d.bump p f i n).gens = d.gens := id rfl
@[simp] theorem Dev.bump_quiesces (d : Dev) (p : Page) (f : FieldDef) (i n : Nat) : (d.bump p f i n).quiesces = d.quiesces := id rfl
@[simp] theorem Dev.bump_boot (d : Dev) (p : Page) (f : FieldDef) (i n : Nat) : (d.bump p f i n).boot = d.boot := id rfl
@[simp] theorem Dev.bump_trust (d : Dev) (p : Page) (f : FieldDef) (i n : Nat) : (d.bump p f i n).trust = d.trust := id rfl
@[simp] theorem Dev.bump_power (d : Dev) (p : Page) (f : FieldDef) (i n : Nat) : (d.bump p f i n).power = d.power := id rfl
@[simp] theorem Dev.bump_clk (d : Dev) (p : Page) (f : FieldDef) (i n : Nat) : (d.bump p f i n).clk = d.clk := id rfl
@[simp] theorem Dev.bump_out (d : Dev) (p : Page) (f : FieldDef) (i n : Nat) : (d.bump p f i n).out = d.out := id rfl
@[simp] theorem Dev.bump_freeCtr (d : Dev) (p : Page) (f : FieldDef) (i n : Nat) : (d.bump p f i n).freeCtr = d.freeCtr := id rfl

/-! ### setCore -/

@[simp] theorem Dev.setCore_regs (d : Dev) (c : CoreId) (x : Core) : (d.setCore c x).regs = d.regs := id rfl
@[simp] theorem Dev.setCore_rdShadow (d : Dev) (c : CoreId) (x : Core) : (d.setCore c x).rdShadow = d.rdShadow := id rfl
@[simp] theorem Dev.setCore_wrShadow (d : Dev) (c : CoreId) (x : Core) : (d.setCore c x).wrShadow = d.wrShadow := id rfl
@[simp] theorem Dev.setCore_wtab (d : Dev) (c : CoreId) (x : Core) : (d.setCore c x).wtab = d.wtab := id rfl
@[simp] theorem Dev.setCore_mem (d : Dev) (c : CoreId) (x : Core) : (d.setCore c x).mem = d.mem := id rfl
@[simp] theorem Dev.setCore_poisoned (d : Dev) (c : CoreId) (x : Core) : (d.setCore c x).poisoned = d.poisoned := id rfl
@[simp] theorem Dev.setCore_lineKey (d : Dev) (c : CoreId) (x : Core) : (d.setCore c x).lineKey = d.lineKey := id rfl
@[simp] theorem Dev.setCore_srKey (d : Dev) (c : CoreId) (x : Core) : (d.setCore c x).srKey = d.srKey := id rfl
@[simp] theorem Dev.setCore_lines (d : Dev) (c : CoreId) (x : Core) : (d.setCore c x).lines = d.lines := id rfl
@[simp] theorem Dev.setCore_dir (d : Dev) (c : CoreId) (x : Core) : (d.setCore c x).dir = d.dir := id rfl
@[simp] theorem Dev.setCore_txns (d : Dev) (c : CoreId) (x : Core) : (d.setCore c x).txns = d.txns := id rfl
@[simp] theorem Dev.setCore_homeq (d : Dev) (c : CoreId) (x : Core) : (d.setCore c x).homeq = d.homeq := id rfl
@[simp] theorem Dev.setCore_wire (d : Dev) (c : CoreId) (x : Core) : (d.setCore c x).wire = d.wire := id rfl
@[simp] theorem Dev.setCore_mshr (d : Dev) (c : CoreId) (x : Core) : (d.setCore c x).mshr = d.mshr := id rfl
@[simp] theorem Dev.setCore_useCtr (d : Dev) (c : CoreId) (x : Core) : (d.setCore c x).useCtr = d.useCtr := id rfl
@[simp] theorem Dev.setCore_reqs (d : Dev) (c : CoreId) (x : Core) : (d.setCore c x).reqs = d.reqs := id rfl
@[simp] theorem Dev.setCore_nextReq (d : Dev) (c : CoreId) (x : Core) : (d.setCore c x).nextReq = d.nextReq := id rfl
@[simp] theorem Dev.setCore_redq (d : Dev) (c : CoreId) (x : Core) : (d.setCore c x).redq = d.redq := id rfl
@[simp] theorem Dev.setCore_redMc (d : Dev) (c : CoreId) (x : Core) : (d.setCore c x).redMc = d.redMc := id rfl
@[simp] theorem Dev.setCore_signals (d : Dev) (c : CoreId) (x : Core) : (d.setCore c x).signals = d.signals := id rfl
@[simp] theorem Dev.setCore_queues (d : Dev) (c : CoreId) (x : Core) : (d.setCore c x).queues = d.queues := id rfl
@[simp] theorem Dev.setCore_onset (d : Dev) (c : CoreId) (x : Core) : (d.setCore c x).onset = d.onset := id rfl
@[simp] theorem Dev.setCore_arr (d : Dev) (c : CoreId) (x : Core) : (d.setCore c x).arr = d.arr := id rfl
@[simp] theorem Dev.setCore_grps (d : Dev) (c : CoreId) (x : Core) : (d.setCore c x).grps = d.grps := id rfl
@[simp] theorem Dev.setCore_hmapBusy (d : Dev) (c : CoreId) (x : Core) : (d.setCore c x).hmapBusy = d.hmapBusy := id rfl
@[simp] theorem Dev.setCore_rbWait (d : Dev) (c : CoreId) (x : Core) : (d.setCore c x).rbWait = d.rbWait := id rfl
@[simp] theorem Dev.setCore_mcs (d : Dev) (c : CoreId) (x : Core) : (d.setCore c x).mcs = d.mcs := id rfl
@[simp] theorem Dev.setCore_stks (d : Dev) (c : CoreId) (x : Core) : (d.setCore c x).stks = d.stks := id rfl
@[simp] theorem Dev.setCore_traffic (d : Dev) (c : CoreId) (x : Core) : (d.setCore c x).traffic = d.traffic := id rfl
@[simp] theorem Dev.setCore_ports (d : Dev) (c : CoreId) (x : Core) : (d.setCore c x).ports = d.ports := id rfl
@[simp] theorem Dev.setCore_tags (d : Dev) (c : CoreId) (x : Core) : (d.setCore c x).tags = d.tags := id rfl
@[simp] theorem Dev.setCore_tagNext (d : Dev) (c : CoreId) (x : Core) : (d.setCore c x).tagNext = d.tagNext := id rfl
@[simp] theorem Dev.setCore_rail (d : Dev) (c : CoreId) (x : Core) : (d.setCore c x).rail = d.rail := id rfl
@[simp] theorem Dev.setCore_halves (d : Dev) (c : CoreId) (x : Core) : (d.setCore c x).halves = d.halves := id rfl
@[simp] theorem Dev.setCore_refused (d : Dev) (c : CoreId) (x : Core) : (d.setCore c x).refused = d.refused := id rfl
@[simp] theorem Dev.setCore_chapel (d : Dev) (c : CoreId) (x : Core) : (d.setCore c x).chapel = d.chapel := id rfl
@[simp] theorem Dev.setCore_host (d : Dev) (c : CoreId) (x : Core) : (d.setCore c x).host = d.host := id rfl
@[simp] theorem Dev.setCore_evq (d : Dev) (c : CoreId) (x : Core) : (d.setCore c x).evq = d.evq := id rfl
@[simp] theorem Dev.setCore_colls (d : Dev) (c : CoreId) (x : Core) : (d.setCore c x).colls = d.colls := id rfl
@[simp] theorem Dev.setCore_rsts (d : Dev) (c : CoreId) (x : Core) : (d.setCore c x).rsts = d.rsts := id rfl
@[simp] theorem Dev.setCore_gens (d : Dev) (c : CoreId) (x : Core) : (d.setCore c x).gens = d.gens := id rfl
@[simp] theorem Dev.setCore_quiesces (d : Dev) (c : CoreId) (x : Core) : (d.setCore c x).quiesces = d.quiesces := id rfl
@[simp] theorem Dev.setCore_boot (d : Dev) (c : CoreId) (x : Core) : (d.setCore c x).boot = d.boot := id rfl
@[simp] theorem Dev.setCore_trust (d : Dev) (c : CoreId) (x : Core) : (d.setCore c x).trust = d.trust := id rfl
@[simp] theorem Dev.setCore_power (d : Dev) (c : CoreId) (x : Core) : (d.setCore c x).power = d.power := id rfl
@[simp] theorem Dev.setCore_clk (d : Dev) (c : CoreId) (x : Core) : (d.setCore c x).clk = d.clk := id rfl
@[simp] theorem Dev.setCore_out (d : Dev) (c : CoreId) (x : Core) : (d.setCore c x).out = d.out := id rfl
@[simp] theorem Dev.setCore_freeCtr (d : Dev) (c : CoreId) (x : Core) : (d.setCore c x).freeCtr = d.freeCtr := id rfl

/-! ### modCore -/

@[simp] theorem Dev.modCore_regs (d : Dev) (c : CoreId) (f : Core → Core) : (d.modCore c f).regs = d.regs := id rfl
@[simp] theorem Dev.modCore_rdShadow (d : Dev) (c : CoreId) (f : Core → Core) : (d.modCore c f).rdShadow = d.rdShadow := id rfl
@[simp] theorem Dev.modCore_wrShadow (d : Dev) (c : CoreId) (f : Core → Core) : (d.modCore c f).wrShadow = d.wrShadow := id rfl
@[simp] theorem Dev.modCore_wtab (d : Dev) (c : CoreId) (f : Core → Core) : (d.modCore c f).wtab = d.wtab := id rfl
@[simp] theorem Dev.modCore_mem (d : Dev) (c : CoreId) (f : Core → Core) : (d.modCore c f).mem = d.mem := id rfl
@[simp] theorem Dev.modCore_poisoned (d : Dev) (c : CoreId) (f : Core → Core) : (d.modCore c f).poisoned = d.poisoned := id rfl
@[simp] theorem Dev.modCore_lineKey (d : Dev) (c : CoreId) (f : Core → Core) : (d.modCore c f).lineKey = d.lineKey := id rfl
@[simp] theorem Dev.modCore_srKey (d : Dev) (c : CoreId) (f : Core → Core) : (d.modCore c f).srKey = d.srKey := id rfl
@[simp] theorem Dev.modCore_lines (d : Dev) (c : CoreId) (f : Core → Core) : (d.modCore c f).lines = d.lines := id rfl
@[simp] theorem Dev.modCore_dir (d : Dev) (c : CoreId) (f : Core → Core) : (d.modCore c f).dir = d.dir := id rfl
@[simp] theorem Dev.modCore_txns (d : Dev) (c : CoreId) (f : Core → Core) : (d.modCore c f).txns = d.txns := id rfl
@[simp] theorem Dev.modCore_homeq (d : Dev) (c : CoreId) (f : Core → Core) : (d.modCore c f).homeq = d.homeq := id rfl
@[simp] theorem Dev.modCore_wire (d : Dev) (c : CoreId) (f : Core → Core) : (d.modCore c f).wire = d.wire := id rfl
@[simp] theorem Dev.modCore_mshr (d : Dev) (c : CoreId) (f : Core → Core) : (d.modCore c f).mshr = d.mshr := id rfl
@[simp] theorem Dev.modCore_useCtr (d : Dev) (c : CoreId) (f : Core → Core) : (d.modCore c f).useCtr = d.useCtr := id rfl
@[simp] theorem Dev.modCore_reqs (d : Dev) (c : CoreId) (f : Core → Core) : (d.modCore c f).reqs = d.reqs := id rfl
@[simp] theorem Dev.modCore_nextReq (d : Dev) (c : CoreId) (f : Core → Core) : (d.modCore c f).nextReq = d.nextReq := id rfl
@[simp] theorem Dev.modCore_redq (d : Dev) (c : CoreId) (f : Core → Core) : (d.modCore c f).redq = d.redq := id rfl
@[simp] theorem Dev.modCore_redMc (d : Dev) (c : CoreId) (f : Core → Core) : (d.modCore c f).redMc = d.redMc := id rfl
@[simp] theorem Dev.modCore_signals (d : Dev) (c : CoreId) (f : Core → Core) : (d.modCore c f).signals = d.signals := id rfl
@[simp] theorem Dev.modCore_queues (d : Dev) (c : CoreId) (f : Core → Core) : (d.modCore c f).queues = d.queues := id rfl
@[simp] theorem Dev.modCore_onset (d : Dev) (c : CoreId) (f : Core → Core) : (d.modCore c f).onset = d.onset := id rfl
@[simp] theorem Dev.modCore_arr (d : Dev) (c : CoreId) (f : Core → Core) : (d.modCore c f).arr = d.arr := id rfl
@[simp] theorem Dev.modCore_grps (d : Dev) (c : CoreId) (f : Core → Core) : (d.modCore c f).grps = d.grps := id rfl
@[simp] theorem Dev.modCore_hmapBusy (d : Dev) (c : CoreId) (f : Core → Core) : (d.modCore c f).hmapBusy = d.hmapBusy := id rfl
@[simp] theorem Dev.modCore_rbWait (d : Dev) (c : CoreId) (f : Core → Core) : (d.modCore c f).rbWait = d.rbWait := id rfl
@[simp] theorem Dev.modCore_mcs (d : Dev) (c : CoreId) (f : Core → Core) : (d.modCore c f).mcs = d.mcs := id rfl
@[simp] theorem Dev.modCore_stks (d : Dev) (c : CoreId) (f : Core → Core) : (d.modCore c f).stks = d.stks := id rfl
@[simp] theorem Dev.modCore_traffic (d : Dev) (c : CoreId) (f : Core → Core) : (d.modCore c f).traffic = d.traffic := id rfl
@[simp] theorem Dev.modCore_ports (d : Dev) (c : CoreId) (f : Core → Core) : (d.modCore c f).ports = d.ports := id rfl
@[simp] theorem Dev.modCore_tags (d : Dev) (c : CoreId) (f : Core → Core) : (d.modCore c f).tags = d.tags := id rfl
@[simp] theorem Dev.modCore_tagNext (d : Dev) (c : CoreId) (f : Core → Core) : (d.modCore c f).tagNext = d.tagNext := id rfl
@[simp] theorem Dev.modCore_rail (d : Dev) (c : CoreId) (f : Core → Core) : (d.modCore c f).rail = d.rail := id rfl
@[simp] theorem Dev.modCore_halves (d : Dev) (c : CoreId) (f : Core → Core) : (d.modCore c f).halves = d.halves := id rfl
@[simp] theorem Dev.modCore_refused (d : Dev) (c : CoreId) (f : Core → Core) : (d.modCore c f).refused = d.refused := id rfl
@[simp] theorem Dev.modCore_chapel (d : Dev) (c : CoreId) (f : Core → Core) : (d.modCore c f).chapel = d.chapel := id rfl
@[simp] theorem Dev.modCore_host (d : Dev) (c : CoreId) (f : Core → Core) : (d.modCore c f).host = d.host := id rfl
@[simp] theorem Dev.modCore_evq (d : Dev) (c : CoreId) (f : Core → Core) : (d.modCore c f).evq = d.evq := id rfl
@[simp] theorem Dev.modCore_colls (d : Dev) (c : CoreId) (f : Core → Core) : (d.modCore c f).colls = d.colls := id rfl
@[simp] theorem Dev.modCore_rsts (d : Dev) (c : CoreId) (f : Core → Core) : (d.modCore c f).rsts = d.rsts := id rfl
@[simp] theorem Dev.modCore_gens (d : Dev) (c : CoreId) (f : Core → Core) : (d.modCore c f).gens = d.gens := id rfl
@[simp] theorem Dev.modCore_quiesces (d : Dev) (c : CoreId) (f : Core → Core) : (d.modCore c f).quiesces = d.quiesces := id rfl
@[simp] theorem Dev.modCore_boot (d : Dev) (c : CoreId) (f : Core → Core) : (d.modCore c f).boot = d.boot := id rfl
@[simp] theorem Dev.modCore_trust (d : Dev) (c : CoreId) (f : Core → Core) : (d.modCore c f).trust = d.trust := id rfl
@[simp] theorem Dev.modCore_power (d : Dev) (c : CoreId) (f : Core → Core) : (d.modCore c f).power = d.power := id rfl
@[simp] theorem Dev.modCore_clk (d : Dev) (c : CoreId) (f : Core → Core) : (d.modCore c f).clk = d.clk := id rfl
@[simp] theorem Dev.modCore_out (d : Dev) (c : CoreId) (f : Core → Core) : (d.modCore c f).out = d.out := id rfl
@[simp] theorem Dev.modCore_freeCtr (d : Dev) (c : CoreId) (f : Core → Core) : (d.modCore c f).freeCtr = d.freeCtr := id rfl

/-! ### setQueue -/

@[simp] theorem Dev.setQueue_regs (d : Dev) (k : Nat) (x : Queue) : (d.setQueue k x).regs = d.regs := id rfl
@[simp] theorem Dev.setQueue_rdShadow (d : Dev) (k : Nat) (x : Queue) : (d.setQueue k x).rdShadow = d.rdShadow := id rfl
@[simp] theorem Dev.setQueue_wrShadow (d : Dev) (k : Nat) (x : Queue) : (d.setQueue k x).wrShadow = d.wrShadow := id rfl
@[simp] theorem Dev.setQueue_wtab (d : Dev) (k : Nat) (x : Queue) : (d.setQueue k x).wtab = d.wtab := id rfl
@[simp] theorem Dev.setQueue_mem (d : Dev) (k : Nat) (x : Queue) : (d.setQueue k x).mem = d.mem := id rfl
@[simp] theorem Dev.setQueue_poisoned (d : Dev) (k : Nat) (x : Queue) : (d.setQueue k x).poisoned = d.poisoned := id rfl
@[simp] theorem Dev.setQueue_lineKey (d : Dev) (k : Nat) (x : Queue) : (d.setQueue k x).lineKey = d.lineKey := id rfl
@[simp] theorem Dev.setQueue_srKey (d : Dev) (k : Nat) (x : Queue) : (d.setQueue k x).srKey = d.srKey := id rfl
@[simp] theorem Dev.setQueue_lines (d : Dev) (k : Nat) (x : Queue) : (d.setQueue k x).lines = d.lines := id rfl
@[simp] theorem Dev.setQueue_dir (d : Dev) (k : Nat) (x : Queue) : (d.setQueue k x).dir = d.dir := id rfl
@[simp] theorem Dev.setQueue_txns (d : Dev) (k : Nat) (x : Queue) : (d.setQueue k x).txns = d.txns := id rfl
@[simp] theorem Dev.setQueue_homeq (d : Dev) (k : Nat) (x : Queue) : (d.setQueue k x).homeq = d.homeq := id rfl
@[simp] theorem Dev.setQueue_wire (d : Dev) (k : Nat) (x : Queue) : (d.setQueue k x).wire = d.wire := id rfl
@[simp] theorem Dev.setQueue_mshr (d : Dev) (k : Nat) (x : Queue) : (d.setQueue k x).mshr = d.mshr := id rfl
@[simp] theorem Dev.setQueue_useCtr (d : Dev) (k : Nat) (x : Queue) : (d.setQueue k x).useCtr = d.useCtr := id rfl
@[simp] theorem Dev.setQueue_reqs (d : Dev) (k : Nat) (x : Queue) : (d.setQueue k x).reqs = d.reqs := id rfl
@[simp] theorem Dev.setQueue_nextReq (d : Dev) (k : Nat) (x : Queue) : (d.setQueue k x).nextReq = d.nextReq := id rfl
@[simp] theorem Dev.setQueue_redq (d : Dev) (k : Nat) (x : Queue) : (d.setQueue k x).redq = d.redq := id rfl
@[simp] theorem Dev.setQueue_redMc (d : Dev) (k : Nat) (x : Queue) : (d.setQueue k x).redMc = d.redMc := id rfl
@[simp] theorem Dev.setQueue_cores (d : Dev) (k : Nat) (x : Queue) : (d.setQueue k x).cores = d.cores := id rfl
@[simp] theorem Dev.setQueue_signals (d : Dev) (k : Nat) (x : Queue) : (d.setQueue k x).signals = d.signals := id rfl
@[simp] theorem Dev.setQueue_onset (d : Dev) (k : Nat) (x : Queue) : (d.setQueue k x).onset = d.onset := id rfl
@[simp] theorem Dev.setQueue_arr (d : Dev) (k : Nat) (x : Queue) : (d.setQueue k x).arr = d.arr := id rfl
@[simp] theorem Dev.setQueue_grps (d : Dev) (k : Nat) (x : Queue) : (d.setQueue k x).grps = d.grps := id rfl
@[simp] theorem Dev.setQueue_hmapBusy (d : Dev) (k : Nat) (x : Queue) : (d.setQueue k x).hmapBusy = d.hmapBusy := id rfl
@[simp] theorem Dev.setQueue_rbWait (d : Dev) (k : Nat) (x : Queue) : (d.setQueue k x).rbWait = d.rbWait := id rfl
@[simp] theorem Dev.setQueue_mcs (d : Dev) (k : Nat) (x : Queue) : (d.setQueue k x).mcs = d.mcs := id rfl
@[simp] theorem Dev.setQueue_stks (d : Dev) (k : Nat) (x : Queue) : (d.setQueue k x).stks = d.stks := id rfl
@[simp] theorem Dev.setQueue_traffic (d : Dev) (k : Nat) (x : Queue) : (d.setQueue k x).traffic = d.traffic := id rfl
@[simp] theorem Dev.setQueue_ports (d : Dev) (k : Nat) (x : Queue) : (d.setQueue k x).ports = d.ports := id rfl
@[simp] theorem Dev.setQueue_tags (d : Dev) (k : Nat) (x : Queue) : (d.setQueue k x).tags = d.tags := id rfl
@[simp] theorem Dev.setQueue_tagNext (d : Dev) (k : Nat) (x : Queue) : (d.setQueue k x).tagNext = d.tagNext := id rfl
@[simp] theorem Dev.setQueue_rail (d : Dev) (k : Nat) (x : Queue) : (d.setQueue k x).rail = d.rail := id rfl
@[simp] theorem Dev.setQueue_halves (d : Dev) (k : Nat) (x : Queue) : (d.setQueue k x).halves = d.halves := id rfl
@[simp] theorem Dev.setQueue_refused (d : Dev) (k : Nat) (x : Queue) : (d.setQueue k x).refused = d.refused := id rfl
@[simp] theorem Dev.setQueue_chapel (d : Dev) (k : Nat) (x : Queue) : (d.setQueue k x).chapel = d.chapel := id rfl
@[simp] theorem Dev.setQueue_host (d : Dev) (k : Nat) (x : Queue) : (d.setQueue k x).host = d.host := id rfl
@[simp] theorem Dev.setQueue_evq (d : Dev) (k : Nat) (x : Queue) : (d.setQueue k x).evq = d.evq := id rfl
@[simp] theorem Dev.setQueue_colls (d : Dev) (k : Nat) (x : Queue) : (d.setQueue k x).colls = d.colls := id rfl
@[simp] theorem Dev.setQueue_rsts (d : Dev) (k : Nat) (x : Queue) : (d.setQueue k x).rsts = d.rsts := id rfl
@[simp] theorem Dev.setQueue_gens (d : Dev) (k : Nat) (x : Queue) : (d.setQueue k x).gens = d.gens := id rfl
@[simp] theorem Dev.setQueue_quiesces (d : Dev) (k : Nat) (x : Queue) : (d.setQueue k x).quiesces = d.quiesces := id rfl
@[simp] theorem Dev.setQueue_boot (d : Dev) (k : Nat) (x : Queue) : (d.setQueue k x).boot = d.boot := id rfl
@[simp] theorem Dev.setQueue_trust (d : Dev) (k : Nat) (x : Queue) : (d.setQueue k x).trust = d.trust := id rfl
@[simp] theorem Dev.setQueue_power (d : Dev) (k : Nat) (x : Queue) : (d.setQueue k x).power = d.power := id rfl
@[simp] theorem Dev.setQueue_clk (d : Dev) (k : Nat) (x : Queue) : (d.setQueue k x).clk = d.clk := id rfl
@[simp] theorem Dev.setQueue_out (d : Dev) (k : Nat) (x : Queue) : (d.setQueue k x).out = d.out := id rfl
@[simp] theorem Dev.setQueue_freeCtr (d : Dev) (k : Nat) (x : Queue) : (d.setQueue k x).freeCtr = d.freeCtr := id rfl

/-! ### modQueue -/

@[simp] theorem Dev.modQueue_regs (d : Dev) (k : Nat) (f : Queue → Queue) : (d.modQueue k f).regs = d.regs := id rfl
@[simp] theorem Dev.modQueue_rdShadow (d : Dev) (k : Nat) (f : Queue → Queue) : (d.modQueue k f).rdShadow = d.rdShadow := id rfl
@[simp] theorem Dev.modQueue_wrShadow (d : Dev) (k : Nat) (f : Queue → Queue) : (d.modQueue k f).wrShadow = d.wrShadow := id rfl
@[simp] theorem Dev.modQueue_wtab (d : Dev) (k : Nat) (f : Queue → Queue) : (d.modQueue k f).wtab = d.wtab := id rfl
@[simp] theorem Dev.modQueue_mem (d : Dev) (k : Nat) (f : Queue → Queue) : (d.modQueue k f).mem = d.mem := id rfl
@[simp] theorem Dev.modQueue_poisoned (d : Dev) (k : Nat) (f : Queue → Queue) : (d.modQueue k f).poisoned = d.poisoned := id rfl
@[simp] theorem Dev.modQueue_lineKey (d : Dev) (k : Nat) (f : Queue → Queue) : (d.modQueue k f).lineKey = d.lineKey := id rfl
@[simp] theorem Dev.modQueue_srKey (d : Dev) (k : Nat) (f : Queue → Queue) : (d.modQueue k f).srKey = d.srKey := id rfl
@[simp] theorem Dev.modQueue_lines (d : Dev) (k : Nat) (f : Queue → Queue) : (d.modQueue k f).lines = d.lines := id rfl
@[simp] theorem Dev.modQueue_dir (d : Dev) (k : Nat) (f : Queue → Queue) : (d.modQueue k f).dir = d.dir := id rfl
@[simp] theorem Dev.modQueue_txns (d : Dev) (k : Nat) (f : Queue → Queue) : (d.modQueue k f).txns = d.txns := id rfl
@[simp] theorem Dev.modQueue_homeq (d : Dev) (k : Nat) (f : Queue → Queue) : (d.modQueue k f).homeq = d.homeq := id rfl
@[simp] theorem Dev.modQueue_wire (d : Dev) (k : Nat) (f : Queue → Queue) : (d.modQueue k f).wire = d.wire := id rfl
@[simp] theorem Dev.modQueue_mshr (d : Dev) (k : Nat) (f : Queue → Queue) : (d.modQueue k f).mshr = d.mshr := id rfl
@[simp] theorem Dev.modQueue_useCtr (d : Dev) (k : Nat) (f : Queue → Queue) : (d.modQueue k f).useCtr = d.useCtr := id rfl
@[simp] theorem Dev.modQueue_reqs (d : Dev) (k : Nat) (f : Queue → Queue) : (d.modQueue k f).reqs = d.reqs := id rfl
@[simp] theorem Dev.modQueue_nextReq (d : Dev) (k : Nat) (f : Queue → Queue) : (d.modQueue k f).nextReq = d.nextReq := id rfl
@[simp] theorem Dev.modQueue_redq (d : Dev) (k : Nat) (f : Queue → Queue) : (d.modQueue k f).redq = d.redq := id rfl
@[simp] theorem Dev.modQueue_redMc (d : Dev) (k : Nat) (f : Queue → Queue) : (d.modQueue k f).redMc = d.redMc := id rfl
@[simp] theorem Dev.modQueue_cores (d : Dev) (k : Nat) (f : Queue → Queue) : (d.modQueue k f).cores = d.cores := id rfl
@[simp] theorem Dev.modQueue_signals (d : Dev) (k : Nat) (f : Queue → Queue) : (d.modQueue k f).signals = d.signals := id rfl
@[simp] theorem Dev.modQueue_onset (d : Dev) (k : Nat) (f : Queue → Queue) : (d.modQueue k f).onset = d.onset := id rfl
@[simp] theorem Dev.modQueue_arr (d : Dev) (k : Nat) (f : Queue → Queue) : (d.modQueue k f).arr = d.arr := id rfl
@[simp] theorem Dev.modQueue_grps (d : Dev) (k : Nat) (f : Queue → Queue) : (d.modQueue k f).grps = d.grps := id rfl
@[simp] theorem Dev.modQueue_hmapBusy (d : Dev) (k : Nat) (f : Queue → Queue) : (d.modQueue k f).hmapBusy = d.hmapBusy := id rfl
@[simp] theorem Dev.modQueue_rbWait (d : Dev) (k : Nat) (f : Queue → Queue) : (d.modQueue k f).rbWait = d.rbWait := id rfl
@[simp] theorem Dev.modQueue_mcs (d : Dev) (k : Nat) (f : Queue → Queue) : (d.modQueue k f).mcs = d.mcs := id rfl
@[simp] theorem Dev.modQueue_stks (d : Dev) (k : Nat) (f : Queue → Queue) : (d.modQueue k f).stks = d.stks := id rfl
@[simp] theorem Dev.modQueue_traffic (d : Dev) (k : Nat) (f : Queue → Queue) : (d.modQueue k f).traffic = d.traffic := id rfl
@[simp] theorem Dev.modQueue_ports (d : Dev) (k : Nat) (f : Queue → Queue) : (d.modQueue k f).ports = d.ports := id rfl
@[simp] theorem Dev.modQueue_tags (d : Dev) (k : Nat) (f : Queue → Queue) : (d.modQueue k f).tags = d.tags := id rfl
@[simp] theorem Dev.modQueue_tagNext (d : Dev) (k : Nat) (f : Queue → Queue) : (d.modQueue k f).tagNext = d.tagNext := id rfl
@[simp] theorem Dev.modQueue_rail (d : Dev) (k : Nat) (f : Queue → Queue) : (d.modQueue k f).rail = d.rail := id rfl
@[simp] theorem Dev.modQueue_halves (d : Dev) (k : Nat) (f : Queue → Queue) : (d.modQueue k f).halves = d.halves := id rfl
@[simp] theorem Dev.modQueue_refused (d : Dev) (k : Nat) (f : Queue → Queue) : (d.modQueue k f).refused = d.refused := id rfl
@[simp] theorem Dev.modQueue_chapel (d : Dev) (k : Nat) (f : Queue → Queue) : (d.modQueue k f).chapel = d.chapel := id rfl
@[simp] theorem Dev.modQueue_host (d : Dev) (k : Nat) (f : Queue → Queue) : (d.modQueue k f).host = d.host := id rfl
@[simp] theorem Dev.modQueue_evq (d : Dev) (k : Nat) (f : Queue → Queue) : (d.modQueue k f).evq = d.evq := id rfl
@[simp] theorem Dev.modQueue_colls (d : Dev) (k : Nat) (f : Queue → Queue) : (d.modQueue k f).colls = d.colls := id rfl
@[simp] theorem Dev.modQueue_rsts (d : Dev) (k : Nat) (f : Queue → Queue) : (d.modQueue k f).rsts = d.rsts := id rfl
@[simp] theorem Dev.modQueue_gens (d : Dev) (k : Nat) (f : Queue → Queue) : (d.modQueue k f).gens = d.gens := id rfl
@[simp] theorem Dev.modQueue_quiesces (d : Dev) (k : Nat) (f : Queue → Queue) : (d.modQueue k f).quiesces = d.quiesces := id rfl
@[simp] theorem Dev.modQueue_boot (d : Dev) (k : Nat) (f : Queue → Queue) : (d.modQueue k f).boot = d.boot := id rfl
@[simp] theorem Dev.modQueue_trust (d : Dev) (k : Nat) (f : Queue → Queue) : (d.modQueue k f).trust = d.trust := id rfl
@[simp] theorem Dev.modQueue_power (d : Dev) (k : Nat) (f : Queue → Queue) : (d.modQueue k f).power = d.power := id rfl
@[simp] theorem Dev.modQueue_clk (d : Dev) (k : Nat) (f : Queue → Queue) : (d.modQueue k f).clk = d.clk := id rfl
@[simp] theorem Dev.modQueue_out (d : Dev) (k : Nat) (f : Queue → Queue) : (d.modQueue k f).out = d.out := id rfl
@[simp] theorem Dev.modQueue_freeCtr (d : Dev) (k : Nat) (f : Queue → Queue) : (d.modQueue k f).freeCtr = d.freeCtr := id rfl

/-! ### setPort -/

@[simp] theorem Dev.setPort_regs (d : Dev) (p : Nat) (x : PortSt) : (d.setPort p x).regs = d.regs := id rfl
@[simp] theorem Dev.setPort_rdShadow (d : Dev) (p : Nat) (x : PortSt) : (d.setPort p x).rdShadow = d.rdShadow := id rfl
@[simp] theorem Dev.setPort_wrShadow (d : Dev) (p : Nat) (x : PortSt) : (d.setPort p x).wrShadow = d.wrShadow := id rfl
@[simp] theorem Dev.setPort_wtab (d : Dev) (p : Nat) (x : PortSt) : (d.setPort p x).wtab = d.wtab := id rfl
@[simp] theorem Dev.setPort_mem (d : Dev) (p : Nat) (x : PortSt) : (d.setPort p x).mem = d.mem := id rfl
@[simp] theorem Dev.setPort_poisoned (d : Dev) (p : Nat) (x : PortSt) : (d.setPort p x).poisoned = d.poisoned := id rfl
@[simp] theorem Dev.setPort_lineKey (d : Dev) (p : Nat) (x : PortSt) : (d.setPort p x).lineKey = d.lineKey := id rfl
@[simp] theorem Dev.setPort_srKey (d : Dev) (p : Nat) (x : PortSt) : (d.setPort p x).srKey = d.srKey := id rfl
@[simp] theorem Dev.setPort_lines (d : Dev) (p : Nat) (x : PortSt) : (d.setPort p x).lines = d.lines := id rfl
@[simp] theorem Dev.setPort_dir (d : Dev) (p : Nat) (x : PortSt) : (d.setPort p x).dir = d.dir := id rfl
@[simp] theorem Dev.setPort_txns (d : Dev) (p : Nat) (x : PortSt) : (d.setPort p x).txns = d.txns := id rfl
@[simp] theorem Dev.setPort_homeq (d : Dev) (p : Nat) (x : PortSt) : (d.setPort p x).homeq = d.homeq := id rfl
@[simp] theorem Dev.setPort_wire (d : Dev) (p : Nat) (x : PortSt) : (d.setPort p x).wire = d.wire := id rfl
@[simp] theorem Dev.setPort_mshr (d : Dev) (p : Nat) (x : PortSt) : (d.setPort p x).mshr = d.mshr := id rfl
@[simp] theorem Dev.setPort_useCtr (d : Dev) (p : Nat) (x : PortSt) : (d.setPort p x).useCtr = d.useCtr := id rfl
@[simp] theorem Dev.setPort_reqs (d : Dev) (p : Nat) (x : PortSt) : (d.setPort p x).reqs = d.reqs := id rfl
@[simp] theorem Dev.setPort_nextReq (d : Dev) (p : Nat) (x : PortSt) : (d.setPort p x).nextReq = d.nextReq := id rfl
@[simp] theorem Dev.setPort_redq (d : Dev) (p : Nat) (x : PortSt) : (d.setPort p x).redq = d.redq := id rfl
@[simp] theorem Dev.setPort_redMc (d : Dev) (p : Nat) (x : PortSt) : (d.setPort p x).redMc = d.redMc := id rfl
@[simp] theorem Dev.setPort_cores (d : Dev) (p : Nat) (x : PortSt) : (d.setPort p x).cores = d.cores := id rfl
@[simp] theorem Dev.setPort_signals (d : Dev) (p : Nat) (x : PortSt) : (d.setPort p x).signals = d.signals := id rfl
@[simp] theorem Dev.setPort_queues (d : Dev) (p : Nat) (x : PortSt) : (d.setPort p x).queues = d.queues := id rfl
@[simp] theorem Dev.setPort_onset (d : Dev) (p : Nat) (x : PortSt) : (d.setPort p x).onset = d.onset := id rfl
@[simp] theorem Dev.setPort_arr (d : Dev) (p : Nat) (x : PortSt) : (d.setPort p x).arr = d.arr := id rfl
@[simp] theorem Dev.setPort_grps (d : Dev) (p : Nat) (x : PortSt) : (d.setPort p x).grps = d.grps := id rfl
@[simp] theorem Dev.setPort_hmapBusy (d : Dev) (p : Nat) (x : PortSt) : (d.setPort p x).hmapBusy = d.hmapBusy := id rfl
@[simp] theorem Dev.setPort_rbWait (d : Dev) (p : Nat) (x : PortSt) : (d.setPort p x).rbWait = d.rbWait := id rfl
@[simp] theorem Dev.setPort_mcs (d : Dev) (p : Nat) (x : PortSt) : (d.setPort p x).mcs = d.mcs := id rfl
@[simp] theorem Dev.setPort_stks (d : Dev) (p : Nat) (x : PortSt) : (d.setPort p x).stks = d.stks := id rfl
@[simp] theorem Dev.setPort_traffic (d : Dev) (p : Nat) (x : PortSt) : (d.setPort p x).traffic = d.traffic := id rfl
@[simp] theorem Dev.setPort_tags (d : Dev) (p : Nat) (x : PortSt) : (d.setPort p x).tags = d.tags := id rfl
@[simp] theorem Dev.setPort_tagNext (d : Dev) (p : Nat) (x : PortSt) : (d.setPort p x).tagNext = d.tagNext := id rfl
@[simp] theorem Dev.setPort_rail (d : Dev) (p : Nat) (x : PortSt) : (d.setPort p x).rail = d.rail := id rfl
@[simp] theorem Dev.setPort_halves (d : Dev) (p : Nat) (x : PortSt) : (d.setPort p x).halves = d.halves := id rfl
@[simp] theorem Dev.setPort_refused (d : Dev) (p : Nat) (x : PortSt) : (d.setPort p x).refused = d.refused := id rfl
@[simp] theorem Dev.setPort_chapel (d : Dev) (p : Nat) (x : PortSt) : (d.setPort p x).chapel = d.chapel := id rfl
@[simp] theorem Dev.setPort_host (d : Dev) (p : Nat) (x : PortSt) : (d.setPort p x).host = d.host := id rfl
@[simp] theorem Dev.setPort_evq (d : Dev) (p : Nat) (x : PortSt) : (d.setPort p x).evq = d.evq := id rfl
@[simp] theorem Dev.setPort_colls (d : Dev) (p : Nat) (x : PortSt) : (d.setPort p x).colls = d.colls := id rfl
@[simp] theorem Dev.setPort_rsts (d : Dev) (p : Nat) (x : PortSt) : (d.setPort p x).rsts = d.rsts := id rfl
@[simp] theorem Dev.setPort_gens (d : Dev) (p : Nat) (x : PortSt) : (d.setPort p x).gens = d.gens := id rfl
@[simp] theorem Dev.setPort_quiesces (d : Dev) (p : Nat) (x : PortSt) : (d.setPort p x).quiesces = d.quiesces := id rfl
@[simp] theorem Dev.setPort_boot (d : Dev) (p : Nat) (x : PortSt) : (d.setPort p x).boot = d.boot := id rfl
@[simp] theorem Dev.setPort_trust (d : Dev) (p : Nat) (x : PortSt) : (d.setPort p x).trust = d.trust := id rfl
@[simp] theorem Dev.setPort_power (d : Dev) (p : Nat) (x : PortSt) : (d.setPort p x).power = d.power := id rfl
@[simp] theorem Dev.setPort_clk (d : Dev) (p : Nat) (x : PortSt) : (d.setPort p x).clk = d.clk := id rfl
@[simp] theorem Dev.setPort_out (d : Dev) (p : Nat) (x : PortSt) : (d.setPort p x).out = d.out := id rfl
@[simp] theorem Dev.setPort_freeCtr (d : Dev) (p : Nat) (x : PortSt) : (d.setPort p x).freeCtr = d.freeCtr := id rfl

/-! ### modPort -/

@[simp] theorem Dev.modPort_regs (d : Dev) (p : Nat) (f : PortSt → PortSt) : (d.modPort p f).regs = d.regs := id rfl
@[simp] theorem Dev.modPort_rdShadow (d : Dev) (p : Nat) (f : PortSt → PortSt) : (d.modPort p f).rdShadow = d.rdShadow := id rfl
@[simp] theorem Dev.modPort_wrShadow (d : Dev) (p : Nat) (f : PortSt → PortSt) : (d.modPort p f).wrShadow = d.wrShadow := id rfl
@[simp] theorem Dev.modPort_wtab (d : Dev) (p : Nat) (f : PortSt → PortSt) : (d.modPort p f).wtab = d.wtab := id rfl
@[simp] theorem Dev.modPort_mem (d : Dev) (p : Nat) (f : PortSt → PortSt) : (d.modPort p f).mem = d.mem := id rfl
@[simp] theorem Dev.modPort_poisoned (d : Dev) (p : Nat) (f : PortSt → PortSt) : (d.modPort p f).poisoned = d.poisoned := id rfl
@[simp] theorem Dev.modPort_lineKey (d : Dev) (p : Nat) (f : PortSt → PortSt) : (d.modPort p f).lineKey = d.lineKey := id rfl
@[simp] theorem Dev.modPort_srKey (d : Dev) (p : Nat) (f : PortSt → PortSt) : (d.modPort p f).srKey = d.srKey := id rfl
@[simp] theorem Dev.modPort_lines (d : Dev) (p : Nat) (f : PortSt → PortSt) : (d.modPort p f).lines = d.lines := id rfl
@[simp] theorem Dev.modPort_dir (d : Dev) (p : Nat) (f : PortSt → PortSt) : (d.modPort p f).dir = d.dir := id rfl
@[simp] theorem Dev.modPort_txns (d : Dev) (p : Nat) (f : PortSt → PortSt) : (d.modPort p f).txns = d.txns := id rfl
@[simp] theorem Dev.modPort_homeq (d : Dev) (p : Nat) (f : PortSt → PortSt) : (d.modPort p f).homeq = d.homeq := id rfl
@[simp] theorem Dev.modPort_wire (d : Dev) (p : Nat) (f : PortSt → PortSt) : (d.modPort p f).wire = d.wire := id rfl
@[simp] theorem Dev.modPort_mshr (d : Dev) (p : Nat) (f : PortSt → PortSt) : (d.modPort p f).mshr = d.mshr := id rfl
@[simp] theorem Dev.modPort_useCtr (d : Dev) (p : Nat) (f : PortSt → PortSt) : (d.modPort p f).useCtr = d.useCtr := id rfl
@[simp] theorem Dev.modPort_reqs (d : Dev) (p : Nat) (f : PortSt → PortSt) : (d.modPort p f).reqs = d.reqs := id rfl
@[simp] theorem Dev.modPort_nextReq (d : Dev) (p : Nat) (f : PortSt → PortSt) : (d.modPort p f).nextReq = d.nextReq := id rfl
@[simp] theorem Dev.modPort_redq (d : Dev) (p : Nat) (f : PortSt → PortSt) : (d.modPort p f).redq = d.redq := id rfl
@[simp] theorem Dev.modPort_redMc (d : Dev) (p : Nat) (f : PortSt → PortSt) : (d.modPort p f).redMc = d.redMc := id rfl
@[simp] theorem Dev.modPort_cores (d : Dev) (p : Nat) (f : PortSt → PortSt) : (d.modPort p f).cores = d.cores := id rfl
@[simp] theorem Dev.modPort_signals (d : Dev) (p : Nat) (f : PortSt → PortSt) : (d.modPort p f).signals = d.signals := id rfl
@[simp] theorem Dev.modPort_queues (d : Dev) (p : Nat) (f : PortSt → PortSt) : (d.modPort p f).queues = d.queues := id rfl
@[simp] theorem Dev.modPort_onset (d : Dev) (p : Nat) (f : PortSt → PortSt) : (d.modPort p f).onset = d.onset := id rfl
@[simp] theorem Dev.modPort_arr (d : Dev) (p : Nat) (f : PortSt → PortSt) : (d.modPort p f).arr = d.arr := id rfl
@[simp] theorem Dev.modPort_grps (d : Dev) (p : Nat) (f : PortSt → PortSt) : (d.modPort p f).grps = d.grps := id rfl
@[simp] theorem Dev.modPort_hmapBusy (d : Dev) (p : Nat) (f : PortSt → PortSt) : (d.modPort p f).hmapBusy = d.hmapBusy := id rfl
@[simp] theorem Dev.modPort_rbWait (d : Dev) (p : Nat) (f : PortSt → PortSt) : (d.modPort p f).rbWait = d.rbWait := id rfl
@[simp] theorem Dev.modPort_mcs (d : Dev) (p : Nat) (f : PortSt → PortSt) : (d.modPort p f).mcs = d.mcs := id rfl
@[simp] theorem Dev.modPort_stks (d : Dev) (p : Nat) (f : PortSt → PortSt) : (d.modPort p f).stks = d.stks := id rfl
@[simp] theorem Dev.modPort_traffic (d : Dev) (p : Nat) (f : PortSt → PortSt) : (d.modPort p f).traffic = d.traffic := id rfl
@[simp] theorem Dev.modPort_tags (d : Dev) (p : Nat) (f : PortSt → PortSt) : (d.modPort p f).tags = d.tags := id rfl
@[simp] theorem Dev.modPort_tagNext (d : Dev) (p : Nat) (f : PortSt → PortSt) : (d.modPort p f).tagNext = d.tagNext := id rfl
@[simp] theorem Dev.modPort_rail (d : Dev) (p : Nat) (f : PortSt → PortSt) : (d.modPort p f).rail = d.rail := id rfl
@[simp] theorem Dev.modPort_halves (d : Dev) (p : Nat) (f : PortSt → PortSt) : (d.modPort p f).halves = d.halves := id rfl
@[simp] theorem Dev.modPort_refused (d : Dev) (p : Nat) (f : PortSt → PortSt) : (d.modPort p f).refused = d.refused := id rfl
@[simp] theorem Dev.modPort_chapel (d : Dev) (p : Nat) (f : PortSt → PortSt) : (d.modPort p f).chapel = d.chapel := id rfl
@[simp] theorem Dev.modPort_host (d : Dev) (p : Nat) (f : PortSt → PortSt) : (d.modPort p f).host = d.host := id rfl
@[simp] theorem Dev.modPort_evq (d : Dev) (p : Nat) (f : PortSt → PortSt) : (d.modPort p f).evq = d.evq := id rfl
@[simp] theorem Dev.modPort_colls (d : Dev) (p : Nat) (f : PortSt → PortSt) : (d.modPort p f).colls = d.colls := id rfl
@[simp] theorem Dev.modPort_rsts (d : Dev) (p : Nat) (f : PortSt → PortSt) : (d.modPort p f).rsts = d.rsts := id rfl
@[simp] theorem Dev.modPort_gens (d : Dev) (p : Nat) (f : PortSt → PortSt) : (d.modPort p f).gens = d.gens := id rfl
@[simp] theorem Dev.modPort_quiesces (d : Dev) (p : Nat) (f : PortSt → PortSt) : (d.modPort p f).quiesces = d.quiesces := id rfl
@[simp] theorem Dev.modPort_boot (d : Dev) (p : Nat) (f : PortSt → PortSt) : (d.modPort p f).boot = d.boot := id rfl
@[simp] theorem Dev.modPort_trust (d : Dev) (p : Nat) (f : PortSt → PortSt) : (d.modPort p f).trust = d.trust := id rfl
@[simp] theorem Dev.modPort_power (d : Dev) (p : Nat) (f : PortSt → PortSt) : (d.modPort p f).power = d.power := id rfl
@[simp] theorem Dev.modPort_clk (d : Dev) (p : Nat) (f : PortSt → PortSt) : (d.modPort p f).clk = d.clk := id rfl
@[simp] theorem Dev.modPort_out (d : Dev) (p : Nat) (f : PortSt → PortSt) : (d.modPort p f).out = d.out := id rfl
@[simp] theorem Dev.modPort_freeCtr (d : Dev) (p : Nat) (f : PortSt → PortSt) : (d.modPort p f).freeCtr = d.freeCtr := id rfl

/-! ### setFunc -/

@[simp] theorem Dev.setFunc_regs (d : Dev) (f : Nat) (x : Func) : (d.setFunc f x).regs = d.regs := id rfl
@[simp] theorem Dev.setFunc_rdShadow (d : Dev) (f : Nat) (x : Func) : (d.setFunc f x).rdShadow = d.rdShadow := id rfl
@[simp] theorem Dev.setFunc_wrShadow (d : Dev) (f : Nat) (x : Func) : (d.setFunc f x).wrShadow = d.wrShadow := id rfl
@[simp] theorem Dev.setFunc_wtab (d : Dev) (f : Nat) (x : Func) : (d.setFunc f x).wtab = d.wtab := id rfl
@[simp] theorem Dev.setFunc_mem (d : Dev) (f : Nat) (x : Func) : (d.setFunc f x).mem = d.mem := id rfl
@[simp] theorem Dev.setFunc_poisoned (d : Dev) (f : Nat) (x : Func) : (d.setFunc f x).poisoned = d.poisoned := id rfl
@[simp] theorem Dev.setFunc_lineKey (d : Dev) (f : Nat) (x : Func) : (d.setFunc f x).lineKey = d.lineKey := id rfl
@[simp] theorem Dev.setFunc_srKey (d : Dev) (f : Nat) (x : Func) : (d.setFunc f x).srKey = d.srKey := id rfl
@[simp] theorem Dev.setFunc_lines (d : Dev) (f : Nat) (x : Func) : (d.setFunc f x).lines = d.lines := id rfl
@[simp] theorem Dev.setFunc_dir (d : Dev) (f : Nat) (x : Func) : (d.setFunc f x).dir = d.dir := id rfl
@[simp] theorem Dev.setFunc_txns (d : Dev) (f : Nat) (x : Func) : (d.setFunc f x).txns = d.txns := id rfl
@[simp] theorem Dev.setFunc_homeq (d : Dev) (f : Nat) (x : Func) : (d.setFunc f x).homeq = d.homeq := id rfl
@[simp] theorem Dev.setFunc_wire (d : Dev) (f : Nat) (x : Func) : (d.setFunc f x).wire = d.wire := id rfl
@[simp] theorem Dev.setFunc_mshr (d : Dev) (f : Nat) (x : Func) : (d.setFunc f x).mshr = d.mshr := id rfl
@[simp] theorem Dev.setFunc_useCtr (d : Dev) (f : Nat) (x : Func) : (d.setFunc f x).useCtr = d.useCtr := id rfl
@[simp] theorem Dev.setFunc_reqs (d : Dev) (f : Nat) (x : Func) : (d.setFunc f x).reqs = d.reqs := id rfl
@[simp] theorem Dev.setFunc_nextReq (d : Dev) (f : Nat) (x : Func) : (d.setFunc f x).nextReq = d.nextReq := id rfl
@[simp] theorem Dev.setFunc_redq (d : Dev) (f : Nat) (x : Func) : (d.setFunc f x).redq = d.redq := id rfl
@[simp] theorem Dev.setFunc_redMc (d : Dev) (f : Nat) (x : Func) : (d.setFunc f x).redMc = d.redMc := id rfl
@[simp] theorem Dev.setFunc_cores (d : Dev) (f : Nat) (x : Func) : (d.setFunc f x).cores = d.cores := id rfl
@[simp] theorem Dev.setFunc_signals (d : Dev) (f : Nat) (x : Func) : (d.setFunc f x).signals = d.signals := id rfl
@[simp] theorem Dev.setFunc_queues (d : Dev) (f : Nat) (x : Func) : (d.setFunc f x).queues = d.queues := id rfl
@[simp] theorem Dev.setFunc_onset (d : Dev) (f : Nat) (x : Func) : (d.setFunc f x).onset = d.onset := id rfl
@[simp] theorem Dev.setFunc_arr (d : Dev) (f : Nat) (x : Func) : (d.setFunc f x).arr = d.arr := id rfl
@[simp] theorem Dev.setFunc_grps (d : Dev) (f : Nat) (x : Func) : (d.setFunc f x).grps = d.grps := id rfl
@[simp] theorem Dev.setFunc_hmapBusy (d : Dev) (f : Nat) (x : Func) : (d.setFunc f x).hmapBusy = d.hmapBusy := id rfl
@[simp] theorem Dev.setFunc_rbWait (d : Dev) (f : Nat) (x : Func) : (d.setFunc f x).rbWait = d.rbWait := id rfl
@[simp] theorem Dev.setFunc_mcs (d : Dev) (f : Nat) (x : Func) : (d.setFunc f x).mcs = d.mcs := id rfl
@[simp] theorem Dev.setFunc_stks (d : Dev) (f : Nat) (x : Func) : (d.setFunc f x).stks = d.stks := id rfl
@[simp] theorem Dev.setFunc_traffic (d : Dev) (f : Nat) (x : Func) : (d.setFunc f x).traffic = d.traffic := id rfl
@[simp] theorem Dev.setFunc_ports (d : Dev) (f : Nat) (x : Func) : (d.setFunc f x).ports = d.ports := id rfl
@[simp] theorem Dev.setFunc_tags (d : Dev) (f : Nat) (x : Func) : (d.setFunc f x).tags = d.tags := id rfl
@[simp] theorem Dev.setFunc_tagNext (d : Dev) (f : Nat) (x : Func) : (d.setFunc f x).tagNext = d.tagNext := id rfl
@[simp] theorem Dev.setFunc_rail (d : Dev) (f : Nat) (x : Func) : (d.setFunc f x).rail = d.rail := id rfl
@[simp] theorem Dev.setFunc_halves (d : Dev) (f : Nat) (x : Func) : (d.setFunc f x).halves = d.halves := id rfl
@[simp] theorem Dev.setFunc_refused (d : Dev) (f : Nat) (x : Func) : (d.setFunc f x).refused = d.refused := id rfl
@[simp] theorem Dev.setFunc_chapel (d : Dev) (f : Nat) (x : Func) : (d.setFunc f x).chapel = d.chapel := id rfl
@[simp] theorem Dev.setFunc_evq (d : Dev) (f : Nat) (x : Func) : (d.setFunc f x).evq = d.evq := id rfl
@[simp] theorem Dev.setFunc_colls (d : Dev) (f : Nat) (x : Func) : (d.setFunc f x).colls = d.colls := id rfl
@[simp] theorem Dev.setFunc_rsts (d : Dev) (f : Nat) (x : Func) : (d.setFunc f x).rsts = d.rsts := id rfl
@[simp] theorem Dev.setFunc_gens (d : Dev) (f : Nat) (x : Func) : (d.setFunc f x).gens = d.gens := id rfl
@[simp] theorem Dev.setFunc_quiesces (d : Dev) (f : Nat) (x : Func) : (d.setFunc f x).quiesces = d.quiesces := id rfl
@[simp] theorem Dev.setFunc_boot (d : Dev) (f : Nat) (x : Func) : (d.setFunc f x).boot = d.boot := id rfl
@[simp] theorem Dev.setFunc_trust (d : Dev) (f : Nat) (x : Func) : (d.setFunc f x).trust = d.trust := id rfl
@[simp] theorem Dev.setFunc_power (d : Dev) (f : Nat) (x : Func) : (d.setFunc f x).power = d.power := id rfl
@[simp] theorem Dev.setFunc_clk (d : Dev) (f : Nat) (x : Func) : (d.setFunc f x).clk = d.clk := id rfl
@[simp] theorem Dev.setFunc_out (d : Dev) (f : Nat) (x : Func) : (d.setFunc f x).out = d.out := id rfl
@[simp] theorem Dev.setFunc_freeCtr (d : Dev) (f : Nat) (x : Func) : (d.setFunc f x).freeCtr = d.freeCtr := id rfl

/-! ### setMc -/

@[simp] theorem Dev.setMc_regs (d : Dev) (k : Nat) (x : McChan) : (d.setMc k x).regs = d.regs := id rfl
@[simp] theorem Dev.setMc_rdShadow (d : Dev) (k : Nat) (x : McChan) : (d.setMc k x).rdShadow = d.rdShadow := id rfl
@[simp] theorem Dev.setMc_wrShadow (d : Dev) (k : Nat) (x : McChan) : (d.setMc k x).wrShadow = d.wrShadow := id rfl
@[simp] theorem Dev.setMc_wtab (d : Dev) (k : Nat) (x : McChan) : (d.setMc k x).wtab = d.wtab := id rfl
@[simp] theorem Dev.setMc_mem (d : Dev) (k : Nat) (x : McChan) : (d.setMc k x).mem = d.mem := id rfl
@[simp] theorem Dev.setMc_poisoned (d : Dev) (k : Nat) (x : McChan) : (d.setMc k x).poisoned = d.poisoned := id rfl
@[simp] theorem Dev.setMc_lineKey (d : Dev) (k : Nat) (x : McChan) : (d.setMc k x).lineKey = d.lineKey := id rfl
@[simp] theorem Dev.setMc_srKey (d : Dev) (k : Nat) (x : McChan) : (d.setMc k x).srKey = d.srKey := id rfl
@[simp] theorem Dev.setMc_lines (d : Dev) (k : Nat) (x : McChan) : (d.setMc k x).lines = d.lines := id rfl
@[simp] theorem Dev.setMc_dir (d : Dev) (k : Nat) (x : McChan) : (d.setMc k x).dir = d.dir := id rfl
@[simp] theorem Dev.setMc_txns (d : Dev) (k : Nat) (x : McChan) : (d.setMc k x).txns = d.txns := id rfl
@[simp] theorem Dev.setMc_homeq (d : Dev) (k : Nat) (x : McChan) : (d.setMc k x).homeq = d.homeq := id rfl
@[simp] theorem Dev.setMc_wire (d : Dev) (k : Nat) (x : McChan) : (d.setMc k x).wire = d.wire := id rfl
@[simp] theorem Dev.setMc_mshr (d : Dev) (k : Nat) (x : McChan) : (d.setMc k x).mshr = d.mshr := id rfl
@[simp] theorem Dev.setMc_useCtr (d : Dev) (k : Nat) (x : McChan) : (d.setMc k x).useCtr = d.useCtr := id rfl
@[simp] theorem Dev.setMc_reqs (d : Dev) (k : Nat) (x : McChan) : (d.setMc k x).reqs = d.reqs := id rfl
@[simp] theorem Dev.setMc_nextReq (d : Dev) (k : Nat) (x : McChan) : (d.setMc k x).nextReq = d.nextReq := id rfl
@[simp] theorem Dev.setMc_redq (d : Dev) (k : Nat) (x : McChan) : (d.setMc k x).redq = d.redq := id rfl
@[simp] theorem Dev.setMc_redMc (d : Dev) (k : Nat) (x : McChan) : (d.setMc k x).redMc = d.redMc := id rfl
@[simp] theorem Dev.setMc_cores (d : Dev) (k : Nat) (x : McChan) : (d.setMc k x).cores = d.cores := id rfl
@[simp] theorem Dev.setMc_signals (d : Dev) (k : Nat) (x : McChan) : (d.setMc k x).signals = d.signals := id rfl
@[simp] theorem Dev.setMc_queues (d : Dev) (k : Nat) (x : McChan) : (d.setMc k x).queues = d.queues := id rfl
@[simp] theorem Dev.setMc_onset (d : Dev) (k : Nat) (x : McChan) : (d.setMc k x).onset = d.onset := id rfl
@[simp] theorem Dev.setMc_arr (d : Dev) (k : Nat) (x : McChan) : (d.setMc k x).arr = d.arr := id rfl
@[simp] theorem Dev.setMc_grps (d : Dev) (k : Nat) (x : McChan) : (d.setMc k x).grps = d.grps := id rfl
@[simp] theorem Dev.setMc_hmapBusy (d : Dev) (k : Nat) (x : McChan) : (d.setMc k x).hmapBusy = d.hmapBusy := id rfl
@[simp] theorem Dev.setMc_rbWait (d : Dev) (k : Nat) (x : McChan) : (d.setMc k x).rbWait = d.rbWait := id rfl
@[simp] theorem Dev.setMc_stks (d : Dev) (k : Nat) (x : McChan) : (d.setMc k x).stks = d.stks := id rfl
@[simp] theorem Dev.setMc_traffic (d : Dev) (k : Nat) (x : McChan) : (d.setMc k x).traffic = d.traffic := id rfl
@[simp] theorem Dev.setMc_ports (d : Dev) (k : Nat) (x : McChan) : (d.setMc k x).ports = d.ports := id rfl
@[simp] theorem Dev.setMc_tags (d : Dev) (k : Nat) (x : McChan) : (d.setMc k x).tags = d.tags := id rfl
@[simp] theorem Dev.setMc_tagNext (d : Dev) (k : Nat) (x : McChan) : (d.setMc k x).tagNext = d.tagNext := id rfl
@[simp] theorem Dev.setMc_rail (d : Dev) (k : Nat) (x : McChan) : (d.setMc k x).rail = d.rail := id rfl
@[simp] theorem Dev.setMc_halves (d : Dev) (k : Nat) (x : McChan) : (d.setMc k x).halves = d.halves := id rfl
@[simp] theorem Dev.setMc_refused (d : Dev) (k : Nat) (x : McChan) : (d.setMc k x).refused = d.refused := id rfl
@[simp] theorem Dev.setMc_chapel (d : Dev) (k : Nat) (x : McChan) : (d.setMc k x).chapel = d.chapel := id rfl
@[simp] theorem Dev.setMc_host (d : Dev) (k : Nat) (x : McChan) : (d.setMc k x).host = d.host := id rfl
@[simp] theorem Dev.setMc_evq (d : Dev) (k : Nat) (x : McChan) : (d.setMc k x).evq = d.evq := id rfl
@[simp] theorem Dev.setMc_colls (d : Dev) (k : Nat) (x : McChan) : (d.setMc k x).colls = d.colls := id rfl
@[simp] theorem Dev.setMc_rsts (d : Dev) (k : Nat) (x : McChan) : (d.setMc k x).rsts = d.rsts := id rfl
@[simp] theorem Dev.setMc_gens (d : Dev) (k : Nat) (x : McChan) : (d.setMc k x).gens = d.gens := id rfl
@[simp] theorem Dev.setMc_quiesces (d : Dev) (k : Nat) (x : McChan) : (d.setMc k x).quiesces = d.quiesces := id rfl
@[simp] theorem Dev.setMc_boot (d : Dev) (k : Nat) (x : McChan) : (d.setMc k x).boot = d.boot := id rfl
@[simp] theorem Dev.setMc_trust (d : Dev) (k : Nat) (x : McChan) : (d.setMc k x).trust = d.trust := id rfl
@[simp] theorem Dev.setMc_power (d : Dev) (k : Nat) (x : McChan) : (d.setMc k x).power = d.power := id rfl
@[simp] theorem Dev.setMc_clk (d : Dev) (k : Nat) (x : McChan) : (d.setMc k x).clk = d.clk := id rfl
@[simp] theorem Dev.setMc_out (d : Dev) (k : Nat) (x : McChan) : (d.setMc k x).out = d.out := id rfl
@[simp] theorem Dev.setMc_freeCtr (d : Dev) (k : Nat) (x : McChan) : (d.setMc k x).freeCtr = d.freeCtr := id rfl

/-! ### setStk -/

@[simp] theorem Dev.setStk_regs (d : Dev) (k : Nat) (x : StackSt) : (d.setStk k x).regs = d.regs := id rfl
@[simp] theorem Dev.setStk_rdShadow (d : Dev) (k : Nat) (x : StackSt) : (d.setStk k x).rdShadow = d.rdShadow := id rfl
@[simp] theorem Dev.setStk_wrShadow (d : Dev) (k : Nat) (x : StackSt) : (d.setStk k x).wrShadow = d.wrShadow := id rfl
@[simp] theorem Dev.setStk_wtab (d : Dev) (k : Nat) (x : StackSt) : (d.setStk k x).wtab = d.wtab := id rfl
@[simp] theorem Dev.setStk_mem (d : Dev) (k : Nat) (x : StackSt) : (d.setStk k x).mem = d.mem := id rfl
@[simp] theorem Dev.setStk_poisoned (d : Dev) (k : Nat) (x : StackSt) : (d.setStk k x).poisoned = d.poisoned := id rfl
@[simp] theorem Dev.setStk_lineKey (d : Dev) (k : Nat) (x : StackSt) : (d.setStk k x).lineKey = d.lineKey := id rfl
@[simp] theorem Dev.setStk_srKey (d : Dev) (k : Nat) (x : StackSt) : (d.setStk k x).srKey = d.srKey := id rfl
@[simp] theorem Dev.setStk_lines (d : Dev) (k : Nat) (x : StackSt) : (d.setStk k x).lines = d.lines := id rfl
@[simp] theorem Dev.setStk_dir (d : Dev) (k : Nat) (x : StackSt) : (d.setStk k x).dir = d.dir := id rfl
@[simp] theorem Dev.setStk_txns (d : Dev) (k : Nat) (x : StackSt) : (d.setStk k x).txns = d.txns := id rfl
@[simp] theorem Dev.setStk_homeq (d : Dev) (k : Nat) (x : StackSt) : (d.setStk k x).homeq = d.homeq := id rfl
@[simp] theorem Dev.setStk_wire (d : Dev) (k : Nat) (x : StackSt) : (d.setStk k x).wire = d.wire := id rfl
@[simp] theorem Dev.setStk_mshr (d : Dev) (k : Nat) (x : StackSt) : (d.setStk k x).mshr = d.mshr := id rfl
@[simp] theorem Dev.setStk_useCtr (d : Dev) (k : Nat) (x : StackSt) : (d.setStk k x).useCtr = d.useCtr := id rfl
@[simp] theorem Dev.setStk_reqs (d : Dev) (k : Nat) (x : StackSt) : (d.setStk k x).reqs = d.reqs := id rfl
@[simp] theorem Dev.setStk_nextReq (d : Dev) (k : Nat) (x : StackSt) : (d.setStk k x).nextReq = d.nextReq := id rfl
@[simp] theorem Dev.setStk_redq (d : Dev) (k : Nat) (x : StackSt) : (d.setStk k x).redq = d.redq := id rfl
@[simp] theorem Dev.setStk_redMc (d : Dev) (k : Nat) (x : StackSt) : (d.setStk k x).redMc = d.redMc := id rfl
@[simp] theorem Dev.setStk_cores (d : Dev) (k : Nat) (x : StackSt) : (d.setStk k x).cores = d.cores := id rfl
@[simp] theorem Dev.setStk_signals (d : Dev) (k : Nat) (x : StackSt) : (d.setStk k x).signals = d.signals := id rfl
@[simp] theorem Dev.setStk_queues (d : Dev) (k : Nat) (x : StackSt) : (d.setStk k x).queues = d.queues := id rfl
@[simp] theorem Dev.setStk_onset (d : Dev) (k : Nat) (x : StackSt) : (d.setStk k x).onset = d.onset := id rfl
@[simp] theorem Dev.setStk_arr (d : Dev) (k : Nat) (x : StackSt) : (d.setStk k x).arr = d.arr := id rfl
@[simp] theorem Dev.setStk_grps (d : Dev) (k : Nat) (x : StackSt) : (d.setStk k x).grps = d.grps := id rfl
@[simp] theorem Dev.setStk_hmapBusy (d : Dev) (k : Nat) (x : StackSt) : (d.setStk k x).hmapBusy = d.hmapBusy := id rfl
@[simp] theorem Dev.setStk_rbWait (d : Dev) (k : Nat) (x : StackSt) : (d.setStk k x).rbWait = d.rbWait := id rfl
@[simp] theorem Dev.setStk_mcs (d : Dev) (k : Nat) (x : StackSt) : (d.setStk k x).mcs = d.mcs := id rfl
@[simp] theorem Dev.setStk_traffic (d : Dev) (k : Nat) (x : StackSt) : (d.setStk k x).traffic = d.traffic := id rfl
@[simp] theorem Dev.setStk_ports (d : Dev) (k : Nat) (x : StackSt) : (d.setStk k x).ports = d.ports := id rfl
@[simp] theorem Dev.setStk_tags (d : Dev) (k : Nat) (x : StackSt) : (d.setStk k x).tags = d.tags := id rfl
@[simp] theorem Dev.setStk_tagNext (d : Dev) (k : Nat) (x : StackSt) : (d.setStk k x).tagNext = d.tagNext := id rfl
@[simp] theorem Dev.setStk_rail (d : Dev) (k : Nat) (x : StackSt) : (d.setStk k x).rail = d.rail := id rfl
@[simp] theorem Dev.setStk_halves (d : Dev) (k : Nat) (x : StackSt) : (d.setStk k x).halves = d.halves := id rfl
@[simp] theorem Dev.setStk_refused (d : Dev) (k : Nat) (x : StackSt) : (d.setStk k x).refused = d.refused := id rfl
@[simp] theorem Dev.setStk_chapel (d : Dev) (k : Nat) (x : StackSt) : (d.setStk k x).chapel = d.chapel := id rfl
@[simp] theorem Dev.setStk_host (d : Dev) (k : Nat) (x : StackSt) : (d.setStk k x).host = d.host := id rfl
@[simp] theorem Dev.setStk_evq (d : Dev) (k : Nat) (x : StackSt) : (d.setStk k x).evq = d.evq := id rfl
@[simp] theorem Dev.setStk_colls (d : Dev) (k : Nat) (x : StackSt) : (d.setStk k x).colls = d.colls := id rfl
@[simp] theorem Dev.setStk_rsts (d : Dev) (k : Nat) (x : StackSt) : (d.setStk k x).rsts = d.rsts := id rfl
@[simp] theorem Dev.setStk_gens (d : Dev) (k : Nat) (x : StackSt) : (d.setStk k x).gens = d.gens := id rfl
@[simp] theorem Dev.setStk_quiesces (d : Dev) (k : Nat) (x : StackSt) : (d.setStk k x).quiesces = d.quiesces := id rfl
@[simp] theorem Dev.setStk_boot (d : Dev) (k : Nat) (x : StackSt) : (d.setStk k x).boot = d.boot := id rfl
@[simp] theorem Dev.setStk_trust (d : Dev) (k : Nat) (x : StackSt) : (d.setStk k x).trust = d.trust := id rfl
@[simp] theorem Dev.setStk_power (d : Dev) (k : Nat) (x : StackSt) : (d.setStk k x).power = d.power := id rfl
@[simp] theorem Dev.setStk_clk (d : Dev) (k : Nat) (x : StackSt) : (d.setStk k x).clk = d.clk := id rfl
@[simp] theorem Dev.setStk_out (d : Dev) (k : Nat) (x : StackSt) : (d.setStk k x).out = d.out := id rfl
@[simp] theorem Dev.setStk_freeCtr (d : Dev) (k : Nat) (x : StackSt) : (d.setStk k x).freeCtr = d.freeCtr := id rfl

/-! ### setGrp -/

@[simp] theorem Dev.setGrp_regs (d : Dev) (k : Nat) (x : Grp) : (d.setGrp k x).regs = d.regs := id rfl
@[simp] theorem Dev.setGrp_rdShadow (d : Dev) (k : Nat) (x : Grp) : (d.setGrp k x).rdShadow = d.rdShadow := id rfl
@[simp] theorem Dev.setGrp_wrShadow (d : Dev) (k : Nat) (x : Grp) : (d.setGrp k x).wrShadow = d.wrShadow := id rfl
@[simp] theorem Dev.setGrp_wtab (d : Dev) (k : Nat) (x : Grp) : (d.setGrp k x).wtab = d.wtab := id rfl
@[simp] theorem Dev.setGrp_mem (d : Dev) (k : Nat) (x : Grp) : (d.setGrp k x).mem = d.mem := id rfl
@[simp] theorem Dev.setGrp_poisoned (d : Dev) (k : Nat) (x : Grp) : (d.setGrp k x).poisoned = d.poisoned := id rfl
@[simp] theorem Dev.setGrp_lineKey (d : Dev) (k : Nat) (x : Grp) : (d.setGrp k x).lineKey = d.lineKey := id rfl
@[simp] theorem Dev.setGrp_srKey (d : Dev) (k : Nat) (x : Grp) : (d.setGrp k x).srKey = d.srKey := id rfl
@[simp] theorem Dev.setGrp_lines (d : Dev) (k : Nat) (x : Grp) : (d.setGrp k x).lines = d.lines := id rfl
@[simp] theorem Dev.setGrp_dir (d : Dev) (k : Nat) (x : Grp) : (d.setGrp k x).dir = d.dir := id rfl
@[simp] theorem Dev.setGrp_txns (d : Dev) (k : Nat) (x : Grp) : (d.setGrp k x).txns = d.txns := id rfl
@[simp] theorem Dev.setGrp_homeq (d : Dev) (k : Nat) (x : Grp) : (d.setGrp k x).homeq = d.homeq := id rfl
@[simp] theorem Dev.setGrp_wire (d : Dev) (k : Nat) (x : Grp) : (d.setGrp k x).wire = d.wire := id rfl
@[simp] theorem Dev.setGrp_mshr (d : Dev) (k : Nat) (x : Grp) : (d.setGrp k x).mshr = d.mshr := id rfl
@[simp] theorem Dev.setGrp_useCtr (d : Dev) (k : Nat) (x : Grp) : (d.setGrp k x).useCtr = d.useCtr := id rfl
@[simp] theorem Dev.setGrp_reqs (d : Dev) (k : Nat) (x : Grp) : (d.setGrp k x).reqs = d.reqs := id rfl
@[simp] theorem Dev.setGrp_nextReq (d : Dev) (k : Nat) (x : Grp) : (d.setGrp k x).nextReq = d.nextReq := id rfl
@[simp] theorem Dev.setGrp_redq (d : Dev) (k : Nat) (x : Grp) : (d.setGrp k x).redq = d.redq := id rfl
@[simp] theorem Dev.setGrp_redMc (d : Dev) (k : Nat) (x : Grp) : (d.setGrp k x).redMc = d.redMc := id rfl
@[simp] theorem Dev.setGrp_cores (d : Dev) (k : Nat) (x : Grp) : (d.setGrp k x).cores = d.cores := id rfl
@[simp] theorem Dev.setGrp_signals (d : Dev) (k : Nat) (x : Grp) : (d.setGrp k x).signals = d.signals := id rfl
@[simp] theorem Dev.setGrp_queues (d : Dev) (k : Nat) (x : Grp) : (d.setGrp k x).queues = d.queues := id rfl
@[simp] theorem Dev.setGrp_onset (d : Dev) (k : Nat) (x : Grp) : (d.setGrp k x).onset = d.onset := id rfl
@[simp] theorem Dev.setGrp_arr (d : Dev) (k : Nat) (x : Grp) : (d.setGrp k x).arr = d.arr := id rfl
@[simp] theorem Dev.setGrp_hmapBusy (d : Dev) (k : Nat) (x : Grp) : (d.setGrp k x).hmapBusy = d.hmapBusy := id rfl
@[simp] theorem Dev.setGrp_rbWait (d : Dev) (k : Nat) (x : Grp) : (d.setGrp k x).rbWait = d.rbWait := id rfl
@[simp] theorem Dev.setGrp_mcs (d : Dev) (k : Nat) (x : Grp) : (d.setGrp k x).mcs = d.mcs := id rfl
@[simp] theorem Dev.setGrp_stks (d : Dev) (k : Nat) (x : Grp) : (d.setGrp k x).stks = d.stks := id rfl
@[simp] theorem Dev.setGrp_traffic (d : Dev) (k : Nat) (x : Grp) : (d.setGrp k x).traffic = d.traffic := id rfl
@[simp] theorem Dev.setGrp_ports (d : Dev) (k : Nat) (x : Grp) : (d.setGrp k x).ports = d.ports := id rfl
@[simp] theorem Dev.setGrp_tags (d : Dev) (k : Nat) (x : Grp) : (d.setGrp k x).tags = d.tags := id rfl
@[simp] theorem Dev.setGrp_tagNext (d : Dev) (k : Nat) (x : Grp) : (d.setGrp k x).tagNext = d.tagNext := id rfl
@[simp] theorem Dev.setGrp_rail (d : Dev) (k : Nat) (x : Grp) : (d.setGrp k x).rail = d.rail := id rfl
@[simp] theorem Dev.setGrp_halves (d : Dev) (k : Nat) (x : Grp) : (d.setGrp k x).halves = d.halves := id rfl
@[simp] theorem Dev.setGrp_refused (d : Dev) (k : Nat) (x : Grp) : (d.setGrp k x).refused = d.refused := id rfl
@[simp] theorem Dev.setGrp_chapel (d : Dev) (k : Nat) (x : Grp) : (d.setGrp k x).chapel = d.chapel := id rfl
@[simp] theorem Dev.setGrp_host (d : Dev) (k : Nat) (x : Grp) : (d.setGrp k x).host = d.host := id rfl
@[simp] theorem Dev.setGrp_evq (d : Dev) (k : Nat) (x : Grp) : (d.setGrp k x).evq = d.evq := id rfl
@[simp] theorem Dev.setGrp_colls (d : Dev) (k : Nat) (x : Grp) : (d.setGrp k x).colls = d.colls := id rfl
@[simp] theorem Dev.setGrp_rsts (d : Dev) (k : Nat) (x : Grp) : (d.setGrp k x).rsts = d.rsts := id rfl
@[simp] theorem Dev.setGrp_gens (d : Dev) (k : Nat) (x : Grp) : (d.setGrp k x).gens = d.gens := id rfl
@[simp] theorem Dev.setGrp_quiesces (d : Dev) (k : Nat) (x : Grp) : (d.setGrp k x).quiesces = d.quiesces := id rfl
@[simp] theorem Dev.setGrp_boot (d : Dev) (k : Nat) (x : Grp) : (d.setGrp k x).boot = d.boot := id rfl
@[simp] theorem Dev.setGrp_trust (d : Dev) (k : Nat) (x : Grp) : (d.setGrp k x).trust = d.trust := id rfl
@[simp] theorem Dev.setGrp_power (d : Dev) (k : Nat) (x : Grp) : (d.setGrp k x).power = d.power := id rfl
@[simp] theorem Dev.setGrp_clk (d : Dev) (k : Nat) (x : Grp) : (d.setGrp k x).clk = d.clk := id rfl
@[simp] theorem Dev.setGrp_out (d : Dev) (k : Nat) (x : Grp) : (d.setGrp k x).out = d.out := id rfl
@[simp] theorem Dev.setGrp_freeCtr (d : Dev) (k : Nat) (x : Grp) : (d.setGrp k x).freeCtr = d.freeCtr := id rfl

/-! ### setColl -/

@[simp] theorem Dev.setColl_regs (d : Dev) (k : Nat) (x : Coll) : (d.setColl k x).regs = d.regs := id rfl
@[simp] theorem Dev.setColl_rdShadow (d : Dev) (k : Nat) (x : Coll) : (d.setColl k x).rdShadow = d.rdShadow := id rfl
@[simp] theorem Dev.setColl_wrShadow (d : Dev) (k : Nat) (x : Coll) : (d.setColl k x).wrShadow = d.wrShadow := id rfl
@[simp] theorem Dev.setColl_wtab (d : Dev) (k : Nat) (x : Coll) : (d.setColl k x).wtab = d.wtab := id rfl
@[simp] theorem Dev.setColl_mem (d : Dev) (k : Nat) (x : Coll) : (d.setColl k x).mem = d.mem := id rfl
@[simp] theorem Dev.setColl_poisoned (d : Dev) (k : Nat) (x : Coll) : (d.setColl k x).poisoned = d.poisoned := id rfl
@[simp] theorem Dev.setColl_lineKey (d : Dev) (k : Nat) (x : Coll) : (d.setColl k x).lineKey = d.lineKey := id rfl
@[simp] theorem Dev.setColl_srKey (d : Dev) (k : Nat) (x : Coll) : (d.setColl k x).srKey = d.srKey := id rfl
@[simp] theorem Dev.setColl_lines (d : Dev) (k : Nat) (x : Coll) : (d.setColl k x).lines = d.lines := id rfl
@[simp] theorem Dev.setColl_dir (d : Dev) (k : Nat) (x : Coll) : (d.setColl k x).dir = d.dir := id rfl
@[simp] theorem Dev.setColl_txns (d : Dev) (k : Nat) (x : Coll) : (d.setColl k x).txns = d.txns := id rfl
@[simp] theorem Dev.setColl_homeq (d : Dev) (k : Nat) (x : Coll) : (d.setColl k x).homeq = d.homeq := id rfl
@[simp] theorem Dev.setColl_wire (d : Dev) (k : Nat) (x : Coll) : (d.setColl k x).wire = d.wire := id rfl
@[simp] theorem Dev.setColl_mshr (d : Dev) (k : Nat) (x : Coll) : (d.setColl k x).mshr = d.mshr := id rfl
@[simp] theorem Dev.setColl_useCtr (d : Dev) (k : Nat) (x : Coll) : (d.setColl k x).useCtr = d.useCtr := id rfl
@[simp] theorem Dev.setColl_reqs (d : Dev) (k : Nat) (x : Coll) : (d.setColl k x).reqs = d.reqs := id rfl
@[simp] theorem Dev.setColl_nextReq (d : Dev) (k : Nat) (x : Coll) : (d.setColl k x).nextReq = d.nextReq := id rfl
@[simp] theorem Dev.setColl_redq (d : Dev) (k : Nat) (x : Coll) : (d.setColl k x).redq = d.redq := id rfl
@[simp] theorem Dev.setColl_redMc (d : Dev) (k : Nat) (x : Coll) : (d.setColl k x).redMc = d.redMc := id rfl
@[simp] theorem Dev.setColl_cores (d : Dev) (k : Nat) (x : Coll) : (d.setColl k x).cores = d.cores := id rfl
@[simp] theorem Dev.setColl_signals (d : Dev) (k : Nat) (x : Coll) : (d.setColl k x).signals = d.signals := id rfl
@[simp] theorem Dev.setColl_queues (d : Dev) (k : Nat) (x : Coll) : (d.setColl k x).queues = d.queues := id rfl
@[simp] theorem Dev.setColl_onset (d : Dev) (k : Nat) (x : Coll) : (d.setColl k x).onset = d.onset := id rfl
@[simp] theorem Dev.setColl_arr (d : Dev) (k : Nat) (x : Coll) : (d.setColl k x).arr = d.arr := id rfl
@[simp] theorem Dev.setColl_grps (d : Dev) (k : Nat) (x : Coll) : (d.setColl k x).grps = d.grps := id rfl
@[simp] theorem Dev.setColl_hmapBusy (d : Dev) (k : Nat) (x : Coll) : (d.setColl k x).hmapBusy = d.hmapBusy := id rfl
@[simp] theorem Dev.setColl_rbWait (d : Dev) (k : Nat) (x : Coll) : (d.setColl k x).rbWait = d.rbWait := id rfl
@[simp] theorem Dev.setColl_mcs (d : Dev) (k : Nat) (x : Coll) : (d.setColl k x).mcs = d.mcs := id rfl
@[simp] theorem Dev.setColl_stks (d : Dev) (k : Nat) (x : Coll) : (d.setColl k x).stks = d.stks := id rfl
@[simp] theorem Dev.setColl_traffic (d : Dev) (k : Nat) (x : Coll) : (d.setColl k x).traffic = d.traffic := id rfl
@[simp] theorem Dev.setColl_ports (d : Dev) (k : Nat) (x : Coll) : (d.setColl k x).ports = d.ports := id rfl
@[simp] theorem Dev.setColl_tags (d : Dev) (k : Nat) (x : Coll) : (d.setColl k x).tags = d.tags := id rfl
@[simp] theorem Dev.setColl_tagNext (d : Dev) (k : Nat) (x : Coll) : (d.setColl k x).tagNext = d.tagNext := id rfl
@[simp] theorem Dev.setColl_rail (d : Dev) (k : Nat) (x : Coll) : (d.setColl k x).rail = d.rail := id rfl
@[simp] theorem Dev.setColl_halves (d : Dev) (k : Nat) (x : Coll) : (d.setColl k x).halves = d.halves := id rfl
@[simp] theorem Dev.setColl_refused (d : Dev) (k : Nat) (x : Coll) : (d.setColl k x).refused = d.refused := id rfl
@[simp] theorem Dev.setColl_chapel (d : Dev) (k : Nat) (x : Coll) : (d.setColl k x).chapel = d.chapel := id rfl
@[simp] theorem Dev.setColl_host (d : Dev) (k : Nat) (x : Coll) : (d.setColl k x).host = d.host := id rfl
@[simp] theorem Dev.setColl_evq (d : Dev) (k : Nat) (x : Coll) : (d.setColl k x).evq = d.evq := id rfl
@[simp] theorem Dev.setColl_rsts (d : Dev) (k : Nat) (x : Coll) : (d.setColl k x).rsts = d.rsts := id rfl
@[simp] theorem Dev.setColl_gens (d : Dev) (k : Nat) (x : Coll) : (d.setColl k x).gens = d.gens := id rfl
@[simp] theorem Dev.setColl_quiesces (d : Dev) (k : Nat) (x : Coll) : (d.setColl k x).quiesces = d.quiesces := id rfl
@[simp] theorem Dev.setColl_boot (d : Dev) (k : Nat) (x : Coll) : (d.setColl k x).boot = d.boot := id rfl
@[simp] theorem Dev.setColl_trust (d : Dev) (k : Nat) (x : Coll) : (d.setColl k x).trust = d.trust := id rfl
@[simp] theorem Dev.setColl_power (d : Dev) (k : Nat) (x : Coll) : (d.setColl k x).power = d.power := id rfl
@[simp] theorem Dev.setColl_clk (d : Dev) (k : Nat) (x : Coll) : (d.setColl k x).clk = d.clk := id rfl
@[simp] theorem Dev.setColl_out (d : Dev) (k : Nat) (x : Coll) : (d.setColl k x).out = d.out := id rfl
@[simp] theorem Dev.setColl_freeCtr (d : Dev) (k : Nat) (x : Coll) : (d.setColl k x).freeCtr = d.freeCtr := id rfl

/-! ### send -/

@[simp] theorem Dev.send_regs (d : Dev) (m : OutMsg) : (d.send m).regs = d.regs := id rfl
@[simp] theorem Dev.send_rdShadow (d : Dev) (m : OutMsg) : (d.send m).rdShadow = d.rdShadow := id rfl
@[simp] theorem Dev.send_wrShadow (d : Dev) (m : OutMsg) : (d.send m).wrShadow = d.wrShadow := id rfl
@[simp] theorem Dev.send_wtab (d : Dev) (m : OutMsg) : (d.send m).wtab = d.wtab := id rfl
@[simp] theorem Dev.send_mem (d : Dev) (m : OutMsg) : (d.send m).mem = d.mem := id rfl
@[simp] theorem Dev.send_poisoned (d : Dev) (m : OutMsg) : (d.send m).poisoned = d.poisoned := id rfl
@[simp] theorem Dev.send_lineKey (d : Dev) (m : OutMsg) : (d.send m).lineKey = d.lineKey := id rfl
@[simp] theorem Dev.send_srKey (d : Dev) (m : OutMsg) : (d.send m).srKey = d.srKey := id rfl
@[simp] theorem Dev.send_lines (d : Dev) (m : OutMsg) : (d.send m).lines = d.lines := id rfl
@[simp] theorem Dev.send_dir (d : Dev) (m : OutMsg) : (d.send m).dir = d.dir := id rfl
@[simp] theorem Dev.send_txns (d : Dev) (m : OutMsg) : (d.send m).txns = d.txns := id rfl
@[simp] theorem Dev.send_homeq (d : Dev) (m : OutMsg) : (d.send m).homeq = d.homeq := id rfl
@[simp] theorem Dev.send_wire (d : Dev) (m : OutMsg) : (d.send m).wire = d.wire := id rfl
@[simp] theorem Dev.send_mshr (d : Dev) (m : OutMsg) : (d.send m).mshr = d.mshr := id rfl
@[simp] theorem Dev.send_useCtr (d : Dev) (m : OutMsg) : (d.send m).useCtr = d.useCtr := id rfl
@[simp] theorem Dev.send_reqs (d : Dev) (m : OutMsg) : (d.send m).reqs = d.reqs := id rfl
@[simp] theorem Dev.send_nextReq (d : Dev) (m : OutMsg) : (d.send m).nextReq = d.nextReq := id rfl
@[simp] theorem Dev.send_redq (d : Dev) (m : OutMsg) : (d.send m).redq = d.redq := id rfl
@[simp] theorem Dev.send_redMc (d : Dev) (m : OutMsg) : (d.send m).redMc = d.redMc := id rfl
@[simp] theorem Dev.send_cores (d : Dev) (m : OutMsg) : (d.send m).cores = d.cores := id rfl
@[simp] theorem Dev.send_signals (d : Dev) (m : OutMsg) : (d.send m).signals = d.signals := id rfl
@[simp] theorem Dev.send_queues (d : Dev) (m : OutMsg) : (d.send m).queues = d.queues := id rfl
@[simp] theorem Dev.send_onset (d : Dev) (m : OutMsg) : (d.send m).onset = d.onset := id rfl
@[simp] theorem Dev.send_arr (d : Dev) (m : OutMsg) : (d.send m).arr = d.arr := id rfl
@[simp] theorem Dev.send_grps (d : Dev) (m : OutMsg) : (d.send m).grps = d.grps := id rfl
@[simp] theorem Dev.send_hmapBusy (d : Dev) (m : OutMsg) : (d.send m).hmapBusy = d.hmapBusy := id rfl
@[simp] theorem Dev.send_rbWait (d : Dev) (m : OutMsg) : (d.send m).rbWait = d.rbWait := id rfl
@[simp] theorem Dev.send_mcs (d : Dev) (m : OutMsg) : (d.send m).mcs = d.mcs := id rfl
@[simp] theorem Dev.send_stks (d : Dev) (m : OutMsg) : (d.send m).stks = d.stks := id rfl
@[simp] theorem Dev.send_traffic (d : Dev) (m : OutMsg) : (d.send m).traffic = d.traffic := id rfl
@[simp] theorem Dev.send_ports (d : Dev) (m : OutMsg) : (d.send m).ports = d.ports := id rfl
@[simp] theorem Dev.send_tags (d : Dev) (m : OutMsg) : (d.send m).tags = d.tags := id rfl
@[simp] theorem Dev.send_tagNext (d : Dev) (m : OutMsg) : (d.send m).tagNext = d.tagNext := id rfl
@[simp] theorem Dev.send_rail (d : Dev) (m : OutMsg) : (d.send m).rail = d.rail := id rfl
@[simp] theorem Dev.send_halves (d : Dev) (m : OutMsg) : (d.send m).halves = d.halves := id rfl
@[simp] theorem Dev.send_refused (d : Dev) (m : OutMsg) : (d.send m).refused = d.refused := id rfl
@[simp] theorem Dev.send_chapel (d : Dev) (m : OutMsg) : (d.send m).chapel = d.chapel := id rfl
@[simp] theorem Dev.send_host (d : Dev) (m : OutMsg) : (d.send m).host = d.host := id rfl
@[simp] theorem Dev.send_evq (d : Dev) (m : OutMsg) : (d.send m).evq = d.evq := id rfl
@[simp] theorem Dev.send_colls (d : Dev) (m : OutMsg) : (d.send m).colls = d.colls := id rfl
@[simp] theorem Dev.send_rsts (d : Dev) (m : OutMsg) : (d.send m).rsts = d.rsts := id rfl
@[simp] theorem Dev.send_gens (d : Dev) (m : OutMsg) : (d.send m).gens = d.gens := id rfl
@[simp] theorem Dev.send_quiesces (d : Dev) (m : OutMsg) : (d.send m).quiesces = d.quiesces := id rfl
@[simp] theorem Dev.send_boot (d : Dev) (m : OutMsg) : (d.send m).boot = d.boot := id rfl
@[simp] theorem Dev.send_trust (d : Dev) (m : OutMsg) : (d.send m).trust = d.trust := id rfl
@[simp] theorem Dev.send_power (d : Dev) (m : OutMsg) : (d.send m).power = d.power := id rfl
@[simp] theorem Dev.send_clk (d : Dev) (m : OutMsg) : (d.send m).clk = d.clk := id rfl
@[simp] theorem Dev.send_freeCtr (d : Dev) (m : OutMsg) : (d.send m).freeCtr = d.freeCtr := id rfl

/-! ### raise -/

@[simp] theorem Dev.raise_rdShadow (d : Dev) (p : Page) (n s : Nat) : (d.raise p n s).rdShadow = d.rdShadow := by rw [Dev.raise_eq]
@[simp] theorem Dev.raise_wrShadow (d : Dev) (p : Page) (n s : Nat) : (d.raise p n s).wrShadow = d.wrShadow := by rw [Dev.raise_eq]
@[simp] theorem Dev.raise_wtab (d : Dev) (p : Page) (n s : Nat) : (d.raise p n s).wtab = d.wtab := by rw [Dev.raise_eq]
@[simp] theorem Dev.raise_mem (d : Dev) (p : Page) (n s : Nat) : (d.raise p n s).mem = d.mem := by rw [Dev.raise_eq]
@[simp] theorem Dev.raise_poisoned (d : Dev) (p : Page) (n s : Nat) : (d.raise p n s).poisoned = d.poisoned := by rw [Dev.raise_eq]
@[simp] theorem Dev.raise_lineKey (d : Dev) (p : Page) (n s : Nat) : (d.raise p n s).lineKey = d.lineKey := by rw [Dev.raise_eq]
@[simp] theorem Dev.raise_srKey (d : Dev) (p : Page) (n s : Nat) : (d.raise p n s).srKey = d.srKey := by rw [Dev.raise_eq]
@[simp] theorem Dev.raise_lines (d : Dev) (p : Page) (n s : Nat) : (d.raise p n s).lines = d.lines := by rw [Dev.raise_eq]
@[simp] theorem Dev.raise_dir (d : Dev) (p : Page) (n s : Nat) : (d.raise p n s).dir = d.dir := by rw [Dev.raise_eq]
@[simp] theorem Dev.raise_txns (d : Dev) (p : Page) (n s : Nat) : (d.raise p n s).txns = d.txns := by rw [Dev.raise_eq]
@[simp] theorem Dev.raise_homeq (d : Dev) (p : Page) (n s : Nat) : (d.raise p n s).homeq = d.homeq := by rw [Dev.raise_eq]
@[simp] theorem Dev.raise_wire (d : Dev) (p : Page) (n s : Nat) : (d.raise p n s).wire = d.wire := by rw [Dev.raise_eq]
@[simp] theorem Dev.raise_mshr (d : Dev) (p : Page) (n s : Nat) : (d.raise p n s).mshr = d.mshr := by rw [Dev.raise_eq]
@[simp] theorem Dev.raise_useCtr (d : Dev) (p : Page) (n s : Nat) : (d.raise p n s).useCtr = d.useCtr := by rw [Dev.raise_eq]
@[simp] theorem Dev.raise_reqs (d : Dev) (p : Page) (n s : Nat) : (d.raise p n s).reqs = d.reqs := by rw [Dev.raise_eq]
@[simp] theorem Dev.raise_nextReq (d : Dev) (p : Page) (n s : Nat) : (d.raise p n s).nextReq = d.nextReq := by rw [Dev.raise_eq]
@[simp] theorem Dev.raise_redq (d : Dev) (p : Page) (n s : Nat) : (d.raise p n s).redq = d.redq := by rw [Dev.raise_eq]
@[simp] theorem Dev.raise_redMc (d : Dev) (p : Page) (n s : Nat) : (d.raise p n s).redMc = d.redMc := by rw [Dev.raise_eq]
@[simp] theorem Dev.raise_cores (d : Dev) (p : Page) (n s : Nat) : (d.raise p n s).cores = d.cores := by rw [Dev.raise_eq]
@[simp] theorem Dev.raise_signals (d : Dev) (p : Page) (n s : Nat) : (d.raise p n s).signals = d.signals := by rw [Dev.raise_eq]
@[simp] theorem Dev.raise_queues (d : Dev) (p : Page) (n s : Nat) : (d.raise p n s).queues = d.queues := by rw [Dev.raise_eq]
@[simp] theorem Dev.raise_onset (d : Dev) (p : Page) (n s : Nat) : (d.raise p n s).onset = d.onset := by rw [Dev.raise_eq]
@[simp] theorem Dev.raise_arr (d : Dev) (p : Page) (n s : Nat) : (d.raise p n s).arr = d.arr := by rw [Dev.raise_eq]
@[simp] theorem Dev.raise_grps (d : Dev) (p : Page) (n s : Nat) : (d.raise p n s).grps = d.grps := by rw [Dev.raise_eq]
@[simp] theorem Dev.raise_hmapBusy (d : Dev) (p : Page) (n s : Nat) : (d.raise p n s).hmapBusy = d.hmapBusy := by rw [Dev.raise_eq]
@[simp] theorem Dev.raise_rbWait (d : Dev) (p : Page) (n s : Nat) : (d.raise p n s).rbWait = d.rbWait := by rw [Dev.raise_eq]
@[simp] theorem Dev.raise_mcs (d : Dev) (p : Page) (n s : Nat) : (d.raise p n s).mcs = d.mcs := by rw [Dev.raise_eq]
@[simp] theorem Dev.raise_stks (d : Dev) (p : Page) (n s : Nat) : (d.raise p n s).stks = d.stks := by rw [Dev.raise_eq]
@[simp] theorem Dev.raise_traffic (d : Dev) (p : Page) (n s : Nat) : (d.raise p n s).traffic = d.traffic := by rw [Dev.raise_eq]
@[simp] theorem Dev.raise_ports (d : Dev) (p : Page) (n s : Nat) : (d.raise p n s).ports = d.ports := by rw [Dev.raise_eq]
@[simp] theorem Dev.raise_tags (d : Dev) (p : Page) (n s : Nat) : (d.raise p n s).tags = d.tags := by rw [Dev.raise_eq]
@[simp] theorem Dev.raise_tagNext (d : Dev) (p : Page) (n s : Nat) : (d.raise p n s).tagNext = d.tagNext := by rw [Dev.raise_eq]
@[simp] theorem Dev.raise_rail (d : Dev) (p : Page) (n s : Nat) : (d.raise p n s).rail = d.rail := by rw [Dev.raise_eq]
@[simp] theorem Dev.raise_halves (d : Dev) (p : Page) (n s : Nat) : (d.raise p n s).halves = d.halves := by rw [Dev.raise_eq]
@[simp] theorem Dev.raise_refused (d : Dev) (p : Page) (n s : Nat) : (d.raise p n s).refused = d.refused := by rw [Dev.raise_eq]
@[simp] theorem Dev.raise_chapel (d : Dev) (p : Page) (n s : Nat) : (d.raise p n s).chapel = d.chapel := by rw [Dev.raise_eq]
@[simp] theorem Dev.raise_host (d : Dev) (p : Page) (n s : Nat) : (d.raise p n s).host = d.host := by rw [Dev.raise_eq]
@[simp] theorem Dev.raise_colls (d : Dev) (p : Page) (n s : Nat) : (d.raise p n s).colls = d.colls := by rw [Dev.raise_eq]
@[simp] theorem Dev.raise_rsts (d : Dev) (p : Page) (n s : Nat) : (d.raise p n s).rsts = d.rsts := by rw [Dev.raise_eq]
@[simp] theorem Dev.raise_gens (d : Dev) (p : Page) (n s : Nat) : (d.raise p n s).gens = d.gens := by rw [Dev.raise_eq]
@[simp] theorem Dev.raise_quiesces (d : Dev) (p : Page) (n s : Nat) : (d.raise p n s).quiesces = d.quiesces := by rw [Dev.raise_eq]
@[simp] theorem Dev.raise_boot (d : Dev) (p : Page) (n s : Nat) : (d.raise p n s).boot = d.boot := by rw [Dev.raise_eq]
@[simp] theorem Dev.raise_trust (d : Dev) (p : Page) (n s : Nat) : (d.raise p n s).trust = d.trust := by rw [Dev.raise_eq]
@[simp] theorem Dev.raise_power (d : Dev) (p : Page) (n s : Nat) : (d.raise p n s).power = d.power := by rw [Dev.raise_eq]
@[simp] theorem Dev.raise_clk (d : Dev) (p : Page) (n s : Nat) : (d.raise p n s).clk = d.clk := by rw [Dev.raise_eq]
@[simp] theorem Dev.raise_out (d : Dev) (p : Page) (n s : Nat) : (d.raise p n s).out = d.out := by rw [Dev.raise_eq]
@[simp] theorem Dev.raise_freeCtr (d : Dev) (p : Page) (n s : Nat) : (d.raise p n s).freeCtr = d.freeCtr := by rw [Dev.raise_eq]

/-! ### Reading back -/

@[simp] theorem Dev.core_setCore_same (d : Dev) (c : CoreId) (x : Core) : (d.setCore c x).core c = x := by simp [Dev.core, Dev.setCore]
@[simp] theorem Dev.queue_setQueue_same (d : Dev) (k : Nat) (x : Queue) : (d.setQueue k x).queue k = x := by simp [Dev.queue, Dev.setQueue]
theorem Dev.queue_setQueue_ne (d : Dev) (k : Nat) (x : Queue) {j : Nat} (h : j ≠ k) : (d.setQueue k x).queue j = d.queue j := by
  simp [Dev.queue, Dev.setQueue, NMap.get_put_ne _ _ _ h]
@[simp] theorem Dev.port_setPort_same (d : Dev) (p : Nat) (x : PortSt) : (d.setPort p x).port p = x := by simp [Dev.port, Dev.setPort]
theorem Dev.port_setPort_ne (d : Dev) (p : Nat) (x : PortSt) {j : Nat} (h : j ≠ p) : (d.setPort p x).port j = d.port j := by
  simp [Dev.port, Dev.setPort, NMap.get_put_ne _ _ _ h]
@[simp] theorem Dev.func_setFunc_same (d : Dev) (f : Nat) (x : Func) : (d.setFunc f x).func f = x := by simp [Dev.func, Dev.setFunc]
theorem Dev.func_setFunc_ne (d : Dev) (f : Nat) (x : Func) {j : Nat} (h : j ≠ f) : (d.setFunc f x).func j = d.func j := by
  simp [Dev.func, Dev.setFunc, NMap.get_put_ne _ _ _ h]
@[simp] theorem Dev.mc_setMc_same (d : Dev) (k : Nat) (x : McChan) : (d.setMc k x).mc k = x := by simp [Dev.mc, Dev.setMc]
theorem Dev.mc_setMc_ne (d : Dev) (k : Nat) (x : McChan) {j : Nat} (h : j ≠ k) : (d.setMc k x).mc j = d.mc j := by
  simp [Dev.mc, Dev.setMc, NMap.get_put_ne _ _ _ h]
@[simp] theorem Dev.stk_setStk_same (d : Dev) (k : Nat) (x : StackSt) : (d.setStk k x).stk k = x := by simp [Dev.stk, Dev.setStk]
theorem Dev.stk_setStk_ne (d : Dev) (k : Nat) (x : StackSt) {j : Nat} (h : j ≠ k) : (d.setStk k x).stk j = d.stk j := by
  simp [Dev.stk, Dev.setStk, NMap.get_put_ne _ _ _ h]
@[simp] theorem Dev.grp_setGrp_same (d : Dev) (k : Nat) (x : Grp) : (d.setGrp k x).grp k = x := by simp [Dev.grp, Dev.setGrp]
theorem Dev.grp_setGrp_ne (d : Dev) (k : Nat) (x : Grp) {j : Nat} (h : j ≠ k) : (d.setGrp k x).grp j = d.grp j := by
  simp [Dev.grp, Dev.setGrp, NMap.get_put_ne _ _ _ h]
@[simp] theorem Dev.coll_setColl_same (d : Dev) (k : Nat) (x : Coll) : (d.setColl k x).coll k = x := by simp [Dev.coll, Dev.setColl]
theorem Dev.coll_setColl_ne (d : Dev) (k : Nat) (x : Coll) {j : Nat} (h : j ≠ k) : (d.setColl k x).coll j = d.coll j := by
  simp [Dev.coll, Dev.setColl, NMap.get_put_ne _ _ _ h]

theorem coreKey_inj {a b : CoreId} (h : coreKey a = coreKey b) : a = b := by
  obtain ⟨⟨a1, h1⟩, ⟨a2, h2⟩, ⟨a3, h3⟩⟩ := a
  obtain ⟨⟨b1, g1⟩, ⟨b2, g2⟩, ⟨b3, g3⟩⟩ := b
  simp only [coreKey] at h
  have e1 : a1 = b1 := by omega
  have e2 : a2 = b2 := by omega
  have e3 : a3 = b3 := by omega
  subst e1 e2 e3
  rfl

theorem Dev.core_setCore_ne (d : Dev) {c b : CoreId} (x : Core) (h : b ≠ c) : (d.setCore c x).core b = d.core b := by
  simp [Dev.core, Dev.setCore, NMap.get_put_ne _ _ _ (fun e => h (coreKey_inj e))]

@[simp] theorem Dev.core_modCore_same (d : Dev) (c : CoreId) (f : Core → Core) : (d.modCore c f).core c = f (d.core c) := by
  simp [Dev.modCore]

@[simp] theorem Dev.queue_modQueue_same (d : Dev) (k : Nat) (f : Queue → Queue) : (d.modQueue k f).queue k = f (d.queue k) := by
  simp [Dev.modQueue]

@[simp] theorem Dev.port_modPort_same (d : Dev) (p : Nat) (f : PortSt → PortSt) : (d.modPort p f).port p = f (d.port p) := by
  simp [Dev.modPort]

@[simp] theorem Core.station_setStation_same (c : Core) (i : Nat) (x : Station) : (c.setStation i x).station i = x := by
  simp [Core.station, Core.setStation]

theorem Core.station_setStation_ne (c : Core) {i j : Nat} (x : Station) (h : j ≠ i) : (c.setStation i x).station j = c.station j := by
  simp [Core.station, Core.setStation, NMap.get_put_ne _ _ _ h]

@[simp] theorem Core.bind_setBind_same (c : Core) (i : Nat) (b : Option Bind) : (c.setBind i b).bind i = b := by
  simp [Core.bind, Core.setBind]

end Sys2Proof.Machine
end

