-- ==== Sys2Proof/Laws/Memory.lean ====
section
/-!
SUPPORT. What the operations of the machine do to the memory of the stacks: one lemma an operation, that it leaves the memory as it was;
and for the few operations that write it, that they keep its canonical form.
-/

set_option Elab.async false

namespace Sys2Proof.Machine

open Sys2Proof

/-- A fold of updates none of which touches the memory. -/
theorem Dev.mem_foldl {α : Type} (g : Dev → α → Dev) (l : List α) (d : Dev) (h : ∀ d x, (g d x).mem = d.mem) :
    (l.foldl g d).mem = d.mem := by
  induction l generalizing d with
  | nil => rfl
  | cons x r ih => exact (ih (g d x)).trans (h d x)

theorem Dev.mem_foldl_trans {α : Type} {g : Dev → α → Dev} {l : List α} {d e : Dev} (h : ∀ d x, (g d x).mem = d.mem)
    (he : d.mem = e.mem) : (l.foldl g d).mem = e.mem := (Dev.mem_foldl g l d h).trans he

theorem Dev.mem_ite (c : Prop) [Decidable c] (a b : Dev) : (if c then a else b).mem = if c then a.mem else b.mem := by
  split <;> rfl

theorem Dev.mem_if {c : Prop} [Decidable c] {a b e : Dev} (ha : a.mem = e.mem) (hb : b.mem = e.mem) :
    (if c then a else b).mem = e.mem := by split <;> assumption

/-! ### Ops -/

@[simp] theorem Dev.wrapAdd_mem (d : Dev) (p : Page) (f : FieldDef) (i : Nat) (n : Nat) : (Dev.wrapAdd d p f i n).mem = d.mem := by
  unfold Dev.wrapAdd; simp only [Dev.set_mem]

@[simp] theorem Dev.free_mem (d : Dev) (w : Nat) : (Dev.free d w).2.mem = d.mem := by
  unfold Dev.free; repeat' (first | (with_reducible rfl) | (refine Dev.mem_foldl_trans (fun _ _ => ?_) ?_) | split | (simp only [Dev.mem_ite, ite_self, Dev.mem_foldl, implies_true]))

@[simp] theorem Dev.raiseIf_mem (d : Dev) (c : Bool) (p : Page) (src : Nat) (synd : Nat) : (Dev.raiseIf d c p src synd).mem = d.mem := by
  unfold Dev.raiseIf; repeat' (first | (with_reducible rfl) | (refine Dev.mem_foldl_trans (fun _ _ => ?_) ?_) | split | (simp only [Dev.raise_mem]))

@[simp] theorem Dev.when_mem (d : Dev) (c : Bool) (f : Dev → Dev) (h_f : ∀ a0, (f a0).mem = a0.mem) : (Dev.when d c f).mem = d.mem := by
  unfold Dev.when; repeat' (first | (with_reducible rfl) | (refine Dev.mem_foldl_trans (fun _ _ => ?_) ?_) | split | (simp only [h_f]))

/-! ### Operands -/

@[simp] theorem Dev.modRun_mem (d : Dev) (c : CoreId) (sl : Nat) (f : Run → Run) : (Dev.modRun d c sl f).mem = d.mem := by
  unfold Dev.modRun; repeat' (first | (with_reducible rfl) | (refine Dev.mem_foldl_trans (fun _ _ => ?_) ?_) | split | (simp only [Dev.modQueue_mem]))

@[simp] theorem Dev.addFlags_mem (d : Dev) (c : CoreId) (sl : Nat) (fl : Nat) (buf : Nat) : (Dev.addFlags d c sl fl buf).mem = d.mem := by
  unfold Dev.addFlags; dsimp only; repeat' (first | (with_reducible rfl) | (refine Dev.mem_foldl_trans (fun _ _ => ?_) ?_) | split | (simp only [Dev.modCore_mem]))

/-! ### Heads -/

@[simp] theorem Dev.testHeads_mem (d : Dev) (ok : Run → Bool) : (Dev.testHeads d ok).mem = d.mem := by
  unfold Dev.testHeads; dsimp only; repeat' (first | (with_reducible rfl) | (refine Dev.mem_foldl_trans (fun _ _ => ?_) ?_) | split | (simp only [Dev.mem_ite, ite_self, Dev.mem_foldl, implies_true]))

@[simp] theorem Dev.testCounter_mem (d : Dev) (q : Nat) (i : Nat) : (Dev.testCounter d q i).mem = d.mem := by
  unfold Dev.testCounter; dsimp only; (repeat' split) <;> simp only [Dev.testHeads_mem]

@[simp] theorem Dev.testTokens_mem (d : Dev) (c : CoreId) (sl : Nat) : (Dev.testTokens d c sl).mem = d.mem := by
  unfold Dev.testTokens; simp only [Dev.testHeads_mem]

@[simp] theorem Dev.testRun_mem (d : Dev) (c : CoreId) (sl : Nat) : (Dev.testRun d c sl).mem = d.mem := by
  unfold Dev.testRun; repeat' (first | (with_reducible rfl) | (refine Dev.mem_foldl_trans (fun _ _ => ?_) ?_) | split | (simp only [Dev.testHeads_mem]))

/-! ### Packets -/

@[simp] theorem Dev.enqueuePkt_mem (d : Dev) (p : Nat) (from_ : Nat) (k : Packet) : (Dev.enqueuePkt d p from_ k).mem = d.mem := by
  unfold Dev.enqueuePkt; repeat' (first | (with_reducible rfl) | (refine Dev.mem_foldl_trans (fun _ _ => ?_) ?_) | split | (simp only [Dev.modPort_mem]))

@[simp] theorem Dev.replyPkt_mem (d : Dev) (p : Nat) (k : Packet) : (Dev.replyPkt d p k).mem = d.mem := by
  unfold Dev.replyPkt; repeat' (first | (with_reducible rfl) | (refine Dev.mem_foldl_trans (fun _ _ => ?_) ?_) | split | (simp only [Dev.enqueuePkt_mem, Dev.modPort_mem]))

@[simp] theorem Dev.refusePeer_mem (d : Dev) (p : Nat) (src : Nat) (tag : Nat) (gen : Nat) (tc : Nat) (budget : Nat) (late : Bool) (cause : Nat) : (Dev.refusePeer d p src tag gen tc budget late cause).mem = d.mem := by
  unfold Dev.refusePeer; simp only [Dev.replyPkt_mem, Dev.raise_mem]

@[simp] theorem Dev.settleRefused_mem (d : Dev) : (Dev.settleRefused d).mem = d.mem := by
  unfold Dev.settleRefused; repeat' (first | (with_reducible rfl) | (with_reducible refine Dev.mem_foldl_trans (fun _ _ => ?_) ?_) | split | (simp only [Dev.mem_ite, ite_self, Dev.mem_foldl, implies_true]))

@[simp] theorem Dev.land_mem (d : Dev) (p : Nat) (src : Nat) (tag : Nat) (gen : Nat) (svc : Svc) : (Dev.land d p src tag gen svc).mem = d.mem := by
  unfold Dev.land; repeat' (first | (with_reducible rfl) | (with_reducible refine Dev.mem_foldl_trans (fun _ _ => ?_) ?_) | split | (simp only [Dev.settleRefused_mem, Dev.modPort_mem]))

@[simp] theorem Dev.refuseTag_mem (d : Dev) (p : Nat) (src : Nat) (tag : Nat) (gen : Nat) (tc : Nat) (budget : Nat) (late : Bool) (cause : Nat) : (Dev.refuseTag d p src tag gen tc budget late cause).mem = d.mem := by
  unfold Dev.refuseTag; repeat' (first | (with_reducible rfl) | (with_reducible refine Dev.mem_foldl_trans (fun _ _ => ?_) ?_) | split | (simp only [Dev.settleRefused_mem, Dev.refusePeer_mem]))

/-! ### RegAccess -/

@[simp] theorem Dev.viaWrite_mem (d : Dev) (via : Via) (p : Page) (f : Dev → Dev) (h_f : ∀ a0, (f a0).mem = a0.mem) : (Dev.viaWrite d via p f).mem = d.mem := by
  unfold Dev.viaWrite; repeat' (first | (with_reducible rfl) | (refine Dev.mem_foldl_trans (fun _ _ => ?_) ?_) | split | (simp only [h_f]))

@[simp] theorem Dev.haltEngine_mem (d : Dev) (ch : Nat) (e : Nat) (cause : Nat) : (Dev.haltEngine d ch e cause).mem = d.mem := by
  unfold Dev.haltEngine; dsimp only; (repeat' split) <;> simp only [Dev.raise_mem, Dev.set_mem]

@[simp] theorem Dev.tdiToError_mem (d : Dev) (fn : Nat) : (Dev.tdiToError d fn).mem = d.mem := by
  unfold Dev.tdiToError; repeat' (first | (with_reducible rfl) | (refine Dev.mem_foldl_trans (fun _ _ => ?_) ?_) | split | (simp only [Dev.setFunc_mem, Dev.free_mem, Dev.haltEngine_mem]))

@[simp] theorem Dev.lockViolation_mem (d : Dev) (p : Page) : (Dev.lockViolation d p).mem = d.mem := by
  unfold Dev.lockViolation; simp only [Dev.set_mem, Dev.tdiToError_mem, Dev.mem_foldl, implies_true]

@[simp] theorem Dev.swField_mem (d : Dev) (p : Page) (f : FieldDef) (i : Nat) (val : Nat) : (Dev.swField d p f i val).mem = d.mem := by
  unfold Dev.swField; repeat' (first | (with_reducible rfl) | (refine Dev.mem_foldl_trans (fun _ _ => ?_) ?_) | split | (simp only [Dev.set_mem, Dev.lockViolation_mem, Dev.mem_ite, ite_self]))

/-! ### Dram -/

@[simp] theorem Dev.eaddr_mem (d : Dev) (l : Nat) (kind : Nat) : (Dev.eaddr d l kind).mem = d.mem := by
  unfold Dev.eaddr; repeat' (first | (with_reducible rfl) | (refine Dev.mem_foldl_trans (fun _ _ => ?_) ?_) | split | (simp only [Dev.setWord_mem]))

@[simp] theorem Dev.keyMiss_mem (d : Dev) (l : Nat) : (Dev.keyMiss d l).mem = d.mem := by
  unfold Dev.keyMiss; simp only [Dev.raise_mem, Dev.eaddr_mem]

@[simp] theorem Dev.dramRead_mem (d : Dev) (l : Nat) : (Dev.dramRead d l).2.2.mem = d.mem := by
  unfold Dev.dramRead; repeat' (first | (with_reducible rfl) | (with_reducible refine Dev.mem_foldl_trans (fun _ _ => ?_) ?_) | split | (simp only [Dev.keyMiss_mem]))

@[simp] theorem Dev.overtake_mem (d : Dev) (l : Nat) : (Dev.overtake d l).mem = d.mem := by
  unfold Dev.overtake; dsimp only; (repeat' split) <;> simp only [Dev.setStk_mem]

@[simp] theorem Dev.dramWrite_mem (d : Dev) (l : Nat) (v : Nat) (psn : Bool) (svc : Svc) : (Dev.dramWrite d l v psn svc).mem = d.mem := by
  unfold Dev.dramWrite; repeat' (first | (with_reducible rfl) | (with_reducible refine Dev.mem_foldl_trans (fun _ _ => ?_) ?_) | split | (simp only [Dev.keyMiss_mem, Dev.overtake_mem, Dev.setMc_mem]))

@[simp] theorem Dev.dropQueued_mem (d : Dev) (inR : Nat → Bool) : (Dev.dropQueued d inR).mem = d.mem := by
  unfold Dev.dropQueued; simp only []

@[simp] theorem Dev.queueRead_mem (d : Dev) (l : Nat) : (Dev.queueRead d l).mem = d.mem := by
  unfold Dev.queueRead; repeat' (first | (with_reducible rfl) | (refine Dev.mem_foldl_trans (fun _ _ => ?_) ?_) | split | (simp only [Dev.setMc_mem]))

/-! ### Cache -/

@[simp] theorem Dev.setCline_mem (d : Dev) (agent : Nat) (place : Nat) (l : Nat) (c : Option CLine) : (Dev.setCline d agent place l c).mem = d.mem := by
  unfold Dev.setCline; repeat' (first | (with_reducible rfl) | (refine Dev.mem_foldl_trans (fun _ _ => ?_) ?_) | split | (simp only [Dev.mem_ite, ite_self, Dev.mem_foldl, implies_true]))

@[simp] theorem Dev.modCopy_mem (d : Dev) (agent : Nat) (l : Nat) (f : CLine → Option CLine) : (Dev.modCopy d agent l f).mem = d.mem := by
  unfold Dev.modCopy; repeat' (first | (with_reducible rfl) | (with_reducible refine Dev.mem_foldl_trans (fun _ _ => ?_) ?_) | split | (simp only [Dev.setCline_mem]))

@[simp] theorem Dev.touchCopy_mem (d : Dev) (agent : Nat) (l : Nat) : (Dev.touchCopy d agent l).mem = d.mem := by
  unfold Dev.touchCopy; repeat' (first | (with_reducible rfl) | (refine Dev.mem_foldl_trans (fun _ _ => ?_) ?_) | split | (simp only [Dev.modCopy_mem]))

@[simp] theorem Dev.meter_mem (d : Dev) (q : Nat) (m : Nat) (n : Nat) : (Dev.meter d q m n).mem = d.mem := by
  unfold Dev.meter; dsimp only; (repeat' split) <;> simp only []

@[simp] theorem Dev.wireMsg_mem (d : Dev) (m : WMsg) : (Dev.wireMsg d m).mem = d.mem := by
  unfold Dev.wireMsg; repeat' (first | (with_reducible rfl) | (with_reducible refine Dev.mem_foldl_trans (fun _ _ => ?_) ?_) | split | (simp only [Dev.mem_ite, ite_self, Dev.mem_foldl, implies_true]))

@[simp] theorem Dev.evictCase_mem (d : Dev) (q : Nat) (s : Nat) (l : Nat) : (Dev.evictCase d q s l).mem = d.mem := by
  unfold Dev.evictCase; repeat' (first | (with_reducible rfl) | (refine Dev.mem_foldl_trans (fun _ _ => ?_) ?_) | split | (simp only [Dev.when_mem, Dev.setCline_mem, Dev.dramWrite_mem, Dev.wireMsg_mem, implies_true]))

@[simp] theorem Dev.fillCase_mem (d : Dev) (q : Nat) (p : Nat) (l : Nat) (st : LState) (dirty : Bool) (peer : Bool) (held : Bool) (data : Nat) (psn : Bool) : (Dev.fillCase d q p l st dirty peer held data psn).1.mem = d.mem := by
  unfold Dev.fillCase; repeat' (first | (with_reducible rfl) | (refine Dev.mem_foldl_trans (fun _ _ => ?_) ?_) | split | (simp only [Dev.setCline_mem, Dev.evictCase_mem, Dev.when_mem, Dev.bump_mem, implies_true]))

@[simp] theorem Dev.evictGal_mem (d : Dev) (agent : Nat) (k : Nat) : (Dev.evictGal d agent k).mem = d.mem := by
  unfold Dev.evictGal; repeat' (first | (with_reducible rfl) | (with_reducible refine Dev.mem_foldl_trans (fun _ _ => ?_) ?_) | split | (simp only [Dev.wireMsg_mem, Dev.fillCase_mem, Dev.meter_mem, Dev.mem_ite, ite_self]))

@[simp] theorem Dev.fillGal_mem (d : Dev) (agent : Nat) (part : Nat) (l : Nat) (st : LState) (data : Nat) (psn : Bool) : (Dev.fillGal d agent part l st data psn).1.mem = d.mem := by
  unfold Dev.fillGal; repeat' (first | (with_reducible rfl) | (refine Dev.mem_foldl_trans (fun _ _ => ?_) ?_) | split | (simp only [Dev.setCline_mem, Dev.evictGal_mem]))

/-! ### Count -/

@[simp] theorem Dev.modReq_mem (d : Dev) (id : Nat) (f : Req → Req) : (Dev.modReq d id f).mem = d.mem := by
  unfold Dev.modReq; repeat' (first | (with_reducible rfl) | (refine Dev.mem_foldl_trans (fun _ _ => ?_) ?_) | split | (simp only [Dev.mem_ite, ite_self, Dev.mem_foldl, implies_true]))

@[simp] theorem Dev.dropReq_mem (d : Dev) (id : Nat) : (Dev.dropReq d id).mem = d.mem := by
  unfold Dev.dropReq; simp only []

@[simp] theorem Dev.addReq_mem (d : Dev) (r : Req) : (Dev.addReq d r).mem = d.mem := by
  unfold Dev.addReq; simp only []

@[simp] theorem Dev.enterCase_mem (d : Dev) (q : Nat) (r : Req) : (Dev.enterCase d q r).mem = d.mem := by
  unfold Dev.enterCase; repeat' (first | (with_reducible rfl) | (with_reducible refine Dev.mem_foldl_trans (fun _ _ => ?_) ?_) | split | (simp only [Dev.when_mem, Dev.meter_mem, Dev.bump_mem, Dev.modReq_mem, implies_true]))

@[simp] theorem Dev.useSlot_mem (d : Dev) (r : Req) (stk : Nat) : (Dev.useSlot d r stk).mem = d.mem := by
  unfold Dev.useSlot; repeat' (first | (with_reducible rfl) | (with_reducible refine Dev.mem_foldl_trans (fun _ _ => ?_) ?_) | split | (simp only [Dev.enterCase_mem]))

@[simp] theorem Dev.missAt_mem (d : Dev) (q : Nat) (part : Nat) (tc : Nat) : (Dev.missAt d q part tc).mem = d.mem := by
  unfold Dev.missAt; repeat' (first | (with_reducible rfl) | (with_reducible refine Dev.mem_foldl_trans (fun _ _ => ?_) ?_) | split | (simp only [Dev.raise_mem, Dev.bump_mem]))

@[simp] theorem Dev.countMiss_mem (d : Dev) (r : Req) : (Dev.countMiss d r).mem = d.mem := by
  unfold Dev.countMiss; repeat' (first | (with_reducible rfl) | (with_reducible refine Dev.mem_foldl_trans (fun _ _ => ?_) ?_) | split | (simp only [Dev.missAt_mem, Dev.raise_mem, Dev.bump_mem]))

@[simp] theorem Dev.countBytes_mem (d : Dev) (q : Nat) (i : Nat) (n : Nat) : (Dev.countBytes d q i n).mem = d.mem := by
  unfold Dev.countBytes; dsimp only; repeat' (first | (with_reducible rfl) | (refine Dev.mem_foldl_trans (fun _ _ => ?_) ?_) | split | (simp only [Dev.testCounter_mem, Dev.raise_mem, Dev.set_mem]))

@[simp] theorem Dev.testGroup_mem (d : Dev) (q : Nat) (g : Nat) : (Dev.testGroup d q g).mem = d.mem := by
  unfold Dev.testGroup; dsimp only; (repeat' split) <;> simp only [Dev.wireMsg_mem, Dev.setGrp_mem]

@[simp] theorem Dev.tally_mem (d : Dev) (q : Nat) (g : Nat) (n : Nat) : (Dev.tally d q g n).mem = d.mem := by
  unfold Dev.tally; repeat' (first | (with_reducible rfl) | (refine Dev.mem_foldl_trans (fun _ _ => ?_) ?_) | split | (simp only [Dev.raise_mem, Dev.setGrp_mem, Dev.testGroup_mem, Dev.mem_ite, ite_self]))

@[simp] theorem Dev.countPart_mem (d : Dev) (r : Req) (n : Nat) : (Dev.countPart d r n).mem = d.mem := by
  unfold Dev.countPart; dsimp only; (repeat' split) <;> simp only [Dev.countBytes_mem, Dev.raise_mem, Dev.tally_mem]

@[simp] theorem Dev.raiseVec_mem (d : Dev) (fn : Nat) (vec : Nat) : (Dev.raiseVec d fn vec).mem = d.mem := by
  unfold Dev.raiseVec; simp only [Dev.setFunc_mem]

@[simp] theorem Dev.journalDone_mem (d : Dev) (r : Req) : (Dev.journalDone d r).mem = d.mem := by
  unfold Dev.journalDone; dsimp only; (repeat' split) <;> simp only [Dev.raiseVec_mem]

@[simp] theorem Dev.performed_mem (d : Dev) (id : Nat) : (Dev.performed d id).mem = d.mem := by
  unfold Dev.performed; repeat' (first | (with_reducible rfl) | (refine Dev.mem_foldl_trans (fun _ _ => ?_) ?_) | split | (simp only [Dev.countPart_mem, Dev.countMiss_mem, Dev.dropReq_mem, Dev.land_mem, Dev.modReq_mem, Dev.journalDone_mem]))

@[simp] theorem Dev.answerPeer_mem (d : Dev) (cli : Client) : (Dev.answerPeer d cli).mem = d.mem := by
  unfold Dev.answerPeer; repeat' (first | (with_reducible rfl) | (with_reducible refine Dev.mem_foldl_trans (fun _ _ => ?_) ?_) | split | (simp only [Dev.countMiss_mem, Dev.settleRefused_mem, Dev.refusePeer_mem, Dev.replyPkt_mem]))

@[simp] theorem Dev.answered_mem (d : Dev) (id : Nat) (res : Nat) (psn : Bool) (err : Bool) : (Dev.answered d id res psn err).mem = d.mem := by
  unfold Dev.answered; repeat' (first | (with_reducible rfl) | (refine Dev.mem_foldl_trans (fun _ _ => ?_) ?_) | split | (simp only [Dev.countMiss_mem, Dev.dropReq_mem, Dev.answerPeer_mem, Dev.modReq_mem]))

/-! ### RunEnd -/

@[simp] theorem Dev.abandon_mem (d : Dev) (c : CoreId) (sl : Nat) (keepDlv : Bool) : (Dev.abandon d c sl keepDlv).mem = d.mem := by
  unfold Dev.abandon; repeat' (first | (with_reducible rfl) | (refine Dev.mem_foldl_trans (fun _ _ => ?_) ?_) | split | (simp only [Dev.modCore_mem]))

@[simp] theorem Dev.endRun_mem (d : Dev) (c : CoreId) (sl : Nat) (code : Nat) (stn : Nat) (ent : Nat) (own : Bool) : (Dev.endRun d c sl code stn ent own).mem = d.mem := by
  unfold Dev.endRun; dsimp only; (repeat' split) <;> simp only [Dev.raise_mem, Dev.abandon_mem, Dev.modRun_mem]

/-! ### Requests -/

@[simp] theorem Dev.setMshr_mem (d : Dev) (agent : Nat) (place : Nat) (l : Nat) (m : Option Mshr) : (Dev.setMshr d agent place l m).mem = d.mem := by
  unfold Dev.setMshr; repeat' (first | (with_reducible rfl) | (refine Dev.mem_foldl_trans (fun _ _ => ?_) ?_) | split | (simp only [Dev.mem_ite, ite_self, Dev.mem_foldl, implies_true]))

@[simp] theorem Dev.toHome_mem (d : Dev) (kind : HKind) (agent : Nat) (l : Nat) (part : Nat) (req : Nat) (full : Bool) (svc : Svc) : (Dev.toHome d kind agent l part req full svc).mem = d.mem := by
  unfold Dev.toHome; repeat' (first | (with_reducible rfl) | (refine Dev.mem_foldl_trans (fun _ _ => ?_) ?_) | split | (simp only [Dev.wireMsg_mem]))

@[simp] theorem Dev.performOwn_mem (d : Dev) (r : Req) : (Dev.performOwn d r).mem = d.mem := by
  unfold Dev.performOwn; repeat' (first | (with_reducible rfl) | (refine Dev.mem_foldl_trans (fun _ _ => ?_) ?_) | split | (simp only [Dev.setCline_mem, Dev.answered_mem, Dev.modReq_mem, Dev.performed_mem]))

@[simp] theorem Dev.askOwn_mem (d : Dev) (r : Req) : (Dev.askOwn d r).mem = d.mem := by
  unfold Dev.askOwn; split <;> simp only [Dev.toHome_mem, Dev.setMshr_mem, Dev.useSlot_mem]

@[simp] theorem Dev.sendHomeOp_mem (d : Dev) (r : Req) : (Dev.sendHomeOp d r).1.mem = d.mem := by
  unfold Dev.sendHomeOp; dsimp only; (repeat' split) <;> simp only [Dev.useSlot_mem, Dev.wireMsg_mem, Dev.modReq_mem, Dev.setCline_mem, Dev.performed_mem, Dev.askOwn_mem]

@[simp] theorem Dev.supplyFromCase_mem (d : Dev) (r : Req) (s : Nat) (c : CLine) : (Dev.supplyFromCase d r s c).mem = d.mem := by
  unfold Dev.supplyFromCase; repeat' (first | (with_reducible rfl) | (with_reducible refine Dev.mem_foldl_trans (fun _ _ => ?_) ?_) | split | (simp only [Dev.setCline_mem, Dev.enterCase_mem, Dev.fillGal_mem, Dev.toHome_mem, Dev.answered_mem]))

@[simp] theorem Dev.pumpRead_mem (d : Dev) (r : Req) : (Dev.pumpRead d r).1.mem = d.mem := by
  unfold Dev.pumpRead; dsimp only; (repeat' split) <;> simp only [Dev.answered_mem, Dev.touchCopy_mem, Dev.toHome_mem, Dev.setMshr_mem, Dev.modReq_mem, Dev.useSlot_mem, Dev.supplyFromCase_mem]

@[simp] theorem Dev.pumpOne_mem (d : Dev) (id : Nat) (homeOnly : Bool) : (Dev.pumpOne d id homeOnly).1.mem = d.mem := by
  unfold Dev.pumpOne; dsimp only; (repeat' split) <;> simp only [Dev.sendHomeOp_mem, Dev.performOwn_mem, Dev.askOwn_mem, Dev.pumpRead_mem]

@[simp] theorem Dev.pumpGo_mem (d : Dev) (homeOnly : Bool) (x2 : List Nat) : (Dev.pumpGo d homeOnly x2).mem = d.mem := by
  induction x2 generalizing d homeOnly with
  | nil => rfl
  | cons a r ih =>
    unfold Dev.pumpGo
    refine Dev.mem_if ?_ ?_
    · rw [ih, Dev.pumpOne_mem]
    · rw [Dev.pumpOne_mem]

@[simp] theorem Dev.pump_mem (d : Dev) (agent : Nat) (l : Nat) : (Dev.pump d agent l).mem = d.mem := by
  unfold Dev.pump; simp only [Dev.pumpGo_mem]

@[simp] theorem Dev.pumpAfter_mem (d : Dev) (r : Req) : (Dev.pumpAfter d r).mem = d.mem := by
  unfold Dev.pumpAfter; repeat' (first | (with_reducible rfl) | (with_reducible refine Dev.mem_foldl_trans (fun _ _ => ?_) ?_) | split | (simp only [Dev.pump_mem]))

@[simp] theorem Dev.pumpQuad_mem (d : Dev) (q : Nat) (l : Nat) : (Dev.pumpQuad d q l).mem = d.mem := by
  unfold Dev.pumpQuad; simp only [Dev.pump_mem]

@[simp] theorem Dev.pumpAll_mem (d : Dev) (keep : Req → Bool) : (Dev.pumpAll d keep).mem = d.mem := by
  unfold Dev.pumpAll; repeat' (first | (with_reducible rfl) | (refine Dev.mem_foldl_trans (fun _ _ => ?_) ?_) | split | (simp only [Dev.pump_mem]))

@[simp] theorem Dev.shadowRec_mem (d : Dev) (r : Req) (x : Nat) (q : Nat) (why : Nat) : (Dev.shadowRec d r x q why).mem = d.mem := by
  unfold Dev.shadowRec; dsimp only; repeat' (first | (with_reducible rfl) | (refine Dev.mem_foldl_trans (fun _ _ => ?_) ?_) | split | (simp only [Dev.set_mem, Dev.pump_mem, Dev.addReq_mem, Dev.raise_mem]))

@[simp] theorem Dev.failReq_mem (d : Dev) (id : Nat) : (Dev.failReq d id).mem = d.mem := by
  unfold Dev.failReq; repeat' (first | (with_reducible rfl) | (refine Dev.mem_foldl_trans (fun _ _ => ?_) ?_) | split | (simp only [Dev.dropReq_mem, Dev.endRun_mem, Dev.shadowRec_mem, Dev.raiseIf_mem, Dev.raise_mem, Dev.modReq_mem, Dev.answered_mem]))

@[simp] theorem Dev.addrError_mem (d : Dev) (id : Nat) : (Dev.addrError d id).mem = d.mem := by
  unfold Dev.addrError; repeat' (first | (with_reducible rfl) | (refine Dev.mem_foldl_trans (fun _ _ => ?_) ?_) | split | (simp only [Dev.failReq_mem, Dev.raiseIf_mem]))

@[simp] theorem Dev.hostDiscard_mem (d : Dev) (id : Nat) : (Dev.hostDiscard d id).mem = d.mem := by
  unfold Dev.hostDiscard; repeat' (first | (with_reducible rfl) | (with_reducible refine Dev.mem_foldl_trans (fun _ _ => ?_) ?_) | split | (simp only [Dev.failReq_mem, Dev.modReq_mem, Dev.dropReq_mem]))

@[simp] theorem Dev.hostFenced_mem (d : Dev) (id : Nat) : (Dev.hostFenced d id).mem = d.mem := by
  unfold Dev.hostFenced; repeat' (first | (with_reducible rfl) | (refine Dev.mem_foldl_trans (fun _ _ => ?_) ?_) | split | (simp only [Dev.shadowRec_mem, Dev.dropReq_mem, Dev.modReq_mem, Dev.answered_mem]))

@[simp] theorem Dev.hostHold_mem (d : Dev) (id : Nat) : (Dev.hostHold d id).mem = d.mem := by
  unfold Dev.hostHold; dsimp only; repeat' (first | (with_reducible rfl) | (refine Dev.mem_foldl_trans (fun _ _ => ?_) ?_) | split | (simp only [Dev.mem_ite, ite_self, Dev.mem_foldl, implies_true]))

@[simp] theorem Dev.hostSend_mem (d : Dev) (id : Nat) (h : HostId) : (Dev.hostSend d id h).mem = d.mem := by
  unfold Dev.hostSend; repeat' (first | (with_reducible rfl) | (refine Dev.mem_foldl_trans (fun _ _ => ?_) ?_) | split | (simp only [Dev.hostDiscard_mem, Dev.send_mem, Dev.journalDone_mem, Dev.dropReq_mem, Dev.countMiss_mem, Dev.addrError_mem, Dev.hostHold_mem, Dev.mem_foldl, implies_true]))

@[simp] theorem Dev.hostGo_mem (d : Dev) (id : Nat) (h : HostId) : (Dev.hostGo d id h).mem = d.mem := by
  unfold Dev.hostGo; repeat' (first | (with_reducible rfl) | (refine Dev.mem_foldl_trans (fun _ _ => ?_) ?_) | split | (simp only [Dev.send_mem, Dev.hostHold_mem, Dev.hostSend_mem]))

@[simp] theorem Dev.setPosted_mem (d : Dev) (l : List Nat) : (Dev.setPosted d l).mem = d.mem := by
  unfold Dev.setPosted; repeat' (first | (with_reducible rfl) | (with_reducible refine Dev.mem_foldl_trans (fun _ _ => ?_) ?_) | split | (simp only [Dev.mem_ite, ite_self, Dev.mem_foldl, implies_true]))

@[simp] theorem Dev.drainPosted_mem (d : Dev) (x1 : List Nat) : (Dev.drainPosted d x1).mem = d.mem := by
  induction x1 generalizing d with
  | nil => rfl
  | cons id r ih =>
    unfold Dev.drainPosted
    extract_lets gone
    have hg : ∀ e : Dev, (gone e).mem = e.mem := fun e => Dev.setPosted_mem _ _
    clear_value gone
    split
    · rw [ih, hg]
    · extract_lets ahead
      clear_value ahead
      split
      · rw [ih, Dev.addrError_mem, hg]
      · refine Dev.mem_if (Dev.mem_if (ih _) ?_) (Dev.mem_if (ih _) ?_)
        · rw [ih, Dev.hostDiscard_mem, hg]
        · rw [ih, Dev.hostSend_mem, hg]

@[simp] theorem Dev.sendPosted_mem (d : Dev) : (Dev.sendPosted d).mem = d.mem := by
  unfold Dev.sendPosted; repeat' (first | (with_reducible rfl) | (with_reducible refine Dev.mem_foldl_trans (fun _ _ => ?_) ?_) | split | (simp only [Dev.drainPosted_mem]))

@[simp] theorem Dev.hostEnter_mem (d : Dev) (id : Nat) (h : HostId) : (Dev.hostEnter d id h).mem = d.mem := by
  unfold Dev.hostEnter; repeat' (first | (with_reducible rfl) | (with_reducible refine Dev.mem_foldl_trans (fun _ _ => ?_) ?_) | split | (simp only [Dev.setPosted_mem, Dev.sendPosted_mem, Dev.send_mem, Dev.hostGo_mem, Dev.mem_ite, ite_self]))

@[simp] theorem Dev.hostIssue_mem (d : Dev) (id : Nat) : (Dev.hostIssue d id).mem = d.mem := by
  unfold Dev.hostIssue; repeat' (first | (with_reducible rfl) | (with_reducible refine Dev.mem_foldl_trans (fun _ _ => ?_) ?_) | split | (simp only [Dev.addrError_mem, Dev.hostFenced_mem, Dev.hostEnter_mem, Dev.modReq_mem]))

@[simp] theorem Dev.releaseHost_mem (d : Dev) (ch : Nat) : (Dev.releaseHost d ch).mem = d.mem := by
  unfold Dev.releaseHost; simp only [Dev.hostIssue_mem, Dev.mem_ite, ite_self, Dev.mem_foldl, implies_true]

@[simp] theorem Dev.dropPeerLine_mem (d : Dev) (q : Nat) (l : Nat) : (Dev.dropPeerLine d q l).mem = d.mem := by
  unfold Dev.dropPeerLine; repeat' (first | (with_reducible rfl) | (refine Dev.mem_foldl_trans (fun _ _ => ?_) ?_) | split | (simp only [Dev.setCline_mem]))

@[simp] theorem Dev.issue_mem (d : Dev) (r : Req) : (Dev.issue d r).mem = d.mem := by
  unfold Dev.issue; repeat' (first | (with_reducible rfl) | (with_reducible refine Dev.mem_foldl_trans (fun _ _ => ?_) ?_) | split | (simp only [Dev.addReq_mem, Dev.addrError_mem, Dev.hostIssue_mem, Dev.answered_mem, Dev.setCline_mem, Dev.dropPeerLine_mem, Dev.modReq_mem, Dev.pump_mem]))

@[simp] theorem Dev.issueAll_mem (d : Dev) (x1 : List Req) : (Dev.issueAll d x1).mem = d.mem := by
  induction x1 generalizing d with
  | nil => rfl
  | cons a r ih => unfold Dev.issueAll; rw [ih, Dev.issue_mem]

/-! ### Peer -/

@[simp] theorem Req.refuseAll_mem (d : Dev) (r : Req) (cause : Nat) : (Req.refuseAll d r cause).mem = d.mem := by
  unfold Req.refuseAll; repeat' (first | (with_reducible rfl) | (with_reducible refine Dev.mem_foldl_trans (fun _ _ => ?_) ?_) | split | (simp only [Dev.refuseTag_mem]))

@[simp] theorem Dev.turnAway_mem (d : Dev) (id : Nat) (cause : Nat) : (Dev.turnAway d id cause).mem = d.mem := by
  unfold Dev.turnAway; repeat' (first | (with_reducible rfl) | (with_reducible refine Dev.mem_foldl_trans (fun _ _ => ?_) ?_) | split | (simp only [Dev.pumpAfter_mem, Req.refuseAll_mem, Dev.dropReq_mem, Dev.failReq_mem]))

@[simp] theorem Dev.answerColo_mem (d : Dev) (r : Req) (cause : Nat) : (Dev.answerColo d r cause).mem = d.mem := by
  unfold Dev.answerColo; repeat' (first | (with_reducible rfl) | (with_reducible refine Dev.mem_foldl_trans (fun _ _ => ?_) ?_) | split | (simp only [Dev.pumpAfter_mem, Req.refuseAll_mem]))

@[simp] theorem Dev.turnAwayColo_mem (d : Dev) (id : Nat) (cause : Nat) : (Dev.turnAwayColo d id cause).mem = d.mem := by
  unfold Dev.turnAwayColo; repeat' (first | (with_reducible rfl) | (with_reducible refine Dev.mem_foldl_trans (fun _ _ => ?_) ?_) | split | (simp only [Dev.answerColo_mem, Dev.dropReq_mem]))

/-! ### Coherence -/

@[simp] theorem Dev.setDir_mem (d : Dev) (l : Nat) (e : Option DirEnt) : (Dev.setDir d l e).mem = d.mem := by
  unfold Dev.setDir; repeat' (first | (with_reducible rfl) | (refine Dev.mem_foldl_trans (fun _ _ => ?_) ?_) | split | (simp only [Dev.mem_ite, ite_self, Dev.mem_foldl, implies_true]))

@[simp] theorem Dev.setTxn_mem (d : Dev) (l : Nat) (t : Option Txn) : (Dev.setTxn d l t).mem = d.mem := by
  unfold Dev.setTxn; repeat' (first | (with_reducible rfl) | (refine Dev.mem_foldl_trans (fun _ _ => ?_) ?_) | split | (simp only [Dev.mem_ite, ite_self, Dev.mem_foldl, implies_true]))

@[simp] theorem Dev.modTxn_mem (d : Dev) (l : Nat) (f : Txn → Txn) : (Dev.modTxn d l f).mem = d.mem := by
  unfold Dev.modTxn; repeat' (first | (with_reducible rfl) | (refine Dev.mem_foldl_trans (fun _ _ => ?_) ?_) | split | (simp only [Dev.setTxn_mem]))

@[simp] theorem Dev.proto_mem (d : Dev) (l : Nat) (agent : Nat) (k : Nat) : (Dev.proto d l agent k).mem = d.mem := by
  unfold Dev.proto; repeat' (first | (with_reducible rfl) | (refine Dev.mem_foldl_trans (fun _ _ => ?_) ?_) | split | (simp only [Dev.raise_mem]))

@[simp] theorem Dev.caseEcc_mem (d : Dev) (q : Nat) (l : Nat) (part : Nat) (e : ArrayEcc) : (Dev.caseEcc d q l part e).mem = d.mem := by
  unfold Dev.caseEcc; dsimp only; (repeat' split) <;> simp only [Dev.setCline_mem, Dev.raise_mem]

@[simp] theorem Dev.installGal_mem (d : Dev) (agent : Nat) (part : Nat) (l : Nat) (st : LState) (data : Nat) (psn : Bool) : (Dev.installGal d agent part l st data psn).mem = d.mem := by
  unfold Dev.installGal; repeat' (first | (with_reducible rfl) | (with_reducible refine Dev.mem_foldl_trans (fun _ _ => ?_) ?_) | split | (simp only [Dev.fillGal_mem, Dev.pump_mem, Dev.setCline_mem, Dev.evictGal_mem, Dev.mem_ite]))

@[simp] theorem Dev.serveReads_mem (d : Dev) (data : Nat) (psn : Bool) (x3 : List Nat) : (Dev.serveReads d data psn x3).mem = d.mem := by
  induction x3 generalizing d with
  | nil => rfl
  | cons id r ih =>
    unfold Dev.serveReads
    split
    · exact ih d
    · split
      · exact ih d
      · split
        · rw [ih, Dev.answered_mem]
        · rfl

@[simp] theorem Dev.takeReply_mem (d : Dev) (a : Nat) (l : Nat) (st : Option LState) (data : Option (Nat × Bool)) (part : Nat) : (Dev.takeReply d a l st data part).mem = d.mem := by
  unfold Dev.takeReply; dsimp only; repeat' (first | (with_reducible rfl) | (refine Dev.mem_foldl_trans (fun _ _ => ?_) ?_) | split | (simp only [Dev.setMshr_mem, Dev.pump_mem, Dev.answered_mem, Dev.installGal_mem, Dev.fillCase_mem, Dev.fillGal_mem, Dev.toHome_mem, Dev.serveReads_mem, Dev.pumpQuad_mem]))

@[simp] theorem Dev.deliverReply_mem (d : Dev) (a : Nat) (l : Nat) : (Dev.deliverReply d a l).mem = d.mem := by
  unfold Dev.deliverReply; repeat' (first | (with_reducible rfl) | (refine Dev.mem_foldl_trans (fun _ _ => ?_) ?_) | split | (simp only [Dev.takeReply_mem]))

@[simp] theorem Dev.deliverReplies_mem (d : Dev) (a : Nat) (l : Nat) (x3 : Nat) : (Dev.deliverReplies d a l x3).mem = d.mem := by
  induction x3 generalizing d with
  | zero => rfl
  | succ n ih => unfold Dev.deliverReplies; rw [ih, Dev.deliverReply_mem]

@[simp] theorem Dev.sendReply_mem (d : Dev) (dest : Nat) (l : Nat) (st : Option LState) (data : Option (Nat × Bool)) (part : Nat) : (Dev.sendReply d dest l st data part).mem = d.mem := by
  unfold Dev.sendReply; repeat' (first | (with_reducible rfl) | (refine Dev.mem_foldl_trans (fun _ _ => ?_) ?_) | split | (simp only [Dev.wireMsg_mem]))

@[simp] theorem Dev.putHome_mem (d : Dev) (l : Nat) (part : Nat) (data : Nat) (psn : Bool) (svc : Svc) : (Dev.putHome d l part data psn svc).mem = d.mem := by
  unfold Dev.putHome; dsimp only; (repeat' split) <;> simp only [Dev.fillCase_mem, Dev.dramWrite_mem]

@[simp] theorem Dev.touchHome_mem (d : Dev) (l : Nat) (s : Nat) (c : CLine) : (Dev.touchHome d l s c).mem = d.mem := by
  unfold Dev.touchHome; repeat' (first | (with_reducible rfl) | (with_reducible refine Dev.mem_foldl_trans (fun _ _ => ?_) ?_) | split | (simp only [Dev.setCline_mem]))

@[simp] theorem Dev.holdLine_mem (d : Dev) (l : Nat) (part : Nat) (id : Nat) (data : Nat) (psn : Bool) (dirty : Bool) : (Dev.holdLine d l part id data psn dirty).mem = d.mem := by
  unfold Dev.holdLine; repeat' (first | (with_reducible rfl) | (with_reducible refine Dev.mem_foldl_trans (fun _ _ => ?_) ?_) | split | (simp only [Dev.fillCase_mem, Dev.modTxn_mem, Dev.when_mem, Dev.dramWrite_mem, Dev.bump_mem, Dev.mem_ite, ite_self, implies_true]))

@[simp] theorem Dev.endTxn_mem (d : Dev) (l : Nat) : (Dev.endTxn d l).mem = d.mem := by
  unfold Dev.endTxn; repeat' (first | (with_reducible rfl) | (with_reducible refine Dev.mem_foldl_trans (fun _ _ => ?_) ?_) | split | (simp only [Dev.setTxn_mem]))

@[simp] theorem Dev.performHome_mem (d : Dev) (r : HReq) (data : Nat) (psn : Bool) : (Dev.performHome d r data psn).mem = d.mem := by
  unfold Dev.performHome; repeat' (first | (with_reducible rfl) | (with_reducible refine Dev.mem_foldl_trans (fun _ _ => ?_) ?_) | split | (simp only [Dev.setDir_mem, Dev.endTxn_mem, Dev.putHome_mem, Dev.pumpAfter_mem, Dev.answered_mem, Dev.modReq_mem, Dev.performed_mem]))

@[simp] theorem Dev.finishTxn_mem (d : Dev) (l : Nat) (t : Txn) (data : Option (Nat × Bool)) (dirty : Bool) (mem : Bool) : (Dev.finishTxn d l t data dirty mem).mem = d.mem := by
  unfold Dev.finishTxn; repeat' (first | (with_reducible rfl) | (with_reducible refine Dev.mem_foldl_trans (fun _ _ => ?_) ?_) | split | (simp only [Dev.fillCase_mem, Dev.when_mem, Dev.setDir_mem, Dev.endTxn_mem, Dev.missAt_mem, Dev.putHome_mem, Dev.sendReply_mem, Dev.holdLine_mem, Dev.performHome_mem, Dev.mem_ite, ite_self, implies_true]))

@[simp] theorem Dev.evalOne_mem (d : Dev) (l : Nat) : (Dev.evalOne d l).mem = d.mem := by
  unfold Dev.evalOne; dsimp only; (repeat' split) <;> simp only [Dev.when_mem, Dev.bump_mem, Dev.wireMsg_mem, Dev.setTxn_mem, Dev.setDir_mem, Dev.finishTxn_mem, Dev.touchHome_mem, Dev.dramRead_mem, Dev.queueRead_mem, Dev.mem_foldl, implies_true]

@[simp] theorem Dev.takeRoom_mem (d : Dev) (n : Nat) : (Dev.takeRoom d n).mem = d.mem := by
  unfold Dev.takeRoom; repeat' (first | (with_reducible rfl) | (with_reducible refine Dev.mem_foldl_trans (fun _ _ => ?_) ?_) | split | (simp only [Dev.evalOne_mem, Dev.setTxn_mem]))

@[simp] theorem Dev.evalTxn_mem (d : Dev) (l : Nat) : (Dev.evalTxn d l).mem = d.mem := by
  unfold Dev.evalTxn; repeat' (first | (with_reducible rfl) | (with_reducible refine Dev.mem_foldl_trans (fun _ _ => ?_) ?_) | split | (simp only [Dev.evalOne_mem, Dev.takeRoom_mem, Dev.mem_ite, ite_self]))

@[simp] theorem Dev.memReturn_mem (d : Dev) (l : Nat) (data : Nat) (psn : Bool) : (Dev.memReturn d l data psn).mem = d.mem := by
  unfold Dev.memReturn; repeat' (first | (with_reducible rfl) | (with_reducible refine Dev.mem_foldl_trans (fun _ _ => ?_) ?_) | split | (simp only [Dev.evalTxn_mem, Dev.setTxn_mem]))

@[simp] theorem Dev.homeStart_mem (d : Dev) (r : HReq) : (Dev.homeStart d r).mem = d.mem := by
  unfold Dev.homeStart; repeat' (first | (with_reducible rfl) | (with_reducible refine Dev.mem_foldl_trans (fun _ _ => ?_) ?_) | split | (simp only [Dev.caseEcc_mem, Dev.when_mem, Dev.raise_mem, Dev.setDir_mem, Dev.evalTxn_mem, Dev.setTxn_mem, Dev.bump_mem, Dev.mem_ite, implies_true]))

@[simp] theorem Dev.homeEnter_mem (d : Dev) (r : HReq) : (Dev.homeEnter d r).mem = d.mem := by
  unfold Dev.homeEnter; repeat' (first | (with_reducible rfl) | (refine Dev.mem_foldl_trans (fun _ _ => ?_) ?_) | split | (simp only [Dev.homeStart_mem]))

@[simp] theorem Dev.accCheck_mem (d : Dev) (r : HReq) (rq : Req) : (Dev.accCheck d r rq).1.mem = d.mem := by
  unfold Dev.accCheck; repeat' (first | (with_reducible rfl) | (with_reducible refine Dev.mem_foldl_trans (fun _ _ => ?_) ?_) | split | (simp only [Dev.turnAway_mem, Dev.raise_mem]))

@[simp] theorem Dev.accArrive_mem (d : Dev) (r : HReq) (rq : Req) : (Dev.accArrive d r rq).mem = d.mem := by
  unfold Dev.accArrive; repeat' (first | (with_reducible rfl) | (with_reducible refine Dev.mem_foldl_trans (fun _ _ => ?_) ?_) | split | (simp only [Dev.accCheck_mem, Dev.homeEnter_mem, Dev.mem_ite, ite_self, Dev.mem_foldl, implies_true]))

@[simp] theorem Dev.accAdmit_mem (d : Dev) (r : HReq) (rq : Req) : (Dev.accAdmit d r rq).mem = d.mem := by
  unfold Dev.accAdmit; repeat' (first | (with_reducible rfl) | (with_reducible refine Dev.mem_foldl_trans (fun _ _ => ?_) ?_) | split | (simp only [Dev.accCheck_mem]))

@[simp] theorem Dev.takeRequest_mem (d : Dev) (k : HKind) (m : HomeMsg) : (Dev.takeRequest d k m).mem = d.mem := by
  unfold Dev.takeRequest; repeat' (first | (with_reducible rfl) | (refine Dev.mem_foldl_trans (fun _ _ => ?_) ?_) | split | (simp only [Dev.mem_ite, ite_self, Dev.mem_foldl, implies_true]))

@[simp] theorem Dev.homeArrive_mem (d : Dev) (k : HKind) (m : HomeMsg) (ecc : HomeEcc) : (Dev.homeArrive d k m ecc).mem = d.mem := by
  unfold Dev.homeArrive; repeat' (first | (with_reducible rfl) | (with_reducible refine Dev.mem_foldl_trans (fun _ _ => ?_) ?_) | split | (simp only [Dev.takeRequest_mem, Dev.enterCase_mem, Dev.accArrive_mem, Dev.homeEnter_mem, Dev.mem_ite]))

@[simp] theorem Dev.ownerMoved_mem (d : Dev) (l : Nat) : (Dev.ownerMoved d l).mem = d.mem := by
  unfold Dev.ownerMoved; repeat' (first | (with_reducible rfl) | (refine Dev.mem_foldl_trans (fun _ _ => ?_) ?_) | split | (simp only [Dev.evalTxn_mem, Dev.setTxn_mem]))

@[simp] theorem Dev.homeEvict_mem (d : Dev) (k : HKind) (m : HomeMsg) : (Dev.homeEvict d k m).mem = d.mem := by
  unfold Dev.homeEvict; repeat' (first | (with_reducible rfl) | (with_reducible refine Dev.mem_foldl_trans (fun _ _ => ?_) ?_) | split | (simp only [Dev.wireMsg_mem, Dev.takeRequest_mem, Dev.when_mem, Dev.missAt_mem, Dev.meter_mem, Dev.proto_mem, Dev.putHome_mem, Dev.setDir_mem, Dev.ownerMoved_mem, Dev.mem_ite, implies_true]))

@[simp] theorem Dev.takeEvict_mem (d : Dev) (k : HKind) (m : HomeMsg) : (Dev.takeEvict d k m).mem = d.mem := by
  unfold Dev.takeEvict; repeat' (first | (with_reducible rfl) | (with_reducible refine Dev.mem_foldl_trans (fun _ _ => ?_) ?_) | split | (simp only [Dev.homeEvict_mem]))

@[simp] theorem Dev.arrayEcc_mem (d : Dev) (a : Nat) (l : Nat) (p : Nat) (c : CLine) (e : ArrayEcc) : (Dev.arrayEcc d a l p c e).mem = d.mem := by
  unfold Dev.arrayEcc; repeat' (first | (with_reducible rfl) | (with_reducible refine Dev.mem_foldl_trans (fun _ _ => ?_) ?_) | split | (simp only [Dev.raise_mem, Dev.wireMsg_mem, Dev.setCline_mem]))

@[simp] theorem Dev.agentEcc_mem (d : Dev) (a : Nat) (l : Nat) (e : ArrayEcc) : (Dev.agentEcc d a l e).mem = d.mem := by
  unfold Dev.agentEcc; repeat' (first | (with_reducible rfl) | (with_reducible refine Dev.mem_foldl_trans (fun _ _ => ?_) ?_) | split | (simp only [Dev.arrayEcc_mem]))

@[simp] theorem Dev.lookupEcc_mem (d : Dev) (a : Nat) (part : Nat) (l : Nat) (e : ArrayEcc) : (Dev.lookupEcc d a part l e).mem = d.mem := by
  unfold Dev.lookupEcc; repeat' (first | (with_reducible rfl) | (with_reducible refine Dev.mem_foldl_trans (fun _ _ => ?_) ?_) | split | (simp only [Dev.arrayEcc_mem]))

@[simp] theorem Dev.issueSeen_mem (d : Dev) (e : ArrayEcc) (rs : List Req) : (Dev.issueSeen d e rs).mem = d.mem := by
  unfold Dev.issueSeen; repeat' (first | (with_reducible rfl) | (with_reducible refine Dev.mem_foldl_trans (fun _ _ => ?_) ?_) | split | (simp only [Dev.issueAll_mem, Dev.lookupEcc_mem]))

@[simp] theorem Dev.answerSnoop_mem (d : Dev) (a : Nat) (l : Nat) (home : Bool) (rcv : Nat) (grant : Option LState) (data : Option (Nat × Bool)) (present : Bool) (keeps : Bool) (dirty : Bool) : (Dev.answerSnoop d a l home rcv grant data present keeps dirty).mem = d.mem := by
  unfold Dev.answerSnoop; repeat' (first | (with_reducible rfl) | (refine Dev.mem_foldl_trans (fun _ _ => ?_) ?_) | split | (simp only [Dev.wireMsg_mem]))

@[simp] theorem Dev.snoop_mem (d : Dev) (kind : Nat) (m : SnoopMsg) : (Dev.snoop d kind m).mem = d.mem := by
  unfold Dev.snoop; repeat' (first | (with_reducible rfl) | (refine Dev.mem_foldl_trans (fun _ _ => ?_) ?_) | split | (simp only [Dev.deliverReplies_mem, Dev.agentEcc_mem, Dev.answerSnoop_mem, Dev.setCline_mem, Dev.proto_mem, Dev.mem_ite]))

@[simp] theorem Dev.takeAnswer_mem (d : Dev) (a : Nat) (l : Nat) (data : Option (Nat × Bool)) (present : Bool) (keeps : Bool) (direct : Bool) (dirty : Bool) : (Dev.takeAnswer d a l data present keeps direct dirty).mem = d.mem := by
  unfold Dev.takeAnswer; dsimp only; repeat' (first | (with_reducible rfl) | (refine Dev.mem_foldl_trans (fun _ _ => ?_) ?_) | split | (simp only [Dev.setTxn_mem, Dev.setDir_mem, Dev.evalTxn_mem]))

@[simp] theorem Dev.freeLeaving_mem (d : Dev) (a : Nat) (p : Nat) (l : Nat) : (Dev.freeLeaving d a p l).mem = d.mem := by
  unfold Dev.freeLeaving; repeat' (first | (with_reducible rfl) | (with_reducible refine Dev.mem_foldl_trans (fun _ _ => ?_) ?_) | split | (simp only [Dev.setCline_mem]))

/-! ### Reduction -/

@[simp] theorem Dev.rbFlags_mem (d : Dev) (r : Req) (fl : Nat) (psn : Bool) : (Dev.rbFlags d r fl psn).mem = d.mem := by
  unfold Dev.rbFlags; repeat' (first | (with_reducible rfl) | (refine Dev.mem_foldl_trans (fun _ _ => ?_) ?_) | split | (simp only [Dev.when_mem, Dev.set_mem, implies_true]))

@[simp] theorem Dev.scatter_mem (d : Dev) (put : Dev → Nat → Nat → Dev) (v : Nat) (x3 : List Nat) (h_put : ∀ a0 a1 a2, (put a0 a1 a2).mem = a0.mem) : (Dev.scatter d put v x3).mem = d.mem := by
  induction x3 generalizing d v with
  | nil => rfl
  | cons l ls ih => unfold Dev.scatter; rw [ih, h_put]

@[simp] theorem Dev.accDone_mem (d : Dev) (r : Req) : (Dev.accDone d r).mem = d.mem := by
  unfold Dev.accDone; repeat' (first | (with_reducible rfl) | (with_reducible refine Dev.mem_foldl_trans (fun _ _ => ?_) ?_) | split | (simp only [Dev.endTxn_mem, Dev.pumpAfter_mem, Dev.performed_mem, Dev.mem_foldl, implies_true]))

@[simp] theorem rbIll_mem (d : Dev) (q : Nat) (e : Nat) : (rbIll d q e).mem = d.mem := by
  unfold rbIll; repeat' (first | (with_reducible rfl) | (refine Dev.mem_foldl_trans (fun _ _ => ?_) ?_) | split | (simp only [Dev.set_mem]))

@[simp] theorem rbOpenTo_mem (d : Dev) (q : Nat) (e : Nat) (st : Nat) : (rbOpenTo d q e st).mem = d.mem := by
  unfold rbOpenTo; dsimp only; repeat' (first | (with_reducible rfl) | (refine Dev.mem_foldl_trans (fun _ _ => ?_) ?_) | split | (simp only [Dev.set_mem]))

@[simp] theorem Dev.discardCopies_mem (d : Dev) (inR : Nat → Bool) : (Dev.discardCopies d inR).mem = d.mem := by
  unfold Dev.discardCopies; repeat' (first | (with_reducible rfl) | (refine Dev.mem_foldl_trans (fun _ _ => ?_) ?_) | split | (simp only [Dev.mem_ite, ite_self, Dev.mem_foldl, implies_true]))

@[simp] theorem rbCmd_mem (d : Dev) (q : Nat) (val : Nat) : (rbCmd d q val).mem = d.mem := by
  unfold rbCmd; repeat' (first | (with_reducible rfl) | (refine Dev.mem_foldl_trans (fun _ _ => ?_) ?_) | split | (simp only [rbIll_mem, rbOpenTo_mem, Dev.set_mem, Dev.mem_ite, ite_self]))

@[simp] theorem dirLookup_mem (d : Dev) (q : Nat) (n : Nat) : (dirLookup d q n).mem = d.mem := by
  unfold dirLookup; repeat' (first | (with_reducible rfl) | (refine Dev.mem_foldl_trans (fun _ _ => ?_) ?_) | split | (simp only [Dev.set_mem, Dev.setWord_mem, Dev.mem_ite, ite_self]))

@[simp] theorem grpClear_mem (d : Dev) (q : Nat) : (grpClear d q).mem = d.mem := by
  unfold grpClear; dsimp only; (repeat' split) <;> simp only [Dev.setGrp_mem, Dev.answerColo_mem]

/-! ### Maintenance -/

@[simp] theorem Dev.dropCopies_mem (d : Dev) (l : Nat) : (Dev.dropCopies d l).mem = d.mem := by
  unfold Dev.dropCopies; simp only [Dev.setDir_mem]

@[simp] theorem Dev.flushLine_mem (d : Dev) (keep : Bool) (l : Nat) : (Dev.flushLine d keep l).mem = d.mem := by
  unfold Dev.flushLine; dsimp only; (repeat' split) <;> simp only [Dev.when_mem, Dev.dramWrite_mem, Dev.dropCopies_mem, Dev.setDir_mem, implies_true]

@[simp] theorem Dev.flushRange_mem (d : Dev) (keep : Bool) (lo : Nat) (n : Nat) : (Dev.flushRange d keep lo n).mem = d.mem := by
  unfold Dev.flushRange; repeat' (first | (with_reducible rfl) | (with_reducible refine Dev.mem_foldl_trans (fun _ _ => ?_) ?_) | split | (simp only [Dev.flushLine_mem]))

@[simp] theorem hmapWrite_mem (d : Dev) (q : Nat) (val : Nat) : (hmapWrite d q val).mem = d.mem := by
  unfold hmapWrite; repeat' (first | (with_reducible rfl) | (refine Dev.mem_foldl_trans (fun _ _ => ?_) ?_) | split | (simp only [Dev.swField_mem, Dev.set_mem, Dev.flushRange_mem, Dev.mem_ite, ite_self]))

@[simp] theorem Dev.demoteSet_mem (d : Dev) (q : Nat) (s : Nat) (set : Nat) (win : Option Nat) (quota : Nat) : (Dev.demoteSet d q s set win quota).mem = d.mem := by
  unfold Dev.demoteSet; repeat' (first | (with_reducible rfl) | (with_reducible refine Dev.mem_foldl_trans (fun _ _ => ?_) ?_) | split | (simp only [Dev.bump_mem, Dev.setCline_mem]))

@[simp] theorem Dev.demoteWalk_mem (d : Dev) (q : Nat) (p : Nat) (win : Option Nat) (quota : Nat) : (Dev.demoteWalk d q p win quota).mem = d.mem := by
  unfold Dev.demoteWalk; simp only [Dev.demoteSet_mem, Dev.mem_foldl, implies_true]

@[simp] theorem pcfgWrite_mem (d : Dev) (q : Nat) (val : Nat) : (pcfgWrite d q val).mem = d.mem := by
  unfold pcfgWrite; repeat' (first | (with_reducible rfl) | (refine Dev.mem_foldl_trans (fun _ _ => ?_) ?_) | split | (simp only [Dev.swField_mem, Dev.set_mem, Dev.when_mem, Dev.mem_ite, ite_self, implies_true]))

@[simp] theorem pwinCtlWrite_mem (d : Dev) (q : Nat) (val : Nat) : (pwinCtlWrite d q val).mem = d.mem := by
  unfold pwinCtlWrite; repeat' (first | (with_reducible rfl) | (refine Dev.mem_foldl_trans (fun _ _ => ?_) ?_) | split | (simp only [Dev.swField_mem, Dev.set_mem, Dev.when_mem, Dev.mem_ite, ite_self, implies_true]))

@[simp] theorem Dev.drainSlice_mem (d : Dev) (q : Nat) (s : Nat) : (Dev.drainSlice d q s).mem = d.mem := by
  unfold Dev.drainSlice; repeat' (first | (with_reducible rfl) | (with_reducible refine Dev.mem_foldl_trans (fun _ _ => ?_) ?_) | split | (simp only [Dev.evictCase_mem]))

@[simp] theorem caseMnt_mem (d : Dev) (q : Nat) (s : Nat) (val : Nat) : (caseMnt d q s val).mem = d.mem := by
  unfold caseMnt; repeat' (first | (with_reducible rfl) | (refine Dev.mem_foldl_trans (fun _ _ => ?_) ?_) | split | (simp only [Dev.set_mem, Dev.drainSlice_mem, Dev.mem_ite, ite_self]))

@[simp] theorem casePartWrite_mem (d : Dev) (q : Nat) (s : Nat) (val : Nat) : (casePartWrite d q s val).mem = d.mem := by
  unfold casePartWrite; repeat' (first | (with_reducible rfl) | (refine Dev.mem_foldl_trans (fun _ _ => ?_) ?_) | split | (simp only [Dev.swField_mem, Dev.set_mem, Dev.mem_ite, ite_self]))

@[simp] theorem Dev.rcInvalidate_mem (d : Dev) (q : Nat) (part : Option Nat) : (Dev.rcInvalidate d q part).mem = d.mem := by
  unfold Dev.rcInvalidate; repeat' (first | (with_reducible rfl) | (refine Dev.mem_foldl_trans (fun _ _ => ?_) ?_) | split | (simp only [Dev.mem_ite, ite_self, Dev.mem_foldl, implies_true]))

@[simp] theorem mntCmd_mem (d : Dev) (q : Nat) (val : Nat) : (mntCmd d q val).mem = d.mem := by
  unfold mntCmd; repeat' (first | (with_reducible rfl) | (refine Dev.mem_foldl_trans (fun _ _ => ?_) ?_) | split | (simp only [Dev.set_mem, Dev.flushRange_mem, Dev.rcInvalidate_mem, Dev.mem_ite, ite_self]))

@[simp] theorem Dev.dropHome_mem (d : Dev) (l : Nat) : (Dev.dropHome d l).mem = d.mem := by
  unfold Dev.dropHome; repeat' (first | (with_reducible rfl) | (refine Dev.mem_foldl_trans (fun _ _ => ?_) ?_) | split | (simp only [Dev.setCline_mem]))

@[simp] theorem Dev.galFlush_mem (d : Dev) (g : Nat) (part : Option Nat) : (Dev.galFlush d g part).mem = d.mem := by
  unfold Dev.galFlush; dsimp only; repeat' (first | (with_reducible rfl) | (refine Dev.mem_foldl_trans (fun _ _ => ?_) ?_) | split | (simp only [Dev.when_mem, Dev.dramWrite_mem, Dev.dropHome_mem, Dev.setDir_mem, implies_true]))

@[simp] theorem galMnt_mem (d : Dev) (g : Nat) (val : Nat) : (galMnt d g val).mem = d.mem := by
  unfold galMnt; repeat' (first | (with_reducible rfl) | (refine Dev.mem_foldl_trans (fun _ _ => ?_) ?_) | split | (simp only [Dev.set_mem, Dev.galFlush_mem, Dev.mem_ite, ite_self]))

@[simp] theorem srIll_mem (d : Dev) (q : Nat) (e : Nat) : (srIll d q e).mem = d.mem := by
  unfold srIll; simp only [Dev.set_mem]

@[simp] theorem srKeepKeys_mem (d : Dev) (q : Nat) (e : Nat) : (srKeepKeys d q e).mem = d.mem := by
  exact Dev.mem_foldl _ _ _ (fun _ _ => rfl)

@[simp] theorem srCmd_mem (d : Dev) (q : Nat) (val : Nat) : (srCmd d q val).mem = d.mem := by
  unfold srCmd; dsimp only; (repeat' split) <;> simp only [Dev.set_mem, srIll_mem, srKeepKeys_mem]

@[simp] theorem Dev.mirrorLines_mem (d : Dev) (src : Nat) (dst : Nat) (x3 : Nat) : (Dev.mirrorLines d src dst x3).mem = d.mem := by
  induction x3 generalizing d src dst with
  | zero => rfl
  | succ n ih => unfold Dev.mirrorLines; dsimp only; rw [ih, Dev.dramWrite_mem, Dev.dramRead_mem]

/-! ### Stacks -/

@[simp] theorem Dev.poisonLine_mem (d : Dev) (l : Nat) (kind : Nat) : (Dev.poisonLine d l kind).mem = d.mem := by
  unfold Dev.poisonLine; repeat' (first | (with_reducible rfl) | (refine Dev.mem_foldl_trans (fun _ _ => ?_) ?_) | split | (simp only [Dev.eaddr_mem, Dev.bump_mem]))

@[simp] theorem Dev.countCe_mem (d : Dev) (l : Nat) (symbol : Nat) : (Dev.countCe d l symbol).mem = d.mem := by
  unfold Dev.countCe; repeat' (first | (with_reducible rfl) | (with_reducible refine Dev.mem_foldl_trans (fun _ _ => ?_) ?_) | split | (simp only [Dev.raise_mem, Dev.eaddr_mem, Dev.bump_mem]))

@[simp] theorem Dev.noteLevel_mem (d : Dev) (q : Nat) (t : Nat) (level : Nat) : (Dev.noteLevel d q t level).mem = d.mem := by
  unfold Dev.noteLevel; dsimp only; repeat' (first | (with_reducible rfl) | (refine Dev.mem_foldl_trans (fun _ _ => ?_) ?_) | split | (simp only [Dev.mem_ite, ite_self, Dev.mem_foldl, implies_true]))

@[simp] theorem Dev.replyLevel_mem (d : Dev) (l : Nat) : (Dev.replyLevel d l).mem = d.mem := by
  unfold Dev.replyLevel; repeat' (first | (with_reducible rfl) | (refine Dev.mem_foldl_trans (fun _ _ => ?_) ?_) | split | (simp only [Dev.noteLevel_mem]))

@[simp] theorem Dev.failWaiting_mem (d : Dev) (t : Nat) : (Dev.failWaiting d t).mem = d.mem := by
  unfold Dev.failWaiting; simp only [Dev.setMc_mem, Dev.memReturn_mem, Dev.mem_foldl, implies_true]

@[simp] theorem Dev.trainFail_mem (d : Dev) (t : Nat) (mask : Nat) : (Dev.trainFail d t mask).mem = d.mem := by
  unfold Dev.trainFail; simp only [Dev.failWaiting_mem, Dev.raise_mem, Dev.set_mem]

@[simp] theorem Dev.releaseWaiting_mem (d : Dev) (t : Nat) : (Dev.releaseWaiting d t).mem = d.mem := by
  unfold Dev.releaseWaiting; repeat' (first | (with_reducible rfl) | (with_reducible refine Dev.mem_foldl_trans (fun _ _ => ?_) ?_) | split | (simp only [Dev.setMc_mem]))

@[simp] theorem stkCmd_mem (d : Dev) (t : Nat) (val : Nat) : (stkCmd d t val).mem = d.mem := by
  unfold stkCmd; repeat' (first | (with_reducible rfl) | (refine Dev.mem_foldl_trans (fun _ _ => ?_) ?_) | split | (simp only [Dev.set_mem, Dev.setMc_mem, Dev.flushRange_mem, Dev.setStk_mem, Dev.mem_ite, ite_self, Dev.mem_foldl, implies_true]))

/-! ### Imposer -/

@[simp] theorem Dev.qErr_mem (d : Dev) (x : Nat) (q : Nat) (e : Nat) : (Dev.qErr d x q e).mem = d.mem := by
  unfold Dev.qErr; simp only [Dev.set_mem]

@[simp] theorem Dev.acquire_mem (d : Dev) (c : CoreId) (scope : Nat) (part : Nat) : (Dev.acquire d c scope part).mem = d.mem := by
  unfold Dev.acquire; simp only [Dev.modCore_mem, Dev.rcInvalidate_mem, Dev.mem_ite, ite_self, Dev.mem_foldl, implies_true]

@[simp] theorem Dev.writeJournal_mem (d : Dev) (x : Nat) (q : Nat) (r : Run) (status : Nat) (gen : Nat) (xflag : Nat) (chsat : Nat) : (Dev.writeJournal d x q r status gen xflag chsat).mem = d.mem := by
  unfold Dev.writeJournal; dsimp only; (repeat' split) <;> simp only [Dev.issue_mem]

@[simp] theorem Dev.dropRuns_mem (d : Dev) (x : Nat) (q : Nat) (gone : Run → Bool) : (Dev.dropRuns d x q gone).mem = d.mem := by
  unfold Dev.dropRuns; repeat' (first | (with_reducible rfl) | (with_reducible refine Dev.mem_foldl_trans (fun _ _ => ?_) ?_) | split | (simp only [Dev.modCore_mem, Dev.modQueue_mem]))

@[simp] theorem Dev.dropRun_mem (d : Dev) (x : Nat) (q : Nat) (pos : Nat) : (Dev.dropRun d x q pos).mem = d.mem := by
  unfold Dev.dropRun; repeat' (first | (with_reducible rfl) | (with_reducible refine Dev.mem_foldl_trans (fun _ _ => ?_) ?_) | split | (simp only [Dev.dropRuns_mem]))

@[simp] theorem Dev.retire_mem (d : Dev) (x : Nat) (q : Nat) (x3 : Nat) : (Dev.retire d x q x3).mem = d.mem := by
  induction x3 generalizing d with
  | zero => rfl
  | succ n ih =>
    unfold Dev.retire
    dsimp only
    split
    · rfl
    · rw [ih]; simp only [Dev.set_mem, Dev.writeJournal_mem, Dev.dropRun_mem]

@[simp] theorem Dev.retireAll_mem (d : Dev) (x : Nat) (q : Nat) : (Dev.retireAll d x q).mem = d.mem := by
  unfold Dev.retireAll; repeat' (first | (with_reducible rfl) | (refine Dev.mem_foldl_trans (fun _ _ => ?_) ?_) | split | (simp only [Dev.retire_mem]))

@[simp] theorem Dev.releaseSlots_mem (d : Dev) (x : Nat) (q : Nat) : (Dev.releaseSlots d x q).mem = d.mem := by
  unfold Dev.releaseSlots; repeat' (first | (with_reducible rfl) | (refine Dev.mem_foldl_trans (fun _ _ => ?_) ?_) | split | (simp only [Dev.mem_ite, ite_self, Dev.mem_foldl, implies_true]))

@[simp] theorem Dev.setQState_mem (d : Dev) (x : Nat) (q : Nat) (st : Nat) : (Dev.setQState d x q st).mem = d.mem := by
  unfold Dev.setQState; repeat' (first | (with_reducible rfl) | (refine Dev.mem_foldl_trans (fun _ _ => ?_) ?_) | split | (simp only [Dev.set_mem]))

@[simp] theorem Dev.ledger_mem (d : Dev) (x : Nat) : (Dev.ledger d x).mem = d.mem := by
  unfold Dev.ledger; repeat' (first | (with_reducible rfl) | (with_reducible refine Dev.mem_foldl_trans (fun _ _ => ?_) ?_) | split | (simp only [Dev.raiseIf_mem]))

@[simp] theorem Dev.afterHeld_mem (d : Dev) (x : Nat) (q : Nat) : (Dev.afterHeld d x q).mem = d.mem := by
  unfold Dev.afterHeld; repeat' (first | (with_reducible rfl) | (with_reducible refine Dev.mem_foldl_trans (fun _ _ => ?_) ?_) | split | (simp only [Dev.issueAll_mem, Dev.setQState_mem, Dev.ledger_mem, Dev.modQueue_mem, Dev.set_mem, Dev.releaseSlots_mem]))

@[simp] theorem Dev.testHeld_mem (d : Dev) (x : Nat) (q : Nat) : (Dev.testHeld d x q).mem = d.mem := by
  unfold Dev.testHeld; simp only [Dev.afterHeld_mem, Dev.setQState_mem, Dev.mem_ite, ite_self]

@[simp] theorem Dev.withdraw_mem (d : Dev) (x : Nat) (q : Nat) : (Dev.withdraw d x q).mem = d.mem := by
  unfold Dev.withdraw; repeat' (first | (with_reducible rfl) | (with_reducible refine Dev.mem_foldl_trans (fun _ _ => ?_) ?_) | split | (simp only [Dev.abandon_mem, Dev.dropRuns_mem]))

@[simp] theorem Dev.addHead_mem (d : Dev) (c : CoreId) (sl : Nat) (i : Nat) (n : Nat) : (Dev.addHead d c sl i n).1.mem = d.mem := by
  unfold Dev.addHead; repeat' (first | (with_reducible rfl) | (refine Dev.mem_foldl_trans (fun _ _ => ?_) ?_) | split | (simp only [Dev.modCore_mem]))

@[simp] theorem Dev.withdrawBegun_mem (d : Dev) (x : Nat) (q : Nat) (x3 : Nat) : (Dev.withdrawBegun d x q x3).mem = d.mem := by
  induction x3 generalizing d with
  | zero => rfl
  | succ n ih =>
    unfold Dev.withdrawBegun
    dsimp only
    split
    · rfl
    · split
      · rfl
      · rw [ih]
        simp only [Dev.set_mem, Dev.dropRun_mem]
        split <;> simp only [Dev.addHead_mem, Dev.modCore_mem, Dev.abandon_mem]

@[simp] theorem Dev.holdQueue_mem (d : Dev) (x : Nat) (q : Nat) (urgent : Bool) : (Dev.holdQueue d x q urgent).mem = d.mem := by
  unfold Dev.holdQueue; simp only [Dev.withdraw_mem, Dev.setQState_mem, Dev.testHeld_mem, Dev.withdrawBegun_mem, Dev.mem_ite, ite_self]

@[simp] theorem Dev.endQueue_mem (d : Dev) (x : Nat) (q : Nat) (after : Nat) (urgent : Bool) : (Dev.endQueue d x q after urgent).mem = d.mem := by
  unfold Dev.endQueue; dsimp only; repeat' (first | (with_reducible rfl) | (refine Dev.mem_foldl_trans (fun _ _ => ?_) ?_) | split | (simp only [Dev.modQueue_mem, Dev.afterHeld_mem, Dev.holdQueue_mem]))

@[simp] theorem Dev.bindAll_mem (d : Dev) (x : Nat) (q : Nat) (htok : Nat → List Nat) (x4 : List CoreId) (x5 : Nat) : (Dev.bindAll d x q htok x4 x5).mem = d.mem := by
  induction x4 generalizing d x5 with
  | nil => rfl
  | cons c cs ih =>
    unfold Dev.bindAll
    rw [ih]
    split
    · rw [Dev.modCore_mem]
    · rfl

@[simp] theorem Dev.startQueue_mem (d : Dev) (x : Nat) (q : Nat) (htok : Nat → List Nat) : (Dev.startQueue d x q htok).mem = d.mem := by
  unfold Dev.startQueue; repeat' (first | (with_reducible rfl) | (with_reducible refine Dev.mem_foldl_trans (fun _ _ => ?_) ?_) | split | (simp only [Dev.qErr_mem, Dev.setQState_mem, Dev.bindAll_mem]))

@[simp] theorem Dev.enableQueue_mem (d : Dev) (x : Nat) (q : Nat) (restore : Option (List Byte × Answer)) : (Dev.enableQueue d x q restore).mem = d.mem := by
  unfold Dev.enableQueue; repeat' (first | (with_reducible rfl) | (with_reducible refine Dev.mem_foldl_trans (fun _ _ => ?_) ?_) | split | (simp only [Dev.startQueue_mem, Dev.qErr_mem]))

@[simp] theorem Dev.heldByQreq_mem (d : Dev) (x : Nat) (q : Nat) : (Dev.heldByQreq d x q).mem = d.mem := by
  unfold Dev.heldByQreq; repeat' (first | (with_reducible rfl) | (with_reducible refine Dev.mem_foldl_trans (fun _ _ => ?_) ?_) | split | (simp only [Dev.holdQueue_mem]))

@[simp] theorem qCmd_mem (d : Dev) (x : Nat) (val : Nat) (host : List Byte) (ans : Answer) : (qCmd d x val host ans).mem = d.mem := by
  unfold qCmd; repeat' (first | (with_reducible rfl) | (with_reducible refine Dev.mem_foldl_trans (fun _ _ => ?_) ?_) | split | (simp only [Dev.qErr_mem, Dev.heldByQreq_mem, Dev.enableQueue_mem, Dev.holdQueue_mem, Dev.modQueue_mem, Dev.setQState_mem, Dev.endQueue_mem]))

@[simp] theorem doorbell_mem (d : Dev) (x : Nat) (q : Nat) (val : Nat) : (doorbell d x q val).mem = d.mem := by
  unfold doorbell; repeat' (first | (with_reducible rfl) | (with_reducible refine Dev.mem_foldl_trans (fun _ _ => ?_) ?_) | split | (simp only [Dev.raise_mem, Dev.qErr_mem, Dev.set_mem]))

@[simp] theorem qpartWrite_mem (d : Dev) (x : Nat) (val : Nat) : (qpartWrite d x val).mem = d.mem := by
  unfold qpartWrite; dsimp only; (repeat' split) <;> simp only [Dev.qErr_mem, Dev.set_mem]

@[simp] theorem cmapWrite_mem (d : Dev) (x : Nat) (val : Nat) : (cmapWrite d x val).mem = d.mem := by
  unfold cmapWrite; simp only [Dev.set_mem, Dev.mem_ite, ite_self]

@[simp] theorem Dev.fetchBytes_mem (d : Dev) (x : Nat) (q : Nat) (pos : Nat) (a : Nat) (n : Nat) : (Dev.fetchBytes d x q pos a n).mem = d.mem := by
  unfold Dev.fetchBytes; repeat' (first | (with_reducible rfl) | (with_reducible refine Dev.mem_foldl_trans (fun _ _ => ?_) ?_) | split | (simp only [Dev.issueAll_mem]))

@[simp] theorem Dev.fetchEnd_mem (d : Dev) (x : Nat) (q : Nat) (pos : Nat) (code : Nat) (ent : Nat) (img : Img) (cmds : List (List Nat)) : (Dev.fetchEnd d x q pos code ent img cmds).mem = d.mem := by
  unfold Dev.fetchEnd; dsimp only; (repeat' split) <;> simp only [Dev.modQueue_mem]

@[simp] theorem Dev.imageGoes_mem (d : Dev) (x : Nat) (q : Nat) (r : Run) (bytes : List Byte) : (Dev.imageGoes d x q r bytes).mem = d.mem := by
  unfold Dev.imageGoes; repeat' (first | (with_reducible rfl) | (with_reducible refine Dev.mem_foldl_trans (fun _ _ => ?_) ?_) | split | (simp only [Dev.modQueue_mem, Dev.fetchEnd_mem, Dev.raise_mem, Dev.fetchBytes_mem, Dev.mem_ite, ite_self]))

@[simp] theorem Dev.imageArrives_mem (d : Dev) (x : Nat) (q : Nat) (r : Run) : (Dev.imageArrives d x q r).mem = d.mem := by
  unfold Dev.imageArrives; repeat' (first | (with_reducible rfl) | (with_reducible refine Dev.mem_foldl_trans (fun _ _ => ?_) ?_) | split | (simp only [Dev.fetchEnd_mem, Dev.raise_mem, Dev.imageGoes_mem, Dev.mem_ite, ite_self]))

@[simp] theorem Dev.retireSlot_mem (d : Dev) (c : CoreId) (sl : Nat) : (Dev.retireSlot d c sl).mem = d.mem := by
  unfold Dev.retireSlot; repeat' (first | (with_reducible rfl) | (refine Dev.mem_foldl_trans (fun _ _ => ?_) ?_) | split | (simp only [Dev.retireAll_mem]))

@[simp] theorem Dev.stoneEcc_mem (d : Dev) (c : CoreId) (e : StoneEcc) (stn : Nat) (sl : Nat) (ent : Nat) : (Dev.stoneEcc d c e stn sl ent).mem = d.mem := by
  unfold Dev.stoneEcc; repeat' (first | (with_reducible rfl) | (refine Dev.mem_foldl_trans (fun _ _ => ?_) ?_) | split | (simp only [Dev.raise_mem, Dev.endRun_mem]))

@[simp] theorem Dev.beginRun_mem (d : Dev) (c : CoreId) (sl : Nat) (q : Nat) (r : Run) (toks : List Nat) (bufs : List Nat) : (Dev.beginRun d c sl q r toks bufs).mem = d.mem := by
  unfold Dev.beginRun; repeat' (first | (with_reducible rfl) | (refine Dev.mem_foldl_trans (fun _ _ => ?_) ?_) | split | (simp only [Dev.modCore_mem, Dev.acquire_mem, Dev.modRun_mem, Dev.set_mem, Dev.retireAll_mem]))

@[simp] theorem Dev.finishRun_mem (d : Dev) (c : CoreId) (sl : Nat) (q : Nat) (r : Run) : (Dev.finishRun d c sl q r).mem = d.mem := by
  unfold Dev.finishRun; repeat' (first | (with_reducible rfl) | (refine Dev.mem_foldl_trans (fun _ _ => ?_) ?_) | split | (simp only [Dev.modCore_mem, Dev.writeJournal_mem, Dev.dropRun_mem, Dev.testHeld_mem, Dev.set_mem]))

/-! ### Stations -/

@[simp] theorem Dev.chosen_mem (d : Dev) (c : CoreId) (stn : Nat) (sl : Nat) : (Dev.chosen d c stn sl).mem = d.mem := by
  unfold Dev.chosen; dsimp only; (repeat' split) <;> simp only [Dev.modCore_mem]

@[simp] theorem Dev.takeCmd_mem (d : Dev) (c : CoreId) (stn : Nat) (sl : Nat) (n : Nat) (r : Run) : (Dev.takeCmd d c stn sl n r).mem = d.mem := by
  unfold Dev.takeCmd; dsimp only; (repeat' split) <;> simp only [Dev.modCore_mem, Dev.modRun_mem]

@[simp] theorem Dev.startCmd_mem (d : Dev) (c : CoreId) (stn : Nat) (sl : Nat) (n : Nat) (cycles : Nat) (sending : Bool) : (Dev.startCmd d c stn sl n cycles sending).mem = d.mem := by
  unfold Dev.startCmd; repeat' (first | (with_reducible rfl) | (refine Dev.mem_foldl_trans (fun _ _ => ?_) ?_) | split | (simp only [Dev.modCore_mem]))

@[simp] theorem Dev.issueCmd_mem (d : Dev) (c : CoreId) (stn : Nat) (op : Nat) (sl : Nat) (ecc : StoneEcc) (ok : Dev → Bool) (cycles : Run → Img → Nat) (sending : Img → Bool) (go : Dev → Run → Nat → Img → Dev) (h_go : ∀ a0 a1 a2 a3, (go a0 a1 a2 a3).mem = a0.mem) : (Dev.issueCmd d c stn op sl ecc ok cycles sending go).mem = d.mem := by
  unfold Dev.issueCmd; repeat' (first | (with_reducible rfl) | (refine Dev.mem_foldl_trans (fun _ _ => ?_) ?_) | split | (simp only [Dev.stoneEcc_mem, Dev.startCmd_mem, Dev.takeCmd_mem, Dev.chosen_mem, Dev.mem_ite, ite_self, h_go]))

@[simp] theorem Dev.feed_mem (d : Dev) (c : CoreId) (sl : Nat) (n : Nat) (e : Img) (arr : ArrayEcc) (ps : List (Nat × Nat × Nat)) : (Dev.feed d c sl n e arr ps).mem = d.mem := by
  unfold Dev.feed; repeat' (first | (with_reducible rfl) | (with_reducible refine Dev.mem_foldl_trans (fun _ _ => ?_) ?_) | split | (simp only [Dev.acquire_mem, Dev.issueSeen_mem]))

@[simp] theorem Dev.fold_mem (d : Dev) (c : CoreId) (op : Nat) (sl : Nat) (ecc : StoneEcc) : (Dev.fold d c op sl ecc).mem = d.mem := by
  unfold Dev.fold; repeat' (first | (with_reducible rfl) | (refine Dev.mem_foldl_trans (fun _ _ => ?_) ?_) | split | (simp only [Dev.issueCmd_mem, Dev.addFlags_mem, Dev.setCore_mem, implies_true]))

@[simp] theorem Dev.dcacheDrop_mem (d : Dev) (c : CoreId) (ls : List Nat) : (Dev.dcacheDrop d c ls).mem = d.mem := by
  unfold Dev.dcacheDrop; simp only [Dev.modCore_mem]

@[simp] theorem Dev.sendDlv_mem (d : Dev) (c : CoreId) (sl : Nat) (n : Nat) (r : Run) (e : Img) (arr : ArrayEcc) : (Dev.sendDlv d c sl n r e arr).mem = d.mem := by
  unfold Dev.sendDlv; repeat' (first | (with_reducible rfl) | (with_reducible refine Dev.mem_foldl_trans (fun _ _ => ?_) ?_) | split | (simp only [Dev.issueSeen_mem, Dev.dcacheDrop_mem]))

@[simp] theorem Dev.deliverCmd_mem (d : Dev) (c : CoreId) (op : Nat) (sl : Nat) (ecc : StoneEcc) : (Dev.deliverCmd d c op sl ecc).mem = d.mem := by
  unfold Dev.deliverCmd; repeat' (first | (with_reducible rfl) | (refine Dev.mem_foldl_trans (fun _ _ => ?_) ?_) | split | (simp only [Dev.issueCmd_mem, Dev.sendDlv_mem, Dev.mem_ite, ite_self, implies_true]))

@[simp] theorem Dev.completed_mem (d : Dev) (c : CoreId) (stn : Nat) (sl : Nat) (n : Nat) : (Dev.completed d c stn sl n).mem = d.mem := by
  unfold Dev.completed; dsimp only; (repeat' split) <;> simp only [Dev.modCore_mem, Dev.wrapAdd_mem, Dev.modRun_mem, Dev.endRun_mem]

@[simp] theorem Dev.freeStation_mem (d : Dev) (c : CoreId) (stn : Nat) : (Dev.freeStation d c stn).mem = d.mem := by
  unfold Dev.freeStation; dsimp only; repeat' (first | (with_reducible rfl) | (refine Dev.mem_foldl_trans (fun _ _ => ?_) ?_) | split | (simp only [Dev.modCore_mem]))

@[simp] theorem Dev.completeAt_mem (d : Dev) (c : CoreId) (stn : Nat) (sl : Nat) (x : Exec) : (Dev.completeAt d c stn sl x).mem = d.mem := by
  unfold Dev.completeAt; dsimp only; repeat' (first | (with_reducible rfl) | (refine Dev.mem_foldl_trans (fun _ _ => ?_) ?_) | split | (simp only [Dev.completed_mem, Dev.freeStation_mem, Dev.sendDlv_mem, Dev.modCore_mem]))

@[simp] theorem Dev.completeLaunch_mem (d : Dev) (c : CoreId) (sl : Nat) : (Dev.completeLaunch d c sl).mem = d.mem := by
  unfold Dev.completeLaunch; repeat' (first | (with_reducible rfl) | (refine Dev.mem_foldl_trans (fun _ _ => ?_) ?_) | split | (simp only [Dev.completed_mem, Dev.modCore_mem]))

@[simp] theorem Dev.signalArrives_mem (d : Dev) (g : Signal) : (Dev.signalArrives d g).mem = d.mem := by
  unfold Dev.signalArrives; dsimp only; repeat' (first | (with_reducible rfl) | (refine Dev.mem_foldl_trans (fun _ _ => ?_) ?_) | split | (simp only [Dev.addHead_mem, Dev.testTokens_mem, Dev.raiseIf_mem, Dev.endRun_mem, Dev.raise_mem]))

/-! ### Inker -/

@[simp] theorem Dev.modInker_mem (d : Dev) (c : CoreId) (f : Inker → Inker) : (Dev.modInker d c f).mem = d.mem := by
  unfold Dev.modInker; repeat' (first | (with_reducible rfl) | (refine Dev.mem_foldl_trans (fun _ _ => ?_) ?_) | split | (simp only [Dev.modCore_mem]))

@[simp] theorem Dev.modGroup_mem (d : Dev) (c : CoreId) (g : Nat) (f : Group → Group) : (Dev.modGroup d c g f).mem = d.mem := by
  unfold Dev.modGroup; simp only [Dev.modInker_mem]

@[simp] theorem Dev.admitNext_mem (d : Dev) (c : CoreId) (l : Launch) (r : Run) (e : Img) (lgran : Nat) (f : Nat × List Nat × List Nat × Nat) : (Dev.admitNext d c l r e lgran f).mem = d.mem := by
  unfold Dev.admitNext; dsimp only; (repeat' split) <;> simp only [Dev.modCore_mem]

@[simp] theorem Dev.tookIssue_mem (d : Dev) (c : CoreId) (g : Nat) (srcs : List (Nat × Nat × Bool)) (cost : Nat × Nat) : (Dev.tookIssue d c g srcs cost).mem = d.mem := by
  unfold Dev.tookIssue; repeat' (first | (with_reducible rfl) | (with_reducible refine Dev.mem_foldl_trans (fun _ _ => ?_) ?_) | split | (simp only [Dev.modGroup_mem, Dev.modInker_mem]))

@[simp] theorem Dev.inkIssue_mem (d : Dev) (c : CoreId) (g : Nat) (srcs : List (Nat × Nat × Bool)) (dst : List (Nat × Nat)) (cost : Nat × Nat) (ok : Dev → Ctx → Bool) (body : Dev → Ctx → Dev) (h_body : ∀ a0 a1, (body a0 a1).mem = a0.mem) : (Dev.inkIssue d c g srcs dst cost ok body).mem = d.mem := by
  unfold Dev.inkIssue; repeat' (first | (with_reducible rfl) | (with_reducible refine Dev.mem_foldl_trans (fun _ _ => ?_) ?_) | split | (simp only [Dev.endRun_mem, Dev.issue_mem, Dev.tookIssue_mem, h_body]))

@[simp] theorem Dev.advance_mem (d : Dev) (c : CoreId) (g : Nat) : (Dev.advance d c g).mem = d.mem := by
  unfold Dev.advance; simp only [Dev.modGroup_mem]

@[simp] theorem Dev.inkPlain_mem (d : Dev) (c : CoreId) (g : Nat) (srcs : List (Nat × Nat × Bool)) (dst : List (Nat × Nat)) (cost : Nat × Nat) (ok : Dev → Ctx → Bool) (body : Dev → Ctx → Dev) (h_body : ∀ a0 a1, (body a0 a1).mem = a0.mem) : (Dev.inkPlain d c g srcs dst cost ok body).mem = d.mem := by
  unfold Dev.inkPlain; simp only [Dev.inkIssue_mem, Dev.advance_mem, implies_true, h_body]

@[simp] theorem Dev.aluLane_mem (d : Dev) (x : Ctx) (i : InkInstr) (lane : Nat) : (Dev.aluLane d x i lane).1.mem = d.mem := by
  unfold Dev.aluLane; repeat' (first | (with_reducible rfl) | (refine Dev.mem_foldl_trans (fun _ _ => ?_) ?_) | split | (simp only [Dev.free_mem]))

@[simp] theorem Dev.inkStone_mem (d : Dev) (c : CoreId) (x : Ctx) (ecc : StoneEcc) (go : Dev → Dev) (h_go : ∀ a0, (go a0).mem = a0.mem) : (Dev.inkStone d c x ecc go).mem = d.mem := by
  unfold Dev.inkStone; repeat' (first | (with_reducible rfl) | (with_reducible refine Dev.mem_foldl_trans (fun _ _ => ?_) ?_) | split | (simp only [Dev.stoneEcc_mem, Dev.mem_ite, ite_self, h_go]))

@[simp] theorem Dev.inkLoad_mem (d : Dev) (c : CoreId) (g : Nat) (x : Ctx) (dst : Nat) (ra : Nat) (size : Nat) (nocache : Bool) (parity : Bool) (acq : Option Nat) (arr : ArrayEcc) : (Dev.inkLoad d c g x dst ra size nocache parity acq arr).mem = d.mem := by
  unfold Dev.inkLoad; repeat' (first | (with_reducible rfl) | (with_reducible refine Dev.mem_foldl_trans (fun _ _ => ?_) ?_) | split | (simp only [Dev.modGroup_mem, Dev.lookupEcc_mem, Dev.modInker_mem, Dev.acquire_mem, Dev.issue_mem]))

@[simp] theorem Dev.inkStore_mem (d : Dev) (c : CoreId) (g : Nat) (x : Ctx) (src : Nat) (ra : Nat) (size : Nat) (arr : ArrayEcc) : (Dev.inkStore d c g x src ra size arr).mem = d.mem := by
  unfold Dev.inkStore; repeat' (first | (with_reducible rfl) | (with_reducible refine Dev.mem_foldl_trans (fun _ _ => ?_) ?_) | split | (simp only [Dev.modRun_mem, Dev.lookupEcc_mem, Dev.modInker_mem, Dev.issue_mem]))

@[simp] theorem Dev.atomLocal_mem (d : Dev) (c : CoreId) (g : Nat) (x : Ctx) (op : AOp) (i : AtomInstr) : (Dev.atomLocal d c g x op i).mem = d.mem := by
  unfold Dev.atomLocal; dsimp only; (repeat' split) <;> simp only [Dev.addFlags_mem, Dev.modGroup_mem, Dev.setCore_mem]

@[simp] theorem Dev.atomMem_mem (d : Dev) (c : CoreId) (g : Nat) (x : Ctx) (op : AOp) (i : AtomInstr) : (Dev.atomMem d c g x op i).mem = d.mem := by
  unfold Dev.atomMem; repeat' (first | (with_reducible rfl) | (with_reducible refine Dev.mem_foldl_trans (fun _ _ => ?_) ?_) | split | (simp only [Dev.modRun_mem, Dev.dcacheDrop_mem, Dev.lookupEcc_mem, Dev.issueAll_mem]))

@[simp] theorem Dev.atomCmd_mem (d : Dev) (c : CoreId) (g : Nat) (op : AOp) (i : AtomInstr) : (Dev.atomCmd d c g op i).mem = d.mem := by
  unfold Dev.atomCmd; repeat' (first | (with_reducible rfl) | (with_reducible refine Dev.mem_foldl_trans (fun _ _ => ?_) ?_) | split | (simp only [Dev.inkPlain_mem, Dev.inkStone_mem, Dev.atomLocal_mem, Dev.atomMem_mem, implies_true]))

@[simp] theorem Dev.nextHostAtom_mem (d : Dev) (cli : Client) : (Dev.nextHostAtom d cli).mem = d.mem := by
  unfold Dev.nextHostAtom; repeat' (first | (with_reducible rfl) | (refine Dev.mem_foldl_trans (fun _ _ => ?_) ?_) | split | (simp only [Dev.hostIssue_mem]))

/-! ### Traffic -/

@[simp] theorem Dev.brgUp_mem (d : Dev) (q : Nat) (n : Nat) : (Dev.brgUp d q n).mem = d.mem := by
  unfold Dev.brgUp; simp only [Dev.bump_mem, Dev.set_mem]

@[simp] theorem Dev.brgDown_mem (d : Dev) (q : Nat) (n : Nat) : (Dev.brgDown d q n).mem = d.mem := by
  unfold Dev.brgDown; repeat' (first | (with_reducible rfl) | (refine Dev.mem_foldl_trans (fun _ _ => ?_) ?_) | split | (simp only [Dev.raise_mem, Dev.set_mem]))

@[simp] theorem Dev.pumpReq_mem (d : Dev) (r : Req) : (Dev.pumpReq d r).mem = d.mem := by
  unfold Dev.pumpReq; repeat' (first | (with_reducible rfl) | (refine Dev.mem_foldl_trans (fun _ _ => ?_) ?_) | split | (simp only [Dev.pump_mem]))

/-! ### Exwin -/

@[simp] theorem Dev.packetsOf_mem (d : Dev) (r : Req) (more : Option Req) (dev : Nat) (a : Nat) (rc : Bool) : (Dev.packetsOf d r more dev a rc).2.mem = d.mem := by
  unfold Dev.packetsOf; dsimp only; (repeat' split) <;> simp only [Dev.free_mem]

@[simp] theorem Dev.setTag_mem (d : Dev) (q : Nat) (e : Nat) (t : Option TagEnt) : (Dev.setTag d q e t).mem = d.mem := by
  unfold Dev.setTag; simp only []

@[simp] theorem Dev.sendPeer_mem (d : Dev) (q : Nat) (dst : Nat) (cli : Client) (t : TagEnt) (x5 : List (Packet × Nat)) : (Dev.sendPeer d q dst cli t x5).mem = d.mem := by
  induction x5 generalizing d with
  | nil => rfl
  | cons x r ih =>
    obtain ⟨k, e⟩ := x
    unfold Dev.sendPeer
    rw [ih]
    dsimp only
    split
    · simp only [Dev.modPort_mem, Dev.setTag_mem]
    · split
      · simp only [Dev.enqueuePkt_mem, Dev.setTag_mem]
      · rfl

@[simp] theorem Dev.lowerPeer_mem (d : Dev) (r : Req) : (Dev.lowerPeer d r).mem = d.mem := by
  unfold Dev.lowerPeer; repeat' (first | (with_reducible rfl) | (with_reducible refine Dev.mem_foldl_trans (fun _ _ => ?_) ?_) | split | (simp only [Dev.when_mem, Dev.modReq_mem, Dev.bump_mem, implies_true]))

@[simp] theorem Dev.ctlWr_mem (d : Dev) (cli : Client) (rail : Nat) (dst : Nat) (a : Nat) (v : Nat) (tc : Nat) (ctr : Nat) : (Dev.ctlWr d cli rail dst a v tc ctr).mem = d.mem := by
  unfold Dev.ctlWr; repeat' (first | (with_reducible rfl) | (with_reducible refine Dev.mem_foldl_trans (fun _ _ => ?_) ?_) | split | (simp only [Dev.issue_mem]))

@[simp] theorem Dev.mboxWr_mem (d : Dev) (m : SentMsg) (rail : Nat) : (Dev.mboxWr d m rail).mem = d.mem := by
  unfold Dev.mboxWr; repeat' (first | (with_reducible rfl) | (with_reducible refine Dev.mem_foldl_trans (fun _ _ => ?_) ?_) | split | (simp only [Dev.ctlWr_mem]))

@[simp] theorem Dev.sendChunk_mem (d : Dev) (dst : Nat) (a : Nat) (bytes : List Byte) : (Dev.sendChunk d dst a bytes).mem = d.mem := by
  unfold Dev.sendChunk; repeat' (first | (with_reducible rfl) | (with_reducible refine Dev.mem_foldl_trans (fun _ _ => ?_) ?_) | split | (simp only [Dev.ctlWr_mem]))

@[simp] theorem Dev.flushMbox_mem (d : Dev) (x1 : Nat) : (Dev.flushMbox d x1).mem = d.mem := by
  induction x1 generalizing d with
  | zero => rfl
  | succ n ih =>
    unfold Dev.flushMbox
    dsimp only
    split
    · rfl
    · rw [ih]; simp only [Dev.mboxWr_mem]

@[simp] theorem Dev.sendMbox_mem (d : Dev) (dst : Nat) (kind : Nat) (payload : List Byte) : (Dev.sendMbox d dst kind payload).mem = d.mem := by
  unfold Dev.sendMbox; dsimp only; (repeat' split) <;> simp only [Dev.flushMbox_mem]

@[simp] theorem Dev.sendAck_mem (d : Dev) (dst : Nat) (seq : Nat) (status : Nat) : (Dev.sendAck d dst seq status).mem = d.mem := by
  unfold Dev.sendAck; repeat' (first | (with_reducible rfl) | (refine Dev.mem_foldl_trans (fun _ _ => ?_) ?_) | split | (simp only [Dev.sendMbox_mem]))

@[simp] theorem Dev.noteFault_mem (d : Dev) (src : Nat) (named : Nat) (cause : Nat) (synd : Nat) : (Dev.noteFault d src named cause synd).mem = d.mem := by
  unfold Dev.noteFault; dsimp only; repeat' (first | (with_reducible rfl) | (refine Dev.mem_foldl_trans (fun _ _ => ?_) ?_) | split | (simp only [Dev.mem_ite, ite_self, Dev.mem_foldl, implies_true]))

@[simp] theorem Dev.notice_mem (d : Dev) (named : Nat) (cause : Nat) (synd : Nat) : (Dev.notice d named cause synd).mem = d.mem := by
  unfold Dev.notice; repeat' (first | (with_reducible rfl) | (refine Dev.mem_foldl_trans (fun _ _ => ?_) ?_) | split | (simp only [Dev.sendMbox_mem, Dev.noteFault_mem]))

@[simp] theorem Dev.freeFlits_mem (d : Dev) (p : Nat) (j : Nat) (k : Packet) : (Dev.freeFlits d p j k).mem = d.mem := by
  unfold Dev.freeFlits; simp only [Dev.modPort_mem, Dev.mem_ite, ite_self]

@[simp] theorem Dev.unqueue_mem (d : Dev) (p : Nat) (e : Nat × Nat × Packet) : (Dev.unqueue d p e).mem = d.mem := by
  unfold Dev.unqueue; repeat' (first | (with_reducible rfl) | (refine Dev.mem_foldl_trans (fun _ _ => ?_) ?_) | split | (simp only [Dev.modPort_mem, Dev.freeFlits_mem]))

@[simp] theorem Dev.emitFlits_mem (d : Dev) (p : Nat) (k : Packet) (from_ : Nat) : (Dev.emitFlits d p k from_).mem = d.mem := by
  unfold Dev.emitFlits; repeat' (first | (with_reducible rfl) | (with_reducible refine Dev.mem_foldl_trans (fun _ _ => ?_) ?_) | split | (simp only [Dev.modPort_mem, Dev.send_mem, Dev.mem_ite, ite_self]))

@[simp] theorem Dev.servePeer_mem (d : Dev) (p : Nat) (k : Packet) : (Dev.servePeer d p k).mem = d.mem := by
  unfold Dev.servePeer; repeat' (first | (with_reducible rfl) | (refine Dev.mem_foldl_trans (fun _ _ => ?_) ?_) | split | (simp only [Dev.refusePeer_mem, Dev.issueAll_mem, Dev.issue_mem]))

@[simp] theorem Dev.peerLanded_mem (d : Dev) (rq : Nat) : (Dev.peerLanded d rq).mem = d.mem := by
  unfold Dev.peerLanded; repeat' (first | (with_reducible rfl) | (refine Dev.mem_foldl_trans (fun _ _ => ?_) ?_) | split | (simp only [Dev.modReq_mem, Dev.journalDone_mem, Dev.dropReq_mem]))

@[simp] theorem Dev.installPeer_mem (d : Dev) (r : Req) (data : Nat) (psn : Bool) : (Dev.installPeer d r data psn).mem = d.mem := by
  unfold Dev.installPeer; repeat' (first | (with_reducible rfl) | (refine Dev.mem_foldl_trans (fun _ _ => ?_) ?_) | split | (simp only [Dev.fillCase_mem]))

@[simp] theorem Dev.peerData_mem (d : Dev) (t : TagEnt) (k : Packet) : (Dev.peerData d t k).mem = d.mem := by
  unfold Dev.peerData; dsimp only; (repeat' split) <;> simp only [Dev.answered_mem, Dev.modReq_mem, Dev.installPeer_mem]

@[simp] theorem Dev.takePeerReply_mem (d : Dev) (p : Nat) (k : Packet) : (Dev.takePeerReply d p k).mem = d.mem := by
  unfold Dev.takePeerReply; repeat' (first | (with_reducible rfl) | (with_reducible refine Dev.mem_foldl_trans (fun _ _ => ?_) ?_) | split | (simp only [Dev.raise_mem, Dev.bump_mem, Dev.setTag_mem, Dev.peerData_mem, Dev.peerLanded_mem, Dev.addrError_mem]))

@[simp] theorem Dev.acceptShare_mem (d : Dev) (p : Nat) (sh : Nat) : (Dev.acceptShare d p sh).mem = d.mem := by
  unfold Dev.acceptShare; dsimp only; repeat' (first | (with_reducible rfl) | (refine Dev.mem_foldl_trans (fun _ _ => ?_) ?_) | split | (simp only [Dev.freeFlits_mem, Dev.modPort_mem, Dev.servePeer_mem, Dev.takePeerReply_mem]))

@[simp] theorem Dev.takePkt_mem (d : Dev) (p : Nat) (kind : Nat) (k : Packet) : (Dev.takePkt d p kind k).mem = d.mem := by
  unfold Dev.takePkt; repeat' (first | (with_reducible rfl) | (with_reducible refine Dev.mem_foldl_trans (fun _ _ => ?_) ?_) | split | (simp only [Dev.modPort_mem, Dev.raise_mem, Dev.acceptShare_mem, Dev.mem_ite, ite_self]))

@[simp] theorem Dev.arrivePkt_mem (d : Dev) (p : Nat) (kind : Nat) (k : Packet) : (Dev.arrivePkt d p kind k).mem = d.mem := by
  unfold Dev.arrivePkt; repeat' (first | (with_reducible rfl) | (with_reducible refine Dev.mem_foldl_trans (fun _ _ => ?_) ?_) | split | (simp only [Dev.modPort_mem, Dev.takePkt_mem]))

@[simp] theorem Dev.runTimeout_mem (d : Dev) (c : CoreId) (sl : Nat) (stn : Nat) (ent : Nat) : (Dev.runTimeout d c sl stn ent).mem = d.mem := by
  unfold Dev.runTimeout; repeat' (first | (with_reducible rfl) | (refine Dev.mem_foldl_trans (fun _ _ => ?_) ?_) | split | (simp only [Dev.endRun_mem]))

@[simp] theorem Dev.abandonPeer_mem (d : Dev) (rq : Nat) : (Dev.abandonPeer d rq).mem = d.mem := by
  unfold Dev.abandonPeer; repeat' (first | (with_reducible rfl) | (refine Dev.mem_foldl_trans (fun _ _ => ?_) ?_) | split | (simp only [Dev.answered_mem, Dev.runTimeout_mem, Dev.dropReq_mem, Dev.raiseIf_mem, Dev.raise_mem, Dev.modReq_mem]))

@[simp] theorem Dev.setXl_mem (d : Dev) (p : Nat) (st : Nat) : (Dev.setXl d p st).mem = d.mem := by
  unfold Dev.setXl; repeat' (first | (with_reducible rfl) | (with_reducible refine Dev.mem_foldl_trans (fun _ _ => ?_) ?_) | split | (simp only [Dev.set_mem]))

@[simp] theorem Dev.portFalls_mem (d : Dev) (p : Nat) (synd : Nat) : (Dev.portFalls d p synd).mem = d.mem := by
  unfold Dev.portFalls; repeat' (first | (with_reducible rfl) | (with_reducible refine Dev.mem_foldl_trans (fun _ _ => ?_) ?_) | split | (simp only [Dev.modPort_mem, Dev.setXl_mem, Dev.notice_mem, Dev.mem_ite, ite_self]))

@[simp] theorem Dev.portDown_mem (d : Dev) (p : Nat) (synd : Nat) : (Dev.portDown d p synd).mem = d.mem := by
  unfold Dev.portDown; repeat' (first | (with_reducible rfl) | (with_reducible refine Dev.mem_foldl_trans (fun _ _ => ?_) ?_) | split | (simp only [Dev.portFalls_mem, Dev.raise_mem]))

@[simp] theorem Dev.fastRetrain_mem (d : Dev) (p : Nat) (why : Nat) : (Dev.fastRetrain d p why).mem = d.mem := by
  unfold Dev.fastRetrain; repeat' (first | (with_reducible rfl) | (with_reducible refine Dev.mem_foldl_trans (fun _ _ => ?_) ?_) | split | (simp only [Dev.raise_mem, Dev.modPort_mem, Dev.setXl_mem]))

@[simp] theorem Dev.fencePort_mem (d : Dev) (p : Nat) : (Dev.fencePort d p).mem = d.mem := by
  unfold Dev.fencePort; repeat' (first | (with_reducible rfl) | (refine Dev.mem_foldl_trans (fun _ _ => ?_) ?_) | split | (simp only [Dev.setTag_mem, Dev.abandonPeer_mem, Dev.hostFenced_mem, Dev.unqueue_mem]))

@[simp] theorem Dev.loseFlits_mem (d : Dev) (p : Nat) (src : Nat) : (Dev.loseFlits d p src).mem = d.mem := by
  unfold Dev.loseFlits; simp only [Dev.raise_mem, Dev.setPort_mem, Dev.fastRetrain_mem, Dev.mem_ite, ite_self]

@[simp] theorem Dev.loseControl_mem (d : Dev) (p : Nat) : (Dev.loseControl d p).mem = d.mem := by
  unfold Dev.loseControl; simp only [Dev.modPort_mem, Dev.fastRetrain_mem, Dev.mem_ite, ite_self]

@[simp] theorem Dev.tagFails_mem (d : Dev) (p : Nat) : (Dev.tagFails d p).mem = d.mem := by
  unfold Dev.tagFails; repeat' (first | (with_reducible rfl) | (with_reducible refine Dev.mem_foldl_trans (fun _ _ => ?_) ?_) | split | (simp only [Dev.loseFlits_mem, Dev.modPort_mem, Dev.set_mem, Dev.portDown_mem, Dev.mem_ite, ite_self]))

@[simp] theorem Dev.takeControl_mem (d : Dev) (p : Nat) (f : CtlFlit) : (Dev.takeControl d p f).mem = d.mem := by
  unfold Dev.takeControl; repeat' (first | (with_reducible rfl) | (refine Dev.mem_foldl_trans (fun _ _ => ?_) ?_) | split | (simp only [Dev.modPort_mem, Dev.setPort_mem, Dev.fastRetrain_mem, Dev.mem_ite, ite_self]))

@[simp] theorem Dev.resend_mem (d : Dev) (p : Nat) (ack : Nat) : (Dev.resend d p ack).mem = d.mem := by
  unfold Dev.resend; repeat' (first | (with_reducible rfl) | (with_reducible refine Dev.mem_foldl_trans (fun _ _ => ?_) ?_) | split | (simp only [Dev.emitFlits_mem]))

@[simp] theorem Dev.closeBlock_mem (d : Dev) (p : Nat) (f : CtlFlit) : (Dev.closeBlock d p f).mem = d.mem := by
  unfold Dev.closeBlock; repeat' (first | (with_reducible rfl) | (with_reducible refine Dev.mem_foldl_trans (fun _ _ => ?_) ?_) | split | (simp only [Dev.setPort_mem, Dev.send_mem, Dev.mem_ite, ite_self]))

@[simp] theorem xlCmd_mem (d : Dev) (p : Nat) (val : Nat) : (xlCmd d p val).mem = d.mem := by
  unfold xlCmd; repeat' (first | (with_reducible rfl) | (refine Dev.mem_foldl_trans (fun _ _ => ?_) ?_) | split | (simp only [Dev.set_mem, Dev.modPort_mem, Dev.setXl_mem, Dev.mem_ite, ite_self]))

@[simp] theorem Dev.trainFailed_mem (d : Dev) (p : Nat) (cause : Nat) : (Dev.trainFailed d p cause).mem = d.mem := by
  unfold Dev.trainFailed; repeat' (first | (with_reducible rfl) | (refine Dev.mem_foldl_trans (fun _ _ => ?_) ?_) | split | (simp only [Dev.raise_mem, Dev.set_mem, Dev.modPort_mem, Dev.setXl_mem, Dev.notice_mem, Dev.mem_ite, ite_self]))

@[simp] theorem Dev.auditSame_mem (d : Dev) (p : Nat) (i : PeerInfo) : (Dev.auditSame d p i).mem = d.mem := by
  unfold Dev.auditSame; repeat' (first | (with_reducible rfl) | (refine Dev.mem_foldl_trans (fun _ _ => ?_) ?_) | split | (simp only [Dev.raiseIf_mem]))

@[simp] theorem Dev.auditNew_mem (d : Dev) (p : Nat) (i : PeerInfo) : (Dev.auditNew d p i).mem = d.mem := by
  unfold Dev.auditNew; repeat' (first | (with_reducible rfl) | (refine Dev.mem_foldl_trans (fun _ _ => ?_) ?_) | split | (simp only [Dev.modPort_mem]))

@[simp] theorem Dev.linkKeys_mem (d : Dev) (p : Nat) (i : PeerInfo) : (Dev.linkKeys d p i).mem = d.mem := by
  unfold Dev.linkKeys; dsimp only; repeat' (first | (with_reducible rfl) | (refine Dev.mem_foldl_trans (fun _ _ => ?_) ?_) | split | (simp only [Dev.free_mem, Dev.send_mem, Dev.modPort_mem]))

/-! ### Dma -/

@[simp] theorem Dev.setDescs_mem (d : Dev) (ch : Nat) (e : Nat) (l : List Desc) : (Dev.setDescs d ch e l).mem = d.mem := by
  unfold Dev.setDescs; dsimp only; repeat' (first | (with_reducible rfl) | (refine Dev.mem_foldl_trans (fun _ _ => ?_) ?_) | split | (simp only [Dev.mem_ite, ite_self, Dev.mem_foldl, implies_true]))

@[simp] theorem Dev.startDesc_mem (d : Dev) (ch : Nat) (e : Nat) (pos : Nat) (b : List Byte) : (Dev.startDesc d ch e pos b).mem = d.mem := by
  unfold Dev.startDesc; simp only [Dev.issueAll_mem, Dev.mem_ite, ite_self]

@[simp] theorem Dev.moveLine_mem (d : Dev) (ch : Nat) (e : Nat) (x : Desc) (line : Nat) : (Dev.moveLine d ch e x line).mem = d.mem := by
  unfold Dev.moveLine; dsimp only; (repeat' split) <;> simp only [Dev.modReq_mem, Dev.dropReq_mem, Dev.issue_mem, Dev.mem_ite, ite_self, Dev.mem_foldl, implies_true]

@[simp] theorem Dev.dmaPump_mem (d : Dev) (ch : Nat) (e : Nat) : (Dev.dmaPump d ch e).mem = d.mem := by
  unfold Dev.dmaPump; repeat' (first | (with_reducible rfl) | (refine Dev.mem_foldl_trans (fun _ _ => ?_) ?_) | split | (simp only [Dev.moveLine_mem]))

@[simp] theorem Dev.restEngine_mem (d : Dev) (ch : Nat) (e : Nat) : (Dev.restEngine d ch e).mem = d.mem := by
  unfold Dev.restEngine; simp only [Dev.haltEngine_mem, Dev.mem_ite, ite_self]

@[simp] theorem Dev.descDone_mem (d : Dev) (ch : Nat) (e : Nat) (x : Desc) (rest : List Desc) : (Dev.descDone d ch e x rest).mem = d.mem := by
  unfold Dev.descDone; simp only [Dev.set_mem, Dev.setDescs_mem, Dev.restEngine_mem, Dev.issue_mem, Dev.mem_ite, ite_self]

@[simp] theorem Dev.dmaFront_mem (d : Dev) (ch : Nat) (e : Nat) : (Dev.dmaFront d ch e).mem = d.mem := by
  unfold Dev.dmaFront; dsimp only; (repeat' split) <;> simp only [Dev.haltEngine_mem, Dev.restEngine_mem, Dev.descDone_mem]

@[simp] theorem Dev.fetchDesc_mem (d : Dev) (ch : Nat) (e : Nat) (pos : Nat) (host : List Byte) (ans : FetchAnswer) : (Dev.fetchDesc d ch e pos host ans).2.mem = d.mem := by
  unfold Dev.fetchDesc; dsimp only; (repeat' split) <;> simp only [Dev.raise_mem]

@[simp] theorem Dev.takeDesc_mem (d : Dev) (ch : Nat) (e : Nat) (host : List Byte) (ans : FetchAnswer) : (Dev.takeDesc d ch e host ans).mem = d.mem := by
  unfold Dev.takeDesc
  extract_lets ds pos
  refine Dev.mem_if (Dev.mem_if (Dev.haltEngine_mem _ _ _ _) rfl) ?_
  split
  · next cause d' heq =>
    have hd : d'.mem = d.mem := by have := Dev.fetchDesc_mem d ch e pos host ans; rw [heq] at this; exact this
    exact Dev.mem_if ((Dev.haltEngine_mem _ _ _ _).trans hd) rfl
  · next b d' heq =>
    have hd : d'.mem = d.mem := by have := Dev.fetchDesc_mem d ch e pos host ans; rw [heq] at this; exact this
    refine Dev.mem_if (Dev.mem_if ((Dev.haltEngine_mem _ _ _ _).trans hd) rfl) (Dev.mem_if rfl ?_)
    rw [Dev.startDesc_mem, Dev.setDescs_mem, hd]

@[simp] theorem dmaWp_mem (d : Dev) (ch : Nat) (e : Nat) (val : Nat) : (dmaWp d ch e val).mem = d.mem := by
  unfold dmaWp; repeat' (first | (with_reducible rfl) | (refine Dev.mem_foldl_trans (fun _ _ => ?_) ?_) | split | (simp only [Dev.set_mem, Dev.restEngine_mem, Dev.mem_ite, ite_self]))

@[simp] theorem dmaResume_mem (d : Dev) (ch : Nat) (e : Nat) : (dmaResume d ch e).mem = d.mem := by
  unfold dmaResume; repeat' (first | (with_reducible rfl) | (refine Dev.mem_foldl_trans (fun _ _ => ?_) ?_) | split | (simp only [Dev.restEngine_mem, Dev.set_mem]))

@[simp] theorem Dev.forEngines_mem (d : Dev) (ok : Dev → Nat → Bool) (f : Dev → Nat → Dev) (h_f : ∀ a0 a1, (f a0 a1).mem = a0.mem) : (Dev.forEngines d ok f).mem = d.mem := by
  unfold Dev.forEngines; repeat' (first | (with_reducible rfl) | (refine Dev.mem_foldl_trans (fun _ _ => ?_) ?_) | split | (simp only [h_f]))

@[simp] theorem Dev.haltAll_mem (d : Dev) (ch : Nat) (cause : Nat) (ok : Dev → Nat → Bool) : (Dev.haltAll d ch cause ok).mem = d.mem := by
  unfold Dev.haltAll; repeat' (first | (with_reducible rfl) | (with_reducible refine Dev.mem_foldl_trans (fun _ _ => ?_) ?_) | split | (simp only [Dev.forEngines_mem, Dev.haltEngine_mem, implies_true]))

@[simp] theorem Dev.clearEngine_mem (d : Dev) (ch : Nat) (e : Nat) : (Dev.clearEngine d ch e).mem = d.mem := by
  unfold Dev.clearEngine; dsimp only; (repeat' split) <;> simp only [Dev.setDescs_mem, Dev.setWord_mem, Dev.mem_foldl, implies_true]

/-! ### Resets -/

@[simp] theorem Dev.unbindRuns_mem (d : Dev) (dom : Dom) : (Dev.unbindRuns d dom).mem = d.mem := by
  unfold Dev.unbindRuns; repeat' (first | (with_reducible rfl) | (refine Dev.mem_foldl_trans (fun _ _ => ?_) ?_) | split | (simp only [Dev.abandon_mem]))

@[simp] theorem Dev.endRuns_mem (d : Dev) (dom : Dom) (code : Nat) : (Dev.endRuns d dom code).mem = d.mem := by
  unfold Dev.endRuns; repeat' (first | (with_reducible rfl) | (refine Dev.mem_foldl_trans (fun _ _ => ?_) ?_) | split | (simp only [Dev.endRun_mem]))

@[simp] theorem Dev.saveQueue_mem (d : Dev) (x : Nat) (q : Nat) : (Dev.saveQueue d x q).mem = d.mem := by
  unfold Dev.saveQueue; simp only [Dev.issueAll_mem]

@[simp] theorem Dev.stopQueues_mem (d : Dev) (qs : List Nat) : (Dev.stopQueues d qs).mem = d.mem := by
  unfold Dev.stopQueues; simp only [Dev.withdraw_mem, Dev.saveQueue_mem, Dev.mem_ite, ite_self, Dev.mem_foldl, implies_true]

@[simp] theorem Dev.absorbAll_mem (d : Dev) : (Dev.absorbAll d).mem = d.mem := by
  unfold Dev.absorbAll; repeat' (first | (with_reducible rfl) | (with_reducible refine Dev.mem_foldl_trans (fun _ _ => ?_) ?_) | split | (simp only [Dev.turnAway_mem]))

@[simp] theorem Dev.addDefects_mem (d : Dev) (x : Nat) (row : Nat) (mask : Nat) : (Dev.addDefects d x row mask).mem = d.mem := by
  unfold Dev.addDefects; repeat' (first | (with_reducible rfl) | (refine Dev.mem_foldl_trans (fun _ _ => ?_) ?_) | split | (simp only [Dev.mem_ite, ite_self, Dev.mem_foldl, implies_true]))

@[simp] theorem Dev.extendMr_mem (d : Dev) (k : Nat) (e : List Byte) : (Dev.extendMr d k e).mem = d.mem := by
  unfold Dev.extendMr; repeat' (first | (with_reducible rfl) | (refine Dev.mem_foldl_trans (fun _ _ => ?_) ?_) | split | (simp only [Dev.mem_ite, ite_self, Dev.mem_foldl, implies_true]))

@[simp] theorem Dev.measurePlan_mem (d : Dev) : (Dev.measurePlan d).mem = d.mem := by
  unfold Dev.measurePlan; repeat' (first | (with_reducible rfl) | (refine Dev.mem_foldl_trans (fun _ _ => ?_) ?_) | split | (simp only [Dev.extendMr_mem]))

@[simp] theorem Dev.repairDone_mem (d : Dev) (x : Nat) (row : Nat) (mask : Nat) : (Dev.repairDone d x row mask).mem = d.mem := by
  unfold Dev.repairDone; repeat' (first | (with_reducible rfl) | (refine Dev.mem_foldl_trans (fun _ _ => ?_) ?_) | split | (simp only [Dev.measurePlan_mem, Dev.addDefects_mem]))

@[simp] theorem Dev.startReset_mem (d : Dev) (dom : Dom) (cause : Nat) (esc : Bool) (rpr : Nat) : (Dev.startReset d dom cause esc rpr).mem = d.mem := by
  unfold Dev.startReset; repeat' (first | (with_reducible rfl) | (with_reducible refine Dev.mem_foldl_trans (fun _ _ => ?_) ?_) | split | (simp only [Dev.repairDone_mem, Dev.endRuns_mem, Dev.unbindRuns_mem, Dev.absorbAll_mem, Dev.stopQueues_mem, Dev.mem_ite]))

@[simp] theorem Dev.erasePages_mem (d : Dev) (device : Bool) (mine : Page → Bool) : (Dev.erasePages d device mine).mem = d.mem := by
  unfold Dev.erasePages; repeat' (first | (with_reducible rfl) | (refine Dev.mem_foldl_trans (fun _ _ => ?_) ?_) | split | (simp only [Dev.setWord_mem, Dev.mem_ite, ite_self]))

@[simp] theorem Dev.clearCores_mem (d : Dev) (dom : Dom) : (Dev.clearCores d dom).mem = d.mem := by
  unfold Dev.clearCores; simp only []

@[simp] theorem Dev.evictHome_mem (d : Dev) (k : Nat) (c : CLine) : (Dev.evictHome d k c).mem = d.mem := by
  unfold Dev.evictHome; repeat' (first | (with_reducible rfl) | (with_reducible refine Dev.mem_foldl_trans (fun _ _ => ?_) ?_) | split | (simp only [Dev.homeEvict_mem]))

@[simp] theorem Dev.bridgesDown_mem (d : Dev) (qs : List Nat) : (Dev.bridgesDown d qs).mem = d.mem := by
  unfold Dev.bridgesDown; repeat' (first | (with_reducible rfl) | (with_reducible refine Dev.mem_foldl_trans (fun _ _ => ?_) ?_) | split | (simp only [Dev.set_mem]))

@[simp] theorem Dev.closeColl_mem (d : Dev) (k : Nat) : (Dev.closeColl d k).mem = d.mem := by
  unfold Dev.closeColl; simp only [Dev.setColl_mem]

@[simp] theorem Dev.retrainAll_mem (d : Dev) (qs : List Nat) : (Dev.retrainAll d qs).mem = d.mem := by
  unfold Dev.retrainAll; dsimp only; repeat' (first | (with_reducible rfl) | (refine Dev.mem_foldl_trans (fun _ _ => ?_) ?_) | split | (simp only [Dev.set_mem, Dev.setXl_mem]))

@[simp] theorem Dev.drainLedger_mem (d : Dev) (dom : Dom) : (Dev.drainLedger d dom).mem = d.mem := by
  unfold Dev.drainLedger; repeat' (first | (with_reducible rfl) | (with_reducible refine Dev.mem_foldl_trans (fun _ _ => ?_) ?_) | split | (simp only [Dev.raiseIf_mem]))

@[simp] theorem Dev.cutDeliveries_mem (d : Dev) (dom : Dom) : (Dev.cutDeliveries d dom).mem = d.mem := by
  unfold Dev.cutDeliveries; repeat' (first | (with_reducible rfl) | (with_reducible refine Dev.mem_foldl_trans (fun _ _ => ?_) ?_) | split | (simp only [Dev.abandon_mem]))

@[simp] theorem Dev.rebindCore_mem (d : Dev) (c : CoreId) : (Dev.rebindCore d c).mem = d.mem := by
  unfold Dev.rebindCore; repeat' (first | (with_reducible rfl) | (refine Dev.mem_foldl_trans (fun _ _ => ?_) ?_) | split | (simp only [Dev.modCore_mem]))

@[simp] theorem Dev.rstInfo_mem (d : Dev) (q : Nat) (r : Rst) : (Dev.rstInfo d q r).mem = d.mem := by
  unfold Dev.rstInfo; dsimp only; repeat' (first | (with_reducible rfl) | (refine Dev.mem_foldl_trans (fun _ _ => ?_) ?_) | split | (simp only [Dev.wrapAdd_mem, Dev.set_mem]))

@[simp] theorem Dev.reloadWtab_mem (d : Dev) (q : Nat) : (Dev.reloadWtab d q).mem = d.mem := by
  unfold Dev.reloadWtab; dsimp only; (repeat' split) <;> simp only []

@[simp] theorem crstWrite_mem (d : Dev) (x : Nat) (val : Nat) : (crstWrite d x val).mem = d.mem := by
  unfold crstWrite; repeat' (first | (with_reducible rfl) | (refine Dev.mem_foldl_trans (fun _ _ => ?_) ?_) | split | (simp only [Dev.set_mem, Dev.startReset_mem, Dev.mem_ite, ite_self]))

@[simp] theorem brst_mem (d : Dev) (p : Page) : (brst d p).mem = d.mem := by
  unfold brst; repeat' (first | (with_reducible rfl) | (with_reducible refine Dev.mem_foldl_trans (fun _ _ => ?_) ?_) | split | (simp only [Dev.startReset_mem]))

@[simp] theorem rprWrite_mem (d : Dev) (x : Nat) (val : Nat) : (rprWrite d x val).mem = d.mem := by
  unfold rprWrite; dsimp only; (repeat' split) <;> simp only [Dev.set_mem, Dev.repairDone_mem, Dev.startReset_mem]

/-! ### Channels -/

@[simp] theorem arrangeWrite_mem (d : Dev) (val : Nat) : (arrangeWrite d val).mem = d.mem := by
  unfold arrangeWrite; repeat' (first | (with_reducible rfl) | (refine Dev.mem_foldl_trans (fun _ _ => ?_) ?_) | split | (simp only [Dev.swField_mem, Dev.set_mem, Dev.mem_ite, ite_self]))

@[simp] theorem Dev.clearGroup_mem (d : Dev) (k : Nat) : (Dev.clearGroup d k).mem = d.mem := by
  unfold Dev.clearGroup; repeat' (first | (with_reducible rfl) | (refine Dev.mem_foldl_trans (fun _ _ => ?_) ?_) | split | (simp only [Dev.setGrp_mem, Dev.answerColo_mem]))

@[simp] theorem ctrmapWrite_mem (d : Dev) (q : Nat) (val : Nat) : (ctrmapWrite d q val).mem = d.mem := by
  unfold ctrmapWrite; dsimp only; repeat' (first | (with_reducible rfl) | (refine Dev.mem_foldl_trans (fun _ _ => ?_) ?_) | split | (simp only [Dev.swField_mem, Dev.set_mem, Dev.clearGroup_mem]))

@[simp] theorem Dev.quiescePart_mem (d : Dev) (ch : Nat) (part : Nat) (urgent : Bool) (infence : Bool) (flr : Option Nat) : (Dev.quiescePart d ch part urgent infence flr).mem = d.mem := by
  unfold Dev.quiescePart; simp only [Dev.holdQueue_mem, Dev.haltAll_mem, Dev.forEngines_mem, Dev.restEngine_mem, Dev.mem_ite, ite_self, Dev.mem_foldl, implies_true]

@[simp] theorem pqCmd_mem (d : Dev) (ch : Nat) (val : Nat) : (pqCmd d ch val).mem = d.mem := by
  unfold pqCmd; dsimp only; (repeat' split) <;> simp only [Dev.set_mem, Dev.quiescePart_mem]

@[simp] theorem blkQreq_mem (d : Dev) (p : Page) (on : Bool) : (blkQreq d p on).mem = d.mem := by
  unfold blkQreq; dsimp only; (repeat' split) <;> simp only [Dev.set_mem, Dev.holdQueue_mem, Dev.haltAll_mem, Dev.releaseHost_mem, Dev.mem_ite, ite_self, Dev.mem_foldl, implies_true]

@[simp] theorem Dev.flrStart_mem (d : Dev) (f : Nat) : (Dev.flrStart d f).mem = d.mem := by
  unfold Dev.flrStart; simp only [Dev.setFunc_mem, Dev.quiescePart_mem, Dev.endQueue_mem, Dev.mem_ite, ite_self, Dev.mem_foldl, implies_true]

@[simp] theorem clearVfs_mem (d : Dev) : (clearVfs d).mem = d.mem := by
  unfold clearVfs; simp only [Dev.flrStart_mem, Dev.setFunc_mem, Dev.mem_ite, ite_self, Dev.mem_foldl, implies_true]

@[simp] theorem Dev.abandonPart_mem (d : Dev) (ch : Nat) (part : Nat) : (Dev.abandonPart d ch part).mem = d.mem := by
  unfold Dev.abandonPart; repeat' (first | (with_reducible rfl) | (refine Dev.mem_foldl_trans (fun _ _ => ?_) ?_) | split | (simp only [Dev.dropReq_mem, Dev.answered_mem]))

/-! ### HostPort -/

@[simp] theorem Dev.cfgVfs_mem (d : Dev) (on : Bool) (n : Nat) : (Dev.cfgVfs d on n).mem = d.mem := by
  unfold Dev.cfgVfs; repeat' (first | (with_reducible rfl) | (refine Dev.mem_foldl_trans (fun _ _ => ?_) ?_) | split | (simp only [Dev.setFunc_mem, clearVfs_mem]))

@[simp] theorem cfgWrite_mem (d : Dev) (f : Nat) (w : CfgWrite) : (cfgWrite d f w).mem = d.mem := by
  unfold cfgWrite; dsimp only; (repeat' split) <;> simp only [Dev.cfgVfs_mem, Dev.setFunc_mem, Dev.tdiToError_mem]

@[simp] theorem vfDoorbell_mem (d : Dev) (v : Nat) (k : Nat) (val : Nat) : (vfDoorbell d v k val).mem = d.mem := by
  unfold vfDoorbell; dsimp only; (repeat' split) <;> simp only [doorbell_mem]

@[simp] theorem Dev.hostForget_mem (d : Dev) (id : Nat) : (Dev.hostForget d id).mem = d.mem := by
  unfold Dev.hostForget; simp only []

@[simp] theorem Dev.atomNext_mem (d : Dev) (r : Req) : (Dev.atomNext d r).mem = d.mem := by
  unfold Dev.atomNext; repeat' (first | (with_reducible rfl) | (refine Dev.mem_foldl_trans (fun _ _ => ?_) ?_) | split | (simp only [Dev.hostIssue_mem]))

@[simp] theorem Dev.hostAfter_mem (d : Dev) (r : Req) : (Dev.hostAfter d r).mem = d.mem := by
  unfold Dev.hostAfter; repeat' (first | (with_reducible rfl) | (with_reducible refine Dev.mem_foldl_trans (fun _ _ => ?_) ?_) | split | (simp only [Dev.dmaPump_mem, Dev.atomNext_mem]))

@[simp] theorem Dev.hostData_mem (d : Dev) (r : Req) (data : List Byte) : (Dev.hostData d r data).mem = d.mem := by
  unfold Dev.hostData; dsimp only; repeat' (first | (with_reducible rfl) | (refine Dev.mem_foldl_trans (fun _ _ => ?_) ?_) | split | (simp only [Dev.answered_mem, Dev.modReq_mem]))

@[simp] theorem hostCompletion_mem (d : Dev) (rq : Nat) (ans : Answer) (data : List Byte) : (hostCompletion d rq ans data).mem = d.mem := by
  unfold hostCompletion; repeat' (first | (with_reducible rfl) | (refine Dev.mem_foldl_trans (fun _ _ => ?_) ?_) | split | (simp only [Dev.hostAfter_mem, Dev.hostData_mem, Dev.hostForget_mem, Dev.answered_mem, Dev.raise_mem, Dev.addrError_mem]))

@[simp] theorem cplTimeout_mem (d : Dev) (rq : Nat) : (cplTimeout d rq).mem = d.mem := by
  unfold cplTimeout; dsimp only; (repeat' split) <;> simp only [Dev.raise_mem, Dev.hostForget_mem, Dev.modReq_mem, Dev.hostAfter_mem, Dev.answered_mem]

@[simp] theorem Dev.atcAdd_mem (d : Dev) (x : AtcEnt) : (Dev.atcAdd d x).mem = d.mem := by
  unfold Dev.atcAdd; dsimp only; (repeat' split) <;> simp only [Dev.free_mem]

@[simp] theorem Dev.atsRelease_mem (d : Dev) (h : HostId) (page : Nat) : (Dev.atsRelease d h page).mem = d.mem := by
  unfold Dev.atsRelease; repeat' (first | (with_reducible rfl) | (with_reducible refine Dev.mem_foldl_trans (fun _ _ => ?_) ?_) | split | (simp only [Dev.sendPosted_mem, Dev.hostGo_mem, Dev.mem_foldl, implies_true]))

@[simp] theorem atsCompletion_mem (d : Dev) (rq : Nat) (granted : Bool) (page : Nat) : (atsCompletion d rq granted page).mem = d.mem := by
  unfold atsCompletion; repeat' (first | (with_reducible rfl) | (with_reducible refine Dev.mem_foldl_trans (fun _ _ => ?_) ?_) | split | (simp only [Dev.atsRelease_mem, Dev.atcAdd_mem, Dev.raise_mem, Dev.modReq_mem, Dev.sendPosted_mem, Dev.hostAfter_mem, Dev.addrError_mem, Dev.hostForget_mem]))

@[simp] theorem atsInvalidate_mem (d : Dev) (f : Nat) (pasid : Nat) (page : Nat) (tag : Nat) : (atsInvalidate d f pasid page tag).mem = d.mem := by
  unfold atsInvalidate; dsimp only; (repeat' split) <;> simp only []

@[simp] theorem atsInvDone_mem (d : Dev) (tag : Nat) : (atsInvDone d tag).mem = d.mem := by
  unfold atsInvDone; repeat' (first | (with_reducible rfl) | (refine Dev.mem_foldl_trans (fun _ _ => ?_) ?_) | split | (simp only [Dev.send_mem]))

@[simp] theorem linkDown_mem (d : Dev) : (linkDown d).mem = d.mem := by
  unfold linkDown; repeat' (first | (with_reducible rfl) | (with_reducible refine Dev.mem_foldl_trans (fun _ _ => ?_) ?_) | split | (simp only [Dev.sendPosted_mem, Dev.set_mem]))

@[simp] theorem linkUp_mem (d : Dev) (rate : Nat) (width : Nat) (flit : Bool) : (linkUp d rate width flit).mem = d.mem := by
  unfold linkUp; dsimp only; repeat' (first | (with_reducible rfl) | (refine Dev.mem_foldl_trans (fun _ _ => ?_) ?_) | split | (simp only [Dev.set_mem, Dev.raiseIf_mem, Dev.hostGo_mem, Dev.addrError_mem]))

@[simp] theorem msixSend_mem (d : Dev) (f : Nat) (vec : Nat) : (msixSend d f vec).mem = d.mem := by
  unfold msixSend; repeat' (first | (with_reducible rfl) | (refine Dev.mem_foldl_trans (fun _ _ => ?_) ?_) | split | (simp only [Dev.setFunc_mem, Dev.send_mem, Dev.mem_ite, ite_self]))

@[simp] theorem ptagWrite_mem (d : Dev) (ch : Nat) (val : Nat) : (ptagWrite d ch val).mem = d.mem := by
  unfold ptagWrite; repeat' (first | (with_reducible rfl) | (refine Dev.mem_foldl_trans (fun _ _ => ?_) ?_) | split | (simp only [Dev.swField_mem, Dev.set_mem, Dev.mem_ite, ite_self]))

@[simp] theorem qirqWrite_mem (d : Dev) (ch : Nat) (val : Nat) : (qirqWrite d ch val).mem = d.mem := by
  unfold qirqWrite; repeat' (first | (with_reducible rfl) | (refine Dev.mem_foldl_trans (fun _ _ => ?_) ?_) | split | (simp only [Dev.swField_mem, Dev.set_mem, Dev.mem_ite, ite_self]))

@[simp] theorem Dev.tdisp_mem (d : Dev) (f : Nat) (code : Nat) (body : List Byte) : (Dev.tdisp d f code body).mem = d.mem := by
  unfold Dev.tdisp; simp only [Dev.send_mem]

@[simp] theorem lockTdi_mem (d : Dev) (f : Nat) : (lockTdi d f).mem = d.mem := by
  unfold lockTdi; repeat' (first | (with_reducible rfl) | (refine Dev.mem_foldl_trans (fun _ _ => ?_) ?_) | split | (simp only [Dev.tdisp_mem, Dev.setFunc_mem]))

@[simp] theorem startTdi_mem (d : Dev) (f : Nat) : (startTdi d f).mem = d.mem := by
  unfold startTdi; dsimp only; (repeat' split) <;> simp only [Dev.tdisp_mem, Dev.setFunc_mem]

@[simp] theorem reportTdi_mem (d : Dev) (f : Nat) : (reportTdi d f).mem = d.mem := by
  unfold reportTdi; repeat' (first | (with_reducible rfl) | (refine Dev.mem_foldl_trans (fun _ _ => ?_) ?_) | split | (simp only [Dev.tdisp_mem]))

@[simp] theorem unlockTdi_mem (d : Dev) (f : Nat) : (unlockTdi d f).mem = d.mem := by
  unfold unlockTdi; repeat' (first | (with_reducible rfl) | (refine Dev.mem_foldl_trans (fun _ _ => ?_) ?_) | split | (simp only [Dev.tdisp_mem, Dev.setFunc_mem]))

/-! ### Errors -/

@[simp] theorem errStatW_mem (d : Dev) (p : Page) (val : Nat) : (errStatW d p val).mem = d.mem := by
  unfold errStatW; dsimp only; repeat' (first | (with_reducible rfl) | (refine Dev.mem_foldl_trans (fun _ _ => ?_) ?_) | split | (simp only [Dev.swField_mem, Dev.set_mem, Dev.raise_mem]))

@[simp] theorem Dev.setStat_mem (d : Dev) (k : Nat) (v : Nat) : (Dev.setStat d k v).mem = d.mem := by
  unfold Dev.setStat; repeat' (first | (with_reducible rfl) | (refine Dev.mem_foldl_trans (fun _ _ => ?_) ?_) | split | (simp only [Dev.setWord_mem]))

@[simp] theorem Dev.alert_mem (d : Dev) : (Dev.alert d).mem = d.mem := by
  unfold Dev.alert; repeat' (first | (with_reducible rfl) | (with_reducible refine Dev.mem_foldl_trans (fun _ _ => ?_) ?_) | split | (simp only [Dev.send_mem]))

@[simp] theorem Dev.collVec_mem (d : Dev) (k : Nat) (vec : Nat) : (Dev.collVec d k vec).mem = d.mem := by
  unfold Dev.collVec; repeat' (first | (with_reducible rfl) | (with_reducible refine Dev.mem_foldl_trans (fun _ _ => ?_) ?_) | split | (simp only [Dev.raiseVec_mem, Dev.alert_mem]))

@[simp] theorem Dev.fenceHost_mem (d : Dev) (ch : Nat) : (Dev.fenceHost d ch).mem = d.mem := by
  unfold Dev.fenceHost; repeat' (first | (with_reducible rfl) | (refine Dev.mem_foldl_trans (fun _ _ => ?_) ?_) | split | (simp only [Dev.hostFenced_mem, Dev.hostForget_mem]))

@[simp] theorem Dev.fence_mem (d : Dev) (ch : Nat) : (Dev.fence d ch).mem = d.mem := by
  unfold Dev.fence; repeat' (first | (with_reducible rfl) | (refine Dev.mem_foldl_trans (fun _ _ => ?_) ?_) | split | (simp only [Dev.fencePort_mem, Dev.haltAll_mem, Dev.set_mem, Dev.fenceHost_mem, Dev.mem_ite, ite_self, Dev.mem_foldl, implies_true]))

@[simp] theorem Dev.mark_mem (d : Dev) (k : Nat) (bit : Nat) : (Dev.mark d k bit).mem = d.mem := by
  unfold Dev.mark; simp only [Dev.setColl_mem]

@[simp] theorem Dev.once_mem (d : Dev) (k : Nat) (want : Nat) (bit : Nat) (f : Dev → Dev) (h_f : ∀ a0, (f a0).mem = a0.mem) : (Dev.once d k want bit f).mem = d.mem := by
  unfold Dev.once; simp only [Dev.mark_mem, Dev.mem_ite, ite_self, h_f]

@[simp] theorem Dev.react_mem (d : Dev) (k : Nat) (e : Event) : (Dev.react d k e).mem = d.mem := by
  unfold Dev.react
  split
  · rfl
  · extract_lets w cp vec d1 d2 d3 d4 m1 c1 s1 d5 sc m2 c2 s2
    have h1 : d1.mem = d.mem := Dev.once_mem _ _ _ _ _ (fun d => Dev.collVec_mem _ _ _)
    have h2 : d2.mem = d.mem := by
      refine (Dev.once_mem _ _ _ _ _ (fun d => ?_)).trans h1
      dsimp only
      split <;> simp only [Dev.collVec_mem, Dev.alert_mem, Dev.send_mem]
    have h3 : d3.mem = d.mem := (Dev.once_mem _ _ _ _ _ (fun d => Dev.set_mem _ _ _ _ _)).trans h2
    have h4 : d4.mem = d.mem := by
      refine (Dev.once_mem _ _ _ _ _ (fun d => ?_)).trans h3
      dsimp only
      refine Dev.mem_if (Dev.fence_mem _ _) ?_
      rw [Dev.collVec_mem, Dev.fence_mem]
    have h5 : d5.mem = d.mem := by
      refine Dev.mem_if ?_ h4
      rw [Dev.startReset_mem, Dev.setColl_mem, Dev.mark_mem, h4]
    refine Dev.mem_if ?_ h5
    rw [Dev.startReset_mem, Dev.setColl_mem, Dev.mark_mem, h5]

@[simp] theorem Dev.openEp_mem (d : Dev) (k : Nat) (e : Event) : (Dev.openEp d k e).mem = d.mem := by
  unfold Dev.openEp; repeat' (first | (with_reducible rfl) | (refine Dev.mem_foldl_trans (fun _ _ => ?_) ?_) | split | (simp only [Dev.setColl_mem, Dev.set_mem, Dev.raiseIf_mem]))

@[simp] theorem Dev.mergeEp_mem (d : Dev) (k : Nat) (e : Event) : (Dev.mergeEp d k e).mem = d.mem := by
  unfold Dev.mergeEp; dsimp only; repeat' (first | (with_reducible rfl) | (refine Dev.mem_foldl_trans (fun _ _ => ?_) ?_) | split | (simp only [Dev.setColl_mem, Dev.set_mem, Dev.raiseIf_mem]))

@[simp] theorem Dev.takeEvent_mem (d : Dev) (k : Nat) (e : Event) : (Dev.takeEvent d k e).mem = d.mem := by
  unfold Dev.takeEvent; dsimp only; (repeat' split) <;> simp only [Dev.setStat_mem, Dev.mergeEp_mem, Dev.openEp_mem, Dev.react_mem]

@[simp] theorem eventMessage_mem (d : Dev) (k : Nat) (good : Bool) : (eventMessage d k good).mem = d.mem := by
  unfold eventMessage; dsimp only; (repeat' split) <;> simp only [Dev.takeEvent_mem, Dev.raise_mem, Dev.setStat_mem]

@[simp] theorem errcStatW_mem (d : Dev) (k : Nat) (val : Nat) : (errcStatW d k val).mem = d.mem := by
  unfold errcStatW; repeat' (first | (with_reducible rfl) | (refine Dev.mem_foldl_trans (fun _ _ => ?_) ?_) | split | (simp only [Dev.setStat_mem, Dev.set_mem, Dev.setColl_mem, Dev.mem_ite, ite_self]))

@[simp] theorem epinClr_mem (d : Dev) : (epinClr d).mem = d.mem := by
  unfold epinClr; repeat' (first | (with_reducible rfl) | (refine Dev.mem_foldl_trans (fun _ _ => ?_) ?_) | split | (simp only [Dev.set_mem]))

/-! ### Power -/

@[simp] theorem Dev.modPower_mem (d : Dev) (f : Power → Power) : (Dev.modPower d f).mem = d.mem := by
  unfold Dev.modPower; simp only []

@[simp] theorem Dev.powerGood_mem (d : Dev) (i3c : Bool) (strap : Nat) : (Dev.powerGood d i3c strap).mem = d.mem := by
  unfold Dev.powerGood; repeat' (first | (with_reducible rfl) | (with_reducible refine Dev.mem_foldl_trans (fun _ _ => ?_) ?_) | split | (simp only [Dev.modPower_mem]))

@[simp] theorem softStartDone_mem (d : Dev) : (softStartDone d).mem = d.mem := by
  unfold softStartDone; repeat' (first | (with_reducible rfl) | (refine Dev.mem_foldl_trans (fun _ _ => ?_) ?_) | split | (simp only [Dev.modPower_mem, Dev.powerGood_mem]))

@[simp] theorem pwrgdRise_mem (d : Dev) (x : Straps) : (pwrgdRise d x).mem = d.mem := by
  unfold pwrgdRise; simp only [Dev.powerGood_mem, Dev.modPower_mem, Dev.mem_ite, ite_self]

@[simp] theorem Dev.fplAfter_mem (d : Dev) (old : Dev) : (Dev.fplAfter d old).mem = d.mem := by
  unfold Dev.fplAfter; repeat' (first | (with_reducible rfl) | (with_reducible refine Dev.mem_foldl_trans (fun _ _ => ?_) ?_) | split | (simp only [Dev.raiseIf_mem]))

@[simp] theorem pwrCapWrite_mem (d : Dev) (val : Nat) : (pwrCapWrite d val).mem = d.mem := by
  unfold pwrCapWrite; repeat' (first | (with_reducible rfl) | (refine Dev.mem_foldl_trans (fun _ _ => ?_) ?_) | split | (simp only [Dev.swField_mem, Dev.set_mem, Dev.fplAfter_mem, Dev.mem_ite, ite_self]))

@[simp] theorem Dev.pressFixed_mem (d : Dev) : (Dev.pressFixed d).mem = d.mem := by
  unfold Dev.pressFixed; repeat' (first | (with_reducible rfl) | (refine Dev.mem_foldl_trans (fun _ _ => ?_) ?_) | split | (simp only [Dev.modPower_mem]))

@[simp] theorem pwrModeWrite_mem (d : Dev) (val : Nat) : (pwrModeWrite d val).mem = d.mem := by
  unfold pwrModeWrite; repeat' (first | (with_reducible rfl) | (refine Dev.mem_foldl_trans (fun _ _ => ?_) ?_) | split | (simp only [Dev.swField_mem, Dev.set_mem, Dev.fplAfter_mem, Dev.pressFixed_mem, Dev.mem_ite, ite_self]))

@[simp] theorem pwrFplWrite_mem (d : Dev) (val : Nat) : (pwrFplWrite d val).mem = d.mem := by
  unfold pwrFplWrite; repeat' (first | (with_reducible rfl) | (refine Dev.mem_foldl_trans (fun _ _ => ?_) ?_) | split | (simp only [Dev.swField_mem, Dev.set_mem, Dev.fplAfter_mem, Dev.mem_ite, ite_self]))

@[simp] theorem Dev.capDie_mem (d : Dev) (x : Nat) : (Dev.capDie d x).mem = d.mem := by
  unfold Dev.capDie; dsimp only; (repeat' split) <;> simp only [Dev.free_mem, Dev.modPower_mem]

@[simp] theorem capSample_mem (d : Dev) (q : Nat) : (capSample d q).mem = d.mem := by
  unfold capSample; dsimp only; (repeat' split) <;> simp only [Dev.free_mem, Dev.modPower_mem, Dev.capDie_mem, Dev.mem_foldl, implies_true]

@[simp] theorem Dev.addTrip_mem (d : Dev) (x : Nat) : (Dev.addTrip d x).mem = d.mem := by
  unfold Dev.addTrip; simp only [Dev.modPower_mem]

@[simp] theorem Dev.delTrip_mem (d : Dev) (x : Nat) : (Dev.delTrip d x).mem = d.mem := by
  unfold Dev.delTrip; repeat' (first | (with_reducible rfl) | (refine Dev.mem_foldl_trans (fun _ _ => ?_) ?_) | split | (simp only [Dev.modPower_mem]))

@[simp] theorem Dev.xlTimeout_mem (d : Dev) (p : Nat) (side : Nat) : (Dev.xlTimeout d p side).mem = d.mem := by
  unfold Dev.xlTimeout; repeat' (first | (with_reducible rfl) | (with_reducible refine Dev.mem_foldl_trans (fun _ _ => ?_) ?_) | split | (simp only [Dev.raise_mem, Dev.portDown_mem, Dev.portFalls_mem, Dev.mem_ite, ite_self]))

@[simp] theorem Dev.brgTimeout_mem (d : Dev) (q : Nat) (n : Nat) (side : Nat) : (Dev.brgTimeout d q n side).mem = d.mem := by
  unfold Dev.brgTimeout; repeat' (first | (with_reducible rfl) | (with_reducible refine Dev.mem_foldl_trans (fun _ _ => ?_) ?_) | split | (simp only [Dev.raise_mem, Dev.brgDown_mem, Dev.startReset_mem, Dev.mem_ite, ite_self]))

@[simp] theorem Dev.dieTimeout_mem (d : Dev) (live : Nat) (xid : Nat) (stopped : Nat) : (Dev.dieTimeout d live xid stopped).mem = d.mem := by
  unfold Dev.dieTimeout; simp only [Dev.set_mem, Dev.startReset_mem, Dev.raise_mem, Dev.mem_ite, ite_self]

@[simp] theorem Dev.xlOverrun_mem (d : Dev) (p : Nat) : (Dev.xlOverrun d p).mem = d.mem := by
  unfold Dev.xlOverrun; repeat' (first | (with_reducible rfl) | (with_reducible refine Dev.mem_foldl_trans (fun _ _ => ?_) ?_) | split | (simp only [Dev.raise_mem, Dev.set_mem]))

@[simp] theorem Dev.brgOverrun_mem (d : Dev) (q : Nat) (n : Nat) : (Dev.brgOverrun d q n).mem = d.mem := by
  unfold Dev.brgOverrun; repeat' (first | (with_reducible rfl) | (with_reducible refine Dev.mem_foldl_trans (fun _ _ => ?_) ?_) | split | (simp only [Dev.raise_mem, Dev.set_mem]))

@[simp] theorem Dev.dieOverrun_mem (d : Dev) (live : Nat) (xid : Nat) : (Dev.dieOverrun d live xid).mem = d.mem := by
  unfold Dev.dieOverrun; repeat' (first | (with_reducible rfl) | (with_reducible refine Dev.mem_foldl_trans (fun _ _ => ?_) ?_) | split | (simp only [Dev.raise_mem, Dev.set_mem]))

/-! ### BringUp -/

@[simp] theorem bootFld_mem (d : Dev) (f : FieldDef) (v : Nat) : (bootFld d f v).mem = d.mem := by
  unfold bootFld; repeat' (first | (with_reducible rfl) | (with_reducible refine Dev.mem_foldl_trans (fun _ _ => ?_) ?_) | split | (simp only [Dev.set_mem]))

@[simp] theorem bootCode_mem (d : Dev) (c : Nat) : (bootCode d c).mem = d.mem := by
  unfold bootCode; repeat' (first | (with_reducible rfl) | (with_reducible refine Dev.mem_foldl_trans (fun _ _ => ?_) ?_) | split | (simp only [bootFld_mem]))

@[simp] theorem bootIll_mem (d : Dev) : (bootIll d).mem = d.mem := by
  unfold bootIll; repeat' (first | (with_reducible rfl) | (refine Dev.mem_foldl_trans (fun _ _ => ?_) ?_) | split | (simp only [bootFld_mem]))

@[simp] theorem bootSt_mem (d : Dev) (st : Nat) : (bootSt d st).mem = d.mem := by
  unfold bootSt; repeat' (first | (with_reducible rfl) | (with_reducible refine Dev.mem_foldl_trans (fun _ _ => ?_) ?_) | split | (simp only [bootFld_mem]))

@[simp] theorem bootBusy_mem (d : Dev) (n : Nat) : (bootBusy d n).mem = d.mem := by
  unfold bootBusy; dsimp only; repeat' (first | (with_reducible rfl) | (refine Dev.mem_foldl_trans (fun _ _ => ?_) ?_) | split | (simp only [bootFld_mem]))

@[simp] theorem bootDone_mem (d : Dev) (code : Nat) : (bootDone d code).mem = d.mem := by
  unfold bootDone; repeat' (first | (with_reducible rfl) | (refine Dev.mem_foldl_trans (fun _ _ => ?_) ?_) | split | (simp only [bootCode_mem, bootBusy_mem]))

@[simp] theorem bootRefuse_mem (d : Dev) (code : Nat) : (bootRefuse d code).mem = d.mem := by
  unfold bootRefuse; repeat' (first | (with_reducible rfl) | (refine Dev.mem_foldl_trans (fun _ _ => ?_) ?_) | split | (simp only [Dev.raise_mem, bootDone_mem]))

@[simp] theorem Dev.takeIdentity_mem (d : Dev) (fl : Flash) (raw : BitVec 4096) : (Dev.takeIdentity d fl raw).mem = d.mem := by
  unfold Dev.takeIdentity; repeat' (first | (with_reducible rfl) | (refine Dev.mem_foldl_trans (fun _ _ => ?_) ?_) | split | (simp only [Dev.set_mem, bootFld_mem, Dev.raise_mem]))

@[simp] theorem Dev.takeCerts_mem (d : Dev) (fl : Flash) : (Dev.takeCerts d fl).mem = d.mem := by
  unfold Dev.takeCerts; dsimp only; (repeat' split) <;> simp only [Dev.set_mem, Dev.raiseIf_mem]

@[simp] theorem Dev.setManifest_mem (d : Dev) (b : List Byte) (host : Bool) : (Dev.setManifest d b host).mem = d.mem := by
  unfold Dev.setManifest; dsimp only; (repeat' split) <;> simp only [Dev.set_mem, bootFld_mem, Dev.extendMr_mem]

@[simp] theorem Dev.takeManifest_mem (d : Dev) (fl : Flash) : (Dev.takeManifest d fl).mem = d.mem := by
  unfold Dev.takeManifest; repeat' (first | (with_reducible rfl) | (refine Dev.mem_foldl_trans (fun _ _ => ?_) ?_) | split | (simp only [Dev.setManifest_mem, Dev.raise_mem, bootFld_mem]))

@[simp] theorem initDone_mem (d : Dev) (fl : Flash) (raw : BitVec 4096) : (initDone d fl raw).mem = d.mem := by
  unfold initDone; simp only [Dev.extendMr_mem, Dev.takeManifest_mem, Dev.takeCerts_mem, Dev.takeIdentity_mem, bootSt_mem, Dev.measurePlan_mem, Dev.mem_ite, ite_self]

@[simp] theorem Dev.acceptImage_mem (d : Dev) (b : List Byte) : (Dev.acceptImage d b).mem = d.mem := by
  unfold Dev.acceptImage; repeat' (first | (with_reducible rfl) | (refine Dev.mem_foldl_trans (fun _ _ => ?_) ?_) | split | (simp only [Dev.setManifest_mem, Dev.set_mem, Dev.extendMr_mem, Dev.mem_ite, ite_self, Dev.mem_foldl, implies_true]))

@[simp] theorem bootTake_mem (d : Dev) (states : List Nat) (f : Dev → Dev) (h_f : ∀ a0, (f a0).mem = a0.mem) : (bootTake d states f).mem = d.mem := by
  unfold bootTake; repeat' (first | (with_reducible rfl) | (with_reducible refine Dev.mem_foldl_trans (fun _ _ => ?_) ?_) | split | (simp only [bootCode_mem, h_f]))

@[simp] theorem selftestStart_mem (d : Dev) : (selftestStart d).mem = d.mem := by
  unfold selftestStart; repeat' (first | (with_reducible rfl) | (refine Dev.mem_foldl_trans (fun _ _ => ?_) ?_) | split | (simp only [Dev.modPower_mem, bootSt_mem, bootBusy_mem, bootCode_mem]))

@[simp] theorem fpCommit_mem (d : Dev) : (fpCommit d).mem = d.mem := by
  unfold fpCommit; dsimp only; (repeat' split) <;> simp only [bootSt_mem, bootCode_mem, Dev.measurePlan_mem]

@[simp] theorem bootRead_mem (d : Dev) (busy : Nat) : (bootRead d busy).mem = d.mem := by
  unfold bootRead; dsimp only; (repeat' split) <;> simp only [bootBusy_mem, bootCode_mem, Dev.send_mem]

@[simp] theorem bootStart_mem (d : Dev) : (bootStart d).mem = d.mem := by
  unfold bootStart; repeat' (first | (with_reducible rfl) | (refine Dev.mem_foldl_trans (fun _ _ => ?_) ?_) | split | (simp only [bootCode_mem, bootBusy_mem, linkDown_mem, Dev.mem_ite, ite_self]))

@[simp] theorem bootCmd_mem (d : Dev) (val : Nat) : (bootCmd d val).mem = d.mem := by
  unfold bootCmd; repeat' (first | (with_reducible rfl) | (refine Dev.mem_foldl_trans (fun _ _ => ?_) ?_) | split | (simp only [bootIll_mem, bootTake_mem, selftestStart_mem, fpCommit_mem, bootRead_mem, bootStart_mem, Dev.mem_ite, implies_true]))

@[simp] theorem markWrite_mem (d : Dev) (val : Nat) : (markWrite d val).mem = d.mem := by
  unfold markWrite; simp only [bootIll_mem, bootTake_mem, bootCode_mem, Dev.addDefects_mem, Dev.mem_ite, ite_self, implies_true]

@[simp] theorem selftestDone_mem (d : Dev) (defects : List CoreId) (fail : Option (DieRef × Byte)) (nfail : Nat) : (selftestDone d defects fail nfail).mem = d.mem := by
  unfold selftestDone; repeat' (first | (with_reducible rfl) | (refine Dev.mem_foldl_trans (fun _ _ => ?_) ?_) | split | (simp only [Dev.addDefects_mem, Dev.modPower_mem, bootSt_mem, bootDone_mem, Dev.set_mem, bootFld_mem, Dev.raise_mem, Dev.mem_foldl, implies_true]))

@[simp] theorem Dev.ackStage_mem (d : Dev) (status : Nat) : (Dev.ackStage d status).mem = d.mem := by
  unfold Dev.ackStage; repeat' (first | (with_reducible rfl) | (refine Dev.mem_foldl_trans (fun _ _ => ?_) ?_) | split | (simp only [Dev.sendAck_mem]))

@[simp] theorem Dev.passChunk_mem (d : Dev) (to_ : List Nat) (comp : Nat) (off : Nat) (relay : Nat) (bytes : List Byte) : (Dev.passChunk d to_ comp off relay bytes).mem = d.mem := by
  unfold Dev.passChunk; repeat' (first | (with_reducible rfl) | (with_reducible refine Dev.mem_foldl_trans (fun _ _ => ?_) ?_) | split | (simp only [Dev.sendMbox_mem, Dev.sendChunk_mem]))

@[simp] theorem Dev.castChunk_mem (d : Dev) (comp : Nat) (off : Nat) (last : Bool) (bytes : List Byte) : (Dev.castChunk d comp off last bytes).mem = d.mem := by
  unfold Dev.castChunk
  extract_lets seqs d1
  have he : d1.mem = d.mem := by
    simp only [d1, Dev.passChunk_mem]
  clear_value d1 seqs
  split
  · exact he
  · exact he

@[simp] theorem Dev.castImage_mem (d : Dev) (comp : Nat) (b : List Byte) : (Dev.castImage d comp b).mem = d.mem := by
  unfold Dev.castImage
  split
  · rfl
  · generalize List.range (chunksOf b) = l
    refine Dev.mem_foldl _ _ _ (fun d i => ?_)
    exact Dev.castChunk_mem _ _ _ _ _

@[simp] theorem stageEnd_mem (d : Dev) (data : List Byte) (ans : Answer) : (stageEnd d data ans).mem = d.mem := by
  unfold stageEnd; repeat' (first | (with_reducible rfl) | (with_reducible refine Dev.mem_foldl_trans (fun _ _ => ?_) ?_) | split | (simp only [Dev.ackStage_mem, bootRefuse_mem, Dev.castImage_mem, bootDone_mem, Dev.acceptImage_mem]))

@[simp] theorem Dev.applyLic_mem (d : Dev) (t : List Byte) : (Dev.applyLic d t).mem = d.mem := by
  unfold Dev.applyLic; simp only [Dev.extendMr_mem, Dev.set_mem, Dev.bump_mem, Dev.mem_ite, ite_self]

@[simp] theorem licenceEnd_mem (d : Dev) (data : List Byte) (ans : Answer) : (licenceEnd d data ans).mem = d.mem := by
  unfold licenceEnd; dsimp only; (repeat' split) <;> simp only [bootRefuse_mem, bootDone_mem, Dev.applyLic_mem]

@[simp] theorem startEnd_mem (d : Dev) : (startEnd d).mem = d.mem := by
  unfold startEnd; repeat' (first | (with_reducible rfl) | (refine Dev.mem_foldl_trans (fun _ _ => ?_) ?_) | split | (simp only [Dev.set_mem, bootSt_mem, bootDone_mem, Dev.mem_ite, ite_self, Dev.mem_foldl, implies_true]))

/-! ### Chapel -/

@[simp] theorem Dev.modChapel_mem (d : Dev) (f : Chapel → Chapel) : (Dev.modChapel d f).mem = d.mem := by
  unfold Dev.modChapel; dsimp only; repeat' (first | (with_reducible rfl) | (refine Dev.mem_foldl_trans (fun _ _ => ?_) ?_) | split | (simp only [Dev.mem_ite, ite_self, Dev.mem_foldl, implies_true]))

@[simp] theorem Dev.receive_mem (d : Dev) (m : MboxMsg) (f : Dev → Dev) (h_f : ∀ a0, (f a0).mem = a0.mem) : (Dev.receive d m f).mem = d.mem := by
  unfold Dev.receive; dsimp only; repeat' (first | (with_reducible rfl) | (refine Dev.mem_foldl_trans (fun _ _ => ?_) ?_) | split | (simp only [Dev.modChapel_mem, h_f]))

@[simp] theorem Dev.answerMsg_mem (d : Dev) (m : MboxMsg) (status : Nat) : (Dev.answerMsg d m status).mem = d.mem := by
  unfold Dev.answerMsg; repeat' (first | (with_reducible rfl) | (with_reducible refine Dev.mem_foldl_trans (fun _ _ => ?_) ?_) | split | (simp only [Dev.sendAck_mem]))

@[simp] theorem Dev.recordFailed_mem (d : Dev) (dev : Nat) : (Dev.recordFailed d dev).mem = d.mem := by
  unfold Dev.recordFailed; repeat' (first | (with_reducible rfl) | (refine Dev.mem_foldl_trans (fun _ _ => ?_) ?_) | split | (simp only [Dev.modChapel_mem, Dev.sendMbox_mem, Dev.mem_ite, Dev.mem_foldl, implies_true]))

@[simp] theorem Dev.goPorts_mem (d : Dev) (mask : Nat) : (Dev.goPorts d mask).mem = d.mem := by
  unfold Dev.goPorts; repeat' (first | (with_reducible rfl) | (refine Dev.mem_foldl_trans (fun _ _ => ?_) ?_) | split | (simp only [xlCmd_mem]))

@[simp] theorem linkPrep_mem (d : Dev) (m : MboxMsg) : (linkPrep d m).mem = d.mem := by
  unfold linkPrep; simp only [Dev.answerMsg_mem, Dev.modChapel_mem, Dev.sendMbox_mem, Dev.mem_ite, ite_self]

@[simp] theorem linkGo_mem (d : Dev) (m : MboxMsg) : (linkGo d m).mem = d.mem := by
  unfold linkGo; dsimp only; (repeat' split) <;> simp only [Dev.answerMsg_mem, Dev.goPorts_mem, Dev.modChapel_mem, Dev.sendMbox_mem]

@[simp] theorem Dev.goEnd_mem (d : Dev) (dest : Option Nat) (mask : Nat) : (Dev.goEnd d dest mask).mem = d.mem := by
  unfold Dev.goEnd; repeat' (first | (with_reducible rfl) | (with_reducible refine Dev.mem_foldl_trans (fun _ _ => ?_) ?_) | split | (simp only [Dev.goPorts_mem, Dev.sendMbox_mem]))

@[simp] theorem Dev.endAnswers_mem (d : Dev) (k : Nat) (e : Nat) (status : Nat) : (Dev.endAnswers d k e status).mem = d.mem := by
  unfold Dev.endAnswers; repeat' (first | (with_reducible rfl) | (refine Dev.mem_foldl_trans (fun _ _ => ?_) ?_) | split | (simp only [Dev.modChapel_mem, Dev.goEnd_mem, Dev.mem_ite, ite_self]))

@[simp] theorem Dev.prepEnd_mem (d : Dev) (k : Nat) (e : Nat) : (Dev.prepEnd d k e).mem = d.mem := by
  unfold Dev.prepEnd; dsimp only; repeat' (first | (with_reducible rfl) | (refine Dev.mem_foldl_trans (fun _ _ => ?_) ?_) | split | (simp only [Dev.endAnswers_mem, Dev.sendMbox_mem, Dev.modChapel_mem]))

@[simp] theorem collectExpire_mem (d : Dev) (k : Nat) : (collectExpire d k).mem = d.mem := by
  unfold collectExpire; repeat' (first | (with_reducible rfl) | (refine Dev.mem_foldl_trans (fun _ _ => ?_) ?_) | split | (simp only [Dev.recordFailed_mem, Dev.modChapel_mem, Dev.prepEnd_mem, Dev.mem_ite, ite_self, Dev.mem_foldl, implies_true]))

@[simp] theorem ackTimeout_mem (d : Dev) (k : Nat) : (ackTimeout d k).mem = d.mem := by
  unfold ackTimeout; dsimp only; (repeat' split) <;> simp only [Dev.modChapel_mem, Dev.recordFailed_mem]

@[simp] theorem memberTimeout_mem (d : Dev) (k : Nat) : (memberTimeout d k).mem = d.mem := by
  unfold memberTimeout; repeat' (first | (with_reducible rfl) | (refine Dev.mem_foldl_trans (fun _ _ => ?_) ?_) | split | (simp only [Dev.flushMbox_mem, Dev.recordFailed_mem, Dev.modChapel_mem]))

@[simp] theorem ackMsg_mem (d : Dev) (m : MboxMsg) : (ackMsg d m).mem = d.mem := by
  unfold ackMsg; repeat' (first | (with_reducible rfl) | (refine Dev.mem_foldl_trans (fun _ _ => ?_) ?_) | split | (simp only [Dev.modChapel_mem, Dev.sendAck_mem, Dev.endAnswers_mem, Dev.flushMbox_mem]))

@[simp] theorem fwChunk_mem (d : Dev) (m : MboxMsg) : (fwChunk d m).mem = d.mem := by
  unfold fwChunk; repeat' (first | (with_reducible rfl) | (with_reducible refine Dev.mem_foldl_trans (fun _ _ => ?_) ?_) | split | (simp only [Dev.answerMsg_mem, Dev.passChunk_mem, Dev.modChapel_mem, Dev.setWord_mem, bootCmd_mem, Dev.set_mem, Dev.mem_ite, ite_self]))

@[simp] theorem chapelWrite_mem (d : Dev) (val : Nat) : (chapelWrite d val).mem = d.mem := by
  unfold chapelWrite; repeat' (first | (with_reducible rfl) | (with_reducible refine Dev.mem_foldl_trans (fun _ _ => ?_) ?_) | split | (simp only [Dev.set_mem, Dev.swField_mem]))

/-! ### Identity -/

@[simp] theorem Dev.modTrust_mem (d : Dev) (f : Trust → Trust) : (Dev.modTrust d f).mem = d.mem := by
  unfold Dev.modTrust; repeat' (first | (with_reducible rfl) | (refine Dev.mem_foldl_trans (fun _ _ => ?_) ?_) | split | (simp only [Dev.mem_ite, ite_self, Dev.mem_foldl, implies_true]))

@[simp] theorem Dev.makeReport_mem (d : Dev) (ch : Nat) (nonce : BitVec 256) : (Dev.makeReport d ch nonce).2.mem = d.mem := by
  unfold Dev.makeReport; simp only [Dev.modTrust_mem]

@[simp] theorem Dev.attEnd_mem (d : Dev) (ch : Nat) (code : Nat) (len : Nat) : (Dev.attEnd d ch code len).mem = d.mem := by
  unfold Dev.attEnd; dsimp only; (repeat' split) <;> simp only [Dev.set_mem, Dev.modTrust_mem]

@[simp] theorem Dev.attBegin_mem (d : Dev) (ch : Nat) (n : Nat) (bytes : List Byte) : (Dev.attBegin d ch n bytes).mem = d.mem := by
  unfold Dev.attBegin; repeat' (first | (with_reducible rfl) | (refine Dev.mem_foldl_trans (fun _ _ => ?_) ?_) | split | (simp only [Dev.modTrust_mem, Dev.set_mem]))

@[simp] theorem Dev.attExtend_mem (d : Dev) (ch : Nat) (m : Nat) : (Dev.attExtend d ch m).mem = d.mem := by
  unfold Dev.attExtend; simp only [Dev.attBegin_mem, Dev.send_mem, Dev.mem_ite, ite_self]

@[simp] theorem attWrite_mem (d : Dev) (ch : Nat) (val : Nat) : (attWrite d ch val).mem = d.mem := by
  unfold attWrite; repeat' (first | (with_reducible rfl) | (refine Dev.mem_foldl_trans (fun _ _ => ?_) ?_) | split | (simp only [Dev.set_mem, Dev.swField_mem, Dev.attEnd_mem, Dev.makeReport_mem, Dev.attBegin_mem, Dev.attExtend_mem, Dev.mem_ite]))

@[simp] theorem attDone_mem (d : Dev) (ch : Nat) (data : List Byte) (ans : Answer) : (attDone d ch data ans).mem = d.mem := by
  unfold attDone; repeat' (first | (with_reducible rfl) | (refine Dev.mem_foldl_trans (fun _ _ => ?_) ?_) | split | (simp only [Dev.attEnd_mem, Dev.send_mem, Dev.extendMr_mem, Dev.mem_ite, ite_self]))

@[simp] theorem Dev.entFail_mem (d : Dev) (test : Nat) : (Dev.entFail d test).mem = d.mem := by
  unfold Dev.entFail; repeat' (first | (with_reducible rfl) | (with_reducible refine Dev.mem_foldl_trans (fun _ _ => ?_) ?_) | split | (simp only [Dev.raise_mem, Dev.set_mem]))

@[simp] theorem Dev.drawKey_mem (d : Dev) (ch : Nat) (k : Nat) : (Dev.drawKey d ch k).mem = d.mem := by
  unfold Dev.drawKey; dsimp only; repeat' (first | (with_reducible rfl) | (refine Dev.mem_foldl_trans (fun _ _ => ?_) ?_) | split | (simp only [Dev.free_mem, Dev.modTrust_mem]))

@[simp] theorem keyWrite_mem (d : Dev) (ch : Nat) (val : Nat) (trng : Nat) : (keyWrite d ch val trng).mem = d.mem := by
  unfold keyWrite; dsimp only; (repeat' split) <;> simp only [Dev.set_mem, Dev.entFail_mem, Dev.drawKey_mem, Dev.modTrust_mem]

@[simp] theorem keyDone_mem (d : Dev) (ch : Nat) : (keyDone d ch).mem = d.mem := by
  unfold keyDone; dsimp only; (repeat' split) <;> simp only [Dev.set_mem, Dev.modTrust_mem]

@[simp] theorem Dev.spdmGo_mem (d : Dev) (r : SpdmReq) (version : Bool) (f : Dev → Nat → Dev) (h_f : ∀ a0 a1, (f a0 a1).mem = a0.mem) : (Dev.spdmGo d r version f).mem = d.mem := by
  unfold Dev.spdmGo; repeat' (first | (with_reducible rfl) | (refine Dev.mem_foldl_trans (fun _ _ => ?_) ?_) | split | (simp only [h_f]))

@[simp] theorem Dev.spdmSay_mem (d : Dev) (f : Nat) (code : Nat) (body : List Byte) : (Dev.spdmSay d f code body).mem = d.mem := by
  unfold Dev.spdmSay; repeat' (first | (with_reducible rfl) | (refine Dev.mem_foldl_trans (fun _ _ => ?_) ?_) | split | (simp only [Dev.send_mem]))

@[simp] theorem Dev.spdmErr_mem (d : Dev) (f : Nat) : (Dev.spdmErr d f).mem = d.mem := by
  unfold Dev.spdmErr; simp only [Dev.spdmSay_mem]

@[simp] theorem Dev.spdmSigned_mem (d : Dev) (f : Nat) (code : Nat) (body : List Byte) : (Dev.spdmSigned d f code body).mem = d.mem := by
  unfold Dev.spdmSigned; dsimp only; (repeat' split) <;> simp only [Dev.send_mem]

@[simp] theorem getMeasurements_mem (d : Dev) (f : Nat) (r : SpdmReq) : (getMeasurements d f r).mem = d.mem := by
  unfold getMeasurements; repeat' (first | (with_reducible rfl) | (refine Dev.mem_foldl_trans (fun _ _ => ?_) ?_) | split | (simp only [Dev.spdmErr_mem, Dev.makeReport_mem, Dev.spdmSay_mem, Dev.mem_ite, ite_self]))

@[simp] theorem Dev.setSession_mem (d : Dev) (f : Nat) (n : Nat) : (Dev.setSession d f n).mem = d.mem := by
  unfold Dev.setSession; simp only [Dev.modTrust_mem]

/-! ### RegWrite -/

@[simp] theorem Dev.swAny_mem (d : Dev) (p : Page) (f : FieldDef) (i : Nat) (val : Nat) : (Dev.swAny d p f i val).mem = d.mem := by
  unfold Dev.swAny; simp only [Dev.set_mem, Dev.swField_mem, Dev.mem_ite, ite_self]

@[simp] theorem Dev.swWord_mem (d : Dev) (p : Page) (off : Nat) (i : Nat) (val : Nat) : (Dev.swWord d p off i val).mem = d.mem := by
  unfold Dev.swWord; repeat' (first | (with_reducible rfl) | (with_reducible refine Dev.mem_foldl_trans (fun _ _ => ?_) ?_) | split | (simp only [Dev.swAny_mem]))

@[simp] theorem Dev.plain_mem (d : Dev) (p : Page) (off : Nat) (val : Nat) : (Dev.plain d p off val).mem = d.mem := by
  unfold Dev.plain; repeat' (first | (with_reducible rfl) | (with_reducible refine Dev.mem_foldl_trans (fun _ _ => ?_) ?_) | split | (simp only [Dev.swWord_mem]))

@[simp] theorem Dev.ranged_mem (d : Dev) (p : Page) (f : FieldDef) (i : Nat) (val : Nat) (ok : Nat → Bool) : (Dev.ranged d p f i val ok).mem = d.mem := by
  unfold Dev.ranged; repeat' (first | (with_reducible rfl) | (refine Dev.mem_foldl_trans (fun _ _ => ?_) ?_) | split | (simp only [Dev.swField_mem]))

@[simp] theorem Dev.setWindow_mem (d : Dev) (q : Nat) (i : Nat) (w : Window) : (Dev.setWindow d q i w).mem = d.mem := by
  unfold Dev.setWindow; repeat' (first | (with_reducible rfl) | (refine Dev.mem_foldl_trans (fun _ _ => ?_) ?_) | split | (simp only [Dev.mem_ite, ite_self, Dev.mem_foldl, implies_true]))

@[simp] theorem wtabCommit_mem (d : Dev) (q : Nat) : (wtabCommit d q).mem = d.mem := by
  unfold wtabCommit; dsimp only; repeat' (first | (with_reducible rfl) | (refine Dev.mem_foldl_trans (fun _ _ => ?_) ?_) | split | (simp only [Dev.set_mem, Dev.setWindow_mem]))

@[simp] theorem wtabLoad_mem (d : Dev) (q : Nat) : (wtabLoad d q).mem = d.mem := by
  unfold wtabLoad; repeat' (first | (with_reducible rfl) | (refine Dev.mem_foldl_trans (fun _ _ => ?_) ?_) | split | (simp only [Dev.set_mem]))

@[simp] theorem wtabCmd_mem (d : Dev) (q : Nat) (val : Nat) : (wtabCmd d q val).mem = d.mem := by
  unfold wtabCmd; dsimp only; (repeat' split) <;> simp only [Dev.swField_mem, wtabCommit_mem, wtabLoad_mem]

@[simp] theorem sealWrite_mem (d : Dev) (val : Nat) : (sealWrite d val).mem = d.mem := by
  unfold sealWrite; simp only [Dev.set_mem, Dev.extendMr_mem, Dev.mem_ite, ite_self, Dev.mem_foldl, implies_true]

@[simp] theorem srReg_mem (d : Dev) (q : Nat) (off : Nat) (val : Nat) : (srReg d q off val).mem = d.mem := by
  unfold srReg; dsimp only; (repeat' split) <;> simp only [Dev.plain_mem, srIll_mem]

@[simp] theorem rbReg_mem (d : Dev) (q : Nat) (off : Nat) (val : Nat) : (rbReg d q off val).mem = d.mem := by
  unfold rbReg; repeat' (first | (with_reducible rfl) | (refine Dev.mem_foldl_trans (fun _ _ => ?_) ?_) | split | (simp only [rbIll_mem, Dev.plain_mem, Dev.mem_ite, ite_self]))

@[simp] theorem grpStatW_mem (d : Dev) (q : Nat) (val : Nat) : (grpStatW d q val).mem = d.mem := by
  unfold grpStatW; simp only [Dev.setGrp_mem]

@[simp] theorem Dev.partReg_mem (d : Dev) (p : Page) (off : Nat) (val : Nat) (part : Nat) : (Dev.partReg d p off val part).mem = d.mem := by
  unfold Dev.partReg; simp only [Dev.plain_mem, Dev.mem_ite, ite_self]

@[simp] theorem rcreachWrite_mem (d : Dev) (q : Nat) (val : Nat) : (rcreachWrite d q val).mem = d.mem := by
  unfold rcreachWrite; repeat' (first | (with_reducible rfl) | (refine Dev.mem_foldl_trans (fun _ _ => ?_) ?_) | split | (simp only [Dev.lockViolation_mem, Dev.swField_mem, Dev.mem_ite, ite_self]))

@[simp] theorem qctlWrite_mem (d : Dev) (q : Nat) (off : Nat) (val : Nat) : (qctlWrite d q off val).mem = d.mem := by
  unfold qctlWrite; dsimp only; (repeat' split) <;> simp only [Dev.partReg_mem, wtabCmd_mem, grpStatW_mem, grpClear_mem, Dev.ranged_mem, hmapWrite_mem, pcfgWrite_mem, pwinCtlWrite_mem, rcreachWrite_mem, mntCmd_mem, Dev.swField_mem, srReg_mem, srCmd_mem, rbReg_mem, rbCmd_mem, ctrmapWrite_mem, Dev.plain_mem]

@[simp] theorem impWrite_mem (d : Dev) (x : Nat) (off : Nat) (val : Nat) : (impWrite d x off val).mem = d.mem := by
  unfold impWrite
  extract_lets p q free
  refine Dev.mem_if (doorbell_mem _ _ _ _) ?_
  split
  · exact Dev.mem_if (Dev.plain_mem _ _ _ _) (Dev.qErr_mem _ _ _ _)
  · exact Dev.mem_if (Dev.plain_mem _ _ _ _) (Dev.qErr_mem _ _ _ _)
  · exact Dev.mem_if (Dev.plain_mem _ _ _ _) rfl
  · exact qCmd_mem _ _ _ _ _
  · exact qpartWrite_mem _ _ _
  · exact cmapWrite_mem _ _ _
  · exact crstWrite_mem _ _ _
  · exact (rprWrite_mem _ _ _).trans (Dev.swField_mem _ _ _ _ _)
  · exact Dev.plain_mem _ _ _ _

@[simp] theorem hstChWrite_mem (d : Dev) (c : Nat) (off : Nat) (val : Nat) : (hstChWrite d c off val).mem = d.mem := by
  unfold hstChWrite; dsimp only; (repeat' split) <;> simp only [Dev.partReg_mem, ptagWrite_mem, qirqWrite_mem, Dev.plain_mem, pqCmd_mem, Dev.swField_mem, Dev.ranged_mem, attWrite_mem, keyWrite_mem]

@[simp] theorem dmaWrite_mem (d : Dev) (c : Nat) (off : Nat) (val : Nat) : (dmaWrite d c off val).mem = d.mem := by
  unfold dmaWrite; dsimp only; (repeat' split) <;> simp only [Dev.plain_mem, dmaWp_mem, dmaResume_mem]

@[simp] theorem galWrite_mem (d : Dev) (g : Nat) (off : Nat) (val : Nat) : (galWrite d g off val).mem = d.mem := by
  unfold galWrite; repeat' (first | (with_reducible rfl) | (with_reducible refine Dev.mem_foldl_trans (fun _ _ => ?_) ?_) | split | (simp only [Dev.partReg_mem, Dev.swField_mem, Dev.set_mem, galMnt_mem, Dev.plain_mem, Dev.mem_ite, ite_self]))

@[simp] theorem xlWrite_mem (d : Dev) (k : Nat) (off : Nat) (val : Nat) : (xlWrite d k off val).mem = d.mem := by
  unfold xlWrite; repeat' (first | (with_reducible rfl) | (with_reducible refine Dev.mem_foldl_trans (fun _ _ => ?_) ?_) | split | (simp only [Dev.plain_mem, Dev.set_mem, xlCmd_mem, Dev.ranged_mem]))

@[simp] theorem errcWrite_mem (d : Dev) (k : Nat) (off : Nat) (val : Nat) : (errcWrite d k off val).mem = d.mem := by
  unfold errcWrite; repeat' (first | (with_reducible rfl) | (with_reducible refine Dev.mem_foldl_trans (fun _ _ => ?_) ?_) | split | (simp only [Dev.setColl_mem, epinClr_mem, Dev.fence_mem, Dev.plain_mem]))

@[simp] theorem bootWrite_mem (d : Dev) (off : Nat) (val : Nat) : (bootWrite d off val).mem = d.mem := by
  unfold bootWrite; repeat' (first | (with_reducible rfl) | (with_reducible refine Dev.mem_foldl_trans (fun _ _ => ?_) ?_) | split | (simp only [bootCmd_mem, Dev.ranged_mem, Dev.swField_mem, markWrite_mem, Dev.plain_mem]))

@[simp] theorem dctlWrite_mem (d : Dev) (off : Nat) (val : Nat) : (dctlWrite d off val).mem = d.mem := by
  unfold dctlWrite; repeat' (first | (with_reducible rfl) | (with_reducible refine Dev.mem_foldl_trans (fun _ _ => ?_) ?_) | split | (simp only [sealWrite_mem, chapelWrite_mem, arrangeWrite_mem, Dev.plain_mem]))

@[simp] theorem pwrWrite_mem (d : Dev) (off : Nat) (val : Nat) : (pwrWrite d off val).mem = d.mem := by
  unfold pwrWrite; repeat' (first | (with_reducible rfl) | (refine Dev.mem_foldl_trans (fun _ _ => ?_) ?_) | split | (simp only [pwrCapWrite_mem, pwrModeWrite_mem, pwrFplWrite_mem]))

@[simp] theorem blockWrite_mem (d : Dev) (p : Page) (off : Nat) (val : Nat) : (blockWrite d p off val).mem = d.mem := by
  unfold blockWrite; repeat' (first | (with_reducible rfl) | (with_reducible refine Dev.mem_foldl_trans (fun _ _ => ?_) ?_) | split | (simp only [Dev.plain_mem, hstChWrite_mem, bootWrite_mem, dctlWrite_mem, errcWrite_mem, pwrWrite_mem, dmaWrite_mem, qctlWrite_mem, casePartWrite_mem, caseMnt_mem, Dev.swField_mem, dirLookup_mem, Dev.ranged_mem, stkCmd_mem, xlWrite_mem, impWrite_mem, galWrite_mem]))

@[simp] theorem pairWrite_mem (d : Dev) (p : Page) (off : Nat) (lo : Nat) (hi : Nat) : (pairWrite d p off lo hi).mem = d.mem := by
  unfold pairWrite; repeat' (first | (with_reducible rfl) | (with_reducible refine Dev.mem_foldl_trans (fun _ _ => ?_) ?_) | split | (simp only [Dev.swWord_mem, errcStatW_mem, Dev.testCounter_mem]))

@[simp] theorem wordWrite_mem (d : Dev) (p : Page) (off : Nat) (val : Nat) : (wordWrite d p off val).mem = d.mem := by
  have hp : ∀ lo, ∀ e, pairRefused d p lo = some e → e.mem = d.mem := by
    intro lo e h
    unfold pairRefused at h
    dsimp only at h
    split at h
    · split at h
      · obtain rfl := Option.some.inj h; exact srIll_mem _ _ _
      · split at h
        · obtain rfl := Option.some.inj h; exact rbIll_mem _ _ _
        · exact absurd h (by simp)
    · split at h
      · exact absurd h (by simp)
      · obtain rfl := Option.some.inj h; exact Dev.qErr_mem _ _ _ _
    · split at h
      · obtain rfl := Option.some.inj h; rfl
      · exact absurd h (by simp)
    · exact absurd h (by simp)
  unfold wordWrite
  extract_lets lo
  refine Dev.mem_if ?_ (blockWrite_mem _ _ _ _)
  split
  · exact hp _ _ ‹_›
  · exact Dev.mem_if rfl (pairWrite_mem _ _ _ _ _)

@[simp] theorem blkCtlWrite_mem (d : Dev) (p : Page) (val : Nat) : (blkCtlWrite d p val).mem = d.mem := by
  unfold blkCtlWrite; repeat' (first | (with_reducible rfl) | (refine Dev.mem_foldl_trans (fun _ _ => ?_) ?_) | split | (simp only [blkQreq_mem, brst_mem]))

@[simp] theorem headerWrite_mem (d : Dev) (p : Page) (off : Nat) (val : Nat) : (headerWrite d p off val).mem = d.mem := by
  unfold headerWrite; dsimp only; (repeat' split) <;> simp only [Dev.swField_mem, errStatW_mem, Dev.set_mem]

@[simp] theorem badAccess_mem (d : Dev) (p : Page) : (badAccess d p).mem = d.mem := by
  unfold badAccess; repeat' (first | (with_reducible rfl) | (refine Dev.mem_foldl_trans (fun _ _ => ?_) ?_) | split | (simp only [Dev.set_mem]))

@[simp] theorem vfWrite_mem (d : Dev) (v : Nat) (off : Nat) (val : Nat) : (vfWrite d v off val).mem = d.mem := by
  unfold vfWrite; repeat' (first | (with_reducible rfl) | (refine Dev.mem_foldl_trans (fun _ _ => ?_) ?_) | split | (simp only [vfDoorbell_mem, dmaWp_mem, dmaResume_mem]))

@[simp] theorem regWrite_mem (d : Dev) (via : Via) (off : Nat) (word : Bool) (val : Nat) : (regWrite d via off word val).mem = d.mem := by
  unfold regWrite; repeat' (first | (with_reducible rfl) | (refine Dev.mem_foldl_trans (fun _ _ => ?_) ?_) | split | (simp only [vfWrite_mem, badAccess_mem, blkCtlWrite_mem, headerWrite_mem, wordWrite_mem, Dev.mem_ite, ite_self]))

@[simp] theorem pairHalf_mem (d : Dev) (via : Via) (off : Nat) (val : Nat) (half : Page → Nat → Bool) : (pairHalf d via off val half).mem = d.mem := by
  unfold pairHalf; repeat' (first | (with_reducible rfl) | (refine Dev.mem_foldl_trans (fun _ _ => ?_) ?_) | split | (simp only [regWrite_mem]))

/-! ### RegRead -/

@[simp] theorem wordRead_mem (d : Dev) (p : Page) (off : Nat) : (wordRead d p off).2.mem = d.mem := by
  unfold wordRead; repeat' (first | (with_reducible rfl) | (refine Dev.mem_foldl_trans (fun _ _ => ?_) ?_) | split | (simp only [Dev.mem_ite, ite_self, Dev.mem_foldl, implies_true]))

@[simp] theorem vfRead_mem (d : Dev) (v : Nat) (off : Nat) : (vfRead d v off).2.mem = d.mem := by
  unfold vfRead; dsimp only; (repeat' split) <;> simp only [wordRead_mem]

@[simp] theorem regRead_mem (d : Dev) (via : Via) (off : Nat) (word : Bool) : (regRead d via off word).2.mem = d.mem := by
  unfold regRead; repeat' (first | (with_reducible rfl) | (with_reducible refine Dev.mem_foldl_trans (fun _ _ => ?_) ?_) | split | (simp only [vfRead_mem, badAccess_mem, wordRead_mem]))

@[simp] theorem loRead_mem (d : Dev) (via : Via) (off : Nat) : (loRead d via off).mem = d.mem := by
  unfold loRead; dsimp only; (repeat' split) <;> simp only [regRead_mem, Dev.send_mem]

/-! ### Package -/

@[simp] theorem Dev.setPerst_mem (d : Dev) (low : Bool) : (Dev.setPerst d low).mem = d.mem := by
  unfold Dev.setPerst; repeat' (first | (with_reducible rfl) | (refine Dev.mem_foldl_trans (fun _ _ => ?_) ?_) | split | (simp only [Dev.mem_ite, ite_self, Dev.mem_foldl, implies_true]))

@[simp] theorem perstAssert_mem (d : Dev) : (perstAssert d).mem = d.mem := by
  unfold perstAssert; repeat' (first | (with_reducible rfl) | (refine Dev.mem_foldl_trans (fun _ _ => ?_) ?_) | split | (simp only [linkDown_mem, Dev.setPerst_mem, Dev.startReset_mem, Dev.mem_ite, ite_self]))

@[simp] theorem Dev.sbGo_mem (d : Dev) (pec : Bool) (f : Dev → Dev) (h_f : ∀ a0, (f a0).mem = a0.mem) : (Dev.sbGo d pec f).mem = d.mem := by
  unfold Dev.sbGo; repeat' (first | (with_reducible rfl) | (with_reducible refine Dev.mem_foldl_trans (fun _ _ => ?_) ?_) | split | (simp only [Dev.send_mem, h_f]))

@[simp] theorem sbRead_mem (d : Dev) : (sbRead d).mem = d.mem := by
  unfold sbRead; repeat' (first | (with_reducible rfl) | (refine Dev.mem_foldl_trans (fun _ _ => ?_) ?_) | split | (simp only [Dev.free_mem, Dev.send_mem, regRead_mem]))

@[simp] theorem Dev.setDyn_mem (d : Dev) (addr : Nat) : (Dev.setDyn d addr).mem = d.mem := by
  unfold Dev.setDyn; dsimp only; (repeat' split) <;> simp only []

@[simp] theorem Dev.tapLoad_mem (d : Dev) (n : Nat) : (Dev.tapLoad d n).mem = d.mem := by
  unfold Dev.tapLoad; dsimp only; (repeat' split) <;> simp only []

@[simp] theorem Dev.tapTest_mem (d : Dev) (n : Nat) : (Dev.tapTest d n).mem = d.mem := by
  unfold Dev.tapTest; repeat' (first | (with_reducible rfl) | (refine Dev.mem_foldl_trans (fun _ _ => ?_) ?_) | split | (simp only [Dev.tapLoad_mem]))

/-! ### Time -/

@[simp] theorem Dev.budgetsOn_mem (d : Dev) (ticks : Hop → Nat) : (Dev.budgetsOn d ticks).mem = d.mem := by
  unfold Dev.budgetsOn; repeat' (first | (with_reducible rfl) | (with_reducible refine Dev.mem_foldl_trans (fun _ _ => ?_) ?_) | split | (simp only [Dev.mem_ite, ite_self, Dev.mem_foldl, implies_true]))

@[simp] theorem Dev.pass_mem (d : Dev) (by_ : Nat → Nat) : (Dev.pass d by_).mem = d.mem := by
  unfold Dev.pass; repeat' (first | (with_reducible rfl) | (with_reducible refine Dev.mem_foldl_trans (fun _ _ => ?_) ?_) | split | (simp only [Dev.budgetsOn_mem, Dev.dmaPump_mem]))

@[simp] theorem tick_mem (d : Dev) : (tick d).mem = d.mem := by
  unfold tick; repeat' (first | (with_reducible rfl) | (with_reducible refine Dev.mem_foldl_trans (fun _ _ => ?_) ?_) | split | (simp only [Dev.pass_mem]))

/-! ### The functions that write the stacks' memory keep its canonical form -/

/-- The memory of a device is in its canonical form. -/
abbrev Dev.memOk (d : Dev) : Prop := Memory.wf d.mem = true

theorem Dev.memOk_of_eq {d e : Dev} (h : d.memOk) (he : e.mem = d.mem) : e.memOk := by
  unfold Dev.memOk at *; rw [he]; exact h

theorem Dev.memOk_foldl {α : Type} (g : Dev → α → Dev) (l : List α) (d : Dev) (hd : d.memOk)
    (h : ∀ d x, d.memOk → (g d x).memOk) : (l.foldl g d).memOk := by
  induction l generalizing d with
  | nil => exact hd
  | cons x r ih => exact ih (g d x) (h d x hd)

theorem Dev.memOk_if {c : Prop} [Decidable c] {a b : Dev} (ha : a.memOk) (hb : b.memOk) : (if c then a else b).memOk := by
  split <;> assumption

/-- A line stored in a stack writes its 128 bytes. -/
theorem Dev.storeUnder_mem (d : Dev) (l tag v : Nat) (psn : Bool) :
    (d.storeUnder l tag v psn).mem = Memory.writeN d.mem (128 * l) 128 (2 ^ 128 - 1) v := by
  unfold Dev.storeUnder
  generalize 2 ^ 128 - 1 = m
  exact id rfl

theorem Dev.storeUnder_memOk (d : Dev) (l tag v : Nat) (psn : Bool) (h : d.memOk) : (d.storeUnder l tag v psn).memOk := by
  unfold Dev.memOk at *
  rw [Dev.storeUnder_mem]
  exact Memory.wf_writeN _ _ _ _ _ h

/-- Bytes of other lines are not touched. -/
theorem Dev.storeUnder_read (d : Dev) (l tag v : Nat) (psn : Bool) (a : Nat) (h : a / 128 ≠ l) :
    Memory.read (d.storeUnder l tag v psn).mem a = Memory.read d.mem a := by
  rw [Dev.storeUnder_mem]
  exact Memory.read_writeN_outside _ _ _ _ _ _ (by omega)

/-- A line stored in a stack is stored under the key in force or, where that is not loaded, not at all. -/
theorem Dev.storeLine_eq (d : Dev) (l v : Nat) (psn : Bool) :
    (d.storeLine l v psn).mem = d.mem ∨ ∃ tag, d.storeLine l v psn = d.storeUnder l tag v psn := by
  unfold Dev.storeLine
  split
  · exact Or.inl (Dev.keyMiss_mem _ _)
  · exact Or.inr ⟨_, rfl⟩

theorem Dev.storeLine_memOk (d : Dev) (l v : Nat) (psn : Bool) (h : d.memOk) : (d.storeLine l v psn).memOk := by
  rcases Dev.storeLine_eq d l v psn with e | ⟨tag, e⟩
  · exact Dev.memOk_of_eq h e
  · rw [e]; exact Dev.storeUnder_memOk _ _ _ _ _ h

/-- Bytes of other lines are not touched. -/
theorem Dev.storeLine_read (d : Dev) (l v : Nat) (psn : Bool) (a : Nat) (h : a / 128 ≠ l) :
    Memory.read (d.storeLine l v psn).mem a = Memory.read d.mem a := by
  rcases Dev.storeLine_eq d l v psn with e | ⟨tag, e⟩
  · rw [e]
  · rw [e]; exact Dev.storeUnder_read _ _ _ _ _ _ h

theorem Dev.zeroLines_memOk (d : Dev) (lo n : Nat) (h : d.memOk) : (d.zeroLines lo n).memOk := by
  unfold Dev.zeroLines
  extract_lets inR e1 e2
  have h2 : e2.memOk := by
    have h1 : e1.memOk := Dev.memOk_of_eq h (Dev.dropQueued_mem _ _)
    exact Memory.wf_dropIf e1.mem (fun a => inR (a / 128)) h1
  clear_value e2
  refine Dev.memOk_if (Dev.memOk_foldl _ _ _ h2 (fun e i he => ?_)) h2
  split
  · exact he
  · exact Dev.memOk_of_eq he (Dev.keyMiss_mem _ _)

theorem Dev.beyondEcc_memOk (d : Dev) (l : Nat) (ue : Dev → Dev) (h : d.memOk) (hu : ∀ d, d.memOk → (ue d).memOk) :
    (d.beyondEcc l ue).memOk := by
  unfold Dev.beyondEcc
  refine Dev.memOk_if (hu _ (Dev.memOk_of_eq h (Dev.free_mem _ _))) ?_
  refine Dev.memOk_of_eq (Dev.storeLine_memOk _ l _ false (Dev.memOk_of_eq h ?_)) (Dev.countCe_mem _ _ _)
  rw [Dev.free_mem, Dev.free_mem, Dev.free_mem]

theorem Dev.readEcc_memOk (d : Dev) (l : Nat) (ecc : Ecc) (ue : Dev → Dev) (h : d.memOk) (hu : ∀ d, d.memOk → (ue d).memOk) :
    (d.readEcc l ecc ue).memOk := by
  unfold Dev.readEcc
  refine Dev.memOk_if h ?_
  split
  · exact h
  · exact Dev.memOk_of_eq h (Dev.countCe_mem _ _ _)
  · exact hu _ h
  · exact Dev.beyondEcc_memOk _ _ _ h hu

theorem Dev.stereoUe_memOk (d : Dev) (l : Nat) (mir : Ecc) (h : d.memOk) : (d.stereoUe l mir).1.memOk := by
  unfold Dev.stereoUe
  split
  · rename_i q e m _
    extract_lets d1 x d2
    have h1 : d1.memOk := Dev.readEcc_memOk _ _ _ _ h
      (fun d hd => Dev.memOk_of_eq hd (by rw [Dev.raise_mem, Dev.poisonLine_mem]))
    have h2 : d2.memOk := Dev.memOk_of_eq h1 (Dev.dramRead_mem d1 m)
    clear_value d2 x
    split
    · exact Dev.memOk_of_eq (Dev.storeLine_memOk d2 l x.1 false h2) (by rw [Dev.raise_mem, Dev.bump_mem])
    · exact Dev.memOk_of_eq h2 (by rw [Dev.raise_mem, Dev.bump_mem])
  · split
    · split
      · refine Dev.memOk_of_eq h ?_
        rw [Dev.raise_mem, Dev.bump_mem]
      · exact h
    · exact h

theorem Dev.demandUe_memOk (d : Dev) (l : Nat) (mir : Ecc) (h : d.memOk) : (d.demandUe l mir).memOk := by
  have hx := Dev.stereoUe_memOk d l mir h
  unfold Dev.demandUe
  refine Dev.memOk_if hx (Dev.memOk_of_eq hx ?_)
  rw [Dev.raise_mem, Dev.poisonLine_mem]

theorem Dev.scrubUe_memOk (d : Dev) (l : Nat) (mir : Ecc) (h : d.memOk) : (d.scrubUe l mir).memOk := by
  have hx := Dev.stereoUe_memOk d l mir h
  unfold Dev.scrubUe
  refine Dev.memOk_if hx (Dev.memOk_of_eq hx ?_)
  rw [Dev.raise_mem, Dev.poisonLine_mem]

theorem Dev.flushQuads_memOk (d : Dev) (qs : List Nat) (h : d.memOk) : (d.flushQuads qs).memOk := by
  unfold Dev.flushQuads
  extract_lets inside d1 d2 ls d3 gone
  have h1 : d1.memOk := by
    refine Dev.memOk_foldl _ _ _ h (fun d e hd => ?_)
    exact Dev.memOk_foldl _ _ _ hd (fun d w hd => Dev.storeUnder_memOk _ _ _ _ _ hd)
  have h2 : d2.memOk := by
    refine Dev.memOk_foldl _ _ _ h1 (fun d e hd => ?_)
    split
    · exact Dev.memOk_of_eq hd (Dev.evictHome_mem _ _ _)
    · exact hd
  have h3 : d3.memOk := Dev.memOk_foldl _ _ _ h2 (fun d l hd => Dev.storeLine_memOk _ _ _ _ hd)
  exact h3

theorem Dev.clearQuads_memOk (d : Dev) (qs : List Nat) (device : Bool) (h : d.memOk) : (d.clearQuads qs device).memOk := by
  have h0 := Dev.flushQuads_memOk d qs h
  unfold Dev.clearQuads
  extract_lets d0 sealedCh mine qOf d1 busy stays d2 d3 d4
  have h1 : d1.memOk := Dev.memOk_of_eq h0 (Dev.erasePages_mem _ _ _)
  have h2 : d2.memOk := h1
  have h3 : d3.memOk := Dev.memOk_of_eq h2 (Dev.bridgesDown_mem _ _)
  have h4 : d4.memOk := Dev.memOk_foldl _ _ _ h3 (fun d q hd => Dev.memOk_of_eq hd (Dev.closeColl_mem _ _))
  clear_value d4 sealedCh
  cases sealedCh with
  | some c => exact Dev.memOk_of_eq h4 (Dev.set_mem d4 (.errcCh (chan c)) fERRC_FENCE_FENCED 0 0)
  | none => exact h4

theorem Dev.clearDevice_memOk (d : Dev) (h : d.memOk) : d.clearDevice.memOk := by
  have h0 := Dev.clearQuads_memOk d [0, 1, 2, 3] true h
  unfold Dev.clearDevice
  extract_lets d0 d1 d2 t trust
  have h1 : d1.memOk := by
    refine Dev.memOk_of_eq h0 ?_
    rw [Dev.set_mem, Dev.erasePages_mem]
  have h2 : d2.memOk := Dev.memOk_foldl _ _ _ h1 (fun d q hd => Dev.memOk_of_eq hd (Dev.closeColl_mem _ _))
  exact h2

theorem Dev.clearDom_memOk (d : Dev) (r : Rst) (h : d.memOk) : (d.clearDom r).memOk := by
  unfold Dev.clearDom
  extract_lets d1
  have h1 : d1.memOk := by
    dsimp only [d1]
    split
    · refine Dev.memOk_of_eq h ?_
      rw [Dev.erasePages_mem, Dev.clearCores_mem]
    · refine Dev.memOk_of_eq h ?_
      rw [Dev.repairDone_mem, Dev.erasePages_mem, Dev.clearCores_mem]
    · exact Dev.memOk_of_eq (Dev.clearQuads_memOk _ _ _ h) (Dev.retrainAll_mem _ _)
    · exact Dev.clearDevice_memOk _ h
  exact h1

theorem inputFault_memOk (d : Dev) (why : InputFault) (h : d.memOk) : (inputFault d why).memOk := by
  unfold inputFault
  refine Dev.memOk_if h ?_
  rfl

end Sys2Proof.Machine
end

