-- ==== Sys2Proof/Laws/Frames.lean ====
section
/-!
SUPPORT. Laws of the frames of Safety: what keeps every register word but some, and what reads a word back.
-/

namespace Sys2Proof.Machine

open Sys2Proof

/-- A page number below the quadrants' names one page. -/
theorem pageNo_inj {p q : Page} (h : pageNo p = pageNo q) : p = q := by
  cases p <;> cases q <;> simp only [pageNo] at h <;>
    first
    | rfl
    | (exfalso; omega)
    | (congr 1 <;> (apply Fin.ext; omega))
    | (obtain ⟨a, b, c⟩ := ‹CoreId›; exfalso; simp only at h; omega)
    | skip
  all_goals
    rename_i x y
    first
    | (obtain ⟨a, b, c⟩ := x; obtain ⟨a', b', c'⟩ := y
       have h1 : a.val = a'.val := by simp only at h; omega
       have h2 : b.val = b'.val := by simp only at h; omega
       have h3 : c.val = c'.val := by simp only at h; omega
       congr 2 <;> (apply Fin.ext; assumption))
    | (exfalso; simp only at h; omega)
    | (exfalso; obtain ⟨a, b, c⟩ := y; simp only at h; omega)

/-- Aligned words with one key are one word. -/
theorem regKey_unique {p q : Page} {a b i j : Nat} (ha : a % 4 = 0) (hb : b % 4 = 0) (la : a < 4096) (lb : b < 4096)
    (li : i < 16384) (lj : j < 16384) (h : regKey p a i = regKey q b j) : (p, a, i) = (q, b, j) := by
  obtain ⟨h1, h2, h3⟩ := regKey_inj la lb li lj h
  have h4 := pageNo_inj h1
  have h5 : a = b := by omega
  subst h4 h5 h3
  rfl

end Sys2Proof.Machine

namespace Sys2Proof

open Sys2Proof.Machine

theorem Safety.wordsKept_refl (d : Dev) (w : List (Page × Nat × Nat)) : Safety.wordsKept d d w := fun _ _ _ _ _ _ _ => rfl

/-- Only the register file bears on register words. -/
theorem Safety.wordsKept_of_regs {d e : Dev} (w : List (Page × Nat × Nat)) (h : e.regs = d.regs) : Safety.wordsKept d e w := by
  intro p off i _ _ _ _
  unfold Dev.word
  rw [h]

theorem Safety.wordsKept_trans {d e f : Dev} {w : List (Page × Nat × Nat)} (h1 : Safety.wordsKept d e w)
    (h2 : Safety.wordsKept e f w) : Safety.wordsKept d f w := fun p off i a b c n => (h2 p off i a b c n).trans (h1 p off i a b c n)

theorem Safety.wordsKept_mono {d e : Dev} {v w : List (Page × Nat × Nat)} (h : Safety.wordsKept d e v) (hs : ∀ x ∈ v, x ∈ w) :
    Safety.wordsKept d e w := fun p off i a b c n => h p off i a b c (fun m => n (hs _ m))

/-- Writing a listed word keeps the others. -/
theorem Safety.wordsKept_setWord {d e : Dev} {w : List (Page × Nat × Nat)} (p : Page) (off i v : Nat) (h : Safety.wordsKept d e w)
    (m : (p, off, i) ∈ w) (ho : off % 4 = 0) (hl : off < 4096) (hi : i < 16384) : Safety.wordsKept d (e.setWord p off i v) w := by
  intro q b j hb lb lj n
  rw [Dev.word_setWord_ne]
  · exact h q b j hb lb lj n
  · intro e'
    exact n ((regKey_unique hb ho lb hl lj hi e') ▸ m)

theorem Safety.wordsKept_set {d e : Dev} {w : List (Page × Nat × Nat)} (p : Page) (f : FieldDef) (i v : Nat)
    (h : Safety.wordsKept d e w) (m : (p, f.off, i) ∈ w) (ho : f.off % 4 = 0) (hl : f.off < 4096) (hi : i < 16384) :
    Safety.wordsKept d (e.set p f i v) w := Safety.wordsKept_setWord p f.off i _ h m ho hl hi

end Sys2Proof
end

