-- ==== Sys2Proof/Tests/Slice0.lean ====
section
/-!
SUPPORT. Tests of the model: small states that meet the hypotheses of each statement, clause by clause; terms that no sender can form,
which the check refuses; and single steps whose results the spec gives.
-/

set_option Elab.async false

namespace Sys2Proof.Tests

open Sys2Proof Sys2Proof.Machine

/-! ### Small states -/

/-- A field set in a device. -/
def wr (p : Page) (f : FieldDef) (v : Nat) (d : Dev) : Dev := d.set p f 0 v
/-- The field of an index, set. -/
def wrI (p : Page) (f : FieldDef) (i v : Nat) (d : Dev) : Dev := d.set p f i v

/-- Power-good taken, the H-die in INIT (Table 18.1 step 2). -/
def dOn : Dev := { Dev.reset with
  power := { Power.init with vin := true, softStart := true, pwrgd := true }, host := { HostPort.init with perst := false } }
/-- A running device: floor plan committed, START done, the host link up. -/
def dUp : Dev :=
  wr .hst fHST_LINK_UP 1 (wr .boot fBOOT_STAT_STATE 5
    { dOn with power := { dOn.power with running := true }, boot := { Boot.init with committed := true } })
/-- The running device with the configuration sealed, and with two channels. -/
def dSealed : Dev := wr .dctl fDCTL_SEAL_SEAL 1 dUp
def dTwo : Dev := wr .dctl fDCTL_ARRANGE_ARR 1 dUp
/-- The running device with a reset of a domain in progress, its drain not finished. -/
def dRst (dom : Dom) : Dev := { dUp with rsts := [⟨dom, 0, 1, false, false, 0, 0⟩] }

/-- The running device with eight virtual functions, function f in a state of its own. -/
def dVf (f : Nat) (x : Func) : Dev :=
  ({ dUp with host := { dUp.host with fns := [(0, { Func.init with vfEnable := true, numVfs := 8 })] } }).setFunc f x
/-- VF 1 enabled, and engine 3 given to it. -/
def dVfEng : Dev := (dVf 1 Func.init).set (pDma 0) (fDMA_CFG_FN.at 3) 0 1

def c0 : CoreId := ⟨0, 0, 0⟩
def pf0 : Via := .pf 0

/-- A run image: a header with as many entries as follow, and the entries. -/
def image (hdr : List (Nat × Nat)) (es : List (List Byte)) : List Byte :=
  (List.range 64).map (fun i => BitVec.ofNat 8 (if i = 0 then 1 else if i = 2 then es.length else ((hdr.find? (fun e => e.1 == i)).map
    (fun e => e.2)).getD 0)) ++ es.flatten
/-- An entry of a station's operation, with the bytes given. -/
def entryOf (stn op : Nat) (bs : List (Nat × Nat)) : List Byte :=
  (List.range 32).map (fun i => BitVec.ofNat 8 (if i = 0 then 32 * stn + op else ((bs.find? (fun e => e.1 == i)).map (fun e => e.2)).getD 0))

/-- A run of queue 0 in slot 0 of core 0. -/
def run0 (st : Stage) (img : List Byte) : Run :=
  { Run.new 0 with img := img, stage := st, core := some c0, slot := 0, tokMap := [0, 1], bufAt := List.replicate 16 0 }
/-- The running device with queue 0 of C-die 0 enabled on core 0, and the runs given. -/
def dRuns (rs : List Run) : Dev :=
  wrI (.imp 0) fIMP_QCFG_LOGSZ 0 4 (wrI (.imp 0) fIMP_QSTAT_STATE 0 1
    { dUp with
      cores := [(coreKey c0, { Core.init with binds := [(0, some ⟨0, 0, 0, [0, 0, 0, 0], 0⟩)] })],
      queues := [(0, ⟨rs, 0, false⟩)] })

/-! ### The well-formedness check -/

/-- An ATOM of a width: 0, 1 or 2 for 32, 64 or 128 bits. -/
def atomW (w : Fin 3) : AtomInstr := ⟨1, 2, 3, 4, w, 0, .none, false, 0, .clean⟩

theorem test_wf_atom_add_128_refused : Instr.wellFormed (.atomAdd c0 0 (atomW 2)) = false := by decide
theorem test_wf_atom_fadd_64_refused : Instr.wellFormed (.atomFadd c0 0 (atomW 1)) = false := by decide
theorem test_wf_descriptor_31_bytes_refused :
    Instr.wellFormed (.dmaDescriptorArrival 0 0 (List.replicate 31 0) .ok) = false := by decide
theorem test_wf_atom_add_64_taken : Instr.wellFormed (.atomAdd c0 0 (atomW 1)) = true := by decide
theorem test_wf_ill_formed_faults : exec (.atomAdd c0 0 (atomW 2)) State.reset = .fault .illFormed := by rfl

/-! ### The block as a whole -/

theorem witness_StepPerformsFrontCommand :
    step { pending := [.startComplete], dev := dUp } = exec .startComplete { pending := [], dev := dUp } := by rfl
theorem witness_FormedCommandsComplete :
    Instr.wellFormed .startComplete = true ∧ Instr.wellFormed (.atomFadd c0 0 (atomW 2)) = false := by decide
theorem witness_FormedQueueRuns : Safety.queueFormed { pending := [.startComplete, .trst], dev := dUp } = true := by decide
theorem witness_StepKeepsMemoryCanonical :
    Safety.memoryCanonical { pending := [.trst], dev := { dUp with mem := [(0, 1), (128, 2)] } } = true ∧
    (∃ t, step { pending := [.trst], dev := { dUp with mem := [(0, 1), (128, 2)] } } = .next t) := ⟨by decide, _, rfl⟩
theorem witness_OnlyEightCommandsChangeMemory :
    ∃ t, exec .trst { pending := [], dev := { dUp with mem := [(0, 1)] } } = .next t := ⟨_, rfl⟩
theorem witness_LogicalCoreIdsAreContiguous :
    dUp.boot.committed = true ∧ dUp.lid ⟨7, 23, 23⟩ = some 7927 ∧ dUp.nLog 7 23 = 24 ∧
    { dUp with boot := { dUp.boot with defects := [(rowKey 7 23, 3)] } }.nLog 7 23 = 23 ∧ 7936 / 32 % 32 = 24 := by decide +kernel
theorem witness_PagesInResetDiscardAndReadZero :
    (∀ v, pf0 ≠ .vf v) ∧ pageOfNo (0x1000014 / 4096) = some (.qctl 0) ∧ (dRst (.quad 0)).inReset (.qctl 0) = true ∧
    (dRst (.quad 0)).deadPage (.qctl 0) = false ∧ 0x1000014 % 4096 = 0x014 ∧ (dRst (.quad 0)).reaches pf0 (.qctl 0) = true ∧
    (dRst (.quad 0)).tdiError pf0 = false ∧ pageOfNo (0x1000100 / 4096) = some (.qctl 0) := by decide +kernel
theorem witness_Bf16IsUpperHalfOfBinary32 :
    decodeFloat bf16 0x3F80 = .num false 128 (-7) ∧ decodeFloat bf16 0xFF80 = .inf true ∧ decodeFloat bf16 0xFFFF = .nan ∧
    decodeFloat bf16 0x8001 = .num true 1 (-133) := by decide

/-! ### Register accesses -/

/-- No cause of an error source holds in the running device. -/
theorem dUp_no_cause : ∀ i, dUp.cause .pwr i = none := by
  intro i
  match i with
  | 0 => decide +kernel
  | 1 => rfl
  | 2 => decide +kernel
  | _ + 3 => rfl

theorem witness_RegisterWriteFollowsAccessRules :
    pageOfNo (0x6000 / 4096) = none ∧ pageOfNo (0x1000 / 4096) = some .boot ∧ (∀ v, Via.sb ≠ .vf v) ∧
    dUp.arrives .sb = true ∧ dUp.reaches .sb .boot = true ∧ dUp.tdiError .sb = false ∧ dUp.deadPage .boot = false ∧
    dUp.inReset .boot = false ∧ 0x1024 % 4096 = 0x024 ∧ 0x1003 % 4 ≠ 0 ∧
    pageOfNo (0x1000100 / 4096) = some (.qctl 0) ∧ (dRst (.quad 0)).arrives pf0 = true ∧ (dRst (.quad 0)).reaches pf0 (.qctl 0) = true ∧
    (dRst (.quad 0)).tdiError pf0 = false ∧ (dRst (.quad 0)).deadPage (.qctl 0) = false ∧
    (dRst (.quad 0)).inReset (.qctl 0) = true ∧
    dVfEng.vfEngine 1 0x100C = some 3 ∧ 0x100C % 32 = 0x0C ∧ 0x101C % 32 = 0x1C ∧ dVfEng.vfEngine 1 0x101C = some 3 ∧
    (2 ^ 28).testBit 28 = true ∧ dVfEng.vfEngine 1 0x1000 = some 3 ∧ dVfEng.vfEngine 1 0x1020 = none ∧ 60 = 4 * 15 := by
  and_intros <;> decide +kernel

theorem witness_SealGovernsWrites :
    pageOfNo (0x1028 / 4096) = some .boot ∧ 0x1028 % 4096 = 0x028 ∧ 0x102C % 4096 = 0x02C ∧ dUp.writable .sb .boot = true ∧
    dUp.isSealed = false ∧ dSealed.writable .sb .boot = true ∧ dSealed.isSealed = true ∧ dUp.host.fns = [] ∧ dSealed.host.fns = [] ∧
    dSealed.word .boot fERR_SEV_SEV.off 0 ≠ 0 % 4 ^ nsrc (pageKind .boot) ∧
    dSealed.word .boot fERR_SEV_SEV.off 0 = 0x5C % 4 ^ nsrc (pageKind .boot) ∧ dUp.writable .sb .dctl = true ∧
    dUp.writable (.vf 1) .dctl = false ∧ dSealed.writable .sb .dctl = true := by decide +kernel

theorem witness_RegisterPairsAndWindowTable :
    (∀ v, Via.sb ≠ .vf v) ∧ pageOfNo (0x1108 / 4096) = some .boot ∧ dUp.writable .sb .boot = true ∧ isLo .boot 0x108 = true ∧
    isHi .boot 0x10C = true ∧ pageOfNo (0x310C / 4096) = some (collPage 8) ∧ dUp.writable .sb (collPage 8) = true ∧
    isHi (collPage 8) 0x10C = true ∧ dUp.writable pf0 (.qctl 0) = true ∧ (dUp.staged 0).illegal = false ∧
    ((wrI (.qctl 0) fQCTL_WTAB_W1_SIZE_G 0 127 (wrI (.qctl 0) fQCTL_WTAB_W0_VALID 0 1 dUp)).staged 0).illegal = true ∧
    dUp.window 0 0 = Window.init ∧ (pairRefused dUp .boot 0x108).isNone = true ∧ (pairRefused dUp (collPage 8) 0x108).isNone = true ∧
    (dRuns []).get (.imp 0) fIMP_QSEL_Q 0 = 0 ∧ (dRuns []).qState 0 0 ≠ 0 ∧ (pairRefused (dRuns []) (.imp 0) 0x108).isSome = true ∧
    isLo (.imp 0) 0x108 = true ∧ isHi (.imp 0) 0x11C = true ∧ isLo (.qctl 0) 0x250 = true ∧
    (wrI (.qctl 0) fQCTL_SR_STAT_STATE 0 1 dUp).get (.qctl 0) fQCTL_SR_IDX_ENT 0 = 0 ∧
    (wrI (.qctl 0) fQCTL_SR_STAT_STATE 0 1 dUp).srState 0 0 ≠ 0 ∧ dVfEng.vfEngine 1 0x1000 = some 3 ∧
    isLo (pDma 0) (0x100 + 0x20 * 3 + 0x1000 % 0x20) = true ∧ dVfEng.presents 1 = true ∧ dVfEng.arrives (.vf 1) = true ∧
    dVfEng.tdiError (.vf 1) = false ∧ dVfEng.inReset (pDma 0) = false := by and_intros <;> decide +kernel

theorem witness_ErrorStatusClearsAndFences :
    dUp.writable .sb .pwr = true ∧ dUp.writable pf0 (collPage 0) = true ∧ dUp.writable .sb (collPage 8) = true ∧
    (dUp.coll 0).isOpen = false ∧ ({ dUp with colls := [(0, { Coll.init with isOpen := true })] }.coll 0).isOpen = true ∧
    dUp.writable pf0 (.errcCh 0) = true ∧ dUp.isSealedOp = false ∧ dTwo.writable pf0 (.errcCh 0) = true ∧
    0 < dTwo.nChan ∧ dTwo.isSealedOp = true ∧ dTwo.on (.errcCh 0) fERRC_FENCE_FENCED 0 = false ∧ dUp.writable .sb .errcDev = true ∧
    (∀ k, k < 9 → (dUp.coll k).isOpen = false ∨ dUp.taken k rEPIN = false) ∧
    (∃ k, k < 9 ∧ ({ dUp with colls := [(8, { Coll.init with isOpen := true, hist := [(0, { Hist.init with react := 2 ^ rEPIN })] })] }.coll k).isOpen = true ∧
      { dUp with colls := [(8, { Coll.init with isOpen := true, hist := [(0, { Hist.init with react := 2 ^ rEPIN })] })] }.taken k rEPIN = true) := by
  refine ⟨?_, ?_, ?_, ?_, ?_, ?_, ?_, ?_, ?_, ?_, ?_, ?_, ?_, 8, ?_⟩ <;> decide +kernel

/-! ### Bridges and traffic -/

/-- A request that waits, its budget run down. -/
def late0 : Req := { Req.blank with id := 5, op := .rd, addr := 0, tgt := .stack 0 0, mask := 1, budget := 0 }

theorem witness_BridgesAndTraffic :
    dUp.brgGated 0 1 = false ∧ dUp.brgReady 0 1 = true ∧ dUp.brgState 0 1 = 1 ∧
    (wr (pBrg 0 1) fBRG_STAT_STATE 2 dUp).brgState 0 1 = 2 ∧ (∀ r ∈ dUp.reqs, r.issued = true) ∧
    { dUp with reqs := [late0] }.req 5 = some late0 ∧ late0.budget = 0 ∧ late0.late = false ∧
    { dUp with reqs := [late0] }.parked late0 = false := by decide +kernel

/-! ### Queues and runs -/

/-- Queue 0 of C-die 0 configured for the one core of logical column 0, its runtime store loaded; and the same queue enabled. -/
def dCfg : Dev := wrI (.imp 0) fIMP_QCFG_LOGSZ 0 4 { dUp with boot := { dUp.boot with rtStore := true } }
/-- Its state set. -/
def dQ (st : Nat) : Dev := wrI (.imp 0) fIMP_QSTAT_STATE 0 st dCfg

theorem witness_QueuesConfiguredAndEnabled :
    dCfg.writable pf0 (pImp 0) = true ∧ (3 + 2 ^ 32 - dCfg.qRp 0 0) % 2 ^ 32 ≤ dCfg.qSize 0 0 ∧
    dCfg.qSize 0 0 < (17 + 2 ^ 32 - dCfg.qRp 0 0) % 2 ^ 32 ∧ (16 + 2 ^ 32 - dCfg.qRp 0 0) % 2 ^ 32 = dCfg.qSize 0 0 ∧
    dCfg.get (.imp 0) fIMP_QSEL_Q 0 = 0 ∧ dCfg.qState 0 0 = 0 ∧ 63 < dCfg.nPart ∧ (dQ 1).qState 0 0 ≠ 0 ∧ dTwo.nPart ≤ 63 ∧
    dTwo.qState 0 0 = 0 ∧ dUp.get (.imp 0) fIMP_CMAP_IDX_IDX 0 = 32 * 0 + 0 ∧ dUp.get (.imp 0) fIMP_CMAP_PART 0 ≠ 5 ∧
    (∀ sl, sl < 8 → (dUp.core c0).bind sl = none) ∧ (∃ sl, sl < 8 ∧ ((dRuns []).core c0).bind sl ≠ none) ∧
    dUp.enableErr 0 0 = 5 ∧ dCfg.enableErr 0 0 = 0 ∧ dCfg.targetCores 0 0 = [c0] ∧
    ({ wr (pStk 0) fSTK_STAT_STATE 2 dCfg with mem := [(0, 1)] }.restoreBytes 0 0 [] .ok).map (fun b => (fieldLE b 0 4, fieldLE b 4 2)) =
      some ((dCfg.targetSet 0 0).length, dCfg.qTag 0 0) := by
  refine ⟨?_, ?_, ?_, ?_, ?_, ?_, ?_, ?_, ?_, ?_, ?_, ?_, ?_, ⟨0, ?_⟩, ?_, ?_, ?_, ?_⟩ <;> decide +kernel

theorem witness_QueuesHeldAndEnded :
    (dQ 1).writable pf0 (pImp 0) = true ∧ (dQ 1).get (.imp 0) fIMP_QSEL_Q 0 = 0 ∧ (dQ 1).qState 0 0 = 1 ∧
    ((dQ 1).queue (queueKey 0 0)).after = 0 ∧ (dQ 2).qState 0 0 = 2 ∧ (dQ 3).qState 0 0 = 3 ∧
    (wrI (.imp 0) fIMP_QSTAT_BEGUN 0 1 (dRuns [run0 .begun []])).qState 0 0 = 1 ∧
    (wrI (.imp 0) fIMP_QSTAT_BEGUN 0 1 (dRuns [run0 .begun []])).qBegun 0 0 ≠ 0 ∧ (dQ 4).qState 0 0 = 4 ∧
    (dQ 4).reqs = [] := by
  and_intros <;> decide +kernel

/-- A run of one command, and the running device with that run begun and its command at the front of its station's queue. -/
def cmd0 (stn op : Nat) (bs : List (Nat × Nat)) : Run := run0 .begun (image [] [entryOf stn op bs])
def dCmd (stn op : Nat) (bs : List (Nat × Nat)) : Dev :=
  (dRuns [cmd0 stn op bs]).modCore c0 (fun k => { k with stations := [(stn, { Station.init with queue := [(0, 0)] })] })
/-- A request that has been answered. -/
def ans0 (cli : Client) (err psn : Bool) : Req := { Req.blank with id := 3, cli := cli, ready := true, resErr := err, resPsn := psn }

/-- The image of a legal run of one PREFETCH at any core, and of one whose entry is no command. -/
def imgOk : List Byte := image [(0x39, 0x80)] [entryOf 0 4 [(0x0C, 128)]]
def imgBad : List Byte := image [(0x39, 0x80)] [entryOf 0 9 []]
/-- The running device with one run being fetched, what it asked for here: its phase, the header it has, and the bytes that came. -/
def dFetched (ph : Nat) (img : Img) (bs : List Byte) (err : Bool) : Dev :=
  { dRuns [{ Run.new 0 with phase := ph, img := img }] with
    reqs := [{ Req.blank with id := 3, cli := .fetch 0 0 0, op := .rd, mask := 2 ^ bs.length - 1, res := leNat bs, ready := true,
                              resErr := err }] }
/-- The run is the one whose bytes are here. -/
def isFetched (d : Dev) (ph : Nat) (img : Img) : Bool :=
  decide ((d.queue 0).runs.find? (fun r => r.stage == .fetching && !(d.fetchReqs 0 0 r.pos).isEmpty &&
    (d.fetchReqs 0 0 r.pos).all (fun y => y.ready)) = some { Run.new 0 with phase := ph, img := img })
/-- Sixteen runs of 256 entries hold the run buffer. -/
def dFull : Dev := dRuns (List.replicate 16 { Run.new 1 with phase := 2, img := image [(3, 1)] [] } ++
  [{ Run.new 0 with phase := 1 }])

theorem witness_RunsFetchedAndBegun :
    (wr (.imp 0) (fIMP_QWP_WP.at 0) 1 (dRuns [])).fetchPick 0 = some 0 ∧
    (wr (.imp 0) (fIMP_QWP_WP.at 0) 1 (dRuns [])).fetchWaits 0 = false ∧ (dRuns []).inReset (pImp 0) = false ∧
    isFetched (dFetched 0 [] (leBytes 8 0) true) 0 [] = true ∧ isFetched (dFetched 0 [] (leBytes 8 0x41) false) 0 [] = true ∧
    Dev.fetched ((dFetched 0 [] (leBytes 8 0x41) false).fetchReqs 0 0 0) = leBytes 8 0x41 ∧ fieldLE (leBytes 8 0x41) 0 8 % 64 ≠ 0 ∧
    2 ^ 48 ≤ fieldLE (leBytes 8 (2 ^ 48)) 0 8 ∧ fieldLE (leBytes 8 (2 ^ 48 - 64)) 0 8 < 2 ^ 48 ∧
    fieldLE (leBytes 8 (2 ^ 48 - 64)) 0 8 % 64 = 0 ∧
    isFetched (dFetched 1 [] (imgOk.take 64) false) 1 [] = true ∧ hNent (imgOk.take 64) = 1 ∧
    (dFetched 1 [] (imgOk.take 64) false).bufUsed 0 + imageBytes (imgOk.take 64) ≤ 131072 ∧
    131072 < dFull.bufUsed 0 + imageBytes (imgOk.take 64) ∧ hNent (image [(0x39, 0x80)] []) = 0 ∧
    checkRun (image [(0x39, 0x80)] []) (dUp.targetSet 0 0) (dUp.quadsOf (dUp.chanOf 0)) ≠ none ∧
    isFetched (dFetched 2 (imgOk.take 64) (imgOk.drop 64) false) 2 (imgOk.take 64) = true ∧
    checkRun (imgOk.take 64 ++ imgOk.drop 64) ((dRuns []).targetSet 0 0) ((dRuns []).quadsOf ((dRuns []).chanOf 0)) = none ∧
    checkRun (imgBad.take 64 ++ imgBad.drop 64) ((dRuns []).targetSet 0 0) ((dRuns []).quadsOf ((dRuns []).chanOf 0)) = some (3, 0) ∧
    (((dRuns [{ Run.new 0 with stage := .checked, img := imgOk }]).queue 0).runs.filter (fun r => r.stage == .checked)).findSome?
      (fun r => ((dRuns [{ Run.new 0 with stage := .checked, img := imgOk }]).bindAt 0 0 r).map (fun e => (r.pos, e))) =
      some (0, c0, 0) ∧
    firstBegin ((dRuns [run0 .ready imgOk]).beginners c0) = some (0, 0, 0) ∧
    (dRuns [run0 .ready imgOk]).runAt c0 0 = some (run0 .ready imgOk) ∧
    hNtok imgOk ≤ ((dRuns [run0 .ready imgOk]).freeToks c0).length ∧
    placeBufs ((List.range 16).map (hBufSz imgOk)) ((dRuns [run0 .ready imgOk]).usedGrans c0) = some (List.replicate 16 0) ∧
    (dRuns [{ run0 .begun imgOk with toPlace := cmdsOf imgOk }]).runAt c0 0 = some { run0 .begun imgOk with toPlace := cmdsOf imgOk } ∧
    (cmdsOf imgOk).getD 0 [] = [0] ∧
    ((((dRuns []).core c0).station 0).queue.filter (fun e => e.1 == 0)).length < 4 ∧
    ((((dRuns []).core c0).station 0).queue).length < 64 := by (and_intros <;> decide +kernel)

theorem witness_RunsWaitAndEnd :
    (dRuns [run0 .ended imgOk]).runAt c0 0 = some (run0 .ended imgOk) ∧
    ((dRuns [run0 .ended imgOk]).core c0).bind 0 = some ⟨0, 0, 0, [0, 0, 0, 0], 0⟩ ∧ (dRuns [run0 .ended imgOk]).runDone c0 0 = true ∧
    (dRuns [run0 .waiting (image [(0x20, 2), (0x39, 0x80)] [])]).runAt c0 0 =
      some (run0 .waiting (image [(0x20, 2), (0x39, 0x80)] [])) ∧
    hWaitKind (image [(0x20, 2), (0x39, 0x80)] []) = 2 ∧ (run0 .waiting []).pollDue ≤ dUp.now (pressClk 0) ∧
    { dRuns [run0 .waiting imgOk] with reqs := [ans0 (.poll c0 0) true false] }.reqs.find?
      (fun y => decide (y.cli = Client.poll c0 0) && y.ready) = some (ans0 (.poll c0 0) true false) ∧
    (ans0 (.poll c0 0) false true).resPsn = true ∧ (ans0 (.poll c0 0) false false).resErr = false ∧
    waitLimit (image [(0x21, 16)] []) = 2 ^ 16 ∧
    0 + waitLimit (image [(0x21, 16)] []) < { dRuns [run0 .waiting (image [(0x21, 16)] [])] with clk := [(0, 65537)] }.now 0 := by
  (and_intros <;> decide +kernel)

/-! ### Stations -/

theorem witness_FeederCommandsIssue :
    Safety.mayIssue (dCmd 0 1 []) c0 stFdr 1 0 0 (cmd0 0 1 []) ∧ Safety.mayIssue (dCmd 0 2 []) c0 stFdr 2 0 0 (cmd0 0 2 []) ∧
    Safety.mayIssue (dCmd 0 3 []) c0 stFdr 3 0 0 (cmd0 0 3 []) ∧ Safety.mayIssue (dCmd 0 4 []) c0 stFdr 4 0 0 (cmd0 0 4 []) ∧
    { dCmd 0 1 [] with reqs := [ans0 (.feeder c0 0 0 [(0, 0, 128)]) false false] }.req 3 =
      some (ans0 (.feeder c0 0 0 [(0, 0, 128)]) false false) := by
  unfold Safety.mayIssue; (and_intros <;> decide +kernel)

theorem witness_PlatenAndFolderCommandsIssue :
    Safety.mayIssue (dCmd 1 1 []) c0 stPlt 1 0 0 (cmd0 1 1 []) ∧ (dCmd 1 1 []).onsetOk c0 = false ∧
    Safety.mayIssue ((dCmd 1 1 []).modCore c0 (fun k => { k with onset := true })) c0 stPlt 1 0 0 (cmd0 1 1 []) ∧
    ((dCmd 1 1 []).modCore c0 (fun k => { k with onset := true })).onsetOk c0 = true ∧
    Safety.mayIssue (dCmd 3 1 []) c0 stFld 1 0 0 (cmd0 3 1 []) ∧ Safety.mayIssue (dCmd 3 2 []) c0 stFld 2 0 0 (cmd0 3 2 []) ∧
    Safety.mayIssue (dCmd 3 3 []) c0 stFld 3 0 0 (cmd0 3 3 []) ∧ Safety.mayIssue (dCmd 3 4 []) c0 stFld 4 0 0 (cmd0 3 4 []) ∧
    Safety.mayIssue (dCmd 3 5 []) c0 stFld 5 0 0 (cmd0 3 5 []) ∧ Safety.mayIssue (dCmd 3 6 []) c0 stFld 6 0 0 (cmd0 3 6 []) := by
  unfold Safety.mayIssue; (and_intros <;> decide +kernel)

/-- The running device with a station of core 0 executing the command of slot 0. -/
def dExec (stn op : Nat) : Dev :=
  (dCmd stn op []).modCore c0 (fun k => { k with stations := [(stn, { Station.init with exec := some ⟨0, 0, 0, true⟩ })] })

/-- A signal of core 0's slot 0 to a target. -/
def sig0 (target : Nat) : Signal := ⟨c0, 0, 0, 0, 0, 0, target, 0, 1, ⟨0, 0xFFF, false⟩⟩

theorem witness_DeliveryIssuesAndStationsComplete :
    Safety.mayIssue (dCmd 4 1 []) c0 stDlv 1 0 0 (cmd0 4 1 []) ∧ Safety.mayIssue (dCmd 4 2 []) c0 stDlv 2 0 0 (cmd0 4 2 []) ∧
    Safety.mayIssue (dCmd 4 3 []) c0 stDlv 3 0 0 (cmd0 4 3 []) ∧ Safety.mayIssue (dCmd 4 4 []) c0 stDlv 4 0 0 (cmd0 4 4 []) ∧
    { dCmd 4 4 [] with signals := [(sig0 0)] }.signals[0]? = some (sig0 0) ∧
    (dCmd 4 4 []).signalTarget (sig0 0) = some (c0, 0) ∧
    (dCmd 4 4 []).signalTarget (sig0 5) = none ∧ (dCmd 4 4 []).runIs c0 0 0 = true ∧
    (dCmd 4 4 []).runIs c0 1 0 = false ∧
    (((dExec 1 1).core c0).station stPlt).exec = some ⟨0, 0, 0, true⟩ ∧ (((dExec 3 1).core c0).station stFld).exec = some ⟨0, 0, 0, true⟩ ∧
    (((dExec 0 1).core c0).station stFdr).exec = some ⟨0, 0, 0, true⟩ ∧ (dExec 0 1).reqs = [] ∧
    (((dExec 4 1).core c0).station stDlv).exec = some ⟨0, 0, 0, true⟩ ∧ ((dExec 4 1).runAt c0 0).isSome = true ∧
    (dExec 4 1).dlvSent c0 0 0 = true ∧
    ((((dCmd 4 1 []).modCore c0 (fun k => { k with stations := [(4, { Station.init with exec := some ⟨0, 0, 0, false⟩ })] })).core
      c0).station stDlv).exec = some ⟨0, 0, 0, false⟩ ∧
    (dCmd 4 1 []).relDone c0 0 (entry (cmd0 4 1 []).img 0) = true ∧
    { dCmd 4 1 [] with reqs := [{ Req.blank with cli := .delivery c0 0 0 true, op := .wr, scope := 3 }] }.relDone c0 0
      (entry (cmd0 4 1 [(1, 1)]).img 0) = false ∧
    ((dCmd 2 1 []).modCore c0 (fun k => { k with inker := { k.inker with launches := [⟨0, 0, some (1, 1, 64), 0, 0⟩] } })
      |>.core c0).inker.launches.find? (fun l => l.slot == 0) = some ⟨0, 0, some (1, 1, 64), 0, 0⟩ ∧
    eByte (entry (cmd0 2 1 []).img 0) 0xD = 0 ∧
    ((dCmd 1 1 []).modCore c0 (fun k => { k with
      binds := [(0, some ⟨0, 0, 3, [0, 0, 0, 0], 0⟩)],
      stations := [(1, { Station.init with age := [2 ^ 20, 0, 0, 0, 0, 0, 0, 0] })] }) |>.core c0).bind 0 =
      some ⟨0, 0, 3, [0, 0, 0, 0], 0⟩ ∧ Station.init.promo.length = 8 ∧
    (dExec 1 1).runAt c0 0 = some (cmd0 1 1 []) ∧ (dExec 1 1).currentEnt c0 1 0 = some 0 ∧
    (dExec 1 1).wdogExp c0 (cmd0 1 1 []) = 24 ∧
    ((List.range 24).map (fun i => ((NMap.get ((dCmd 1 1 []).modCore c0 (fun k => { k with onsetReq := true })).onset 0 (23, 0)).1 +
      1 + i) % 24)).filter (fun r => !(((dCmd 1 1 []).modCore c0 (fun k => { k with onsetReq := true })).onsetRow 0 r).isEmpty) =
      [0] := by
  unfold Safety.mayIssue; (and_intros <;> decide +kernel)

/-! ### The Inker -/

/-- A run of one LAUNCH of 8 blocks of one group, with 16 registers. -/
def rInk : Run := cmd0 2 1 [(0x0C, 1), (0x0D, 8), (0x0F, 16)]
def pInk : Path := { lanes := BitVec.allOnes 32, pc := 0x20, st := .run, stack := [], issued := 0, since := 0 }
def gInk : Group := { block := 0, grp := 0, colBase := 0, nreg := 16, paths := [pInk], regs := [], rcache := [], until_ := 0 }
def lInk : Launch := ⟨0, 0, some (0, 8, 4096), 1, 0⟩
/-- The Inker of core 0 runs its first block, at the kernel's first instruction. -/
def dInkG (g : Group) : Dev :=
  (dRuns [rInk]).modCore c0 (fun k => { k with inker := { k.inker with
    launches := [lInk], blocks := [(0, some ⟨0, 0, 0, 0⟩)], groups := [(0, some g)], icache := [0] } })
def dInk : Dev := dInkG gInk
def xInk : Ctx := ⟨gInk, 0, ⟨0, 0, 0, 0⟩, rInk, entry rInk.img 0, 0, 0, List.range 32, 0⟩
/-- A request of the Inker, answered. -/
def ansI (cli : Client) (op : ReqOp) : Req := { ans0 cli false false with op := op, mask := 2 ^ 128 - 1 }

/-- Any instruction may run there whose registers await nothing. -/
theorem dInk_mayRun (srcs : List (Nat × Nat × Bool)) (dst : List (Nat × Nat)) : Safety.mayRun dInk c0 0 srcs dst xInk := by
  refine ⟨pInk, lInk, by decide +kernel, by decide +kernel, by decide +kernel, ?_, ?_, by decide +kernel⟩ <;>
    (intro e _; show (dInk.reqs.any _) = false; rfl)

theorem witness_LaunchesAdmitAndEndBlocks :
    (dCmd 2 1 []).runAt c0 0 = some (cmd0 2 1 []) ∧ (((dCmd 2 1 []).core c0).station stInk).nextOf 0 = some 0 ∧
    (dCmd 2 1 []).eligible c0 stInk 0 = true ∧ ((dCmd 2 1 []).core c0).inker.launches = [] ∧
    (dCmd 2 1 []).domInReset (.core c0) = false ∧
    { dInk with reqs := [ans0 (.header c0 0) false false] }.reqs.find? (fun y => decide (y.cli = Client.header c0 0) && y.ready) =
      some (ans0 (.header c0 0) false false) ∧
    (dInk.core c0).inker.launches.find? (fun l => l.slot == 0) = some lInk ∧
    headerBad 0 (entry rInk.img 0) (hBufSz rInk.img 0) = true ∧
    headerBad (0xB1 + 2 ^ 8 + 2 ^ 24 * 8 + 2 ^ 32 * 16) (entry rInk.img 0) (hBufSz rInk.img 0) = false ∧
    (∀ l ∈ ((dCmd 2 1 []).core c0).inker.launches, l.slot ≠ 0) ∧ dInk.launchReady c0 0 = true ∧ (dInk.core c0).inker.chosen = none ∧ dInk.pick c0 stInk (dInk.launchReady c0) = some 0 ∧
    (dInk.core c0).inker.fit 0 0 0 (eByte (entry rInk.img 0) 0xC) (eByte (entry rInk.img 0) 0xF) = some (1, [1], [16], 0) ∧
    ((dInkG { gInk with nreg := 1024 }).core c0).inker.fit 0 0 0 (eByte (entry rInk.img 0) 0xC) 255 = none ∧
    ((dInkG { gInk with paths := [] }).core c0).inker.block 0 = some ⟨0, 0, 0, 0⟩ ∧
    (∀ e ∈ ((dInkG { gInk with paths := [] }).core c0).inker.blockGroups 0, e.2.paths = []) ∧ dInk.reqs = [] := by
  and_intros <;> decide +kernel

theorem witness_InkerRegisterInstructions :
    (∀ i : InkInstr, Safety.mayRun dInk c0 0 [(i.srcA.val, (opShape i.op).1, i.hints.getLsbD 0),
      (i.srcB.val, (opShape i.op).2.1, i.hints.getLsbD 1), (i.srcC.val, (opShape i.op).2.2.1, i.hints.getLsbD 2)]
      [(i.dst.val, (opShape i.op).2.2.2)] xInk) ∧
    Safety.mayRun dInk c0 0 [(1, 1, false), (2, 1, true)] [(3, dInk.tileCount c0 0 0 .raw)] xInk ∧
    xInk.tdesc 0 = some (entry rInk.img 0) ∧ { xInk with ent := List.replicate 32 255 }.tdesc 0 = none ∧
    Safety.mayRun dInk c0 0 [(1, 1, false), (3, regsFor (accBytes 4), false)] [] xInk ∧ dInk.running c0 0 = true ∧
    ((dRuns [run0 .begun (image [(0x10, 1)] [])]).stoneEcc c0 (.uncorrectable 0) stInk 0 0).running c0 0 = false := by
  exact ⟨fun _ => dInk_mayRun _ _, dInk_mayRun _ _, by decide +kernel, by decide +kernel, dInk_mayRun _ _, by decide +kernel,
    by decide +kernel⟩

theorem witness_InkerMemoryInstructions :
    Safety.mayRun dInk c0 0 [(1, 2, false)] [(3, regsFor (accBytes 4))] xInk ∧ Dev.acquired c0 0 dInk xInk = true ∧
    Safety.mayRun dInk c0 0 [(1, 2, false), (3, regsFor (accBytes 4), true)] [] xInk ∧ dInk.threadReleased c0 0 3 = true ∧
    { dInk with reqs := [ansI (.inkSt c0 0 0 0) .wr] }.threadReleased c0 0 3 = false ∧
    { dInk with reqs := [ansI (.inkLd c0 0 0 0) .rd] }.req 3 = some (ansI (.inkLd c0 0 0 0) .rd) ∧
    { dInk with reqs := [ansI (.ifetch c0 0) .rd] }.reqs.find? (fun y => decide (y.cli = Client.ifetch c0 0) && y.ready) =
      some (ansI (.ifetch c0 0) .rd) ∧
    atomWidthOk .add 1 = true ∧ atomWidthOk .fadd 0 = true ∧ atomWidthOk .exch 1 = true ∧ atomWidthOk .cas 1 = true ∧
    Safety.mayRun dInk c0 0 [(2, 2, false), (3, 2, false), (4, 2, false)] [(1, 2)] xInk ∧
    xInk.local 0 4 = none ∧ (xInk.lgran = 0 ∧ { xInk with lgran := 1 }.local 0 4 = some 0) ∧
    { dInk with reqs := [ansI (.atom c0 0 0 0) (.atom .add 4 [])] }.req 3 = some (ansI (.atom c0 0 0 0) (.atom .add 4 [])) := by
  refine ⟨dInk_mayRun _ _, ?_, dInk_mayRun _ _, ?_, ?_, ?_, ?_, ?_, ?_, ?_, ?_, dInk_mayRun _ _, ?_, ?_, ?_⟩ <;> decide +kernel

theorem witness_InkerControlInstructions :
    Safety.mayRun dInk c0 0 [] [] xInk ∧ dInk.threadReleased c0 0 0 = true ∧ xInk.g.paths = [pInk] ∧
    Safety.mayRun dInk c0 0 [(1, 1, false)] [] xInk ∧
    { dInk with reqs := [ansI (.inkSt c0 0 0 0) .wr] }.threadReleased c0 0 0 = false ∧
    (dInk.core c0).inker.group 0 = some gInk ∧ (∃ p ∈ gInk.paths, p.st ≠ .bar) ∧
    ((dInkG { gInk with paths := [{ pInk with issued := 64 }, pInk] }).core c0).inker.group 0 =
      some { gInk with paths := [{ pInk with issued := 64 }, pInk] } ∧
    { gInk with paths := [{ pInk with issued := 64 }, pInk] }.others = true := by
  refine ⟨dInk_mayRun _ _, ?_, ?_, dInk_mayRun _ _, ?_, ?_, ?_, ?_, ?_⟩ <;> decide +kernel

/-! ### Colophons, reductions, the memory system's maintenance -/

/-- A colophon write at its home, of group 7. -/
def col0 : Req := { Req.blank with id := 3, op := .wr, tgt := .stack 0 0, flag := true, colo := true, group := 7, expect := 128 }
/-- Every link between B-dies, and to the H-die, is UP. -/
def brUp (d : Dev) : Dev := (List.range 16).foldl (fun d i => d.set (pBrg (i / 4) (i % 4)) fBRG_STAT_STATE 0 2) d
def dCol (g : Grp) : Dev := { dUp with reqs := [col0], grps := [(7, g)] }
/-- A copy of line 0. -/
def cl0 : CLine := ⟨.m, true, 5, false, 0, 1, 0, false, 0, 0, false, false⟩
/-- A reduction of 8 bytes at the head of slice 0, its line here. -/
def red0 : Req := { Req.blank with id := 3, op := .acc 1 0, tgt := .stack 0 0, mask := 255 }
/-- A request of no class and no budget. -/
def svc0 : Svc := ⟨0, 0xFFF, false⟩
def txnOf (k : HKind) (rq : Nat) (aw : List Nat) (got : Option (Nat × Bool)) : Txn :=
  { req := ⟨k, 0, 0, 0, rq, false, 0, false, ⟨.clean, false, false⟩, svc0⟩, await := aw, got := got, gotDirty := false, gotMem := false,
    direct := false, upgrade := false, recalled := false, ownerGone := false, inv := false, room := none, ready := true }
def dRed : Dev := { dUp with
  reqs := [red0], redq := [(0, 3)], txns := [(0, some (txnOf .homeop 3 [] (some (5, false))))],
  lines := [(lineKeyOf 8 0 0, some cl0)] }
/-- Entry 0 of the reduction buffers of B-die 0: one block at address 0, in a state. -/
def dRb (st : Nat) : Dev := wrI (.qctl 0) fQCTL_RB_STAT_STATE 0 st (wrI (.qctl 0) fQCTL_RB_SIZE_BLOCKS 0 1 dUp)

theorem witness_ColophonsReductionsAndChase :
    (dCol Grp.init).coreEarlier col0 = false ∧ (brUp (dCol Grp.init)).carries (agentDie col0.agent) 0 = true ∧
    (dCol Grp.init).req 3 = some col0 ∧ col0.tgt = .stack 0 0 ∧ col0.flag = true ∧ col0.colo = true ∧ col0.accepted = false ∧
    (dCol Grp.init).ctrOwner 0 7 = (dCol Grp.init).owner (lineStack col0.line) (lineOff col0.line) ∧
    (wrI (pQctl 0) fQCTL_CTRMAP_PART 0 1 (dCol Grp.init)).ctrOwner 0 7 ≠
      (wrI (pQctl 0) fQCTL_CTRMAP_PART 0 1 (dCol Grp.init)).owner (lineStack col0.line) (lineOff col0.line) ∧
    col0.expect ≤ ((dCol { Grp.init with tally := 128 }).grp (arrKey 0 7)).tally ∧
    ((dCol Grp.init).grp (arrKey 0 7)).tally < col0.expect ∧ ((dCol Grp.init).grp (arrKey 0 7)).held = none ∧
    ((dCol { Grp.init with held := some (col0, 0) }).grp (arrKey 0 7)).held = some (col0, 0) ∧
    0 + 2 ^ dUp.get (pQctl 0) fQCTL_COLO_TMO_EXP 0 ≤ { dUp with clk := [(netClk 0, 2 ^ 32)] }.now (netClk 0) ∧
    dUp.writable pf0 (pQctl 0) = true ∧ dRed.redHead 0 = some red0 ∧ dRed.accReady red0 = true ∧ dRed.redMc = [] ∧
    red0.mask < 2 ^ 128 ∧ accLines red0 = [red0.line] ∧ dRed.caseCopy 0 0 0 = some (0, cl0) ∧
    (∃ e ∈ { dRed with redMc := [(0, 3)] }.redMc, e.2 = red0.id) ∧ dRed.stkWaits (lineStack red0.line) = false ∧
    rbIllegal (dRb 0) 0 (rbIdx (dRb 0) 0) = false ∧ rbIllegal (dRb 2) 0 (rbIdx (dRb 2) 0) = true ∧ rbState (dRb 2) 0 0 = 2 ∧
    rbState (dRb 0) 0 0 = 0 ∧ (dRb 1).rangeIdle 0 3 = true ∧ rbState (dRb 1) 0 0 = 1 ∧ (dRb 1).stkWaits (rbBase (dRb 1) 0 0 / 2 ^ 37) = false ∧ (dRb 1).keyTag 0 = some 0 ∧
    rbState (dRb 3) 0 0 = 3 ∧ (dRb 3).redq = [] := by
  and_intros <;> decide +kernel

theorem witness_HomeUnitsChangeOwner :
    dUp.writable pf0 (pQctl 0) = true ∧ dUp.hasSlice 0 1 = false ∧
    (NMap.get { dUp with hmapBusy := [(0, some (0, 1))] }.hmapBusy 0 none).isSome = true ∧
    NMap.get (wr (.case 0 3) fCASE_PART_PART 1 dUp).hmapBusy 0 none = none ∧
    (wr (.case 0 3) fCASE_PART_PART 1 dUp).hasSlice 0 1 = true ∧ (wr (.case 0 3) fCASE_PART_PART 1 dUp).partOk 1 = true ∧
    (wr (.case 0 3) fCASE_PART_PART 1 dUp).get (.qctl 0) fQCTL_HMAP_PART 0 ≠ 1 ∧
    { dUp with hmapBusy := [(0, some (0, 1))] }.rangeIdle (unitLine 0 0) unitLines = true ∧
    { dUp with hmapBusy := [(0, some (0, 1))], txns := [(0, some (txnOf .rds 3 [0] none))] }.rangeIdle (unitLine 0 0) unitLines = false ∧
    dUp.get (.qctl 0) fQCTL_HMAP_PART 0 = 0 ∧ dUp.hasSlice 0 0 = true ∧ dUp.partOk 0 = true ∧ 63 < dUp.nPart ∧ dTwo.nPart ≤ 63 ∧ dUp.get (.qctl 0) fQCTL_CTRMAP_PART 0 = 0 ∧
    (∀ g, g < 64 → (dUp.grp (arrKey 0 (64 * 0 + g))).held = none) := by
  and_intros <;> decide +kernel

theorem witness_SlicesAndQuotasChange :
    dUp.writable pf0 (pCase 0 0) = true ∧ dUp.on (.case 0 0) fCASE_MNT_BUSY 0 = false ∧ dUp.on (.case 0 0) fCASE_PART_DRAINED 0 = false ∧
    (wr (.case 0 0) fCASE_PART_DRAINED 1 dUp).on (.case 0 0) fCASE_PART_DRAINED 0 = true ∧
    (wr (.case 0 0) fCASE_MNT_BUSY 1 dUp).on (.case 0 0) fCASE_MNT_BUSY 0 = true ∧
    dUp.slicePart 0 0 = 0 ∧ dUp.partOk 1 = true ∧ (∃ i : Fin 16, i ≠ 0 ∧ dUp.slicePart 0 i.val = 0) ∧ dUp.hasUnit 0 1 = false ∧
    (∀ i : Fin 16, ((List.finRange 16).foldl (fun d i => wr (.case 0 i) fCASE_PART_DRAINED 1 d) dUp).on (.case 0 i) fCASE_PART_DRAINED 0 = true) ∧
    dUp.writable pf0 (pQctl 0) = true ∧ dUp.on (.qctl 0) fQCTL_PCFG_BUSY 0 = false ∧ 12 + 2 ≤ 14 ∧ 14 < 12 + 3 ∧
    (wrI (.qctl 0) fQCTL_PCFG_BUSY 0 1 dUp).on (.qctl 0) fQCTL_PCFG_BUSY 0 = true ∧
    dUp.on (.qctl 0) fQCTL_PWIN_CTL_BUSY (pwinIdx dUp 0) = false := by
  and_intros <;> decide +kernel

/-- B-die 0 with a maintenance range of one page at address 0, its operation busy or not. -/
def dMnt (busy : Nat) : Dev := { wr (.qctl 0) fQCTL_MNT_CMD_BUSY busy (wr (.qctl 0) fQCTL_MNT_LEN_PAGES 1 dUp) with
  hmapBusy := if busy = 1 then [(mntKey 0 true, some (0, 32))] else [] }

theorem witness_MaintenanceOperations :
    (dMnt 0).writable pf0 (pQctl 0) = true ∧ (dMnt 0).get64 (.qctl 0) 0x230 0 = 0 ∧
    (dMnt 0).get (.qctl 0) fQCTL_MNT_LEN_PAGES 0 * 32 = 32 ∧ (dMnt 0).on (.qctl 0) fQCTL_MNT_CMD_BUSY 0 = false ∧
    0 % 2 ^ 37 + 128 * 32 ≤ 0x1200000000 ∧ (dMnt 1).on (.qctl 0) fQCTL_MNT_CMD_BUSY 0 = true ∧
    dUp.get (.qctl 0) fQCTL_MNT_LEN_PAGES 0 * 32 = 0 ∧ dUp.writable pf0 (.gal 0) = true ∧ dUp.on (.gal 0) fGAL_MNT_BUSY 0 = false ∧
    NMap.get (dMnt 1).hmapBusy (mntKey 0 true) none = some (0, 32) ∧ NMap.get (dMnt 1).hmapBusy (mntKey 0 false) none = none ∧
    (dMnt 1).rangeIdle 0 32 = true ∧ { dMnt 1 with txns := [(0, some (txnOf .rds 3 [0] none))] }.rangeIdle 0 32 = false ∧
    (wr (.case 0 0) fCASE_MNT_BUSY 1 dUp).on (.case 0 0) fCASE_MNT_BUSY 0 = true ∧ (wr (.case 0 0) fCASE_MNT_BUSY 1 dUp).lines = [] ∧
    (∃ x ∈ dRed.lines, keyAgent x.1 = 8 ∧ keyPlace x.1 = 0) ∧ (wr (.gal 0) fGAL_MNT_BUSY 1 dUp).on (.gal 0) fGAL_MNT_BUSY 0 = true ∧
    NMap.get { dUp with hmapBusy := [(300, some (1, 5))] }.hmapBusy (300 + 0) none =
      some ((if (some 5 : Option Nat).isSome then 1 else 0), (some 5 : Option Nat).getD 0) := by
  and_intros <;> decide +kernel

/-- Stereo entry 0 of B-die 0: one unit of 64 KiB at address 0, in a state. -/
def dSr (st : Nat) : Dev := wrI (.qctl 0) fQCTL_SR_STAT_STATE 0 st (wrI (.qctl 0) fQCTL_SR_SIZE_SIZE 0 1 dUp)

theorem witness_StereoRegionsRun :
    (dSr 0).writable pf0 (pQctl 0) = true ∧ srIdx (dSr 0) 0 = 0 ∧ (dSr 0).srState 0 0 = 0 ∧
    srIllegal ((dSr 0).set (.qctl 0) fQCTL_SR_CMD_MEN 0 0) 0 0 = false ∧
    srIllegal ((dSr 0).set (.qctl 0) fQCTL_SR_CMD_MEN 0 1) 0 0 = true ∧ (dSr 1).srState 0 0 = 1 ∧ (dSr 3).srState 0 0 = 3 ∧
    (dSr 2).srState 0 0 = 2 ∧ (dSr 2).srBase 0 0 / 128 = 0 ∧ (dSr 2).srSize 0 0 / 128 = 512 ∧ (dSr 2).rangeIdle 0 512 = true ∧
    { dSr 2 with txns := [(0, some (txnOf .rds 3 [0] none))] }.rangeIdle 0 512 = false ∧
    Set.has { dSr 3 with rbWait := [0] }.rbWait (2 * 0 + 0) = true := by
  and_intros <;> decide +kernel

/-! ### The home, snoops and replies -/

def hm (a : Agent) : HomeMsg := ⟨a, 0, 0, 3, false, 0, false⟩
def hq0 : HReq := ⟨.rds, 0, 0, 0, 3, false, 0, false, ⟨.clean, false, false⟩, svc0⟩
/-- An answer of agent 0 about line 0. -/
def ans1 : WMsg := .answer 0 0 none true true false false
/-- Line 0 with a dirty home copy; and with the entry given. -/
def dHome : Dev := { dUp with lines := [(lineKeyOf 8 0 0, some { cl0 with st := .h })] }
def dDir (e : DirEnt) : Dev := { dUp with dir := [(0, some e)] }
def exOf (a : Nat) : DirEnt := mkEntry 2 a 0

/-- A write of four bytes of line 0, at its home. -/
def wr0 : Req := { Req.blank with id := 3, op := .wr, tgt := .stack 0 0, mask := 15 }
/-- The request of agent 0 as it reaches a home that has the line's copy, with the request it is for where there is one. -/
def dAsk (k : HKind) (rs : List Req) : Dev := { dHome with reqs := rs }.takeRequest k (hm 0)

theorem witness_HomeRequestsServed :
    dUp.inTurn 0 0 (fromAgent 0 0) (isReq .rds (hm 0)) = true ∧
    { dUp with wire := [ans1, .request hq0] }.inTurn 0 0 (fromAgent 0 0) (isReq .rds (hm 0)) = false ∧
    dUp.noEntry hq0 = false ∧ dUp.makingRoom 0 = false ∧ dUp.waitingAcc hq0 = none ∧
    { dUp with reqs := [red0] }.req 3 = some red0 ∧ red0.op = .acc 1 0 ∧ (dUp.rbAt 0 0 1).isNone = true ∧
    (wrI (.qctl 0) fQCTL_RB_SIZE_BLOCKS 0 1 (dRb 1)).rbAt 0 0 1 ≠ none ∧
    { dUp with reqs := [red0] }.accRefusal red0 0 = none ∧
    { dRb 1 with reqs := [{ red0 with op := .acc 0 0 }],
                 homeq := [{ hq0 with kind := .homeop }] }.waitingAcc { hq0 with kind := .homeop } = some { red0 with op := .acc 0 0 } ∧
    (dAsk .rds []).txn 0 = none ∧ (dAsk .rds []).noEntry (dHome.hreqOf .rds (hm 0) ⟨.clean, false, false⟩) = false ∧
    (dAsk .rds []).lineParked 0 = false ∧ (dAsk .rds []).homeq = [] ∧ (dAsk .rds []).stereoLine 0 = false ∧
    (dAsk .rds []).dirEnt 0 = none ∧ (dAsk .rds []).setTaken 0 < 16 ∧
    (dAsk .rds []).caseCopy (lineQuad 0) 0 0 = some (0, { cl0 with st := .h }) ∧ (dAsk .homeop [wr0]).req 3 = some wr0 ∧ wr0.op = .wr ∧
    isStackLine 0 = true ∧ isStackLine (2 ^ 40) = false ∧ dUp.req 3 = none ∧
    dUp.txn 0 = none ∧ dUp.lineParked 0 = false ∧ dUp.homeq = [] ∧
    { dUp with txns := [(0, some (txnOf .rds 3 [0] none))] }.txn 0 ≠ none ∧
    { dUp with homeq := [hq0] }.homeq = [] ++ hq0 :: [] ∧ hq0.line = 0 ∧ hq0.kind ≠ .homeop ∧
    dHome.stereoLine 0 = false ∧ dHome.dirEnt 0 = none ∧ (dHome.dirSetLines 0).length < 16 ∧ dHome.req 3 = none ∧
    dHome.copyOf (8 + lineQuad 0) 0 = some (0, { cl0 with st := .h }) ∧ cl0.held = false ∧ cl0.dirty = true ∧
    dUp.writable pf0 (pDir 0 0) = true ∧ dUp.get64 (.dir 0 0) 0x100 0 % 2 ^ 48 / 128 = 0 ∧ lineQuad 0 = 0 ∧ lineBankNo 0 = 0 ∧
    lineBankNo 0 ≠ 1 ∧ (dDir (exOf 3)).dirEnt 0 = some (exOf 3) ∧ (exOf 3).own? = some 3 ∧ (exOf 3).ptrs = [none, none, none] ∧
    (exOf 3).st < 4 ∧ ((mkEntry 1 0 0).addSharer 3).ptrs = [some 3, none, none] := by
  and_intros <;> decide +kernel

theorem witness_EvictionsAreApplied :
    (brUp (dDir (exOf 3))).inTurn 3 0 (fromAgent 3 0) (isReq .wb (hm 3)) = true ∧ { exOf 3 with lost := true }.lost = true ∧
    (dDir { exOf 3 with lost := true }).dirEnt 0 = some { exOf 3 with lost := true } ∧ (exOf 3).lost = false ∧
    { txnOf .rdx 3 [0] none with ownerGone := true }.ownerGone = true ∧ (txnOf .rds 3 [0] none).recalled = false ∧
    (brUp (dDir (exOf 3))).inTurn 9 0 (fromAgent 9 0) (isReq .xfer (hm 9)) = true ∧ 9 ∉ (txnOf .rdx 3 [0] none).await ∧
    isStackLine 0 = true ∧ (dDir (exOf 3)).dirEnt 0 = some (exOf 3) ∧ (exOf 3).own? = some 3 ∧ (3 : Nat) ≠ 0 ∧ dUp.dirEnt 0 = none ∧
    (exOf 3).st = 2 ∧ (mkEntry 3 3 0).own? = some 3 ∧ (mkEntry 1 0 0).own? = none ∧ (mkEntry 1 0 0).st ≠ 2 ∧ (exOf 3).owner = 3 ∧
    (dDir (exOf 3)).txn 0 = none ∧ ((((dDir (exOf 3)).takeRequest .wb (hm 3)).wireMsg (.ack 3 0)).putHome 0 0 0 false svc0).txn 0 = none ∧
    { dUp with txns := [(0, some (txnOf .rdx 3 [0] none))] }.txn 0 = some (txnOf .rdx 3 [0] none) ∧
    (exOf 3).own? = some 3 ∧ 8 + 3 / 2 = 9 := by
  and_intros <;> decide +kernel

def snp (a : Agent) : SnoopMsg := ⟨a, 0, 8, false, .clean⟩
/-- Galley 0 with a copy of line 0 in a state. -/
def dGal (st : LState) : Dev := { dUp with lines := [(lineKeyOf 0 0 0, some { cl0 with st := st })] }

theorem witness_SnoopsAndRepliesArrive :
    (dGal .m).inTurn 0 0 (toAgent 0 0) (isSnoop 0 0 0) = true ∧ (dGal .m).repliesCarry 0 0 = true ∧
    (dGal .o).copyOf 0 0 = some (0, { cl0 with st := .o }) ∧ dHome.copyOf 8 0 = some (0, { cl0 with st := .h }) ∧
    dUp.carries (agentDie 0) (lineQuad 0) = true ∧ dUp.carries 0 (agentDie 0) = true ∧
    (dUp.dirEnt 0).bind DirEnt.own? ≠ some 0 ∧
    { dGal .m with lines := [(lineKeyOf 0 0 0, some { cl0 with leaving := true })] }.cline 0 0 0 = some { cl0 with leaving := true } ∧
    (snp 0).ecc = .clean ∧ (dGal .m).wire = [] ∧ dUp.copyOf 0 0 = none ∧ (dGal .m).copyOf 0 0 = some (0, cl0) ∧
    (dGal .e).copyOf 0 0 = some (0, { cl0 with st := .e }) ∧ (dGal .s).copyOf 0 0 = some (0, { cl0 with st := .s }) ∧
    { dUp with wire := [ans1] }.wire = [] ++ .answer 0 0 none true true false false :: [] ∧
    dUp.txn 0 = none ∧ { dUp with txns := [(0, some (txnOf .rdx 3 [0] none))] }.txn 0 = some (txnOf .rdx 3 [0] none) ∧
    0 ∈ (txnOf .rdx 3 [0] none).await ∧ (txnOf .rdx 3 [0] none).recalled = false ∧ (dDir (exOf 0)).dirEnt 0 = some (exOf 0) ∧
    (exOf 0).own? = some 0 ∧ { dUp with wire := [.reply 0 0 0 none none 0] }.wire = [] ++ .reply 0 0 0 none none 0 :: [] ∧
    { dUp with wire := [.ack 0 0] }.wire = [] ++ .ack 0 0 :: [] := by
  and_intros <;> decide +kernel

/-! ### Controllers and stacks -/

/-- Stack 0 in a state, and its channel 0 with the requests given. -/
def dStk (st : Nat) (c : McChan) : Dev := { wr (pStk 0) fSTK_STAT_STATE st dUp with mcs := [(0, c)] }

/-- A write waiting for line 0, and one for the line beside it in another bank. -/
def mw0 : McWrite := ⟨0, 7, false, 0, svc0⟩
/-- The channel's first bank under refresh until cycle 5. -/
def mcRef : McChan := { McChan.init with refresh := some (0, 5) }

theorem witness_ControllersIssueRequests :
    mcKey 0 0 = 0 ∧ (dStk 0 McChan.init).stkState (5 * 0 + 0 / 8) ≠ 2 ∧ (dStk 0 McChan.init).stkState (5 * 0 + 0 / 8) ≠ 3 ∧
    (dStk 2 McChan.init).stkState (5 * 0 + 0 / 8) = 2 ∧ (dStk 3 McChan.init).stkState (5 * 0 + 0 / 8) = 3 ∧
    (({ McChan.init with writes := [mw0] } : McChan).direct 48).writing = true ∧
    (({ McChan.init with writes := [mw0] } : McChan).direct 48).writes ≠ [] ∧
    ([mw0].filter (fun w => mcRef.bankReady 0 w.line && firstOfLine [mw0] w)) = [] ∧
    ([mw0].filter (fun w => mcRef.bankReady 5 w.line && firstOfLine [mw0] w)) = [mw0] ∧
    firstLeast (fun w => svcKey w.svc false) [mw0] = some mw0 ∧
    (({ McChan.init with reads := [0] } : McChan).direct 8).writing = false ∧
    (({ McChan.init with reads := [0] } : McChan).direct 8).reads ≠ [] ∧
    (({ McChan.init with reads := [0] } : McChan).readQ.filter (mcRef.bankReady 0)) = [] ∧
    firstLeast (dStk 2 McChan.init).lineKeyOrd (({ McChan.init with reads := [0] } : McChan).readQ.filter (mcRef.bankReady 5)) = some 0 ∧
    (McChan.init.direct 8).reads = [] ∧ (McChan.init.direct 8).writes = [] := by
  and_intros <;> decide +kernel

/-- The entry 0 of quadrant 0 ACTIVE, its mirror the 64 KiB that follow, stack 0 READY. -/
def dMir : Dev := wr (pStk 0) fSTK_STAT_STATE 2 (wrI (.qctl 0) fQCTL_SR_MIR_BASE 0 1 (wrI (.qctl 0) fQCTL_SR_CMD_MEN 0 1 (dSr 3)))

theorem witness_ReadsReturnToTheHome :
    ((dStk 2 { McChan.init with inflight := [(0, false)] }).mc 0).inflight = (0, false) :: [] ∧
    ((dStk 2 { McChan.init with inflight := [(0, true)] }).mc 0).inflight = (0, true) :: [] ∧
    Set.has (dStk 2 McChan.init).poisoned 0 = false ∧ Set.has { dUp with poisoned := [0] }.poisoned 0 = true ∧
    (dStk 2 McChan.init).queuedWrite 0 = none ∧ (dStk 2 { McChan.init with writes := [mw0] }).queuedWrite 0 ≠ none ∧
    (dStk 2 McChan.init).keyTag 0 = some 0 ∧ (dStk 2 McChan.init).stkDead (lineStack 0) = false ∧
    (dStk 4 McChan.init).stkDead (lineStack 0) = true ∧ (dStk 2 McChan.init).srAt (128 * 0) = none ∧
    dMir.mirrorOf 0 = some (0, 0, 512) ∧ (dMir.dramRead 512).2.1 = false := by
  and_intros <;> decide +kernel

theorem witness_StacksAreScrubbed :
    (wr (pStk 0) fSTK_SCRUB_EN 1 (dStk 2 McChan.init)).on (pStk 0) fSTK_SCRUB_EN 0 = true ∧
    (wr (pStk 0) fSTK_SCRUB_EN 0 (dStk 2 McChan.init)).on (pStk 0) fSTK_SCRUB_EN 0 = false ∧ ((dStk 2 McChan.init).stk 0).scrubbing = 0 ∧
    (dStk 2 McChan.init).stkState 0 = 2 ∧ Nat.testBit 0 0 = false ∧
    ({ dStk 2 McChan.init with stks := [(0, { StackSt.init with scrubbing := 1, overtaken := 1 })] }.stk 0).scrubbing.testBit 0 = true ∧
    ({ dStk 2 McChan.init with stks := [(0, { StackSt.init with scrubbing := 1, overtaken := 1 })] }.stk 0).overtaken.testBit 0 = true ∧
    scrubLine 0 0 0 = 0 ∧ Set.has { dUp with poisoned := [0] }.poisoned 0 = true ∧ Set.has dUp.poisoned 0 = false ∧
    (dUp.stk 0).overtaken.testBit 0 = false ∧ dUp.srAt (128 * 0) = none := by
  and_intros <;> decide +kernel

theorem witness_RefreshesAndTemperature :
    (dStk 0 McChan.init).stkState (5 * 0 + 0 / 8) ≠ 2 ∧ (dStk 2 McChan.init).stkState (5 * 0 + 0 / 8) = 2 ∧
    ((dStk 2 McChan.init).mc 0).reads = [] ∧ ((dStk 2 McChan.init).mc 0).writes = [] ∧ McChan.init.refresh = none ∧
    ((dStk 2 mcRef).mc 0).refresh = some (0, 5) ∧ (dStk 2 mcRef).now (mcClk 0) < 5 ∧
    ((dStk 2 { McChan.init with reads := [0] }).mc 0).reads ≠ [] := by
  and_intros <;> decide +kernel

theorem witness_StacksTrain :
    dUp.writable pf0 (pStk 0) = true ∧ (dStk 0 McChan.init).stkState 0 = 0 ∧ (dStk 1 McChan.init).stkState 0 = 1 ∧
    (dStk 2 McChan.init).stkState 0 = 2 ∧ (dStk 2 McChan.init).on (pStk 0) fSTK_STAT_ZBUSY 0 = false ∧ (dStk 3 McChan.init).stkState 0 = 3 ∧
    ((dStk 3 { McChan.init with inflight := [(0, false)] }).mc (mcKey 0 0)).inflight ≠ [] ∧
    (∀ ch, ch < 8 → ((dStk 3 McChan.init).mc (mcKey 0 ch)).reads = [] ∧ ((dStk 3 McChan.init).mc (mcKey 0 ch)).writes = [] ∧
      ((dStk 3 McChan.init).mc (mcKey 0 ch)).inflight = []) := by
  and_intros <;> decide +kernel

theorem witness_HomeUnitsAreZeroed :
    dUp.get (pStk 0) fSTK_ZUNIT_UNIT 0 = 0 ∧ (∀ e, e < 64 → rbState (dStk 2 McChan.init) 0 e = 0) ∧
    (∀ e, e < 2 → (dStk 2 McChan.init).srState 0 e = 0) ∧ rbState (dRb 2) 0 0 ≠ 0 ∧
    overlaps (128 * unitLine 0 0, 2 ^ 30) (rbBase (dRb 2) 0 0, 384 * rbBlocks (dRb 2) 0 0) = true ∧
    (wr (pStk 0) fSTK_STAT_ZBUSY 1 (dStk 2 McChan.init)).on (pStk 0) fSTK_STAT_ZBUSY 0 = true ∧
    (wr (pStk 0) fSTK_STAT_ZBUSY 1 (dStk 2 McChan.init)).rangeIdle (unitLine 0 0) unitLines = true ∧
    (dStk 2 McChan.init).stkWaits 0 = false ∧ (dStk 2 McChan.init).keyTag 0 = some 0 := by
  and_intros <;> decide +kernel

/-! ### Exwin -/

/-- Port 0 in a state of XL_STAT, with what it holds. -/
def dPort (st : Nat) (x : PortSt) : Dev := { wr (pXl 0) fXL_STAT_STATE st dUp with ports := [(0, x)] }
/-- Port 0 UP and encrypted. -/
def dEnc : Dev := wr (pXl 0) fXL_CFG_ENC 1 (dPort 2 PortSt.init)
/-- A packet for a device; a read needs no data flit. -/
def pk0 (kind dst : Nat) : Packet := { pktBlank kind dst 1 0 0 1 0xFFF false with kind := BitVec.ofNat 4 kind }
def tag0 : TagEnt := ⟨3, none, 0, 0, some 0, false⟩
/-- Acknowledgements for device 7, and enough of them to fill the reply store of 512 KiB. -/
def land0 (tag : Nat) : Landing := ⟨7, tag, 0, svc0, 0⟩
def dFullStore : Dev := dPort 2 { PortSt.init with landings := List.replicate 16385 (land0 0) }

theorem witness_PacketsArrive :
    dUp.receiving 0 = false ∧ (dPort 2 PortSt.init).receiving 0 = true ∧
    (dPort 2 PortSt.init).on (pXl 0) fXL_CFG_ENC 0 = false ∧ dEnc.on (pXl 0) fXL_CFG_ENC 0 = true ∧ dEnc.receiving 0 = true ∧
    pkBad { pk0 4 0 with rpl := false } = false ∧ pkBad { pk0 1 0 with rpl := false } = true ∧ (dPort 2 PortSt.init).devId = 0 ∧
    (pk0 4 7).dst.toNat ≠ 0 ∧ (pk0 4 0).dst.toNat = 0 ∧ ((dPort 2 PortSt.init).port 0).rxq = [] ∧
    pkShare { pk0 4 0 with rpl := false } % 2 = 0 ∧
    (∀ e ∈ ((dPort 2 PortSt.init).port 0).rxq, ¬(e.1 % 16 = pkShare { pk0 4 0 with rpl := false } ∧ e.2.dst = (pk0 4 0).dst)) ∧ (dPort 2 PortSt.init).replyStore 0 + replyBytes (pk0 4 0) ≤ 524288 ∧
    pkBad { pk0 8 0 with rpl := true } = false ∧ pkBad { pk0 9 0 with rpl := true } = false := by
  and_intros <;> decide +kernel

theorem witness_RepliesMatchTheirTags :
    (pk0 8 0).tag.toNat = 0 ∧ (dPort 2 PortSt.init).tagAt 0 0 = none ∧
    ({ dPort 2 PortSt.init with tags := [(0, some tag0)] } : Dev).tagAt 0 0 = some tag0 ∧
    (pk0 8 0).gen.toNat = (dPort 2 PortSt.init).gen (.quad (quad 0)) ∧ tag0.abandoned = false ∧
    ({ tag0 with abandoned := true } : TagEnt).abandoned = true ∧ (dPort 2 PortSt.init).receiving 0 = true := by
  and_intros <;> decide +kernel

/-- The reply store of a port may be full. -/
theorem witness_PacketsArrive_full : pkShare { pk0 4 0 with rpl := false } % 2 = 0 ∧
    524288 < dFullStore.replyStore 0 + replyBytes (pk0 4 0) := by
  have h : (dFullStore.port 0).landings.length = 16385 := List.length_replicate
  refine ⟨by decide, ?_⟩
  unfold Dev.replyStore
  rw [h]
  omega

/-- A read of the peer device 7 that has not left quadrant 0. -/
def peer0 (dev : Nat) : Req := { Req.blank with id := 3, tgt := .peer dev 0 1 false, mask := 255 }
/-- A read of a whole line of the peer device 7. -/
def peerHalf (id a : Nat) : Req := { Req.blank with id := id, tgt := .peer 7 a 1 false, mask := 2 ^ 128 - 1 }
def dPeer (dev : Nat) (d : Dev) : Dev := { d with reqs := [peer0 dev] }
/-- Every tag of quadrant 0 in use. -/
def allTags : NMap (Option TagEnt) := (List.range 16384).map (fun e => (e, some tag0))

theorem takenTags_of (l : List Nat) (h : ∀ e ∈ l, e < 16384) :
    ({ dUp with tags := l.map (fun e => (e, some tag0)) } : Dev).takenTags 0 = l := by
  show (l.map (fun e => (e, some tag0))).filterMap (fun e => if e.1 / 16384 = 0 then some (e.1 % 16384) else none) = l
  induction l with
  | nil => rfl
  | cons a l ih =>
    have ha := h a (by simp)
    rw [List.map_cons, List.filterMap_cons, if_pos (Nat.div_eq_of_lt ha), Nat.mod_eq_of_lt ha, ih (fun e he => h e (by simp [he]))]

theorem pickTags_none (fuel e n : Nat) (h : e < 16384) : pickTags (List.range 16384) fuel e n = [] := by
  induction fuel generalizing e with
  | zero => rfl
  | succ k ih =>
    unfold pickTags
    split
    · rfl
    · rw [if_pos (by simp [h])]
      exact ih _ (Nat.mod_lt _ (by decide))

/-- The device in a ring of eight in dimension 0, port 0 towards device 1, in a state. -/
def dTor (st : Nat) (x : PortSt) : Dev := { wr .dctl fDCTL_TORUS_L0 7 (dPort st x) with reqs := [peer0 1] }
/-- Port 0 with an acknowledgement waiting and credits to send it. -/
def xSend : PortSt := { PortSt.init with txq := [(0, pk0 4 1)], credits := (List.range 16).map (fun j => (j, (100 : Int))) }

theorem witness_PeerTrafficMoves :
    (dPeer 7 dUp).req 3 = some (peer0 7) ∧ (peer0 7).tgt = .peer 7 0 1 false ∧ (peer0 7).quad = 0 ∧ (peer0 7).issued = false ∧
    (peer0 7).ready = false ∧ (dPeer 7 dUp).atomWaits 3 = false ∧ (dPeer 7 dUp).releaseWaits (peer0 7) = false ∧
    (dPeer 7 dUp).partner (peer0 7) = none ∧ ((dPeer 7 dUp).packetsOf (peer0 7) none 7 0 false).1.length = 1 ∧
    { dUp with reqs := [peerHalf 3 0, peerHalf 4 128] }.partner (peerHalf 3 0) = some (peerHalf 4 128) ∧
    { dUp with reqs := [peerHalf 3 0, peerHalf 4 128] }.partner (peerHalf 4 128) = some (peerHalf 3 0) ∧
    1 ≤ (pickTags ((dPeer 7 dUp).takenTags 0) 16384 0 1).length ∧ 7 ≠ dUp.devId ∧ 1 ≠ dUp.devId ∧ (dTor 0 xSend).routeOf .ctl 0 1 = none ∧
    (dTor 3 xSend).routeOf .ctl 0 1 = some (0, true) ∧ (dTor 2 xSend).routeOf .ctl 0 1 = some (0, false) ∧ dUp.devId = 0 ∧
    (dTor 2 xSend).portUp 0 = true ∧ (dTor 2 xSend).inReset (pXl 0) = false ∧ xSend.replayDue = false ∧ xSend.slot % 21 ≠ 20 ∧
    ({ xSend with slot := 20 } : PortSt).slot % 21 = 20 ∧
    (dTor 2 PortSt.init).bestPkt 0 (((dTor 2 PortSt.init).sendable 0).filter (fun e => e.2.2.rpl || !(dTor 2 PortSt.init).on (pXl 0) fBLK_CTL_QREQ 0)) = none ∧
    (dTor 2 xSend).bestPkt 0 (((dTor 2 xSend).sendable 0).filter (fun e => e.2.2.rpl || !(dTor 2 xSend).on (pXl 0) fBLK_CTL_QREQ 0)) =
      some (0, 0, pk0 4 1) ∧
    dUp.shareHead 0 0 = none ∧ (dPort 2 { PortSt.init with rxq := [(0, pk0 4 0)] }).shareHead 0 0 = some (0, pk0 4 0) ∧
    (dPort 2 { PortSt.init with rxq := [(0, pk0 4 0)] }).replyStore 0 + replyBytes (pk0 4 0) ≤ 524288 ∧ (dUp.port 0).landings = [] ∧
    ((dPort 2 { PortSt.init with landings := [land0 0, land0 1] }).port 0).landings = land0 0 :: [land0 1] ∧ dUp.now (netClk 0) < (land0 0).at_ + 64 ∧
    (land0 0).at_ + 64 ≤ { dUp with clk := [(netClk 0, 64)] }.now (netClk 0) := by
  and_intros <;> decide +kernel

theorem witness_PeerTrafficMoves_noTag :
    (pickTags (({ dUp with tags := allTags } : Dev).takenTags 0) 16384 0 1).length < 1 := by
  rw [allTags, takenTags_of _ (fun e he => List.mem_range.mp he), pickTags_none _ _ _ (by decide)]; decide

/-- A control flit. -/
def ctl0 (ok : Bool) : CtlFlit := ⟨5, false, false, false, false, 0, 0, [], ok⟩
def ctlNak : CtlFlit := ⟨5, true, false, false, false, 1, 0, [], true⟩

theorem witness_LinkControlFlows :
    (dPort 2 PortSt.init).xlState 0 = 2 ∧ (ctl0 true).checked = true ∧ (ctl0 true).nak = false ∧ (ctl0 true).rtrn = false ∧
    (ctl0 false).checked = false ∧ ctlNak.nak = true ∧ PortSt.init.answered ≠ some ctlNak.nakid.toNat ∧ PortSt.init.nak = false ∧ ((dPort 2 { PortSt.init with nak := true }).port 0).nak = true ∧
    (dPort 2 PortSt.init).on (pXl 0) fXL_CFG_ENC 0 = false ∧ dEnc.on (pXl 0) fXL_CFG_ENC 0 = true ∧ dEnc.xlState 0 = 2 ∧
    (dPort 3 PortSt.init).xlState 0 = 3 ∧ PortSt.init.tagFails < 2 ∧ 2 ≤ ((dPort 2 { PortSt.init with tagFails := 2 }).port 0).tagFails ∧ PortSt.init.replayDue = false := by
  and_intros <;> decide +kernel

/-- What a peer alike at port 0 brings. -/
def pi0 : PeerInfo := ⟨1, 1, 0, true, false, false, false, 5, 0, List.replicate 16 100, List.replicate 16 0, 50, 0, 0, 0, true⟩

theorem witness_PortsTrainAndFall :
    dUp.writable pf0 (pXl 0) = true ∧ (dPort 0 PortSt.init).xlState 0 = 0 ∧ (dPort 4 PortSt.init).xlState 0 = 4 ∧
    (dPort 2 PortSt.init).xlState 0 = 2 ∧ (dPort 3 PortSt.init).xlState 0 = 3 ∧ (dPort 1 PortSt.init).xlState 0 = 1 ∧
    ((dPort 1 { PortSt.init with fast := true }).port 0).fast = true ∧ PortSt.init.fast = false ∧ dUp.coord 0 = false ∧
    (wr (pXl 0) fXL_CFG_COORD 1 dUp).coord 0 = true ∧ PortSt.init.noAuto = false ∧ dUp.inReset (pXl 0) = false ∧
    dUp.now (netClk (0 / 4)) < 0 + 18000000 ∧ 0 + 18000000 ≤ { dUp with clk := [(netClk (0 / 4), 18000000)] }.now (netClk (0 / 4)) := by
  and_intros <;> decide +kernel

theorem witness_TrainingBringsPortsUp :
    (dPort 1 PortSt.init).dead (pXl 0) = false ∧ (dPort 1 PortSt.init).step5 0 { pi0 with rail := true } = some 4 ∧
    (dPort 1 PortSt.init).step5 0 pi0 = none ∧ (dPort 1 PortSt.init).on (pXl 0) fXL_CFG_ENC 0 = false ∧
    PortSt.init.peerGen ≠ some pi0.gen.toNat ∧ ({ PortSt.init with peerGen := some 5 } : PortSt).peerGen = some pi0.gen.toNat ∧
    (wr (pXl 0) fXL_STAT_STATE 1 dEnc).step5 0 { pi0 with enc := true } = none ∧ pi0.chainOk = true ∧
    dEnc.on .dctl fDCTL_ID_STAT_ENTFAIL 0 = false ∧ dEnc.on .boot fBOOT_STAT_NOID 0 = false := by
  and_intros <;> decide +kernel

/-- The management clock of the device controller, run on. -/
def atCtl (t : Nat) (d : Dev) : Dev := { d with clk := [(ctlClk, t)] }
/-- A case of link coordination at a step. -/
def lnk0 (link : Bool) (step : Nat) (acks : List Nat) : LinkCase := ⟨link, 0, 1, 1, 2, none, none, none, none, step, acks, 0⟩
def dChap (c : Chapel) (d : Dev) : Dev := { d with chapel := c }

theorem witness_TimeoutsAbandonAndReset :
    ({ dPeer 7 dUp with tags := [(0, some tag0)] } : Dev).tagAt 0 0 = some ⟨3, none, 0, 0, some 0, false⟩ ∧
    dUp.now (netClk 0) < 0 + 2 ^ dUp.get (pXl 0) fXL_PTMO_EXP 0 ∧
    0 + 2 ^ dUp.get (pXl 0) fXL_PTMO_EXP 0 ≤ { dPeer 7 dUp with clk := [(netClk 0, 2 ^ 40)] }.now (netClk 0) ∧
    (dPeer 7 dUp).req 3 = some (peer0 7) ∧ (peer0 7).tgt = .peer 7 0 1 false ∧ (dRst .device).inReset (pXl 0) = true ∧
    dUp.inReset (pXl 0) = false ∧ (dPort 2 PortSt.init).xlState 0 = 2 ∧ (dPort 1 PortSt.init).xlState 0 = 1 ∧
    (dPort 0 PortSt.init).xlState 0 ≠ 2 ∧ (dRst .device).brgReady 0 1 = false ∧ dUp.brgGated 0 1 = false ∧ dUp.brgReady 0 1 = true ∧ dUp.brgReady 0 0 = true ∧
    dUp.brgState 0 1 ≠ 2 ∧ (wr (pBrg 0 1) fBRG_STAT_STATE 2 dUp).brgState 0 1 = 2 ∧ Dev.reset.power.pwrgd = false ∧
    dUp.power.pwrgd = true ∧ isDie 0 = true ∧ isDie 12 = false ∧ dTwo.brgGated 0 2 = true := by
  and_intros <;> decide +kernel

theorem witness_CoordinatorTimesOut :
    (dChap { Chapel.init with links := [lnk0 true 0 []] } dUp).chapel.links[0]? = some (lnk0 true 0 []) ∧ dUp.chapel.links[0]? = none ∧
    dUp.now ctlClk < 0 + 12000000 ∧ 0 + 60000000 ≤ (atCtl 60000000 dUp).now ctlClk ∧ (atCtl 60000000 dUp).accused 0 = [] ∧
    (lnk0 true 0 []).isLink = true ∧ (lnk0 false 0 []).isLink = false ∧ (lnk0 true 1 [0]).step = 1 ∧ 0 ∈ (lnk0 true 1 [0]).acks ∧
    1 ∉ (lnk0 true 1 [0]).acks ∧ 0 ∉ (lnk0 true 1 [1]).acks ∧ 1 ∈ (lnk0 true 1 [1]).acks ∧
    (dChap { Chapel.init with unanswered := [⟨1, 3, 0, [], 0⟩] } (wr .dctl fDCTL_ROLE_LIC 1 dUp)).chapel.unanswered[0]? =
      some ⟨1, 3, 0, [], 0⟩ ∧ (wr .dctl fDCTL_ROLE_LIC 1 dUp).isMgr = true ∧ dUp.isMgr = false ∧ 1 / 256 = dUp.devId / 256 := by
  and_intros <;> decide +kernel

/-! ### The chapel -/

def msg0 (lane : Fin 257) (payload : List Byte) : MboxMsg := ⟨lane, 5, 1, 1, 0, payload⟩
/-- The payload of a firmware chunk of component 0: offset, length, and whether it is passed on. -/
def chunk0 (off len : Nat) : List Byte := leBytes 4 0 ++ leBytes 8 off ++ leBytes 4 len ++ leBytes 1 0
def dMgr : Dev := wr .dctl fDCTL_ROLE_LIC 1 dUp

/-- A LINK_PREP passed to device 1, and one accepted by device 2. -/
def dRel : Dev := dChap { Chapel.init with relays := [⟨9, 4, 1, 5, 1, 0⟩] } dMgr
def dGo : Dev := dChap { Chapel.init with relays := [⟨9, 4, 2, 5, 1, 1⟩] } dMgr
def dTorG : Dev := wr .dctl fDCTL_TORUS_L0 7 dMgr

theorem witness_MailboxAndCoordination :
    dOn.power.running = false ∧ dUp.power.running = true ∧ (5 : BitVec 32).toNat ∉ NMap.get dUp.chapel.seen 1 [] ∧
    (5 : BitVec 32).toNat ∈ NMap.get (dChap { Chapel.init with seen := [(1, [5])] } dUp).chapel.seen 1 [] ∧
    dUp.isMgr = false ∧ dMgr.isMgr = true ∧ dMgr.isTop = true ∧ (wr .dctl fDCTL_CHAPEL_TOP 9 dMgr).isTop = false ∧
    msgFld (msg0 1 [1, 0, 2]) 2 1 = 2 ∧ msgFld (msg0 1 [1, 0, 1, 4, 0]) 2 1 = 1 ∧ 2 ≤ portDim (msgFld (msg0 1 [1, 0, 1, 4, 0]) 3 2 % 16) ∧
    msgFld (msg0 1 [1, 0, 3]) 2 1 ≠ 1 ∧ portDim (msgFld (msg0 1 [1, 0, 1, 0, 0]) 3 2 % 16) < 2 ∧
    (∀ r ∈ dUp.chapel.relays, (r.dev == 1 && r.seq == 5 && r.phase != 1) = false) ∧
    dRel.chapel.relays.find? (fun r => r.dev == 1 && r.seq == 5 && r.phase != 1) = some ⟨9, 4, 1, 5, 1, 0⟩ ∧
    dRel.caseOf 1 5 = none ∧ (dChap { Chapel.init with links := [{ lnk0 true 1 [] with toA := some 1, seqA := some 5 }] } dUp).caseOf 1 5 ≠ none ∧
    dGo.chapel.relays.find? (fun r => r.mask == 1 && r.phase == 1) = some ⟨9, 4, 2, 5, 1, 1⟩ ∧ 2 ≠ dGo.devId ∧
    dTorG.facing 1 0 = dTorG.devId ∧ dTorG.facing 2 0 ≠ dTorG.devId ∧
    dUp.chapel.relays = [] ∧ dUp.chapel.links = [] ∧ ((1 : Fin 257).val ≠ 256) ∧
    (dPort 4 PortSt.init).xlState 0 = 4 ∧ maskPorts (msgFld (msg0 1 [1, 0, 1, 0]) 0 2) = [0] ∧
    2 ^ 26 < msgFld (msg0 1 (chunk0 (2 ^ 26) 1)) 4 8 + msgFld (msg0 1 (chunk0 (2 ^ 26) 1)) 12 4 ∧
    msgFld (msg0 1 (chunk0 0 256)) 12 4 = 256 ∧ msgFld (msg0 1 (chunk0 0 256)) 16 1 ≠ 1 ∧
    covered [(0, 0, 256)] 0 256 1 0 = true ∧ covered [(0, 256, 256)] 0 256 1 0 = false ∧
    256 + leNat ((dStk 2 McChan.init).readCoherent ((dStk 2 McChan.init).stagingBase + 0x0C) 4).1 = 256 ∧ dUp.boot.busy = 0 ∧ dUp.isSealed = false ∧ dUp.bootState = 5 ∧
    { dUp with boot := { dUp.boot with busy := 1 } }.boot.busy ≠ 0 ∧ dUp.writable pf0 .dctl = true ∧ dUp.devId / 256 = 0 := by
  and_intros <;> decide +kernel

/-! ### The host port -/

/-- A read of 128 bytes of host memory at address 0 by partition 0, and the port with it sent, or held, or without it. -/
def hreq0 : Req := { Req.blank with id := 3, tgt := .host 0, mask := 2 ^ 128 - 1, issued := true }
def dHost (sent held : List Nat) : Dev := { dUp with reqs := [hreq0], host := { dUp.host with sent := sent, heldReqs := held } }
/-- Partition 0 may reach the host through function 0, its addresses to be translated. -/
def dAts : Dev := wrI (pHst 0) fHST_PTAG_ATS 0 1 (wrI (pHst 0) fHST_PTAG_VALID 0 1 (dHost [] []))
/-- The same of a DMA engine. -/
def dDmaReq (sent : List Nat) : Dev := { dHost sent [] with reqs := [{ hreq0 with cli := .dma 0 0 }] }
def inv0 : Inval := ⟨0, 7, [3]⟩

theorem witness_HostRequestsAndTranslations :
    (dHost [3] []).req 3 = some hreq0 ∧ dUp.req 3 = none ∧ (dHost [] []).hostWaits 3 = false ∧ (dHost [] []).hostHeld 3 = false ∧
    (dHost [3] []).hostUp = true ∧ (dHost [3] []).hostWaits 3 = true ∧ (dHost [] [3]).hostHeld 3 = true ∧
    (List.replicate 128 (0 : Byte)).length = hreq0.answerLen ∧ (dHost [3] []).chanOf hreq0.quad = 0 ∧ hreq0.cli ≠ .dma 0 0 ∧
    (dDmaReq [3]).req 3 = some { hreq0 with cli := .dma 0 0 } ∧ (dDmaReq [3]).hostWaits 3 = true ∧
    ((wrI (pHst 0) fHST_PTAG_ATS 0 1 (wrI (pHst 0) fHST_PTAG_VALID 0 1 (dDmaReq []))).atsWaits { hreq0 with cli := .dma 0 0 }).isSome = true ∧
    (dAts.atsWaits hreq0).isSome = true ∧ dAts.host.atc.length < 4096 ∧ dOn.hostUp = false ∧
    (∃ i ∈ inv0.waits, (dHost [3] []).hostWaits i = true) ∧
    { dHost [] [] with host := { dUp.host with invals := [inv0] } }.host.invals = [] ++ inv0 :: [] ∧ inv0.tag = 7 ∧
    (∀ i ∈ inv0.waits, (dHost [] []).hostWaits i = false) := by
  and_intros <;> decide +kernel

theorem witness_FunctionsAndInterfaces :
    dOn.arrives (.pf 0) = false ∧ dUp.arrives (.pf 0) = true ∧ dUp.presents 1 = false ∧ dUp.presents 0 = true ∧
    (dVf 1 Func.init).presents 1 = true ∧ cfgMmio (.msixMask 0 true) = true ∧ ((dVf 1 { Func.init with tdi := 3 }).func 1).tdi = 3 ∧
    cfgGuarded (.msixEnable true) = true ∧ ((dVf 1 { Func.init with tdi := 1 }).func 1).tdi = 1 ∧
    (dVf 1 Func.init).cfgFunc 1 (.msixEnable true) Func.init ≠ Func.init ∧ cfgGuarded (.busMaster true) = false ∧
    dTwo.sliceRules = true ∧ dUp.sliceRules = false ∧ (dUp.func 0).vfEnable = false ∧ ((dVf 1 Func.init).func 0).vfEnable = true ∧
    dUp.flrAble 0 = false ∧ (dVf 1 Func.init).flrAble 1 = true ∧ Func.init.flr = none ∧
    ((dVf 1 { Func.init with flr := some 0 }).func 1).flr = some 0 ∧ dUp.now ctlClk < 0 + 60000000 ∧
    0 + 60000000 ≤ (atCtl 60000000 (dVf 1 Func.init)).now ctlClk ∧ (dVf 1 Func.init).isSealedOp = false ∧
    (wrI (pHst 0) fHST_PTAG_FN 5 1 (dVf 1 Func.init)).fnParts 1 = (0, [5]) ∧ (dVf 1 Func.init).isTdi 1 = true ∧ dUp.isTdi 0 = false ∧
    (wr .dctl fDCTL_SEAL_SEAL 1 (dVf 1 Func.init)).isSealed = true ∧ Func.init.tdi = 0 := by
  and_intros <;> decide +kernel

/-- A function with a vector pending and enabled. -/
def xMsix : Func := { Func.init with msixOn := true, table := [(0, 64, 9, false)], pendingVec := [0] }
/-- VF 1 with doorbell 0 to queue 0 of C-die 0. -/
def dDb : Dev := wrI (pHst 0) fHST_DBMAP_VALID 0 1 (wrI (pHst 0) fHST_PTAG_FN 0 1 (dVf 1 Func.init))

theorem witness_HostLinkAndMaps :
    dOn.inReset .hst = false ∧ dOn.host.perst = false ∧ dOn.hostUp = false ∧ linkAllowed 7 3 true = true ∧ linkAllowed 0 3 true = false ∧
    dOn.host.heldReqs = [] ∧ dUp.hostUp = true ∧ (dUp.setFunc 0 xMsix).presents 0 = true ∧ ((dUp.setFunc 0 xMsix).func 0).msixOn = true ∧
    xMsix.maskAll = false ∧ NMap.get xMsix.table 0 (0, 0, true) = (64, 9, false) ∧ 0 < (dUp.setFunc 0 xMsix).vecCount 0 ∧
    0 ∈ xMsix.pendingVec ∧ 1 ∉ xMsix.pendingVec ∧ ercVec 1 ∉ xMsix.pendingVec ∧ dUp.writable pf0 (pHst 0) = true ∧
    dUp.isSealedOp = false ∧ dTwo.isSealedOp = true ∧ dTwo.writable pf0 (pHst 0) = true ∧ Nat.testBit (2 ^ 31 + 1) 31 = true ∧
    (2 ^ 31 + 1) % 64 ≠ 0 ∧ dUp.chanOf (0 / 2) = 0 ∧ dUp.fnOf 0 0 = true ∧ dUp.fnOf 0 1 = false ∧
    dDb.arrives (.pf 0) = true ∧ dDb.presents 1 = true ∧ dDb.isSealedOp = false ∧ (dDb.func 1).tdi ≠ 3 ∧
    dDb.on (pHst 0) fHST_DBMAP_VALID 0 = true ∧ dDb.get (pHst 0) fHST_DBMAP_DIE 0 = 0 ∧ dDb.get (pHst 0) fHST_DBMAP_Q 0 = 0 ∧
    dDb.get (pHst 0) fHST_PTAG_FN (dDb.qPart 0 0) = 1 ∧ dDb.inReset (pImp 0) = false ∧ dUp.on (pHst 0) fHST_DBMAP_VALID 0 = false := by
  and_intros <;> decide +kernel

/-! ### Engines -/

/-- A descriptor: COPY (1) or FILL (2) of a length from address 0 to 4096, with a FENCE or without; and one no engine takes. -/
def desc0 (op len fence : Nat) : List Byte := [BitVec.ofNat 8 op, BitVec.ofNat 8 (2 * fence)] ++ leBytes 2 0 ++ leBytes 4 len ++ leBytes 8 0 ++
  leBytes 8 4096 ++ leBytes 8 0
/-- Engine 0 of channel 0 in a state, its ring in host memory, WP 2, and descriptors in progress. -/
def dDma (st : Nat) (ds : List Desc) : Dev :=
  ((wr (pDma 0) (fDMA_WP_WP.at 0) 2 (wr (pDma 0) (fDMA_STAT_STATE.at 0) st (wrI (pHst 0) fHST_PTAG_VALID 0 1 dUp))).setWord (pDma 0) 0x104 0
    (2 ^ 31)).setDescs 0 0 ds

theorem witness_DmaEnginesRunDescriptors :
    (dDma 0 []).engSt 0 0 = 0 ∧ (dDma 1 []).engSt 0 0 = 1 ∧ (dDma 2 []).engSt 0 0 = 2 ∧ (dDma 1 []).engRp 0 0 = 0 ∧
    (dDma 1 []).engWp 0 0 = 2 ∧ (dDma 1 []).engDescs 0 0 = [] ∧ (dDma 0 []).reachesEngine pf0 0 0 = true ∧ 0 < (dDma 0 []).nChan ∧
    0 < (dDma 0 []).nEngine ∧ (dDma 0 []).quiesced 0 ((dDma 0 []).engPart 0 0) = false ∧ (dDma 0 []).on (pDma 0) fBLK_CTL_QREQ 0 = false ∧
    WellFormed.descriptor (desc0 1 128 0) .ok = true ∧ (dDma 0 []).mayStart 0 0 = false ∧ (dDma 1 []).mayStart 0 0 = true ∧
    (dDma 1 []).engFn 0 0 = (dDma 1 []).get (pHst 0) fHST_PTAG_FN ((dDma 1 []).engPart 0 0) ∧
    (dDma 1 []).fetchDesc 0 0 0 (desc0 1 128 0) .ok = (.inl (desc0 1 128 0), dDma 1 []) ∧ descIllegal (desc0 1 128 0) = false ∧
    descIllegal (desc0 3 128 0) = true ∧ dFence (desc0 1 128 0) = false ∧ dFence (desc0 1 128 1) = true ∧
    (dDma 1 [⟨0, desc0 1 128 0⟩]).engDescs 0 0 = ⟨0, desc0 1 128 0⟩ :: [] ∧ (dDma 1 [⟨0, desc0 1 128 0⟩]).mayStart 0 0 = true ∧
    (dDma 1 [⟨0, desc0 1 128 0⟩]).engReqs 0 0 = [] ∧
    (dDma 1 [⟨0, desc0 1 128 0⟩]).fetchDesc 0 0 1 (desc0 1 128 1) .ok = (.inl (desc0 1 128 1), dDma 1 [⟨0, desc0 1 128 0⟩]) := by
  and_intros <;> decide +kernel

/-! ### Quiescing, errors, resets -/

/-- Partition 5 of channel 0 is being quiesced. -/
def dQui : Dev := { dUp with quiesces := [⟨0, 5, false, false, none⟩] }
/-- The device before START: every quadrant is in reset. -/
def dPre : Dev := wr .hst fHST_LINK_UP 1 dOn

theorem witness_QuiesceAndArrange :
    dUp.writable pf0 (pHst 0) = true ∧ dTwo.writable pf0 (pHst 0) = true ∧ dTwo.nPart ≤ 63 ∧ 5 < dUp.nPart ∧ dUp.quiesced 0 5 = false ∧
    dQui.quiesced 0 5 = true ∧ dOn.ctlWritable pf0 (pImp 0) = false ∧ dUp.ctlWritable pf0 (.imp 0) = true ∧
    dUp.ctlWritable pf0 (.dmaCh 0) = true ∧ dUp.ctlWritable pf0 (.hstCh 0) = true ∧ dUp.ctlWritable pf0 (pStk 0) = true ∧
    dUp.writable pf0 .dctl = true ∧ dUp.isSealed = false ∧ (∃ q, q < 4 ∧ dUp.inReset (pQctl q) = false) ∧ dPre.writable pf0 .dctl = true ∧
    (∀ q, q < 4 → dPre.inReset (pQctl q) = true) ∧ dPre.isSealed = false ∧ dPre.arr? = 0 ∧ dPre.power.running = false ∧ dSealed.isSealed = true := by
  refine ⟨?_, ?_, ?_, ?_, ?_, ?_, ?_, ?_, ?_, ?_, ?_, ?_, ?_, ⟨0, ?_⟩, ?_, ?_, ?_, ?_, ?_, ?_⟩ <;> decide +kernel

/-- An event for a collector, of a severity, at bit 3. -/
def ev0 (coll sev : Nat) : Event := ⟨1, 0, 0, 0, sev, 0, 0, 0, 0, coll, 3, false⟩
def dEv (sev : Nat) (d : Dev) : Dev := { d with evq := [ev0 0 sev] }

theorem witness_EventsOpenAndMergeEpisodes :
    nextEvent 0 (dEv 2 dUp).evq = some (ev0 0 2) ∧ dUp.evq = [] ∧ (dEv 2 dUp).evq = [] ++ ev0 0 2 :: [] ∧ (ev0 0 2).coll = (0 : Fin 9).val ∧ (ev0 0 2).bit < 64 ∧
    (dEv 2 Dev.reset).power.pwrgd = false ∧ (dEv 2 dUp).power.pwrgd = true ∧ (ev0 0 0).sev = 0 ∧
    ((wr (collPage 0) fERRC_MASK_LO_MASK 0xFF dUp).collMask 0).testBit 3 = true ∧
    ((wr (collPage 0) fERRC_MASK_LO_MASK 0 dUp).collMask 0).testBit 3 = false ∧ (dUp.coll 0).isOpen = false ∧
    ({ dUp with colls := [(0, { Coll.init with isOpen := true })] }.coll 0).isOpen = true := by
  and_intros <;> decide +kernel

def rst0 (dom : Dom) (phase : Nat) : Rst := ⟨dom, phase, 1, false, false, 0, 0⟩
def dIn (dom : Dom) (phase : Nat) : Dev := { dUp with rsts := [rst0 dom phase] }
/-- Position 24 of row 0 of C-die 0 is defective: the row has no spare. -/
def dDef : Dev := { dUp with boot := { dUp.boot with defects := [(0, 2 ^ 24)] } }

theorem witness_ResetsStart :
    dUp.power.pwrgd = true ∧ dUp.power.running = true ∧ dOn.power.running = false ∧ Dev.reset.power.pwrgd = false ∧
    dUp.domInReset (dUp.normDom (.core c0)) = false ∧ dUp.domInReset (dUp.normDom (.quad 0)) = false ∧
    dUp.domInReset (dUp.normDom .device) = false ∧ (dIn .device 0).domInReset ((dIn .device 0).normDom (.core c0)) = true ∧
    dUp.ctlWritable pf0 (.core c0) = true ∧ dUp.pageDom (.core c0) = .core c0 ∧ dUp.writable pf0 (pImp 0) = true ∧ dUp.rsts = [] ∧
    (∃ y ∈ (dIn (.cluster 0 1) 0).rsts, ∃ t, y.dom = .cluster 0 t ∧ t ≠ 0) ∧ (dUp.logCol 0 0 0).isSome = true ∧
    dUp.hasSpare 0 0 = true ∧ dUp.rowQueues 0 0 = [] ∧ dDef.hasSpare 0 0 = false ∧ dDef.rowQueues 0 0 = [] ∧
    (dDef.logCol 0 0 24).isSome = false ∧ (dDef.logCol 0 0 0).isSome = true ∧ dUp.rstOf (.cluster 0 0) = none ∧
    (dIn (.cluster 0 0) 0).rstOf (.cluster 0 0) = some (rst0 (.cluster 0 0) 0) ∧
    (dIn (.cluster 0 0) 1).rstOf (.cluster 0 0) = some (rst0 (.cluster 0 0) 1) := by
  refine ⟨?_, ?_, ?_, ?_, ?_, ?_, ?_, ?_, ?_, ?_, ?_, ?_, ⟨_, List.mem_singleton.mpr rfl, 1, rfl, ?_⟩, ?_, ?_, ?_, ?_, ?_, ?_, ?_, ?_, ?_, ?_⟩ <;>
    decide +kernel

theorem witness_ResetsFinish :
    dUp.rstOf (.core c0) = none ∧ (dIn (.core c0) 0).rstOf (.core c0) = some (rst0 (.core c0) 0) ∧
    (dIn (.core c0) 0).drained (.core c0) = true ∧ ({ dRuns [run0 .begun []] with rsts := [rst0 (.core c0) 0] }).drained (.core c0) = false ∧
    dUp.now (domClk (.core c0)) < 0 + drainBudget (.core c0) ∧
    0 + drainBudget (.core c0) ≤ { dIn (.core c0) 0 with clk := [(domClk (.core c0), 24000)] }.now (domClk (.core c0)) ∧
    dUp.now (domClk (.quad 0)) < 0 + 9600 ∧ 0 + 9600 ≤ { dIn (.quad 0) 0 with clk := [(domClk (.quad 0), 9600)] }.now (domClk (.quad 0)) ∧
    (dIn .device 0).rstOf .device = some (rst0 .device 0) ∧
    0 + drainBudget .device ≤ (atCtl 120000000 (dIn .device 0)).now (domClk .device) ∧
    (dIn (.quad 0) 1).rstOf (.quad 0) = some (rst0 (.quad 0) 1) ∧ (dIn (.quad 0) 1).mayLeave (rst0 (.quad 0) 1) = true ∧
    (dIn (.quad 0) 0).mayLeave (rst0 (.quad 0) 0) = false ∧ (dIn (.cluster 0 0) 1).mayLeave (rst0 (.cluster 0 0) 1) = true := by
  and_intros <;> decide +kernel

/-! ### Bring-up. The functions of cryptography are opaque: a witness says what it takes of them. -/

/-- The H-die of a device that has been powered up, its host link up, BOOT in a state, a command in progress. -/
def dBoot (st busy : Nat) : Dev :=
  wr .hst fHST_LINK_UP 1 (wr .boot fBOOT_STAT_STATE st { dOn with boot := { Boot.init with busy := busy } })
/-- Every component START needs is loaded. -/
def dLoaded : Dev := [2, 3, 4, 5].foldl (fun d c => wrI .boot fBOOT_COMP_LOADED c 1 d) (dBoot 4 0)

/-- STAGING, with the registers naming 272 bytes of host memory, and PF0 a master of its bus. -/
def dFrom : Dev := ((wr .boot fBOOT_LEN_LEN 272 (dBoot 4 0)).setWord .boot 0x10C 0 (2 ^ 31)).setFunc 0 { Func.init with busMaster := true }

theorem witness_BootCommandsTaken :
    dFrom.get .boot fBOOT_LEN_LEN 0 = 272 ∧ (dFrom.get64 .boot 0x108 0).testBit 63 = true ∧ (dFrom.func 0).busMaster = true ∧
    dFrom.hostUp = true ∧ dFrom.boot.busy = 0 ∧ dFrom.bootState = 4 ∧ (dBoot 4 0).get .boot fBOOT_LEN_LEN 0 = 0 ∧
    (wr .dctl fDCTL_ARRANGE_ARR 1 (dBoot 4 0)).isSealedOp = true ∧ (dBoot 4 0).isSealedOp = false ∧
    (dBoot 1 0).writable pf0 .boot = true ∧ (dBoot 1 0).boot.busy = 0 ∧ (dBoot 1 3).boot.busy ≠ 0 ∧ 24 < (25 : Fin 32).val ∧
    (dBoot 1 0).isSealed = false ∧ (wr .dctl fDCTL_SEAL_SEAL 1 (dBoot 4 0)).isSealed = true ∧ (dBoot 1 0).bootState = 1 ∧
    (dBoot 3 0).bootState = 3 ∧ (dBoot 4 0).bootState = 4 ∧ (dBoot 5 0).bootState = 5 ∧ (dBoot 3 0).bootState ∉ [4, 5] ∧
    (∃ c, 2 ≤ c ∧ c ≤ 5 ∧ (dBoot 4 0).compLoaded c = false) ∧ dLoaded.bootState = 4 ∧
    (dLoaded.compLoaded 2 = true ∧ dLoaded.compLoaded 3 = true ∧ dLoaded.compLoaded 4 = true ∧ dLoaded.compLoaded 5 = true) := by
  refine ⟨?_, ?_, ?_, ?_, ?_, ?_, ?_, ?_, ?_, ?_, ?_, ?_, ?_, ?_, ?_, ?_, ?_, ?_, ?_, ?_, ⟨2, ?_⟩, ?_, ?_, ?_, ?_, ?_⟩ <;> decide +kernel

/-- A manifest body of one combination, and an image with a header of Table 18.3 over a body. -/
def man0 (cmb : List Byte) : List Byte := leBytes 2 7 ++ leBytes 2 1 ++ leBytes 12 0 ++ cmb
def hdr0 (comp : Nat) (body : List Byte) : List Byte :=
  leBytes 4 0x4D49534B ++ leBytes 1 1 ++ leBytes 1 comp ++ leBytes 2 1 ++ leBytes 1 1 ++ leBytes 1 1 ++ leBytes 2 0 ++ leBytes 4 body.length
def image0 (comp : Nat) (body : List Byte) : List Byte := hdr0 comp body ++ (sha body ++ (leBytes 176 0 ++ body))

theorem leBytes_length (n v : Nat) : (leBytes n v).length = n := by
  induction n generalizing v with
  | zero => rfl
  | succ n ih => simp [leBytes, ih]
theorem image0_digest (comp : Nat) (body : List Byte) : ((image0 comp body).drop 0x10).take 64 = sha body := by
  rw [image0, List.drop_left' (by simp [hdr0, leBytes_length]), List.take_left' (by simp [sha, digestBytes, leBytes_length])]
theorem image0_body (comp : Nat) (body : List Byte) : iBody (image0 comp body) = body := by
  rw [iBody, image0, ← List.append_assoc, ← List.append_assoc, List.drop_left' (by simp [hdr0, leBytes_length, sha, digestBytes])]

/-- The signature of an image holds. -/
def signed (b : List Byte) : Prop := ed25519Verify (Config.romKey (iKey b)) (b.take 0x80) ((b.drop 0x80).take 64) = true

theorem imageErr_none (b : List Byte) (h1 : (fieldLE b 0 4 == 0x4D49534B && fieldLE b 4 1 == 1 && (bodyLimit (iComp b)).isSome &&
      256 + fieldLE b 0x0C 4 == b.length && decide (fieldLE b 0x0C 4 ≤ (bodyLimit (iComp b)).getD 0) && allZero ((b.drop 0x0A).take 2) &&
      allZero ((b.drop 0x50).take 48) && allZero ((b.drop 0xC0).take 64) && (iComp b != 15 || manBody (iBody b))) = true)
    (h2 : iKey b = 1) (h3 : signed b) (h4 : sha (iBody b) = (b.drop 0x10).take 64) : imageErr b = none := by
  unfold signed at h3
  simp [imageErr, h1, h2, h4, h2 ▸ h3]

/-- A raw response and helper data that give a seed where the extractor gives one. -/
theorem witness_seed (raw : BitVec 4096) (k : BitVec 256) (hk : Config.pufExtract raw (leBytes 2048 0) = some k) :
    ∃ seed, deriveSeed raw (some (leBytes 2048 0 ++ sha (labelCHK ++ leBytes 32 k.toNat))) = some seed := by
  have h1 : (leBytes 2048 0 : List Byte).length = 2048 := leBytes_length _ _
  have h2 : ∀ l, (sha l).length = 64 := fun _ => rfl
  have h3 : ∀ l : List Byte, (leBytes 2048 0 ++ l).take 2048 = leBytes 2048 0 := fun l => List.take_left' h1
  have h4 : ∀ l : List Byte, (leBytes 2048 0 ++ l).drop 2048 = l := fun l => List.drop_left' h1
  unfold deriveSeed
  simp only [List.length_append, h1, h2, h3, h4, hk]
  rw [if_neg (by decide), if_pos trivial]
  exact ⟨_, rfl⟩

/-- Flash whose directory names a manifest at byte 4096 and nothing else, whether the item can be read or not. -/
def flash0 (b : List Byte) (unread : List Nat) : Flash :=
  ⟨leBytes 4 0x4853414C ++ leBytes 4 4 ++ leBytes 4 4096 ++ leBytes 4 b.length ++ List.replicate 4080 0 ++ b, unread⟩

theorem witness_InitAndSelftestEnd :
    (dBoot 1 0).bootState ≠ 0 ∧ (dBoot 0 0).bootState = 0 ∧ (dBoot 0 0).inReset .boot = false ∧ (dBoot 2 1).boot.busy = 1 ∧
    (dBoot 2 0).boot.busy ≠ 1 ∧ (wr .boot fBOOT_BIST_FAIL_VALID 1 (dBoot 0 0)).on .boot fBOOT_BIST_FAIL_VALID 0 = true ∧
    (wr .boot fBOOT_STAT_WARM 1 (dBoot 0 0)).on .boot fBOOT_STAT_WARM 0 = true ∧ deriveSeed 0 none = none ∧ (flash0 [] []).manifest = some [] ∧ imageErr [] = some cHDR ∧
    (flash0 [] [4]).manifest = none ∧ (flash0 [] []).helper = none ∧
    (flash0 (image0 15 (man0 (leBytes 48 0))) []).manifest = some (image0 15 (man0 (leBytes 48 0))) ∧
    (signed (image0 15 (man0 (leBytes 48 0))) → imageErr (image0 15 (man0 (leBytes 48 0))) = none) ∧
    iComp (image0 15 (man0 (leBytes 48 0))) = 15 := by
  refine ⟨by decide +kernel, by decide +kernel, by decide +kernel, by decide +kernel, by decide +kernel, by decide +kernel, by decide +kernel, rfl, by decide +kernel, by decide +kernel, by decide +kernel, by decide +kernel, by decide +kernel,
    fun h => ?_, by decide +kernel⟩
  exact imageErr_none _ (by decide +kernel) (by decide +kernel) h (by rw [image0_digest, image0_body])

/-- A combination that takes any versions of the components, at the epochs these have. -/
def cmb0 : List Byte :=
  leBytes 6 0 ++ (leBytes 4 0xFFFF0000 ++ leBytes 2 1) ++ (leBytes 4 0xFFFF0000 ++ (BitVec.ofNat 8 Config.romEpoch :: leBytes 1 0)) ++
    (leBytes 4 0xFFFF0000 ++ leBytes 2 1) ++ leBytes 24 0
/-- STAGING with a command in progress, its source in host memory, of a length; a manifest in force whose one combination is `cmb0`. -/
def dSrc0 (busy n : Nat) : Dev :=
  let d := wr .boot fBOOT_MAN_VALID 1 (dBoot 4 busy)
  ({ d with boot := { d.boot with src := 2 ^ 63, len := n } } : Dev).setFunc 0 { Func.init with busMaster := true }
def dStage (n : Nat) : Dev := { dSrc0 3 n with boot := { (dSrc0 3 n).boot with combos := [cmb0] } }
def img2 : List Byte := image0 2 (leBytes 16 0)

theorem cmb0_fits : fits cmb0 ((dStage 272).setWith img2) = true := by
  have hs : (dStage 272).setWith img2 = [(0, 0x4101, 1), (1, Config.romVersion % 65536, Config.romEpoch % 256), (2, 1, 1)] := by rfl
  have h1 : fieldLE cmb0 16 1 = Config.romEpoch % 256 := by
    show (BitVec.ofNat 8 Config.romEpoch).toNat + 256 * 0 = _
    simp
  have h2 : fieldLE cmb0 12 2 = 0 ∧ fieldLE cmb0 14 2 = 0xFFFF := by decide +kernel
  have h3 : fieldLE cmb0 6 2 = 0 ∧ fieldLE cmb0 8 2 = 0xFFFF ∧ fieldLE cmb0 10 1 = 1 := by decide +kernel
  have h4 : fieldLE cmb0 18 2 = 0 ∧ fieldLE cmb0 20 2 = 0xFFFF ∧ fieldLE cmb0 22 1 = 1 := by decide +kernel
  rw [hs]
  simp [fits, h1, h2, h3, h4]
  omega

theorem img2_admitted : (dStage 272).admitErr img2 = none := by
  have h1 : iComp img2 = 2 := by decide +kernel
  have h2 : (dStage 272).on .boot fBOOT_COMP_STARTED 2 = false := by decide +kernel
  have h3 : (dStage 272).on .boot fBOOT_MAN_VALID 0 = true := by decide +kernel
  have h4 : ((dStage 272).boot.combos ++ (dStage 272).boot.overrides).any (fun m => fits m ((dStage 272).setWith img2)) = true := by
    rw [show (dStage 272).boot.combos ++ (dStage 272).boot.overrides = [cmb0] from rfl]
    simp [cmb0_fits]
  have h5 : ¬2 ^ 26 < (dStage 272).bufferWith img2 := by decide +kernel
  simp only [Dev.admitErr, h1, h2, h3, h4]
  simp only [if_neg h5]
  rfl

/-- A token that makes its device a manager, bound to the device of identity 0. -/
def lic0 : List Byte :=
  leBytes 4 0x43494C4B ++ leBytes 1 1 ++ leBytes 1 1 ++ leBytes 1 0x10 ++ leBytes 1 0 ++ leBytes 2 96 ++ leBytes 86 0
def dLic (have_ : List (List Byte)) : Dev := { dSrc0 4 96 with boot := { (dSrc0 4 96).boot with licences := have_ } }

theorem lic0_good (h : ed25519Verify (Config.romKey 0x10) (lic0.take 32) (lic0.drop 32) = true) : (dLic []).licErr lic0 = none := by
  have h1 : licLen lic0 = 96 := by decide +kernel
  have h2 : lic0.length = 96 ∧ fieldLE lic0 6 1 = 0x10 ∧ fieldLE lic0 5 1 = 1 ∧ fieldLE lic0 0 4 = 0x43494C4B ∧ fieldLE lic0 4 1 = 1 := by
    decide +kernel
  have h3 : (dLic []).on .boot fBOOT_STAT_NOID 0 = false ∧ fieldLE lic0 0x10 16 = (dLic []).devUid := by decide +kernel
  have h4 : lic0.take 96 = lic0 := by decide +kernel
  simp [Dev.licErr, h1, h2, h3, h4, h]

theorem witness_StageLicenceAndStartEnd :
    (dBoot 4 0).boot.busy ≠ 3 ∧ (dStage 272).boot.busy = 3 ∧ (dStage 271).bootLen < 272 ∧ (dStage 272).bootLen = 272 ∧
    (dStage 272).bootSrc.1 = true ∧ (dStage 272).bootData [] .err = none ∧ (dStage 272).bootData img2 .ok = some img2 ∧
    (dStage 272).bootData (List.replicate 272 0) .ok = some (List.replicate 272 0) ∧ imageErr (List.replicate 272 0) = some cHDR ∧
    (signed img2 → imageErr img2 = none) ∧ (dStage 272).admitErr img2 = none ∧ iComp img2 ≠ 15 ∧
    (∀ b, iComp b = 2 → (wr .boot fBOOT_COMP_STARTED 0 (wrI .boot fBOOT_COMP_STARTED 2 1 (dStage 272))).admitErr b = some cACTIVE) ∧
    (signed (image0 15 (man0 (leBytes 48 0))) → imageErr (image0 15 (man0 (leBytes 48 0))) = none) ∧
    (dSrc0 3 320).admitErr (image0 15 (man0 (leBytes 48 0))) = none ∧
    (dLic []).boot.busy = 4 ∧ (dLic []).bootLen = 96 ∧ 4096 < (dSrc0 4 5000).bootLen ∧ (dLic []).bootData lic0 .ok = some lic0 ∧
    (dLic []).licErr (List.replicate 96 0) = some cLICSIG ∧
    (ed25519Verify (Config.romKey 0x10) (lic0.take 32) (lic0.drop 32) = true → (dLic []).licErr lic0 = none) ∧
    sha lic0 ∉ (dLic []).boot.licences ∧ sha lic0 ∈ (dLic [sha lic0]).boot.licences ∧
    30 ≤ (dLic (List.replicate 30 [])).boot.licences.length ∧ sha lic0 ∉ (dLic (List.replicate 30 [])).boot.licences ∧
    fieldLE lic0 5 1 = 1 ∧ (dBoot 4 5).boot.busy = 5 ∧ (dBoot 4 5).trust.lastArr = none ∧ dLoaded.compLoaded 6 = false := by
  have hs : sha lic0 ≠ [] := fun h => by simpa [sha, digestBytes, leBytes_length] using congrArg List.length h
  refine ⟨by decide +kernel, by decide +kernel, by decide +kernel, by decide +kernel, by decide +kernel, by decide +kernel, ?_,
    by decide +kernel, by decide +kernel, fun h => imageErr_none _ (by decide +kernel) (by decide +kernel) h (by rw [img2, image0_digest, image0_body]),
    img2_admitted, by decide +kernel, ?_, fun h => imageErr_none _ (by decide +kernel) (by decide +kernel) h (by rw [image0_digest, image0_body]),
    by decide +kernel, by decide +kernel, by decide +kernel, by decide +kernel, by decide +kernel, by decide +kernel, lic0_good, ?_, ?_,
    by decide +kernel, ?_, by decide +kernel, by decide +kernel, by decide +kernel, by decide +kernel⟩
  · have h : img2.length = (dStage 272).bootLen := by decide +kernel
    have h2 : (dStage 272).bootSrc.1 = true ∧ ((dStage 272).func 0).busMaster = true := by decide +kernel
    simp [Dev.bootData, h, h2]
  · intro b hb
    have h : (wr .boot fBOOT_COMP_STARTED 0 (wrI .boot fBOOT_COMP_STARTED 2 1 (dStage 272))).on .boot fBOOT_COMP_STARTED 2 = true := by
      decide +kernel
    simp [Dev.admitErr, hb, h]
  · exact List.not_mem_nil
  · exact List.mem_singleton.mpr rfl
  · intro h
    exact hs (List.eq_of_mem_replicate h)

/-! ### Attestation, keys, SPDM -/

/-- An attestation command in progress: 1 REPORT, 3 EXTEND of MR12. -/
def dAtt (n : Nat) : Dev := { wr (.hstCh 0) fHST_ATT_STAT_BUSY 1 dUp with trust := { dUp.trust with att := [(0, n)] } }
def dNoId : Dev := wr .dctl fDCTL_ID_STAT_NOCERT 1 (wr .boot fBOOT_STAT_NOID 1 dUp)

theorem witness_AttestationCommandsRun :
    dUp.writable pf0 (pHst 0) = true ∧ dUp.on (.hstCh 0) fHST_ATT_STAT_BUSY 0 = false ∧ (dAtt 1).on (.hstCh 0) fHST_ATT_STAT_BUSY 0 = true ∧
    dUp.hasId = true ∧ dNoId.hasId = false ∧ dUp.noCert = false ∧ dNoId.noCert = true ∧ dNoId.writable pf0 (pHst 0) = true ∧
    NMap.get dUp.trust.att 0 0 = 0 ∧ NMap.get (dAtt 1).trust.att 0 0 ≠ 0 ∧ 3 ≤ NMap.get (dAtt 3).trust.att 0 0 ∧
    (dAtt 1).hostUp = true ∧ ((dAtt 1).func 0).tdi ≠ 3 ∧ (dAtt 1).fencedFn 0 = false ∧ (List.replicate 64 (0 : Byte)).length = 64 := by
  and_intros <;> decide +kernel

/-- Channel 0 with a key in slot 0, and with the command that loads it in progress. -/
def dKey (busy : Nat) : Dev :=
  { dUp with trust := { dUp.trust with keys := [⟨0, 0, 7⟩], keyBusy := if busy = 0 then [] else [(0, busy)] } }

theorem witness_KeyCommandsRun :
    dUp.writable pf0 (pHst 0) = true ∧ dUp.get (.hstCh 0) fHST_KEY_IDX_SLOT 0 = 0 ∧ dUp.on (.hstCh 0) fHST_KEY_STAT_BUSY 0 = false ∧
    (wr (.hstCh 0) fHST_KEY_STAT_BUSY 1 dUp).on (.hstCh 0) fHST_KEY_STAT_BUSY 0 = true ∧ 0 < dUp.nPart ∧
    dTwo.nPart ≤ (wr (.hstCh 0) fHST_KEY_IDX_SLOT 63 dTwo).get (.hstCh 0) fHST_KEY_IDX_SLOT 0 ∧ dUp.keyInUse 0 0 = false ∧
    (wr (pStk 0) fSTK_ENC_EN 1 dUp).keyInUse 0 0 = true ∧ dUp.keyOf 0 0 = none ∧ (dKey 0).keyOf 0 0 = some ⟨0, 0, 7⟩ ∧
    (wr .dctl fDCTL_ID_STAT_ENTFAIL 1 dUp).on .dctl fDCTL_ID_STAT_ENTFAIL 0 = true ∧ dUp.on .dctl fDCTL_ID_STAT_ENTFAIL 0 = false ∧
    dUp.inReset .dctl = false ∧ NMap.get dUp.trust.keyBusy 0 0 = 0 ∧ NMap.get (dKey 1).trust.keyBusy 0 0 = 0 + 1 ∧ 0 ∈ (dKey 1).quadsOf 0 := by
  and_intros <;> decide +kernel

def spdm0 (index : Byte) : SpdmReq := ⟨0, 0, index, 9⟩
/-- A session of function 0: exchanged, or established. -/
def dSes (n : Nat) : Dev := { dUp with trust := { dUp.trust with sessions := [(0, n)] } }

theorem witness_SpdmResponderAnswers :
    dUp.arrives (.pf 0) = true ∧ dUp.hasDoe 0 = true ∧ dNoId.hasId = false ∧ dUp.hasId = true ∧ dUp.noCert = false ∧
    (wr .dctl fDCTL_ID_STAT_NOCERT 1 dUp).noCert = true ∧ (spdm0 1).slot.val = 0 ∧ (⟨0, 1, 0, 9⟩ : SpdmReq).slot.val ≠ 0 ∧
    (spdm0 1).index.toNat = 1 ∧ (spdm0 17).index.toNat = 2 + 15 ∧ 17 < (spdm0 18).index.toNat ∧
    dUp.on (pHst (dUp.fnChan 0)) fHST_ATT_STAT_BUSY 0 = false ∧ (dAtt 1).on (pHst ((dAtt 1).fnChan 0)) fHST_ATT_STAT_BUSY 0 = true ∧
    dUp.session 0 = 0 ∧ (dSes 1).session 0 = 1 ∧ (dSes 2).session 0 = 2 := by
  and_intros <;> decide +kernel

/-! ### Supply, clocks, temperature, pins -/

/-- The input in range, soft start complete or not, power-good early or not. -/
def dVin (soft : Bool) (early : Option (Bool × Nat)) : Dev :=
  { Dev.reset with power := { Power.init with vin := true, softStart := soft, early := early } }

theorem witness_SupplyRisesAndFalls :
    Dev.reset.power.vin = false ∧ (dVin true none).power.softStart = true ∧ (dVin false none).power.vin = true ∧
    (dVin false none).power.softStart = false ∧ (dVin false none).power.early = none ∧ dOn.power.pwrgd = true ∧
    (dVin false (some (true, 2))).power.early = some (true, 2) ∧ (dVin true none).power.pwrgd = false ∧
    (dOn.power.vin = true ∧ (InputFault.pwrgdLow = .pwrgdLow → dOn.power.pwrgd = true)) := by
  and_intros <;> decide +kernel

/-- Fixed-frequency mode at a frequency. -/
def dFix (f : Nat) : Dev := wr .pwr fPWR_MODE_FREQ f (wr .pwr fPWR_MODE_FIXED 1 dUp)

theorem witness_CapAndModeAreKept :
    dUp.writable pf0 .pwr = true ∧ (23 : Word).toNat % 128 < 24 ∧ 88 < (89 : Word).toNat % 128 ∧ (88 : Word).toNat % 128 ≤ 88 ∧
    (dFix 3).fixed = true ∧ 24 < freqMin ((dFix 3).get .pwr fPWR_MODE_FREQ 0) ∧ freqMin ((dFix 0).get .pwr fPWR_MODE_FREQ 0) ≤ 88 ∧
    dUp.fixed = false ∧ (0x100 : Word).toNat.testBit 8 = true ∧ freqMin 0 ≤ (wr .pwr fPWR_CAP_UNITS 88 dUp).get .pwr fPWR_CAP_UNITS 0 ∧
    (wr .pwr fPWR_CAP_UNITS 24 dUp).get .pwr fPWR_CAP_UNITS 0 < freqMin 3 ∧ dUp.power.fpl = false ∧
    (wr .pwr fPWR_FPL_UNITS 24 (dFix 3)).get .pwr fPWR_FPL_UNITS 0 < freqMin ((dFix 3).get .pwr fPWR_MODE_FREQ 0) ∧
    dUp.power.running = true ∧ dOn.power.running = false ∧ (dRst .device).inReset (pImp 0) = true ∧ dUp.inReset (pImp 0) = false ∧
    dUp.quadsClocked = true ∧ dOn.quadsClocked = false := by
  and_intros <;> decide +kernel

theorem witness_TripsAndPinsReset :
    Dev.reset.power.pwrgd = false ∧ dUp.power.pwrgd = true ∧ dUp.inReset .pwr = false ∧ dUp.inReset (pStk 0) = false ∧
    { dUp with host := { dUp.host with perst := true } }.host.perst = true ∧ dUp.host.perst = false ∧ dUp.power.tripped = [] ∧
    128 + 0 ∈ { dUp with power := { dUp.power with tripped := [128] } }.power.tripped ∧ 128 + 0 ∉ dUp.power.tripped ∧
    dUp.contains .device (tripDom 0) = true := by
  and_intros <;> decide +kernel

/-- The sideband's side of the device. -/
def dSb (f : Power → Power) : Dev := { dUp with power := f dUp.power }

theorem witness_SidebandAndTestPort :
    Dev.reset.power.pwrgd = false ∧ dUp.power.pwrgd = true ∧ dUp.power.i3c = false ∧ (dSb (fun p => { p with i3c := true })).power.i3c = true ∧
    (0x3104 : BitVec 27).toNat = (0x3104 : Word).toNat ∧ (0x3104 : Word).toNat < 0x6000 ∧ 0x6000 ≤ (0x6000 : Word).toNat ∧
    dUp.power.sbOff = none ∧ (dSb (fun p => { p with sbOff := some 0x3104 })).power.sbOff = some 0x3104 ∧
    (0x3105 : Word).toNat % 4 ≠ 0 ∧ (pageOfNo (0x3105 / 4096)).any (fun p => dUp.reaches .sb p) = true ∧
    (dSb (fun p => { p with alert := true })).power.alert = true ∧ dUp.power.alert = false ∧ dUp.power.sbDyn = none ∧
    (dSb (fun p => { p with sbDyn := some 9 })).power.sbDyn = some 9 ∧ 1 < dUp.bootState ∧ ¬1 < (dBoot 1 0).bootState ∧
    (dSb (fun p => { p with tap := tapIdcode })).power.tap = tapIdcode ∧ (dSb (fun p => { p with tap := tapBypass })).power.tap = tapBypass := by
  and_intros <;> decide +kernel

/-! ### The spec's own worked numbers -/

def tile0 (fmt rows cols : Nat) (scale : Bool) : Tile := ⟨0, rows, cols, 0, false, scale, fmt, 0, 0, 0, 0, 0⟩

/-- Chapter 3, after R56: 128 x 128 FP32 is 65,536 bytes. -/
theorem test_tile_fp32_bytes : (tile0 1 128 128 false).dataBytes = 65536 := by decide +kernel
/-- Chapter 3, after R56: a 128 x 128 MX-FP8 tile is 16,384 data bytes plus 512 scale bytes. -/
theorem test_tile_mxfp8_bytes : (tile0 0x0A 128 128 true).dataBytes = 16384 ∧ (tile0 0x0A 128 128 true).scaleBytes = 512 := by decide +kernel
/-- Chapter 3: a 64 x 64 Chase tile is 49,152 bytes. -/
theorem test_tile_chase_bytes : (tile0 0x10 64 64 false).dataBytes = 49152 := by decide +kernel
/-- Chapter 3: a 128 x 128 x 128 MMA occupies the Platen 4,096 press cycles in FP8, and 131,072 in FP64. -/
theorem test_mma_fp8_cycles : mmaCycles (tile0 4 128 128 false) (tile0 4 128 128 false) = 4096 := by decide +kernel
theorem test_mma_fp64_cycles : mmaCycles (tile0 0 128 128 false) (tile0 0 128 128 false) = 131072 := by decide +kernel
/-- Chapter 2: stack 19 is populated from 0x0260_0000_0000 to 0x0271_FFFF_FFFF. -/
theorem test_stack19_range : isStackLine (0x026000000000 / 128) = true ∧ isStackLine (0x0271FFFFFFFF / 128) = true ∧
    isStackLine (0x027200000000 / 128) = false ∧ lineStack (0x0271FFFFFFFF / 128) = 19 := by decide +kernel

/-! ### Single steps -/

/-- R484, R485: power-good that rises after soft start is taken at once, and the bus mode sampled. -/
theorem test_pwrgd_rise : (match exec (.pwrgdRise ⟨true, 2⟩) ⟨[], dVin true none⟩ with
    | .next s => s.dev.power.pwrgd && s.dev.power.i3c && s.dev.power.strap == 2
    | _ => false) = true := by decide +kernel
/-- STK_CMD.TRAIN (chapter 10): TRAIN of an UNTRAINED stack makes it TRAINING, of a READY one sets ILL. -/
theorem test_stk_train : (match exec (.stkTrain pf0 0) ⟨[], dStk 0 McChan.init⟩ with
    | .next s => s.dev.stkState 0 == 1
    | _ => false) = true := by decide +kernel
theorem test_stk_train_ready : (match exec (.stkTrain pf0 0) ⟨[], dStk 2 McChan.init⟩ with
    | .next s => s.dev.stkState 0 == 2 && s.dev.on (pStk 0) fSTK_STAT_ILL 0
    | _ => false) = true := by decide +kernel
/-- R463: a cap of 89 units is refused; one of 88 is taken. -/
theorem test_cap_89 : (match exec (.pwrCapWrite pf0 89) ⟨[], dUp⟩ with
    | .next s => s.dev.on .pwr fPWR_CAP_ILL 0 && s.dev.get .pwr fPWR_CAP_UNITS 0 == dUp.get .pwr fPWR_CAP_UNITS 0
    | _ => false) = true := by decide +kernel
theorem test_cap_30 : (match exec (.pwrCapWrite pf0 30) ⟨[], dUp⟩ with
    | .next s => s.dev.get .pwr fPWR_CAP_UNITS 0 == 30
    | _ => false) = true := by decide +kernel
/-- A step performs the command at the front of the queue, and keeps the rest. -/
theorem test_step_takes_front : (match step ⟨[.inputRise, .fplAssert], Dev.reset⟩ with
    | .next s => s.dev.power.vin && decide (s.pending = [.fplAssert])
    | _ => false) = true := by decide +kernel
/-- R485: before power-good the sideband answers nothing. -/
theorem test_sb_silent : exec .sbRegisterRead State.reset = .next State.reset := by rfl
/-- R491: IDCODE reads 0x1539A6B7. -/
theorem test_idcode : (dSb (fun p => { p with tap := tapIdcode })).tapCapture = some 0x1539A6B7 := by decide +kernel

end Sys2Proof.Tests
end

/-! ## The floor plan: logical core IDs (R5)

A row's logical columns are the ranks of its working physical columns. The rank grows by one at each working column and nowhere else,
so the ranks are contiguous; and `Dev.coreOfLid` inverts `Dev.lid` because the rank of a working column determines it.
The rank has its own lemmas here: the package's modules import core Lean alone, so Mathlib's count is not at hand. -/

namespace Sys2Proof.Machine

/-! ### The rank of a column among the working ones -/

/-- Physical column c of a row has no defect. -/
abbrev Dev.Works (d : Dev) (dd r c : Nat) : Prop := d.defective dd r c = false

/-- The working columns of a row below physical column c. -/
def Dev.rank (d : Dev) (dd r c : Nat) : Nat := ((List.range c).filter (fun j => !d.defective dd r j)).length

theorem Dev.rank_zero (d : Dev) (dd r : Nat) : d.rank dd r 0 = 0 := rfl

theorem Dev.rank_succ (d : Dev) (dd r c : Nat) :
    d.rank dd r (c + 1) = d.rank dd r c + if d.defective dd r c then 0 else 1 := by
  unfold Dev.rank
  rw [List.range_succ, List.filter_append, List.length_append]
  cases h : d.defective dd r c with
  | true =>
    simp only [List.filter_cons, h, Bool.not_true, Bool.false_eq_true, if_false, if_true, List.filter_nil,
      List.length_nil]
  | false =>
    simp only [List.filter_cons, h, Bool.not_false, Bool.false_eq_true, if_false, if_true, List.filter_nil,
      List.length_singleton]

theorem Dev.rank_succ_of_works {d : Dev} {dd r c : Nat} (h : d.Works dd r c) : d.rank dd r (c + 1) = d.rank dd r c + 1 := by
  rw [d.rank_succ, if_neg (ne_true_of_eq_false h)]

theorem Dev.rank_le_rank {d : Dev} {dd r a b : Nat} (h : a ≤ b) : d.rank dd r a ≤ d.rank dd r b := by
  induction h with
  | refl => exact Nat.le_refl _
  | step _ ih => exact Nat.le_trans ih (d.rank_succ dd r _ ▸ Nat.le_add_right _ _)

theorem Dev.rank_lt_rank {d : Dev} {dd r a b : Nat} (ha : d.Works dd r a) (h : a < b) : d.rank dd r a < d.rank dd r b := by
  have next := Dev.rank_succ_of_works ha
  have later : d.rank dd r (a + 1) ≤ d.rank dd r b := Dev.rank_le_rank h
  omega

theorem Dev.rank_injective {d : Dev} {dd r a b : Nat} (ha : d.Works dd r a) (hb : d.Works dd r b)
    (h : d.rank dd r a = d.rank dd r b) : a = b := by
  rcases Nat.lt_trichotomy a b with hlt | heq | hgt
  · have := Dev.rank_lt_rank ha hlt
    omega
  · exact heq
  · have := Dev.rank_lt_rank hb hgt
    omega

/-- No rank is skipped: each one below the rank of c is taken by a working column before c. -/
theorem Dev.exists_works_rank_eq {d : Dev} {dd r c k : Nat} (h : k < d.rank dd r c) :
    ∃ a < c, d.Works dd r a ∧ d.rank dd r a = k := by
  induction c with
  | zero => exact absurd (d.rank_zero dd r ▸ h) (Nat.not_lt_zero k)
  | succ c ih =>
    by_cases below : k < d.rank dd r c
    · obtain ⟨a, ha, works, rank⟩ := ih below
      exact ⟨a, Nat.lt_succ_of_lt ha, works, rank⟩
    · rw [d.rank_succ] at h
      split at h
      case isTrue => omega
      case isFalse works => exact ⟨c, Nat.lt_succ_self c, eq_false_of_ne_true works, by omega⟩

/-! ### Logical columns of a row -/

theorem Dev.nLog_eq (d : Dev) (dd r : Nat) : d.nLog dd r = min (d.rank dd r 25) 24 := rfl

theorem Dev.logCol_eq (d : Dev) (dd r c : Nat) :
    d.logCol dd r c = if d.defective dd r c then none else if d.rank dd r c < 24 then some (d.rank dd r c) else none := rfl

theorem Dev.logCol_eq_some_iff {d : Dev} {dd r c k : Nat} :
    d.logCol dd r c = some k ↔ d.Works dd r c ∧ d.rank dd r c = k ∧ k < 24 := by
  rw [d.logCol_eq]
  constructor
  · intro h
    split at h
    case isTrue => exact nomatch h
    case isFalse works =>
      split at h
      case isTrue hlt =>
        obtain rfl := Option.some.inj h
        exact ⟨eq_false_of_ne_true works, rfl, hlt⟩
      case isFalse => exact nomatch h
  · rintro ⟨works, rfl, hlt⟩
    rw [if_neg (ne_true_of_eq_false works), if_pos hlt]

/-- Two physical columns of a row never share a logical column. -/
theorem Dev.logCol_injective {d : Dev} {dd r a b k : Nat} (ha : d.logCol dd r a = some k) (hb : d.logCol dd r b = some k) :
    a = b := by
  obtain ⟨wa, ra, -⟩ := Dev.logCol_eq_some_iff.mp ha
  obtain ⟨wb, rb, -⟩ := Dev.logCol_eq_some_iff.mp hb
  exact Dev.rank_injective wa wb (ra.trans rb.symm)

/-- The search of `Dev.coreOfLid` finds the physical column of a logical one. -/
theorem Dev.find_logCol_eq_some_iff {d : Dev} {dd r c k : Nat} :
    (List.range 25).find? (fun j => d.logCol dd r j == some k) = some c ↔ c < 25 ∧ d.logCol dd r c = some k := by
  constructor
  · intro h
    exact ⟨List.mem_range.mp (List.mem_of_find?_eq_some h), eq_of_beq (List.find?_some h :)⟩
  · rintro ⟨hc, hk⟩
    obtain ⟨b, hb⟩ : ∃ b, (List.range 25).find? (fun j => d.logCol dd r j == some k) = some b := by
      rw [← Option.isSome_iff_exists, List.find?_isSome]
      exact ⟨c, List.mem_range.mpr hc, beq_iff_eq.mpr hk⟩
    have found : d.logCol dd r b = some k := eq_of_beq (List.find?_some hb :)
    rw [hb, Dev.logCol_injective found hk]

/-- The logical columns a row presents are those below `Dev.nLog`: contiguous from 0. -/
theorem Dev.exists_logCol_iff {d : Dev} {dd r k : Nat} : (∃ c < 25, d.logCol dd r c = some k) ↔ k < d.nLog dd r := by
  rw [d.nLog_eq, Nat.lt_min]
  constructor
  · rintro ⟨c, hc, h⟩
    obtain ⟨works, rfl, hk⟩ := Dev.logCol_eq_some_iff.mp h
    exact ⟨Dev.rank_lt_rank works hc, hk⟩
  · rintro ⟨hrank, hk⟩
    obtain ⟨c, hc, works, rank⟩ := Dev.exists_works_rank_eq hrank
    exact ⟨c, hc, Dev.logCol_eq_some_iff.mpr ⟨works, rank, hk⟩⟩

/-! ### IDs and the cores they name -/

theorem Dev.lid_eq_some_iff {d : Dev} {c : CoreId} {n : Nat} (hc : d.boot.committed = true) :
    d.lid c = some n ↔
      ∃ k, d.logCol c.die.val c.row.val c.col.val = some k ∧ c.die.val * 1024 + c.row.val * 32 + k = n := by
  rw [Dev.lid, if_pos hc, Option.map_eq_some_iff]

/-- Bits 12:10, 9:5 and 4:0 of an ID are its C-die, its row and its logical column. -/
theorem Dev.lid_fields {d : Dev} {c : CoreId} {n : Nat} (hc : d.boot.committed = true) (h : d.lid c = some n) :
    n / 1024 = c.die.val ∧ n / 32 % 32 = c.row.val ∧ n % 32 < 24 ∧ n < 8192 ∧
      d.logCol c.die.val c.row.val c.col.val = some (n % 32) := by
  obtain ⟨k, hk, rfl⟩ := (Dev.lid_eq_some_iff hc).mp h
  obtain ⟨-, -, hk24⟩ := Dev.logCol_eq_some_iff.mp hk
  have column : (c.die.val * 1024 + c.row.val * 32 + k) % 32 = k := by omega
  refine ⟨?_, ?_, ?_, ?_, column.symm ▸ hk⟩ <;> omega

/-- A position built from numbers in range keeps them. -/
theorem coreAt_eq_iff {x r col : Nat} {c : CoreId} (hx : x < 8) (hr : r < 24) (hcol : col < 25) :
    coreAt x r col = c ↔ x = c.die.val ∧ r = c.row.val ∧ col = c.col.val := by
  obtain ⟨⟨_, _⟩, ⟨_, _⟩, ⟨_, _⟩⟩ := c
  simp only [coreAt, die, finM, CoreId.mk.injEq, Fin.mk.injEq, Nat.mod_eq_of_lt hx, Nat.mod_eq_of_lt hr, Nat.mod_eq_of_lt hcol]

/-- The decoder inverts the numbering: an ID names the core that carries it, and no other. -/
theorem Dev.coreOfLid_eq_some_iff {d : Dev} {c : CoreId} {n : Nat} (hc : d.boot.committed = true) :
    d.coreOfLid n = some c ↔ d.lid c = some n := by
  constructor
  · intro h
    unfold Dev.coreOfLid at h
    split at h
    case isFalse => cases h
    case isTrue hb =>
      obtain ⟨-, hn, hr, -⟩ := hb
      obtain ⟨col, hfind, hcore⟩ := Option.map_eq_some_iff.mp h
      obtain ⟨hcol, hlog⟩ := Dev.find_logCol_eq_some_iff.mp hfind
      obtain ⟨hdie, hrow, rfl⟩ := (coreAt_eq_iff (by omega) hr hcol).mp hcore
      rw [hdie, hrow] at hlog
      exact (Dev.lid_eq_some_iff hc).mpr ⟨_, hlog, by omega⟩
  · intro h
    obtain ⟨hdie, hrow, hcol, hn, hlog⟩ := Dev.lid_fields hc h
    have hfind := Dev.find_logCol_eq_some_iff.mpr ⟨c.col.isLt, hlog⟩
    unfold Dev.coreOfLid
    rw [if_pos ⟨hc, hn, hrow ▸ c.row.isLt, hcol⟩, hdie, hrow, hfind, Option.map_some,
      (coreAt_eq_iff c.die.isLt c.row.isLt c.col.isLt).mpr ⟨rfl, rfl, rfl⟩]

theorem Dev.coreOfLid_eq_none_iff {d : Dev} {n : Nat} (hc : d.boot.committed = true) :
    d.coreOfLid n = none ↔ ∀ c, d.lid c ≠ some n := by
  simp only [Option.eq_none_iff_forall_ne_some, ne_eq, Dev.coreOfLid_eq_some_iff hc]

/-- The IDs of a row's cores are the row's base plus each column the row presents. -/
theorem Dev.exists_lid_in_row_iff {d : Dev} {x : Die} {r : Fin 24} {k : Nat} (hc : d.boot.committed = true) :
    (∃ col : Fin 25, d.lid ⟨x, r, col⟩ = some (1024 * x.val + 32 * r.val + k)) ↔ k < d.nLog x.val r.val := by
  rw [← Dev.exists_logCol_iff]
  constructor
  · rintro ⟨col, h⟩
    obtain ⟨k', hk', he⟩ := (Dev.lid_eq_some_iff hc).mp h
    obtain rfl : k' = k := by dsimp only at he; omega
    exact ⟨col.val, col.isLt, hk'⟩
  · rintro ⟨col, hcol, hk⟩
    exact ⟨⟨col, hcol⟩, (Dev.lid_eq_some_iff hc).mpr ⟨k, hk, by dsimp only; omega⟩⟩

/-- A column value that a row does not present names no core. -/
theorem Dev.coreOfLid_eq_none_of_nLog_le {d : Dev} {x : Die} {r : Fin 24} {k : Nat} (hc : d.boot.committed = true)
    (hk : k < 32) (hle : d.nLog x.val r.val ≤ k) : d.coreOfLid (1024 * x.val + 32 * r.val + k) = none := by
  rw [Dev.coreOfLid_eq_none_iff hc]
  intro c h
  obtain ⟨hdie, hrow, -⟩ := Dev.lid_fields hc h
  obtain rfl : c.die = x := Fin.ext (by omega)
  obtain rfl : c.row = r := Fin.ext (by omega)
  exact absurd ((Dev.exists_lid_in_row_iff hc).mp ⟨c.col, h⟩) (by omega)

/-- A row or column value of 24 to 31 is on no core. -/
theorem Dev.lid_ne_of_field_ge {d : Dev} {n : Nat} (hc : d.boot.committed = true) (hn : 24 ≤ n / 32 % 32 ∨ 24 ≤ n % 32)
    (c : CoreId) : d.lid c ≠ some n := by
  intro h
  obtain ⟨-, hrow, hcol, -⟩ := Dev.lid_fields hc h
  omega

/-- Settles O7: the ranks of working columns are contiguous, and the decoder inverts the numbering. -/
theorem logicalCoreIdsAreContiguous : Obligations.LogicalCoreIdsAreContiguous := by
  unfold Obligations.LogicalCoreIdsAreContiguous
  intro s x r hc
  refine ⟨fun c n h => ?_, fun k => Dev.exists_lid_in_row_iff hc,
    fun h23 => Dev.coreOfLid_eq_none_of_nLog_le hc (by decide) (Nat.le_of_eq h23), fun n hn => ?_⟩
  · obtain ⟨hdie, hrow, hcol, hlt, -⟩ := Dev.lid_fields hc h
    exact ⟨hdie, hrow, hcol, hlt, (Dev.coreOfLid_eq_some_iff hc).mpr h⟩
  · exact ⟨(Dev.coreOfLid_eq_none_iff hc).mpr (Dev.lid_ne_of_field_ge hc hn), Dev.lid_ne_of_field_ge hc hn⟩

end Sys2Proof.Machine

/-! ## Runs at their slots (R51, R61, R77)

`Dev.runAt` finds a slot's run through the slot's binding and the queue it names. The lemmas here say once what `Dev.runAt` reads after
each change of a run, of a core and of the queues. -/

namespace Sys2Proof.Machine

/-! ### The first element a test holds of -/

theorem find?_replaceFirst {α : Type} {p : α → Bool} {f : α → α} {l : List α} {x : α} (h : l.find? p = some x) (hf : p (f x) = true) :
    (replaceFirst p f l).find? p = some (f x) := by
  induction l with
  | nil => cases h
  | cons y r ih =>
    unfold replaceFirst
    cases hy : p y with
    | true =>
      rw [List.find?_cons_of_pos hy] at h
      cases h
      rw [if_pos rfl, List.find?_cons_of_pos hf]
    | false =>
      rw [List.find?_cons_of_neg (by simp [hy])] at h
      rw [if_neg (by decide), List.find?_cons_of_neg (by simp [hy]), ih h]

theorem find?_replaceFirst_other {α : Type} {p q : α → Bool} {f : α → α} (l : List α)
    (h : ∀ x, p x = true → q x = false ∧ q (f x) = false) : (replaceFirst p f l).find? q = l.find? q := by
  induction l with
  | nil => rfl
  | cons y r ih =>
    unfold replaceFirst
    cases hy : p y with
    | true => rw [if_pos rfl, List.find?_cons_of_neg (by simp [h y hy]), List.find?_cons_of_neg (by simp [h y hy])]
    | false =>
      rw [if_neg (by decide)]
      cases hq : q y with
      | true => rw [List.find?_cons_of_pos hq, List.find?_cons_of_pos hq]
      | false => rw [List.find?_cons_of_neg (by simp [hq]), List.find?_cons_of_neg (by simp [hq]), ih]

theorem exists_mem_replaceFirst {α : Type} {p : α → Bool} (f : α → α) {l : List α} (h : ∃ x ∈ l, p x = true) :
    ∃ x ∈ l, p x = true ∧ f x ∈ replaceFirst p f l := by
  induction l with
  | nil => obtain ⟨x, hx, -⟩ := h; cases hx
  | cons y r ih =>
    unfold replaceFirst
    cases hy : p y with
    | true => exact ⟨y, List.mem_cons_self, hy, by rw [if_pos rfl]; exact List.mem_cons_self⟩
    | false =>
      obtain ⟨x, hx, hp⟩ := h
      rcases List.mem_cons.mp hx with rfl | hx
      · rw [hy] at hp; cases hp
      · obtain ⟨z, hz, hpz, hm⟩ := ih ⟨x, hx, hp⟩
        exact ⟨z, List.mem_cons_of_mem _ hz, hpz, by rw [if_neg (by decide)]; exact List.mem_cons_of_mem _ hm⟩

/-! ### Cores -/

theorem Dev.core_modCore_ne (d : Dev) {c b : CoreId} (f : Core → Core) (h : b ≠ c) : (d.modCore c f).core b = d.core b :=
  Dev.core_setCore_ne d _ h

theorem Core.bind_setBind (k : Core) (i j : Nat) (b : Option Bind) : (k.setBind i b).bind j = if j = i then b else k.bind j :=
  NMap.get_put k.binds none i j b

/-! ### What a slot's run is -/

/-- The test by which `Dev.runAt` finds a slot's run among those of its queue. -/
def Run.isAt (c : CoreId) (sl : Nat) (r : Run) : Bool := r.core == some c && r.slot == sl && r.stage != .fetching

theorem Run.isAt_iff {c : CoreId} {sl : Nat} {r : Run} : r.isAt c sl = true ↔ r.core = some c ∧ r.slot = sl ∧ r.stage ≠ .fetching := by
  simp [Run.isAt, and_assoc]

theorem Dev.runAt_of_bind {d : Dev} {c : CoreId} {sl : Nat} {b : Bind} (h : (d.core c).bind sl = some b) :
    d.runAt c sl = (d.queue (bindKey c b)).runs.find? (Run.isAt c sl) := by
  unfold Dev.runAt; rw [h]; rfl

theorem Dev.runAt_of_unbound {d : Dev} {c : CoreId} {sl : Nat} (h : (d.core c).bind sl = none) : d.runAt c sl = none := by
  unfold Dev.runAt; rw [h]

theorem Dev.exists_bind_of_runAt {d : Dev} {c : CoreId} {sl : Nat} {r : Run} (h : d.runAt c sl = some r) :
    ∃ b, (d.core c).bind sl = some b ∧ (d.queue (bindKey c b)).runs.find? (Run.isAt c sl) = some r := by
  cases hb : (d.core c).bind sl with
  | none => rw [Dev.runAt_of_unbound hb] at h; cases h
  | some b => exact ⟨b, rfl, by rw [← Dev.runAt_of_bind hb]; exact h⟩

theorem Dev.isAt_of_runAt {d : Dev} {c : CoreId} {sl : Nat} {r : Run} (h : d.runAt c sl = some r) :
    r.core = some c ∧ r.slot = sl ∧ r.stage ≠ .fetching := by
  obtain ⟨b, -, hf⟩ := Dev.exists_bind_of_runAt h
  exact Run.isAt_iff.mp (List.find?_some hf)

/-- Only the queue a slot is bound to and the queues themselves bear on the slot's run. -/
theorem Dev.runAt_congr {d e : Dev} {c : CoreId} {sl : Nat} (hq : e.queues = d.queues)
    (hb : ((e.core c).bind sl).map (·.q) = ((d.core c).bind sl).map (·.q)) : e.runAt c sl = d.runAt c sl := by
  cases h : (d.core c).bind sl with
  | none =>
    rw [h, Option.map_none, Option.map_eq_none_iff] at hb
    rw [Dev.runAt_of_unbound h, Dev.runAt_of_unbound hb]
  | some b =>
    rw [h, Option.map_some, Option.map_eq_some_iff] at hb
    obtain ⟨a, ha, hab⟩ := hb
    rw [Dev.runAt_of_bind h, Dev.runAt_of_bind ha, Dev.queue, Dev.queue, hq, bindKey, bindKey, hab]

/-! ### Changing a run -/

theorem Dev.modRun_eq (d : Dev) (c : CoreId) (sl : Nat) (f : Run → Run) :
    d.modRun c sl f = { d with queues := (d.modRun c sl f).queues } := by
  unfold Dev.modRun; split <;> rfl

theorem Dev.modRun_of_bind {d : Dev} {c : CoreId} {sl : Nat} {b : Bind} (f : Run → Run) (h : (d.core c).bind sl = some b) :
    d.modRun c sl f = d.modQueue (bindKey c b) (fun q => { q with runs := replaceFirst (Run.isAt c sl) f q.runs }) := by
  unfold Dev.modRun; rw [h]; rfl

@[simp] theorem Dev.core_modRun (d : Dev) (c k : CoreId) (sl : Nat) (f : Run → Run) : (d.modRun c sl f).core k = d.core k := by
  rw [Dev.modRun_eq]; rfl

@[simp] theorem Dev.modRun_regs (d : Dev) (c : CoreId) (sl : Nat) (f : Run → Run) : (d.modRun c sl f).regs = d.regs := by
  rw [Dev.modRun_eq]

@[simp] theorem Dev.modRun_cores (d : Dev) (c : CoreId) (sl : Nat) (f : Run → Run) : (d.modRun c sl f).cores = d.cores := by
  rw [Dev.modRun_eq]

/-- The changed run is still the slot's. -/
theorem Dev.runAt_modRun {d : Dev} {c : CoreId} {sl : Nat} {r : Run} {f : Run → Run} (h : d.runAt c sl = some r)
    (hf : (f r).isAt c sl = true) : (d.modRun c sl f).runAt c sl = some (f r) := by
  obtain ⟨b, hb, hr⟩ := Dev.exists_bind_of_runAt h
  have hb' : ((d.modRun c sl f).core c).bind sl = some b := by rw [Dev.core_modRun]; exact hb
  rw [Dev.runAt_of_bind hb', Dev.modRun_of_bind f hb, Dev.queue_modQueue_same]
  exact find?_replaceFirst hr hf

/-- A change of the run of one slot leaves the run of another. -/
theorem Dev.runAt_modRun_ne (d : Dev) {c : CoreId} {sl tl : Nat} {f : Run → Run} (h : tl ≠ sl) (hf : ∀ r, (f r).slot = r.slot) :
    (d.modRun c sl f).runAt c tl = d.runAt c tl := by
  cases hs : (d.core c).bind sl with
  | none => unfold Dev.modRun; rw [hs]
  | some a =>
    cases ht : (d.core c).bind tl with
    | none => rw [Dev.runAt_of_unbound ht, Dev.runAt_of_unbound (by rw [Dev.core_modRun]; exact ht)]
    | some b =>
      have ht' : ((d.modRun c sl f).core c).bind tl = some b := by rw [Dev.core_modRun]; exact ht
      rw [Dev.runAt_of_bind ht', Dev.runAt_of_bind ht, Dev.modRun_of_bind f hs]
      by_cases hk : bindKey c b = bindKey c a
      · rw [hk, Dev.queue_modQueue_same]
        refine find?_replaceFirst_other _ (fun x hx => ?_)
        obtain ⟨-, hsl, -⟩ := Run.isAt_iff.mp hx
        constructor
        · simp [Run.isAt, hsl, Ne.symm h]
        · simp [Run.isAt, hf, hsl, Ne.symm h]
      · rw [Dev.modQueue, Dev.queue_setQueue_ne _ _ _ hk]

end Sys2Proof.Machine

/-! ## Errors of a core's run (R41, R62, R379; Table 3.6)

What raising a source does to register words, and what ending a run changes: registers and events of the core's page, the stations of
the core, its requests, and the run. -/

namespace Sys2Proof.Machine

/-! ### What raising a source does to register words -/

/-- Raising a source writes ERR_STAT, and may write ERR_FIRST three times; an event bears on no register. -/
theorem Dev.raise_regs_cases (d : Dev) (p : Page) (n s : Nat) (h : d.inReset p = false) :
    ∃ v, (d.raise p n s).regs = (d.set p fERR_STAT_SRC 0 (d.get p fERR_STAT_SRC 0 ||| 2 ^ n)).regs ∨
      (d.raise p n s).regs = ((((d.set p fERR_STAT_SRC 0 (d.get p fERR_STAT_SRC 0 ||| 2 ^ n)).set p fERR_FIRST_VALID 0 1).set
        p fERR_FIRST_SRC 0 n).set p fERR_FIRST_SYND 0 v).regs := by
  refine ⟨s, ?_⟩
  unfold Dev.raise
  rw [h]
  dsimp only
  rw [if_neg (by decide)]
  split
  · exact .inl rfl
  · split
    · exact .inl rfl
    · exact .inr rfl

/-- Only the register file bears on a field. -/
theorem Dev.get_congr {d e : Dev} (h : e.regs = d.regs) (p : Page) (f : FieldDef) (i : Nat) : e.get p f i = d.get p f i := by
  unfold Dev.get Dev.word; rw [h]

/-- A field of another word than ERR_FIRST's stands when the first error is recorded. -/
theorem Dev.get_set_errFirst (d : Dev) {p q : Page} {f : FieldDef} {i : Nat} (n v : Nat)
    (h : regKey q f.off i ≠ regKey p fERR_FIRST_VALID.off 0) :
    (((d.set p fERR_FIRST_VALID 0 1).set p fERR_FIRST_SRC 0 n).set p fERR_FIRST_SYND 0 v).get q f i = d.get q f i := by
  rw [Dev.get_set_ne (f := fERR_FIRST_SYND) _ _ h, Dev.get_set_ne (f := fERR_FIRST_SRC) _ _ h,
    Dev.get_set_ne (f := fERR_FIRST_VALID) _ _ h]

/-- The words of ERR_STAT and ERR_FIRST stand apart on a page. -/
theorem regKey_errStat_ne_errFirst (p : Page) : regKey p fERR_STAT_SRC.off 0 ≠ regKey p fERR_FIRST_VALID.off 0 :=
  regKey_ne_off (by decide) (by decide) (by decide) (by decide) (by decide)

/-- A raised source's status bit is set. -/
theorem Dev.testBit_errStat_raise (d : Dev) (p : Page) (n s : Nat) (hr : d.inReset p = false) (hn : n < 16) :
    ((d.raise p n s).get p fERR_STAT_SRC 0).testBit n = true := by
  have hbit : ((d.get p fERR_STAT_SRC 0 ||| 2 ^ n) % 2 ^ 16).testBit n = true := by
    rw [Nat.testBit_mod_two_pow, Nat.testBit_or, Nat.testBit_two_pow_self]; simp [hn]
  have hset : (d.set p fERR_STAT_SRC 0 (d.get p fERR_STAT_SRC 0 ||| 2 ^ n)).get p fERR_STAT_SRC 0 =
      (d.get p fERR_STAT_SRC 0 ||| 2 ^ n) % 2 ^ 16 := Dev.get_set d p fERR_STAT_SRC 0 _ (by decide) (by decide)
  obtain ⟨v, h | h⟩ := d.raise_regs_cases p n s hr
  · rw [Dev.get_congr h, hset]; exact hbit
  · have hf := regKey_errStat_ne_errFirst p
    rw [Dev.get_congr h, Dev.get_set_errFirst _ _ _ hf, hset]
    exact hbit

/-- Fields of other words than ERR_STAT and ERR_FIRST of the page stand. -/
theorem Dev.get_raise_ne (d : Dev) {p q : Page} {f : FieldDef} {i : Nat} (n s : Nat)
    (h1 : regKey q f.off i ≠ regKey p fERR_STAT_SRC.off 0) (h2 : regKey q f.off i ≠ regKey p fERR_FIRST_VALID.off 0) :
    (d.raise p n s).get q f i = d.get q f i := by
  cases hr : d.inReset p with
  | true => unfold Dev.raise; rw [hr, if_pos rfl]
  | false =>
    obtain ⟨v, h | h⟩ := d.raise_regs_cases p n s hr
    · rw [Dev.get_congr h, Dev.get_set_ne _ _ h1]
    · rw [Dev.get_congr h, Dev.get_set_errFirst _ _ _ h2, Dev.get_set_ne _ _ h1]

@[simp] theorem Dev.core_raise (d : Dev) (p : Page) (n s : Nat) (k : CoreId) : (d.raise p n s).core k = d.core k := by
  rw [Dev.raise_eq]; rfl

@[simp] theorem Dev.runAt_raise (d : Dev) (p : Page) (n s : Nat) (c : CoreId) (sl : Nat) : (d.raise p n s).runAt c sl = d.runAt c sl :=
  Dev.runAt_congr (Dev.raise_queues d p n s) (by rw [Dev.core_raise])

/-! ### Abandoning a slot's commands -/

theorem Dev.abandon_eq (d : Dev) (c : CoreId) (sl : Nat) (k : Bool) :
    d.abandon c sl k = { d with cores := (d.abandon c sl k).cores, reqs := (d.abandon c sl k).reqs } := rfl

/-- A fold of station updates keeps the rest of the core. -/
theorem Core.foldl_setStation_eq (l : List Nat) (f : Core → Nat → Station) (k : Core) :
    l.foldl (fun x i => x.setStation i (f x i)) k =
      { k with stations := (l.foldl (fun x i => x.setStation i (f x i)) k).stations } := by
  induction l generalizing k with
  | nil => rfl
  | cons i r ih => rw [List.foldl_cons, ih]; rfl

/-- A fold of station updates that never put a station to work leaves an idle one idle. -/
theorem Core.exec_foldl_setStation (l : List Nat) (f : Core → Nat → Station) (hf : ∀ k i, (k.station i).exec = none → (f k i).exec = none)
    (k : Core) (j : Nat) (h : (k.station j).exec = none) : ((l.foldl (fun x i => x.setStation i (f x i)) k).station j).exec = none := by
  induction l generalizing k with
  | nil => exact h
  | cons i r ih =>
    refine ih _ ?_
    by_cases hj : j = i
    · subst hj; rw [Core.station_setStation_same]; exact hf k j h
    · rw [Core.station_setStation_ne _ _ hj]; exact h

/-- What abandoning does to the core: stations, and what the Inker holds of the slot. -/
theorem Dev.core_abandon_same (d : Dev) (c : CoreId) (sl : Nat) (keep : Bool) :
    (d.abandon c sl keep).core c =
      { d.core c with inker := (d.core c).inker.dropSlot sl, stations := ((d.abandon c sl keep).core c).stations } := by
  unfold Dev.abandon
  dsimp only
  rw [Dev.core_modCore_same]
  exact Core.foldl_setStation_eq _ _ _

theorem Dev.core_abandon_ne (d : Dev) {c b : CoreId} (sl : Nat) (keep : Bool) (h : b ≠ c) : (d.abandon c sl keep).core b = d.core b :=
  Dev.core_modCore_ne _ _ h

@[simp] theorem Dev.bind_abandon (d : Dev) (c b : CoreId) (sl tl : Nat) (keep : Bool) :
    ((d.abandon c sl keep).core b).bind tl = (d.core b).bind tl := by
  by_cases h : b = c
  · subst h; rw [Dev.core_abandon_same]; rfl
  · rw [Dev.core_abandon_ne _ _ _ h]

@[simp] theorem Dev.runAt_abandon (d : Dev) (c b : CoreId) (sl tl : Nat) (keep : Bool) :
    (d.abandon c sl keep).runAt b tl = d.runAt b tl := Dev.runAt_congr rfl (by rw [Dev.bind_abandon])

/-- An idle station stays idle. -/
theorem Dev.exec_abandon_none (d : Dev) (c : CoreId) (sl i : Nat) (keep : Bool) (h : ((d.core c).station i).exec = none) :
    (((d.abandon c sl keep).core c).station i).exec = none := by
  unfold Dev.abandon
  dsimp only
  rw [Dev.core_modCore_same]
  refine Core.exec_foldl_setStation _ _ (fun k j hk => ?_) _ i h
  dsimp only
  rw [hk]

/-! ### Ending a run with an error -/

/-- The device after the run's error has been reported (Table 3.6). -/
def Dev.runErrRaised (d : Dev) (c : CoreId) (sl code stn : Nat) : Dev :=
  match runErrSrc code with
  | some src => d.raise (.core c) src (runErrSynd code sl stn)
  | none => d

theorem Dev.runErrRaised_eq (d : Dev) (c : CoreId) (sl code stn : Nat) :
    d.runErrRaised c sl code stn =
      { d with regs := (d.runErrRaised c sl code stn).regs, evq := (d.runErrRaised c sl code stn).evq } := by
  unfold Dev.runErrRaised
  split
  · exact Dev.raise_eq _ _ _ _
  · rfl

@[simp] theorem Dev.core_runErrRaised (d : Dev) (c : CoreId) (sl code stn : Nat) (k : CoreId) :
    (d.runErrRaised c sl code stn).core k = d.core k := by rw [Dev.runErrRaised_eq]; rfl

@[simp] theorem Dev.runAt_runErrRaised (d : Dev) (c k : CoreId) (sl code stn tl : Nat) :
    (d.runErrRaised c sl code stn).runAt k tl = d.runAt k tl :=
  Dev.runAt_congr (by rw [Dev.runErrRaised_eq]) (by rw [Dev.core_runErrRaised])

/-- The run as an error ends it. -/
def Run.failed (code ent : Nat) (r : Run) : Run :=
  { r with stage := if r.stage = .begun then .ended else .retiring, err := code, ent := ent, toPlace := [[], [], [], [], []] }

/-- An error of a run whose end is due only gives it its first error. -/
def Run.noted (code ent : Nat) (r : Run) : Run := if r.err = 0 then { r with err := code, ent := ent } else r

/-- Everything that ending a run can do. -/
theorem Dev.endRun_cases (d : Dev) (c : CoreId) (sl code stn ent : Nat) (own : Bool) :
    d.endRun c sl code stn ent own = d ∨
    d.endRun c sl code stn ent own = (d.runErrRaised c sl code stn).modRun c sl (Run.noted code ent) ∨
    d.endRun c sl code stn ent own = ((d.runErrRaised c sl code stn).abandon c sl (!own)).modRun c sl (Run.failed code ent) := by
  unfold Dev.endRun
  split
  · exact .inl rfl
  · split
    · exact .inl rfl
    · dsimp only
      split
      · exact .inr (.inl rfl)
      · exact .inr (.inr rfl)

theorem Dev.endRun_of_live {d : Dev} {c : CoreId} {sl : Nat} {r : Run} (code stn ent : Nat) (own : Bool) (h : d.runAt c sl = some r)
    (h1 : r.stage ≠ .retiring) (h2 : r.stage ≠ .ended) : d.endRun c sl code stn ent own =
      ((d.runErrRaised c sl code stn).abandon c sl (!own)).modRun c sl (Run.failed code ent) := by
  unfold Dev.endRun
  rw [h]
  dsimp only
  rw [if_neg h1, if_neg h2]
  rfl

theorem Dev.endRun_eq (d : Dev) (c : CoreId) (sl code stn ent : Nat) (own : Bool) :
    d.endRun c sl code stn ent own =
      { d with regs := (d.endRun c sl code stn ent own).regs, evq := (d.endRun c sl code stn ent own).evq,
               cores := (d.endRun c sl code stn ent own).cores, reqs := (d.endRun c sl code stn ent own).reqs,
               queues := (d.endRun c sl code stn ent own).queues } := by
  rcases d.endRun_cases c sl code stn ent own with h | h | h
  · rw [h]
  · rw [h, Dev.modRun_eq, Dev.runErrRaised_eq]
  · rw [h, Dev.modRun_eq, Dev.abandon_eq, Dev.runErrRaised_eq]

/-- The error is reported on the core's page alone; ending the run does nothing else to registers. -/
theorem Dev.endRun_regs (d : Dev) (c : CoreId) (sl code stn ent : Nat) (own : Bool) :
    (d.endRun c sl code stn ent own).regs = d.regs ∨
    (d.endRun c sl code stn ent own).regs = (d.runErrRaised c sl code stn).regs := by
  rcases d.endRun_cases c sl code stn ent own with h | h | h
  · exact .inl (by rw [h])
  · exact .inr (by rw [h, Dev.modRun_regs])
  · exact .inr (by rw [h, Dev.modRun_regs]; rfl)

theorem Dev.get_endRun_ne (d : Dev) {c : CoreId} {q : Page} {f : FieldDef} {i : Nat} (sl code stn ent : Nat) (own : Bool)
    (h1 : regKey q f.off i ≠ regKey (.core c) fERR_STAT_SRC.off 0) (h2 : regKey q f.off i ≠ regKey (.core c) fERR_FIRST_VALID.off 0) :
    (d.endRun c sl code stn ent own).get q f i = d.get q f i := by
  rcases d.endRun_regs c sl code stn ent own with h | h
  · exact Dev.get_congr h q f i
  · rw [Dev.get_congr h]
    unfold Dev.runErrRaised
    split
    · exact Dev.get_raise_ne d _ _ h1 h2
    · rfl

@[simp] theorem Dev.bind_endRun (d : Dev) (c b : CoreId) (sl tl code stn ent : Nat) (own : Bool) :
    ((d.endRun c sl code stn ent own).core b).bind tl = (d.core b).bind tl := by
  rcases d.endRun_cases c sl code stn ent own with h | h | h <;> rw [h]
  · rw [Dev.core_modRun, Dev.core_runErrRaised]
  · rw [Dev.core_modRun, Dev.bind_abandon, Dev.core_runErrRaised]

theorem Dev.exec_endRun_none (d : Dev) (c : CoreId) (sl code stn ent i : Nat) (own : Bool) (hi : ((d.core c).station i).exec = none) :
    (((d.endRun c sl code stn ent own).core c).station i).exec = none := by
  rcases d.endRun_cases c sl code stn ent own with h | h | h <;> rw [h]
  · exact hi
  · rw [Dev.core_modRun, Dev.core_runErrRaised]; exact hi
  · rw [Dev.core_modRun]; exact Dev.exec_abandon_none _ c sl i _ (by rw [Dev.core_runErrRaised]; exact hi)

/-- The run of another slot stands. -/
theorem Dev.runAt_endRun_ne (d : Dev) {c : CoreId} {sl tl : Nat} (code stn ent : Nat) (own : Bool) (ht : tl ≠ sl) :
    (d.endRun c sl code stn ent own).runAt c tl = d.runAt c tl := by
  rcases d.endRun_cases c sl code stn ent own with h | h | h <;> rw [h]
  · rw [Dev.runAt_modRun_ne _ ht (fun r => by unfold Run.noted; split <;> rfl), Dev.runAt_runErrRaised]
  · rw [Dev.runAt_modRun_ne _ (f := Run.failed code ent) ht (fun _ => rfl), Dev.runAt_abandon, Dev.runAt_runErrRaised]

/-- A run that is not over yet ends with the error. -/
theorem Dev.runAt_endRun_same {d : Dev} {c : CoreId} {sl : Nat} {r : Run} (code stn ent : Nat) (own : Bool) (h : d.runAt c sl = some r)
    (h1 : r.stage ≠ .retiring) (h2 : r.stage ≠ .ended) :
    (d.endRun c sl code stn ent own).runAt c sl = some (r.failed code ent) := by
  rw [Dev.endRun_of_live code stn ent own h h1 h2]
  obtain ⟨hc, hs, -⟩ := Dev.isAt_of_runAt h
  refine Dev.runAt_modRun (by rw [Dev.runAt_abandon, Dev.runAt_runErrRaised]; exact h) (Run.isAt_iff.mpr ⟨hc, hs, ?_⟩)
  show (if r.stage = .begun then Stage.ended else .retiring) ≠ .fetching
  split <;> decide

/-- Its source shows in the status of the core's page. -/
theorem Dev.testBit_errStat_endRun {d : Dev} {c : CoreId} {sl code src : Nat} {r : Run} (stn ent : Nat) (own : Bool)
    (h : d.runAt c sl = some r) (h1 : r.stage ≠ .retiring) (h2 : r.stage ≠ .ended) (hc : runErrSrc code = some src) (hn : src < 16)
    (hr : d.inReset (.core c) = false) :
    ((d.endRun c sl code stn ent own).get (.core c) fERR_STAT_SRC 0).testBit src = true := by
  rw [Dev.endRun_of_live code stn ent own h h1 h2, Dev.get_congr (Dev.modRun_regs _ _ _ _)]
  show ((d.runErrRaised c sl code stn).get (.core c) fERR_STAT_SRC 0).testBit src = true
  unfold Dev.runErrRaised
  rw [hc]
  exact Dev.testBit_errStat_raise d _ src _ hr hn

end Sys2Proof.Machine

/-! ## Head waits that a test finds satisfied (R51, R77) -/

namespace Sys2Proof.Machine

/-- What a test of the head waits makes of a run: one that waits, and whose wait it finds satisfied, is ready at some place of the order
of R51; any other stands. -/
def Run.Latched (ok : Run → Bool) (r y : Run) : Prop :=
  (r.stage = .waiting ∧ ok r = true ∧ ∃ n, y = { r with stage := .ready, readySeq := n }) ∨ (¬(r.stage = .waiting ∧ ok r = true) ∧ y = r)

/-- A run that waited is ready exactly where the test holds, and waits on elsewhere. -/
theorem Run.Latched.stage {ok : Run → Bool} {r y : Run} (h : r.Latched ok y) (hw : r.stage = .waiting) :
    y.stage = if ok r = true then .ready else .waiting := by
  rcases h with ⟨-, hok, n, rfl⟩ | ⟨hn, rfl⟩
  · rw [if_pos hok]
  · rw [if_neg (fun hok => hn ⟨hw, hok⟩), hw]

/-- Only the stage and the place in the order change. -/
theorem Run.Latched.eq {ok : Run → Bool} {r y : Run} (h : r.Latched ok y) : y = { r with stage := y.stage, readySeq := y.readySeq } := by
  rcases h with ⟨-, -, n, rfl⟩ | ⟨-, rfl⟩ <;> rfl

theorem latchRuns_cons (ok : Run → Bool) (r : Run) (l : List Run) (n : Nat) :
    ∃ y m, (latchRuns ok (r :: l) n).1 = y :: (latchRuns ok l m).1 ∧ r.Latched ok y := by
  by_cases h : r.stage = .waiting ∧ ok r = true
  · exact ⟨{ r with stage := .ready, readySeq := n + 1 }, n + 1, by rw [latchRuns, if_pos h], .inl ⟨h.1, h.2, _, rfl⟩⟩
  · exact ⟨r, n, by rw [latchRuns, if_neg h], .inr ⟨h, rfl⟩⟩

theorem exists_mem_latchRuns (ok : Run → Bool) {l : List Run} {r : Run} (n : Nat) (h : r ∈ l) :
    ∃ y ∈ (latchRuns ok l n).1, r.Latched ok y := by
  induction l generalizing n with
  | nil => cases h
  | cons x l ih =>
    obtain ⟨y, m, he, hy⟩ := latchRuns_cons ok x l n
    rw [he]
    rcases List.mem_cons.mp h with rfl | h
    · exact ⟨y, List.mem_cons_self, hy⟩
    · obtain ⟨z, hz, hl⟩ := ih m h
      exact ⟨z, List.mem_cons_of_mem _ hz, hl⟩

/-- Where a run of a slot is found does not depend on the test. -/
theorem Run.Latched.isAt {ok : Run → Bool} {r y : Run} (h : r.Latched ok y) (c : CoreId) (sl : Nat) : y.isAt c sl = r.isAt c sl := by
  rcases h with ⟨hs, -, n, rfl⟩ | ⟨-, rfl⟩
  · have hw : (Stage.ready != .fetching) = (Stage.waiting != .fetching) := by decide
    simp only [Run.isAt, hs, hw]
  · rfl

theorem find?_latchRuns (ok : Run → Bool) {c : CoreId} {sl : Nat} {l : List Run} {r : Run} (n : Nat)
    (h : l.find? (Run.isAt c sl) = some r) : ∃ y, (latchRuns ok l n).1.find? (Run.isAt c sl) = some y ∧ r.Latched ok y := by
  induction l generalizing n with
  | nil => cases h
  | cons x l ih =>
    obtain ⟨y, m, he, hy⟩ := latchRuns_cons ok x l n
    have hxy := hy.isAt c sl
    rw [he]
    cases hx : x.isAt c sl with
    | true =>
      rw [List.find?_cons_of_pos hx] at h
      cases h
      exact ⟨y, List.find?_cons_of_pos (hxy.trans hx), hy⟩
    | false =>
      rw [List.find?_cons_of_neg (by simp [hx])] at h
      obtain ⟨z, hz, hl⟩ := ih m h
      exact ⟨z, by rw [List.find?_cons_of_neg (by simp [hxy, hx])]; exact hz, hl⟩

theorem get_latchQueues (ok : Run → Bool) (m : NMap Queue) (k n : Nat) :
    ∃ i, NMap.get (latchQueues ok m n).1 k Queue.init =
      { NMap.get m k Queue.init with runs := (latchRuns ok (NMap.get m k Queue.init).runs i).1 } := by
  induction m generalizing n with
  | nil => exact ⟨0, rfl⟩
  | cons e m ih =>
    obtain ⟨j, q⟩ := e
    rw [NMap.get_cons]
    unfold latchQueues
    dsimp only
    rw [NMap.get_cons]
    by_cases hj : j = k
    · rw [if_pos hj, if_pos hj]; exact ⟨n, rfl⟩
    · rw [if_neg hj, if_neg hj]; exact ih _

/-! ### Testing the heads of a device -/

theorem Dev.testHeads_eq (d : Dev) (ok : Run → Bool) :
    d.testHeads ok = { d with queues := (d.testHeads ok).queues, useCtr := (d.testHeads ok).useCtr } := rfl

theorem Dev.testTokens_eq (d : Dev) (c : CoreId) (sl : Nat) :
    d.testTokens c sl = { d with queues := (d.testTokens c sl).queues, useCtr := (d.testTokens c sl).useCtr } := rfl

theorem Dev.queue_testHeads (d : Dev) (ok : Run → Bool) (k : Nat) :
    ∃ i, (d.testHeads ok).queue k =
      { d.queue k with runs := (latchRuns (fun r => d.inTime r && ok r) (d.queue k).runs i).1 } :=
  get_latchQueues _ _ _ _

theorem Dev.exists_mem_queue_testHeads {d : Dev} (ok : Run → Bool) {k : Nat} {r : Run} (h : r ∈ (d.queue k).runs) :
    ∃ y ∈ ((d.testHeads ok).queue k).runs, r.Latched (fun r => d.inTime r && ok r) y := by
  obtain ⟨i, hi⟩ := d.queue_testHeads ok k
  rw [hi]
  exact exists_mem_latchRuns _ i h

theorem Dev.runAt_testHeads {d : Dev} {c : CoreId} {sl : Nat} {r : Run} (ok : Run → Bool) (h : d.runAt c sl = some r) :
    ∃ y, (d.testHeads ok).runAt c sl = some y ∧ r.Latched (fun r => d.inTime r && ok r) y := by
  obtain ⟨b, hb, hr⟩ := Dev.exists_bind_of_runAt h
  obtain ⟨i, hi⟩ := d.queue_testHeads ok (bindKey c b)
  rw [Dev.runAt_of_bind (show ((d.testHeads ok).core c).bind sl = some b from hb), hi]
  exact find?_latchRuns _ i hr

/-- The limit of a head wait of a core's run counts from its begin (R77). -/
theorem Dev.inTime_of_core {d : Dev} {r : Run} {c : CoreId} (h : r.core = some c) :
    d.inTime r = decide (d.now (pressClk c.die.val) ≤ r.waitStart + waitLimit r.img) := by
  unfold Dev.inTime; rw [h]

end Sys2Proof.Machine

/-! ## A station takes a command (R48 to R50, R73, R189)

`Dev.issueCmd` chooses the slot, takes the command and its tokens, starts the station and examines the Stone; what it leaves is
`Safety.hasIssued`, and every station's commands follow from that one lemma. -/

namespace Sys2Proof.Machine

/-- A change of a core that keeps its bindings changes no slot's run. -/
theorem Dev.runAt_modCore (d : Dev) (c k : CoreId) (sl : Nat) (f : Core → Core) (hf : (f (d.core c)).binds = (d.core c).binds) :
    (d.modCore c f).runAt k sl = d.runAt k sl := by
  refine Dev.runAt_congr rfl ?_
  by_cases h : k = c
  · subst h; rw [Dev.core_modCore_same]; unfold Core.bind; rw [hf]
  · rw [Dev.core_modCore_ne _ _ h]

/-! ### Taking tokens -/

/-- The waits of a command take their tokens. -/
def Core.takeToks (r : Run) (ws : List (Nat × Nat)) (k : Core) : Core :=
  ws.foldl (fun k w => k.setTok (r.tokMap.getD w.1 0) (k.tok (r.tokMap.getD w.1 0) - w.2)) k

theorem Core.takeToks_eq (r : Run) (ws : List (Nat × Nat)) (k : Core) : k.takeToks r ws = { k with toks := (k.takeToks r ws).toks } := by
  unfold Core.takeToks
  induction ws generalizing k with
  | nil => rfl
  | cons w ws ih => rw [List.foldl_cons, ih]; rfl

/-- What is left of the tokens depends on the tokens alone. -/
theorem Core.toks_takeToks_congr (r : Run) (ws : List (Nat × Nat)) {j k : Core} (h : j.toks = k.toks) :
    (j.takeToks r ws).toks = (k.takeToks r ws).toks := by
  unfold Core.takeToks
  induction ws generalizing j k with
  | nil => exact h
  | cons w ws ih =>
    rw [List.foldl_cons, List.foldl_cons]
    refine ih ?_
    unfold Core.setTok Core.tok
    rw [h]

@[simp] theorem Core.station_takeToks (r : Run) (ws : List (Nat × Nat)) (k : Core) (i : Nat) :
    (k.takeToks r ws).station i = k.station i := by
  rw [Core.takeToks_eq]; rfl

@[simp] theorem Core.binds_takeToks (r : Run) (ws : List (Nat × Nat)) (k : Core) : (k.takeToks r ws).binds = k.binds := by
  rw [Core.takeToks_eq]

/-! ### The device after the station has taken the command -/

/-- The command chosen, its tokens taken, the station started. -/
def Dev.issued (d : Dev) (c : CoreId) (stn sl n : Nat) (r : Run) (cycles : Nat) (sending : Bool) : Dev :=
  ((d.chosen c stn sl).takeCmd c stn sl n r).startCmd c stn sl n cycles sending

theorem Dev.core_chosen (d : Dev) (c : CoreId) (stn sl : Nat) : (d.chosen c stn sl).core c = (d.core c).setStation stn
    { (d.core c).station stn with
      last := ((d.core c).station stn).last.set (d.effLevel c stn sl) sl, age := ((d.core c).station stn).age.set sl 0,
      promo := ((d.core c).station stn).promo.set sl false } := Dev.core_modCore_same _ _ _

theorem Dev.core_takeCmd (d : Dev) (c : CoreId) (stn sl n : Nat) (r : Run) : (d.takeCmd c stn sl n r).core c =
    ((d.core c).setStation stn { (d.core c).station stn with
      queue := dropFirst (fun e => decide (e = (sl, n))) ((d.core c).station stn).queue }).takeToks r (eWaits (entry r.img n)) := by
  unfold Dev.takeCmd
  rw [Dev.core_modRun, Dev.core_modCore_same]
  rfl

theorem Dev.core_startCmd (d : Dev) (c : CoreId) (stn sl n cycles : Nat) (sending : Bool) :
    (d.startCmd c stn sl n cycles sending).core c = (d.core c).setStation stn
      { (d.core c).station stn with exec := some ⟨sl, n, d.now (pressClk c.die.val) + cycles, sending⟩ } := Dev.core_modCore_same _ _ _

theorem Dev.takeCmd_eq (d : Dev) (c : CoreId) (stn sl n : Nat) (r : Run) :
    d.takeCmd c stn sl n r = { d with cores := (d.takeCmd c stn sl n r).cores, queues := (d.takeCmd c stn sl n r).queues } := by
  unfold Dev.takeCmd; rw [Dev.modRun_eq]; rfl

theorem Dev.core_takeCmd_ne (d : Dev) {c k : CoreId} (stn sl n : Nat) (r : Run) (h : k ≠ c) :
    (d.takeCmd c stn sl n r).core k = d.core k := by
  unfold Dev.takeCmd; rw [Dev.core_modRun, Dev.core_modCore_ne _ _ h]

/-- The run of a command that is taken has issued. -/
theorem Dev.runAt_takeCmd {d : Dev} {c : CoreId} {sl : Nat} {r : Run} (stn n : Nat) (h : d.runAt c sl = some r) :
    (d.takeCmd c stn sl n r).runAt c sl = some { r with issued := true, outbound := r.outbound || stn == stDlv } := by
  unfold Dev.takeCmd
  obtain ⟨hc, hs, hst⟩ := Dev.isAt_of_runAt h
  refine Dev.runAt_modRun (f := fun r => { r with issued := true, outbound := r.outbound || stn == stDlv }) ?_ (Run.isAt_iff.mpr ⟨hc, hs, hst⟩)
  refine (Dev.runAt_modCore d c c sl _ ?_).trans h
  exact Core.binds_takeToks r (eWaits (entry r.img n)) _

theorem Dev.issued_eq (d : Dev) (c : CoreId) (stn sl n : Nat) (r : Run) (cycles : Nat) (sending : Bool) :
    d.issued c stn sl n r cycles sending =
      { d with cores := (d.issued c stn sl n r cycles sending).cores, queues := (d.issued c stn sl n r cycles sending).queues } := by
  unfold Dev.issued Dev.startCmd; rw [Dev.takeCmd_eq]; rfl

theorem Dev.now_takeCmd (d : Dev) (c : CoreId) (stn sl n : Nat) (r : Run) (k : Nat) : (d.takeCmd c stn sl n r).now k = d.now k := by
  rw [Dev.takeCmd_eq]; rfl

/-- The device after the station has taken the command is as the claims say. -/
theorem Dev.hasIssued_issued {d : Dev} {c : CoreId} {sl : Nat} {r : Run} (stn n cycles : Nat) (sending : Bool)
    (h : d.runAt c sl = some r) : Safety.hasIssued d (d.issued c stn sl n r cycles sending) c stn sl n r cycles sending := by
  have hcore : (d.issued c stn sl n r cycles sending).core c = _ := Dev.core_startCmd _ c stn sl n cycles sending
  rw [Dev.core_takeCmd, Dev.core_chosen, Dev.now_takeCmd] at hcore
  have hnow : (d.chosen c stn sl).now (pressClk c.die.val) = d.now (pressClk c.die.val) := rfl
  refine ⟨d.issued_eq c stn sl n r cycles sending, fun k hk => ?_, ?_, fun i hi => ?_, ?_, ?_, ?_⟩
  · unfold Dev.issued Dev.startCmd Dev.chosen
    rw [Dev.core_modCore_ne _ _ hk, Dev.core_takeCmd_ne _ _ _ _ _ hk, Dev.core_modCore_ne _ _ hk]
  · rw [hcore, Core.takeToks_eq]; rfl
  · rw [hcore, Core.station_setStation_ne _ _ hi, Core.station_takeToks, Core.station_setStation_ne _ _ hi,
      Core.station_setStation_ne _ _ hi]
  · rintro st rfl
    rw [hcore, Core.station_setStation_same, Core.station_takeToks, Core.station_setStation_same, Core.station_setStation_same, hnow]
  · rw [hcore]
    exact Core.toks_takeToks_congr r _ rfl
  · unfold Dev.issued Dev.startCmd
    rw [Dev.runAt_modCore _ _ _ _ _ rfl]
    refine Dev.runAt_takeCmd stn n ?_
    unfold Dev.chosen
    rw [Dev.runAt_modCore _ _ _ _ _ rfl]
    exact h

/-- A station that may issue a command takes it, examines the Stone, and unless that ended the run performs the command's own effect. -/
theorem Dev.issueCmd_of_mayIssue {d : Dev} {c : CoreId} {stn op sl n : Nat} {r : Run} (ecc : StoneEcc) {ok : Dev → Bool}
    (cycles : Run → Img → Nat) (sending : Img → Bool) (go : Dev → Run → Nat → Img → Dev)
    (h : Safety.mayIssue d c stn op sl n r) (hok : ok d = true) :
    ∃ e f : Dev, Safety.hasIssued d e c stn sl n r (cycles r (entry r.img n)) (sending (entry r.img n)) ∧
      f = e.stoneEcc c ecc stn sl n ∧
      d.issueCmd c stn op sl ecc ok cycles sending go = if f.running c sl = true then go f r n (entry r.img n) else f := by
  obtain ⟨hidle, hpick, hnext, hrun, -, hop, hreset, hsig, hlow⟩ := h
  refine ⟨_, _, Dev.hasIssued_issued stn n _ _ hrun, rfl, ?_⟩
  unfold Dev.issueCmd
  rw [if_neg (by simp [hidle, hpick]), hnext, hrun]
  dsimp only
  rw [if_neg (by simp [hop, hok, hreset, hsig, hlow])]
  rfl

end Sys2Proof.Machine

namespace Sys2Proof

open Sys2Proof.Machine

/-- A run that has begun is in progress after its command was taken. -/
theorem Safety.hasIssued.running {d e : Dev} {c : CoreId} {stn sl n cycles : Nat} {r : Run} {sending : Bool}
    (h : Safety.hasIssued d e c stn sl n r cycles sending) (hr : r.stage = .begun) : e.running c sl = true := by
  obtain ⟨-, -, -, -, -, -, hrun⟩ := h
  unfold Dev.running
  rw [hrun]
  exact beq_iff_eq.mpr hr

/-- Taking a command leaves the partition of its slot. -/
theorem Safety.hasIssued.slotPart {d e : Dev} {c : CoreId} {stn sl n cycles : Nat} {r : Run} {sending : Bool}
    (h : Safety.hasIssued d e c stn sl n r cycles sending) : e.slotPart c sl = d.slotPart c sl := by
  obtain ⟨he, -, hcore, -⟩ := h
  unfold Dev.slotPart
  rw [hcore, he]
  rfl

theorem Safety.memoryKept_of_mem_eq {d e : Dev} (h : e.mem = d.mem) : Safety.memoryKept d e := fun _ => by rw [h]

end Sys2Proof

/-! ## Feeder, Platen and Folder commands (R65 to R67, R112 to R116, R190) -/

namespace Sys2Proof.Machine

/-- A command whose meaning is the issue of a station's command, where the station may issue it: what the device is then, and that no
memory of the stacks changes. -/
theorem onDev_issueCmd {s : State} {c : CoreId} {stn op sl n : Nat} {r : Run} (ecc : StoneEcc) {ok : Dev → Bool}
    (cycles : Run → Img → Nat) (sending : Img → Bool) {go : Dev → Run → Nat → Img → Dev}
    (hgo : ∀ d r n e, (go d r n e).mem = d.mem) (h : Safety.mayIssue s.dev c stn op sl n r) (hok : ok s.dev = true) :
    ∃ d e f : Dev, onDev (fun d => d.issueCmd c stn op sl ecc ok cycles sending go) s = .next { s with dev := d } ∧
      Safety.memoryKept s.dev d ∧
      Safety.hasIssued s.dev e c stn sl n r (cycles r (entry r.img n)) (sending (entry r.img n)) ∧
      f = e.stoneEcc c ecc stn sl n ∧ d = if f.running c sl = true then go f r n (entry r.img n) else f := by
  obtain ⟨e, f, he, hf, hd⟩ := Dev.issueCmd_of_mayIssue ecc cycles sending go h hok
  exact ⟨_, e, f, rfl, Safety.memoryKept_of_mem_eq (Dev.issueCmd_mem _ _ _ _ _ _ _ _ _ _ hgo), he, hf, hd⟩

/-! ### Writing zeros to the Stone (R52, R65) -/

/-- Writing one byte of the Stone changes that byte alone: the other bytes of a line whose written bit was clear read 0 as before. -/
theorem Core.stoneByte_putByte (k : Core) (a x : Nat) (v : Byte) :
    Core.stoneByte { k.touch (a / 128) with stone := NMap.put (k.touch (a / 128)).stone a v 0 } x =
      if x = a then v else k.stoneByte x := by
  have hline : Set.has (k.touch (a / 128)).written (x / 128) = (decide (x / 128 = a / 128) || Set.has k.written (x / 128)) := by
    unfold Core.touch
    split
    · next h =>
      by_cases hx : x / 128 = a / 128
      · rw [hx, h]; simp
      · simp [hx]
    · rw [Bool.eq_iff_iff, Set.has_iff, Set.mem_add, Bool.or_eq_true, Set.has_iff, decide_eq_true_eq]
  have hbyte : x / 128 = a / 128 → NMap.get (k.touch (a / 128)).stone x 0 = k.stoneByte x := by
    intro hx
    unfold Core.touch Core.stoneByte
    rw [hx]
    split
    · rfl
    · rw [NMap.get_dropIf, if_pos (by rw [hx]; exact beq_self_eq_true _)]
  have hother : x / 128 ≠ a / 128 → NMap.get (k.touch (a / 128)).stone x 0 = NMap.get k.stone x 0 := by
    intro hx
    unfold Core.touch
    split
    · rfl
    · rw [NMap.get_dropIf, if_neg (by simpa using hx)]
  unfold Core.stoneByte
  rw [hline]
  by_cases hxa : x = a
  · subst hxa; simp
  · rw [NMap.get_put_ne _ _ _ hxa, if_neg hxa]
    by_cases hx : x / 128 = a / 128
    · rw [hbyte hx]; simp [hx, Core.stoneByte]
    · rw [hother hx]; simp [hx]

/-- Writing zeros clears the bytes written, and no other. -/
theorem Core.stoneByte_stoneWrite_zero (k : Core) (a n x : Nat) :
    (k.stoneWrite a n 0).stoneByte x = if a ≤ x ∧ x < a + n then 0 else k.stoneByte x := by
  induction n generalizing k a with
  | zero => rw [if_neg (by omega)]; rfl
  | succ n ih =>
    rw [Core.stoneWrite, ih, Core.stoneByte_putByte]
    by_cases hx : x = a
    · subst hx; rw [if_neg (by omega), if_pos rfl, if_pos (by omega)]; rfl
    · rw [if_neg hx]
      by_cases hr : a ≤ x ∧ x < a + (n + 1)
      · rw [if_pos hr, if_pos (by omega)]
      · rw [if_neg hr, if_neg (by omega)]

/-! ### The Feeder -/

section
variable {c : CoreId} {s : State}

/-- A line that returns is written at its places, or ends the run. -/
theorem execFeederLineReturn_of_ready {rq sl n : Nat} {q : Req} {offs : List (Nat × Nat × Nat)} (hq : s.dev.req rq = some q)
    (hcli : q.cli = .feeder c sl n offs) (hready : q.ready = true) :
    ∃ d e : Dev, execFeederLineReturn c rq s = .next { s with dev := d } ∧ Safety.memoryKept s.dev d ∧
      e = { s.dev with reqs := dropFirst (fun y => y.id == rq) s.dev.reqs } ∧
      (q.resErr = true → d = e.endRun c sl 0x26 stFdr n false) ∧
      (q.resErr = false → q.resPsn = true → d = e.endRun c sl 0x22 stFdr n false) ∧
      (q.resErr = false → q.resPsn = false → d = { e with cores := d.cores } ∧ (∀ k, k ≠ c → d.core k = s.dev.core k) ∧
        d.core c = offs.foldl (fun k o => k.stoneWrite o.2.1 o.2.2 (q.res >>> (8 * o.1))) (s.dev.core c)) := by
  unfold execFeederLineReturn
  rw [onDev_eq]
  dsimp only
  rw [hq]
  dsimp only
  rw [hcli]
  dsimp only
  rw [if_neg (by simp [hready])]
  refine ⟨_, s.dev.dropReq rq, rfl, Safety.memoryKept_of_mem_eq ?_, rfl, fun he => ?_, fun he hp => ?_, fun he hp => ?_⟩
  · rw [Dev.mem_ite, Dev.mem_ite, Dev.endRun_mem, Dev.endRun_mem, Dev.modCore_mem, Dev.dropReq_mem, ite_self, ite_self]
  · rw [he, if_pos rfl]
  · rw [he, hp, if_neg (by decide), if_pos rfl]
  · rw [he, hp, if_neg (by decide), if_neg (by decide)]
    exact ⟨rfl, fun k hk => Dev.core_modCore_ne _ _ hk, Dev.core_modCore_same _ _ _⟩

end

/-- The tile's data region as a ZERO leaves it. -/
def Dev.zeroTile (c : CoreId) (d : Dev) (r : Run) (_ : Nat) (e : Img) : Dev :=
  d.modCore c (fun k => k.stoneWrite (r.dataAt (tileAt r.img (eByte e 8))) (tileAt r.img (eByte e 8)).dataBytes 0)

/-- The line requests of a PREFETCH, sent. -/
def Dev.prefetchLines (c : CoreId) (sl : Nat) (arr : ArrayEcc) (d : Dev) (_ : Run) (n : Nat) (e : Img) : Dev :=
  d.issueSeen arr ((List.range (eStride e / 128)).map (fun i =>
    { Req.blank with cli := .prefetch c sl n, op := .rd, addr := (eAddr e + 128 * i) % 2 ^ 48, mask := 2 ^ 128 - 1,
                     part := d.slotPart c sl, quad := c.die.val / 2, tc := 3 }))

/-- A zeroed region reads 0, and the Stone beside it as before. -/
theorem Dev.stoneByte_zeroTile (c : CoreId) (d : Dev) (r : Run) (n : Nat) (e : Img) (a : Nat) :
    ((d.zeroTile c r n e).core c).stoneByte a =
      if r.dataAt (tileAt r.img (eByte e 8)) ≤ a ∧
          a < r.dataAt (tileAt r.img (eByte e 8)) + (tileAt r.img (eByte e 8)).dataBytes then 0
      else (d.core c).stoneByte a := by
  unfold Dev.zeroTile
  rw [Dev.core_modCore_same, Core.stoneByte_stoneWrite_zero]

/-- Settles O19: every Feeder command is an issue of its station, ZERO writes zeros alone, and a returned line goes to the Stone or
ends the run. -/
theorem feederCommandsIssue : Obligations.FeederCommandsIssue := by
  unfold Obligations.FeederCommandsIssue
  intro c sl ecc s n r x hx
  subst hx
  refine ⟨fun h => ?load, fun h => ?loadaux, fun h => ?zero, fun h arr => ?prefetch, fun rq q sl' offs hq hcli hready => ?line⟩
  case load => exact onDev_issueCmd ecc _ _ (fun _ _ _ _ => Dev.feed_mem _ _ _ _ _ _ _) h rfl
  case loadaux => exact onDev_issueCmd ecc _ _ (fun _ _ _ _ => Dev.feed_mem _ _ _ _ _ _ _) h rfl
  case zero =>
    obtain ⟨d, e, f, hex, hmem, he, hf, hd⟩ := onDev_issueCmd ecc (fun r e => bytesCycles (tileAt r.img (eByte e 8)).dataBytes)
      sendNow (go := Dev.zeroTile c) (fun _ _ _ _ => Dev.modCore_mem _ _ _) h (ok := anyTime) rfl
    refine ⟨d, e, f, hex, hmem, he, hf, fun hr => by rw [hd, hr]; rfl, fun hr => ?_⟩
    rw [hr, if_pos rfl] at hd
    refine ⟨by rw [hd]; rfl, fun k hk => ?_, fun a ha => ?_⟩
    · rw [hd, Dev.stoneByte_zeroTile, if_pos (by omega)]
    · rw [hd, Dev.stoneByte_zeroTile, if_neg]
      rintro ⟨hl, hu⟩
      exact ha (a - r.dataAt (tileAt r.img (eByte (entry r.img n) 8))) (by omega) (by omega)
  case prefetch =>
    obtain ⟨d, e, f, hex, hmem, he, hf, hd⟩ := onDev_issueCmd .clean (fun _ e => eStride e / 128) sendNow
      (go := Dev.prefetchLines c sl.val arr) (fun _ _ _ _ => Dev.issueSeen_mem _ _ _) h (ok := anyTime) rfl
    obtain ⟨-, -, -, -, hbegun, -⟩ := h
    have hfe : f = e := hf
    rw [hfe, he.running hbegun, if_pos rfl, Dev.prefetchLines, he.slotPart] at hd
    exact ⟨d, e, hex, hmem, he, hd⟩
  case line => exact execFeederLineReturn_of_ready hq hcli hready

/-! ### The Platen and the Folder -/

/-- The press cycles of an MMA. -/
def mmaTime (r : Run) (e : Img) : Nat := mmaCycles (tileAt r.img (eByte e 8)) (tileAt r.img (eByte e 9))

/-- The core as an MMA leaves it, and the flags it gathers. -/
def Dev.mmaDone (c : CoreId) (sl : Nat) (d : Dev) (r : Run) (_ : Nat) (e : Img) : Dev :=
  (d.setCore c { (mmaCore (d.core c) r e).1 with lastMma := some (d.now (pressClk c.die.val) + mmaTime r e), onset := false }).addFlags
    c sl (mmaCore (d.core c) r e).2 (tileAt r.img (eByte e 0xA)).buf

/-- A Platen without onset asks for it, and issues nothing (R190). -/
theorem execMma_of_no_onset {c : CoreId} {sl : Slot} {s : State} (ecc : StoneEcc) {op n : Nat} {r : Run}
    (h : Safety.mayIssue s.dev c stPlt op sl.val n r) (ho : s.dev.onsetOk c = false) :
    execMma c sl ecc s = .next { s with dev := s.dev.modCore c (fun k => { k with onsetReq := true }) } := by
  obtain ⟨hidle, hpick, -⟩ := h
  unfold execMma
  rw [onDev_eq, if_pos (by simp [hidle, hpick, ho])]

/-- With onset the Platen issues. -/
theorem execMma_of_onset {c : CoreId} {s : State} (sl : Slot) (ecc : StoneEcc) (ho : s.dev.onsetOk c = true) :
    execMma c sl ecc s = onDev (fun d => d.issueCmd c stPlt 1 sl.val ecc (fun d => d.onsetOk c) mmaTime sendNow
      (Dev.mmaDone c sl.val)) s := by
  unfold execMma
  rw [onDev_eq, if_neg (by simp [ho])]
  rfl

/-- A Folder command of any operation. -/
theorem onDev_fold {s : State} {c : CoreId} {op sl n : Nat} {r : Run} (ecc : StoneEcc) (h : Safety.mayIssue s.dev c stFld op sl n r) :
    ∃ d e f : Dev, onDev (fun d => d.fold c op sl ecc) s = .next { s with dev := d } ∧ Safety.memoryKept s.dev d ∧
      Safety.hasIssued s.dev e c stFld sl n r (foldCycles (tileAt r.img (eByte (entry r.img n) 8))) true ∧
      f = e.stoneEcc c ecc stFld sl n ∧
      d = if f.running c sl = true then
          (f.setCore c (foldCore (f.core c) r (entry r.img n)).1).addFlags c sl (foldCore (f.core c) r (entry r.img n)).2
            (tileAt r.img (eByte (entry r.img n) 9)).buf
        else f :=
  onDev_issueCmd ecc _ _ (fun _ _ _ _ => (Dev.addFlags_mem _ _ _ _ _).trans (Dev.setCore_mem _ _ _)) h rfl

/-- Settles O20: an MMA without onset only asks for it; with it, and for every Folder command, the station issues and the core takes
what the arithmetic gives, written at issue (log entry 116). -/
theorem platenAndFolderCommandsIssue : Obligations.PlatenAndFolderCommandsIssue := by
  unfold Obligations.PlatenAndFolderCommandsIssue
  intro c sl ecc s n r x hx
  subst hx
  refine ⟨fun h => ⟨fun ho => ?_, fun ho => ?_⟩, fun op i hi h => ?_⟩
  · exact ⟨_, execMma_of_no_onset ecc h ho, rfl, Dev.core_modCore_same _ _ _, fun k hk => Dev.core_modCore_ne _ _ hk⟩
  · obtain ⟨d, e, f, hex, hmem, he, hf, hd⟩ := onDev_issueCmd ecc mmaTime sendNow (go := Dev.mmaDone c sl.val)
      (fun _ _ _ _ => (Dev.addFlags_mem _ _ _ _ _).trans (Dev.setCore_mem _ _ _)) h (ok := fun d => d.onsetOk c) ho
    exact ⟨d, e, f, _, (execMma_of_onset sl ecc ho).trans hex, hmem, rfl, he, hf, hd⟩
  · simp only [List.mem_cons, Prod.mk.injEq, List.not_mem_nil, or_false] at hi
    obtain ⟨rfl, rfl⟩ | ⟨rfl, rfl⟩ | ⟨rfl, rfl⟩ | ⟨rfl, rfl⟩ | ⟨rfl, rfl⟩ | ⟨rfl, rfl⟩ := hi <;> exact onDev_fold ecc h

end Sys2Proof.Machine

/-! ## Delivery commands, signals, completion, ageing, watchdogs and onset (R66, R70 to R73, R81, R157, R189, R190) -/

namespace Sys2Proof.Machine

/-! ### The Delivery -/

/-- A Delivery command of any operation: it holds its writes back, or sends them. -/
theorem onDev_deliverCmd {s : State} {c : CoreId} {op sl n : Nat} {r : Run} (ecc : StoneEcc) (h : Safety.mayIssue s.dev c stDlv op sl n r) :
    ∃ d e f : Dev, onDev (fun d => d.deliverCmd c op sl ecc) s = .next { s with dev := d } ∧ Safety.memoryKept s.dev d ∧
      Safety.hasIssued s.dev e c stDlv sl n r
        (if op = 1 then bytesCycles (tileAt r.img (eByte (entry r.img n) 8)).dataBytes else 1) (!eHolds (entry r.img n)) ∧
      f = e.stoneEcc c ecc stDlv sl n ∧
      d = if f.running c sl && !eHolds (entry r.img n) then f.sendDlv c sl n r (entry r.img n) ecc.arr else f := by
  obtain ⟨d, e, f, hex, hmem, he, hf, hd⟩ := onDev_issueCmd ecc
    (fun r e => if op = 1 then bytesCycles (tileAt r.img (eByte e 8)).dataBytes else 1) (fun e => !eHolds e)
    (go := fun d r n e => if eHolds e then d else d.sendDlv c sl n r e ecc.arr)
    (fun _ _ _ _ => Dev.mem_if rfl (Dev.sendDlv_mem _ _ _ _ _ _ _)) h (ok := anyTime) rfl
  refine ⟨d, e, f, hex, hmem, he, hf, hd.trans ?_⟩
  cases f.running c sl <;> cases eHolds (entry r.img n) <;> rfl

/-! ### Signals (R72) -/

/-- A head token after an addition: it saturates at 255. -/
theorem Dev.headTok_addHead {d : Dev} {c : CoreId} {sl i : Nat} {b : Bind} (n : Nat) (hb : (d.core c).bind sl = some b)
    (hi : i < b.htok.length) : (d.addHead c sl i n).1.headTok c sl i = min (d.headTok c sl i + n) 255 := by
  unfold Dev.headTok Dev.addHead
  rw [hb]
  dsimp only
  rw [Dev.core_modCore_same, Core.bind_setBind_same]
  dsimp only
  rw [List.getD_eq_getElem?_getD, List.getElem?_set_self hi, Option.getD_some]

theorem Dev.addHead_overflow {d : Dev} {c : CoreId} {sl i : Nat} {b : Bind} (n : Nat) (hb : (d.core c).bind sl = some b) :
    (d.addHead c sl i n).2 = decide (255 < d.headTok c sl i + n) := by
  unfold Dev.headTok Dev.addHead
  rw [hb]

theorem Dev.addHead_eq (d : Dev) (c : CoreId) (sl i n : Nat) :
    (d.addHead c sl i n).1 = { d with cores := (d.addHead c sl i n).1.cores } := by
  unfold Dev.addHead; split <;> rfl

@[simp] theorem Dev.raiseIf_signals (d : Dev) (b : Bool) (p : Page) (n s : Nat) : (d.raiseIf b p n s).signals = d.signals := by
  unfold Dev.raiseIf; split
  · exact Dev.raise_signals d p n s
  · rfl

@[simp] theorem Dev.core_raiseIf (d : Dev) (b : Bool) (p : Page) (n s : Nat) (k : CoreId) : (d.raiseIf b p n s).core k = d.core k := by
  unfold Dev.raiseIf; split
  · exact Dev.core_raise d p n s k
  · rfl

/-- Only the bindings bear on head tokens. -/
theorem Dev.headTok_congr {d e : Dev} {c : CoreId} (h : e.core c = d.core c) (sl i : Nat) : e.headTok c sl i = d.headTok c sl i := by
  unfold Dev.headTok; rw [h]

/-- What a signal does that its target takes. -/
def Dev.signalTaken (d : Dev) (g : Signal) (c : CoreId) (sl : Nat) : Dev :=
  ((d.addHead c sl g.htok g.inc).1.raiseIf (d.addHead c sl g.htok g.inc).2 (.core c) 5 (sl * 256)).testTokens c sl

theorem Dev.signalArrives_of_target {d : Dev} {g : Signal} {c : CoreId} {sl : Nat} (h : d.signalTarget g = some (c, sl)) :
    d.signalArrives g = d.signalTaken g c sl := by
  unfold Dev.signalArrives; rw [h]; rfl

theorem Dev.signalArrives_of_no_target {d : Dev} {g : Signal} (h : d.signalTarget g = none) : d.signalArrives g =
    if d.runIs g.src g.slot g.pos then d.endRun g.src g.slot 0x25 stDlv g.ent true else d.raise (.core g.src) 6 (g.slot * 256) := by
  unfold Dev.signalArrives; rw [h]

/-- An arriving signal adds none. -/
theorem Dev.signalArrives_signals (d : Dev) (g : Signal) : (d.signalArrives g).signals = d.signals := by
  cases h : d.signalTarget g with
  | none =>
    rw [Dev.signalArrives_of_no_target h]
    split
    · rw [Dev.endRun_eq]
    · exact Dev.raise_signals _ _ _ _
  | some t =>
    rw [Dev.signalArrives_of_target h, Dev.signalTaken, Dev.testTokens_eq, Dev.raiseIf_signals, Dev.addHead_eq]

theorem Dev.headTok_signalTaken {d : Dev} {g : Signal} {c : CoreId} {sl : Nat} {b : Bind} (hb : (d.core c).bind sl = some b)
    (hi : g.htok < b.htok.length) : (d.signalTaken g c sl).headTok c sl g.htok = min (d.headTok c sl g.htok + g.inc) 255 := by
  rw [← Dev.headTok_addHead g.inc hb hi]
  exact Dev.headTok_congr (Dev.core_raiseIf _ _ _ _ _ _) _ _

/-- TOKOVF is raised where the token would pass 255. -/
theorem Dev.testBit_tokovf_signalTaken {d : Dev} {g : Signal} {c : CoreId} {sl : Nat} {b : Bind} (hb : (d.core c).bind sl = some b)
    (ho : 255 < d.headTok c sl g.htok + g.inc) (hr : d.inReset (.core c) = false) :
    ((d.signalTaken g c sl).get (.core c) fERR_STAT_SRC 0).testBit 5 = true := by
  have hr' : (d.addHead c sl g.htok g.inc).1.inReset (.core c) = false := by rw [Dev.addHead_eq]; exact hr
  unfold Dev.signalTaken
  rw [Dev.addHead_overflow g.inc hb, Dev.raiseIf, decide_eq_true ho, if_pos rfl]
  exact Dev.testBit_errStat_raise _ _ 5 _ hr' (by decide)

/-! ### Completion (R62, R66, R71, R73) -/

/-- From `d` to `e` nothing starts on the core: its idle stations stay idle, it takes up no LAUNCH, and its DONE counts stand. -/
structure Dev.NoStart (c : CoreId) (d e : Dev) : Prop where
  idle : ∀ i, ((d.core c).station i).exec = none → ((e.core c).station i).exec = none
  launches : ∀ l ∈ (e.core c).inker.launches, l ∈ (d.core c).inker.launches
  done : ∀ i, i < 5 → e.get (.core c) (fSTN_DONE_COUNT.at i) 0 = d.get (.core c) (fSTN_DONE_COUNT.at i) 0

theorem Dev.NoStart.refl (c : CoreId) (d : Dev) : d.NoStart c d := ⟨fun _ h => h, fun _ h => h, fun _ _ => rfl⟩

theorem Dev.NoStart.trans {c : CoreId} {d e f : Dev} (h1 : d.NoStart c e) (h2 : e.NoStart c f) : d.NoStart c f :=
  ⟨fun i h => h2.idle i (h1.idle i h), fun l h => h1.launches l (h2.launches l h), fun i hi => (h2.done i hi).trans (h1.done i hi)⟩

theorem Dev.NoStart.of_eq {c : CoreId} {d e : Dev} (hcore : e.core c = d.core c) (hregs : e.regs = d.regs) : d.NoStart c e :=
  ⟨fun i h => by rw [hcore]; exact h, fun l h => by rw [hcore] at h; exact h, fun i _ => Dev.get_congr hregs _ _ _⟩

theorem Dev.noStart_modRun (d : Dev) (c : CoreId) (sl : Nat) (f : Run → Run) : d.NoStart c (d.modRun c sl f) :=
  .of_eq (Dev.core_modRun d c c sl f) (Dev.modRun_regs d c sl f)

theorem Dev.noStart_setTok (d : Dev) (c : CoreId) (t : Nat) (v : Core → Nat) : d.NoStart c (d.modCore c (fun k => k.setTok t (v k))) :=
  ⟨fun i h => by rw [Dev.core_modCore_same]; exact h, fun l h => by rw [Dev.core_modCore_same] at h; exact h, fun _ _ => rfl⟩

/-- DONE stands in a word of its own. -/
theorem regKey_done_ne {p q : Page} {i off : Nat} (hi : i < 5) (ho : off < 0x200) :
    regKey p (fSTN_DONE_COUNT.at i).off 0 ≠ regKey q off 0 := by
  have hoff : (fSTN_DONE_COUNT.at i).off = 0x204 + 512 * i := rfl
  refine regKey_ne_off (by omega) (by omega) (by decide) (by decide) (by omega)

theorem Dev.noStart_endRun (d : Dev) (c : CoreId) (sl code stn ent : Nat) (own : Bool) :
    d.NoStart c (d.endRun c sl code stn ent own) := by
  refine ⟨fun i h => Dev.exec_endRun_none d c sl code stn ent i own h, fun l h => ?_, fun i hi => ?_⟩
  · rcases d.endRun_cases c sl code stn ent own with he | he | he <;> rw [he] at h
    · exact h
    · rwa [Dev.core_modRun, Dev.core_runErrRaised] at h
    · rw [Dev.core_modRun, Dev.core_abandon_same, Dev.core_runErrRaised] at h
      exact (List.mem_filter.mp h).1
  · exact Dev.get_endRun_ne d sl code stn ent own (regKey_done_ne hi (by decide)) (regKey_done_ne hi (by decide))

/-- The device once a completed command has been counted. -/
def Dev.counted (d : Dev) (c : CoreId) (stn sl : Nat) : Dev :=
  (d.modCore c (fun k => k.setStation stn { k.station stn with wdog := (k.station stn).wdog.set sl 0 })).wrapAdd (.core c)
    (fSTN_DONE_COUNT.at stn) 0 1

/-- The run's record of a completed command. -/
def Run.completes (stn n : Nat) (e : Img) (r : Run) : Run :=
  { r with done := r.done ++ [n], progress := if stn = stDlv ∧ eOp e = 1 then r.progress + 1 else r.progress,
           dlvDone := if stn = stDlv then r.dlvDone + 1 else r.dlvDone }

/-- A completed SIGNAL is on its way (R72). -/
def Dev.signalLeaves (d : Dev) (c : CoreId) (stn sl n : Nat) (r : Run) (e : Img) : Dev :=
  if stn = stDlv ∧ eOp e = 4 then
    { d with signals := d.signals ++
        [{ src := c, slot := sl, pos := r.pos, ent := n, chan := d.chanOf (c.die.val / 2),
           tag := match (d.core c).bind sl with | some b => b.tag | none => 0,
           target := fieldLE e 8 2, htok := eByte e 0xA, inc := eByte e 0xB, svc := d.svc0 (c.die.val / 2) (d.slotPart c sl) 0 }] }
  else d

/-- A completed command of a run in progress signals its token, and the last one makes the run's end due (R73). -/
def Dev.tokenSignalled (d : Dev) (c : CoreId) (stn sl n : Nat) (r : Run) (e : Img) : Dev :=
  let t := r.tokMap.getD (eSgTok e) 0
  if eSgEn e ∧ (d.core c).tok t = 63 then d.endRun c sl 0x24 stn n (stn == stDlv)
  else
    let d := if eSgEn e then d.modCore c (fun k => k.setTok t (k.tok t + 1)) else d
    if r.done.length + 1 = nCmds r.img then d.modRun c sl (fun r => { r with stage := .ended }) else d

theorem Dev.completed_eq (d : Dev) (c : CoreId) (stn sl n : Nat) : d.completed c stn sl n =
    match (d.counted c stn sl).runAt c sl with
    | none => d.counted c stn sl
    | some r =>
      let f := (d.counted c stn sl).modRun c sl (Run.completes stn n (entry r.img n))
      if r.stage ≠ .begun then f
      else (f.signalLeaves c stn sl n r (entry r.img n)).tokenSignalled c stn sl n r (entry r.img n) := by
  rfl

theorem Dev.noStart_signalLeaves (d : Dev) (c : CoreId) (stn sl n : Nat) (r : Run) (e : Img) :
    d.NoStart c (d.signalLeaves c stn sl n r e) := by
  unfold Dev.signalLeaves
  split
  · exact .of_eq rfl rfl
  · exact .refl c d

theorem Dev.noStart_tokenSignalled (d : Dev) (c : CoreId) (stn sl n : Nat) (r : Run) (e : Img) :
    d.NoStart c (d.tokenSignalled c stn sl n r e) := by
  unfold Dev.tokenSignalled
  dsimp only
  split
  · exact d.noStart_endRun c sl _ _ _ _
  · have htok : d.NoStart c (if eSgEn e then d.modCore c (fun k => k.setTok (r.tokMap.getD (eSgTok e) 0)
        (k.tok (r.tokMap.getD (eSgTok e) 0) + 1)) else d) := by
      split
      · exact d.noStart_setTok c _ _
      · exact .refl c d
    split
    · exact htok.trans (Dev.noStart_modRun _ c sl _)
    · exact htok

/-- What follows the count of a completed command starts nothing. -/
theorem Dev.noStart_completed (d : Dev) (c : CoreId) (stn sl n : Nat) : (d.counted c stn sl).NoStart c (d.completed c stn sl n) := by
  rw [Dev.completed_eq]
  split
  · exact .refl c _
  · next r _ =>
    have hrun := (d.counted c stn sl).noStart_modRun c sl (Run.completes stn n (entry r.img n))
    dsimp only
    split
    · exact hrun
    · exact hrun.trans ((Dev.noStart_signalLeaves _ c stn sl n r _).trans (Dev.noStart_tokenSignalled _ c stn sl n r _))

theorem Dev.core_counted (d : Dev) (c : CoreId) (stn sl : Nat) : (d.counted c stn sl).core c =
    (d.core c).setStation stn { (d.core c).station stn with wdog := ((d.core c).station stn).wdog.set sl 0 } :=
  Dev.core_modCore_same d c (fun k => k.setStation stn { k.station stn with wdog := (k.station stn).wdog.set sl 0 })

/-- A completed command counts. -/
theorem Dev.done_completed (d : Dev) (c : CoreId) {stn : Nat} (sl n : Nat) (h : stn < 5) :
    (d.completed c stn sl n).get (.core c) (fSTN_DONE_COUNT.at stn) 0 =
      (d.get (.core c) (fSTN_DONE_COUNT.at stn) 0 + 1) % 2 ^ 32 := by
  rw [(d.noStart_completed c stn sl n).done stn h]
  exact Dev.get_set _ _ _ _ _ (show 0 ≤ 31 by decide) (show 31 < 32 by decide)

/-- A station that is idle when its command completes stays so. -/
theorem Dev.idle_completed {d : Dev} {c : CoreId} {stn : Nat} (sl n : Nat) (h : ((d.core c).station stn).exec = none) :
    (((d.completed c stn sl n).core c).station stn).exec = none := by
  refine (d.noStart_completed c stn sl n).idle stn ?_
  rw [Dev.core_counted, Core.station_setStation_same]
  exact h

theorem Dev.launches_completed {d : Dev} {c : CoreId} {stn sl n : Nat} {l : Launch}
    (h : l ∈ ((d.completed c stn sl n).core c).inker.launches) : l ∈ (d.core c).inker.launches := by
  have := (d.noStart_completed c stn sl n).launches l h
  rwa [Dev.core_counted] at this

theorem Dev.idle_freeStation (d : Dev) (c : CoreId) (stn : Nat) : (((d.freeStation c stn).core c).station stn).exec = none := by
  unfold Dev.freeStation
  rw [Dev.core_modCore_same, Core.station_setStation_same]

/-- What completion makes of the command a station executes: its station is free, and it counts. -/
theorem Dev.completes_spec (d : Dev) (c : CoreId) {stn : Nat} (sl n : Nat) (h : stn < 5) :
    ((((d.freeStation c stn).completed c stn sl n).core c).station stn).exec = none ∧
    ((d.freeStation c stn).completed c stn sl n).get (.core c) (fSTN_DONE_COUNT.at stn) 0 =
      (d.get (.core c) (fSTN_DONE_COUNT.at stn) 0 + 1) % 2 ^ 32 :=
  ⟨Dev.idle_completed sl n (d.idle_freeStation c stn), Dev.done_completed _ c sl n h⟩

/-- The command of a slot whose cycles have passed. -/
theorem Exec.not_early {x : Exec} {sl now : Nat} (hs : x.slot = sl) (hu : x.until_ ≤ now) : ¬(x.slot ≠ sl ∨ now < x.until_) :=
  fun h => h.elim (fun h => h hs) (Nat.not_lt.mpr hu)

/-- A Feeder, Platen or Folder command whose work is done completes. -/
theorem Dev.completeAt_of_workDone {d : Dev} {c : CoreId} {stn sl : Nat} {x : Exec} (hs : x.slot = sl)
    (hu : x.until_ ≤ d.now (pressClk c.die.val)) (hd : stn ≠ stDlv) (hw : d.workDone c stn x = true) :
    d.completeAt c stn sl x = (d.freeStation c stn).completed c stn sl x.ent := by
  unfold Dev.completeAt
  rw [if_neg (Exec.not_early hs hu)]
  split
  · exact absurd rfl hd
  · rw [if_pos hw]

/-- A Delivery command whose writes have been held back sends them once its release set is performed (R157). -/
def Dev.dlvReleased (d : Dev) (c : CoreId) (x : Exec) : Dev :=
  d.modCore c (fun k => k.setStation stDlv { k.station stDlv with exec := some { x with sending := true } })

/-- A Delivery command completes where its writes have left the core and its station still executes it. -/
def Dev.dlvEnd (d : Dev) (c : CoreId) (sl n : Nat) : Dev :=
  if d.dlvSent c sl n ∧ (((d.core c).station stDlv).exec.isSome) = true then (d.freeStation c stDlv).completed c stDlv sl n else d

@[simp] theorem Dev.dlvEnd_mem (d : Dev) (c : CoreId) (sl n : Nat) : (d.dlvEnd c sl n).mem = d.mem :=
  Dev.mem_if ((Dev.completed_mem _ _ _ _ _).trans (Dev.freeStation_mem _ _ _)) rfl

theorem Dev.completeAt_delivery {d : Dev} {c : CoreId} {sl : Nat} {x : Exec} {r : Run} (hs : x.slot = sl)
    (hu : x.until_ ≤ d.now (pressClk c.die.val)) (hr : d.runAt c sl = some r) : d.completeAt c stDlv sl x =
      if x.sending = false ∧ d.relDone c sl (entry r.img x.ent) = false then d
      else (if x.sending then d else (d.dlvReleased c x).sendDlv c sl x.ent r (entry r.img x.ent) .clean).dlvEnd c sl x.ent := by
  unfold Dev.completeAt
  rw [if_neg (Exec.not_early hs hu)]
  dsimp only [stDlv]
  rw [hr]
  rfl

/-- A LAUNCH whose blocks have all ended completes (R68). -/
def Dev.launchDropped (d : Dev) (c : CoreId) (sl : Nat) : Dev :=
  d.modCore c (fun k => { k with inker := { k.inker with launches := k.inker.launches.filter (fun y => y.slot != sl) } })

theorem Dev.completeLaunch_of_ended {d : Dev} {c : CoreId} {sl : Nat} {l : Launch} {r : Run}
    (hl : (d.core c).inker.launches.find? (fun l => l.slot == sl) = some l) (hr : d.runAt c sl = some r) (hh : l.hdr.isSome = true)
    (he : l.ended = eByte (entry r.img l.ent) 0xD) : d.completeLaunch c sl = (d.launchDropped c sl).completed c stInk sl l.ent := by
  unfold Dev.completeLaunch
  rw [hl, hr]
  dsimp only
  rw [if_pos ⟨hh, he⟩]
  rfl

/-- The Platen's and the Folder's work is done when its cycles have passed. -/
theorem Dev.workDone_of_press {d : Dev} {c : CoreId} {stn : Nat} {x : Exec} (hu : x.until_ ≤ d.now (pressClk c.die.val))
    (h0 : stn ≠ stFdr) (h4 : stn ≠ stDlv) : d.workDone c stn x = true := by
  unfold Dev.workDone
  rw [decide_eq_true hu, Bool.true_and]
  split
  · exact absurd rfl h0
  · exact absurd rfl h4
  · rfl

/-- The Feeder's work is done once its lines are here and its prefetches have issued (R65, R66). -/
theorem Dev.workDone_of_feeder {d : Dev} {c : CoreId} {x : Exec} {sl : Nat} (hs : x.slot = sl)
    (hu : x.until_ ≤ d.now (pressClk c.die.val))
    (h : ∀ r ∈ d.reqs, (∀ offs, r.cli ≠ .feeder c sl x.ent offs) ∧ (r.cli = .prefetch c sl x.ent → r.issued = true)) :
    d.workDone c stFdr x = true := by
  unfold Dev.workDone
  rw [decide_eq_true hu, Bool.true_and]
  show (!d.reqs.any _) = true
  rw [Bool.not_eq_true', List.any_eq_false]
  intro r hr
  obtain ⟨hf, hp⟩ := h r hr
  cases hc : r.cli with
  | feeder c' s n offs =>
    simp only [Bool.and_eq_true, beq_iff_eq]
    rintro ⟨⟨rfl, rfl⟩, rfl⟩
    exact hf offs (by rw [hc, hs])
  | prefetch c' s n =>
    simp only [Bool.and_eq_true, beq_iff_eq]
    rintro ⟨⟨⟨rfl, rfl⟩, rfl⟩, hi⟩
    rw [hp (by rw [hc, hs])] at hi
    cases hi
  | _ => exact Bool.false_ne_true

theorem execCommandComplete_of_exec {c : CoreId} {stn : Stn} {s : State} {x : Exec} (sl : Slot) (hs : stn.val ≠ stInk)
    (hx : ((s.dev.core c).station stn.val).exec = some x) :
    execCommandComplete c stn sl s = .next { s with dev := s.dev.completeAt c stn.val sl.val x } := by
  unfold execCommandComplete
  rw [onDev_eq, if_neg hs, hx]

theorem execCommandComplete_of_launch {c : CoreId} {stn : Stn} (sl : Slot) (s : State) (hs : stn.val = stInk) :
    execCommandComplete c stn sl s = .next { s with dev := s.dev.completeLaunch c sl.val } := by
  unfold execCommandComplete
  rw [onDev_eq, if_pos hs]

/-! ### Ageing (R189) -/

/-- A promoted slot competes at level 2. -/
theorem Dev.effLevel_of_promo {d : Dev} {c : CoreId} {stn sl : Nat} (h : ((d.core c).station stn).promo.getD sl false = true) :
    d.effLevel c stn sl = 2 := by
  unfold Dev.effLevel
  dsimp only
  rw [if_pos h]

/-- The slot promoted at a station. -/
def Dev.promoted (d : Dev) (c : CoreId) (stn sl : Nat) : Dev :=
  d.modCore c (fun k => k.setStation stn
    { (d.core c).station stn with promo := ((d.core c).station stn).promo.set sl true })

theorem execArbAgePromote_of_old {c : CoreId} {stn : Stn} {sl : Slot} {s : State} {b : Bind} (hb : (s.dev.core c).bind sl.val = some b)
    (hp : b.prio = 3) (ha : 2 ^ 20 ≤ ((s.dev.core c).station stn.val).age.getD sl.val 0) :
    execArbAgePromote c stn sl s = .next { s with dev := s.dev.promoted c stn.val sl.val } := by
  unfold execArbAgePromote
  rw [onDev_eq, hb]
  dsimp only
  rw [if_pos (by rw [hp, decide_eq_true ha]; rfl)]
  rfl

theorem Dev.effLevel_promoted {d : Dev} (c : CoreId) (stn : Nat) {sl : Nat} (h : sl < ((d.core c).station stn).promo.length) :
    (d.promoted c stn sl).effLevel c stn sl = 2 := by
  refine Dev.effLevel_of_promo ?_
  unfold Dev.promoted
  rw [Dev.core_modCore_same, Core.station_setStation_same, List.getD_eq_getElem?_getD, List.getElem?_set_self h, Option.getD_some]

/-! ### Onset (R190) -/

theorem Dev.foldl_modCore_eq (l : List CoreId) (f : Core → Core) (d : Dev) :
    l.foldl (fun d c => d.modCore c f) d = { d with cores := (l.foldl (fun d c => d.modCore c f) d).cores } := by
  induction l generalizing d with
  | nil => rfl
  | cons c l ih => rw [List.foldl_cons, ih]; rfl

theorem Dev.core_foldl_modCore_of_not_mem {l : List CoreId} {y : CoreId} (f : Core → Core) (d : Dev) (h : y ∉ l) :
    (l.foldl (fun d c => d.modCore c f) d).core y = d.core y := by
  induction l generalizing d with
  | nil => rfl
  | cons c l ih =>
    rw [List.foldl_cons, ih _ (fun hm => h (List.mem_cons_of_mem _ hm)), Dev.core_modCore_ne]
    rintro rfl
    exact h List.mem_cons_self

/-- A change that is the same done twice reaches every core of the list. -/
theorem Dev.core_foldl_modCore_of_mem {l : List CoreId} {y : CoreId} {f : Core → Core} (hf : ∀ k, f (f k) = f k) (d : Dev) (h : y ∈ l) :
    (l.foldl (fun d c => d.modCore c f) d).core y = f (d.core y) := by
  induction l generalizing d with
  | nil => cases h
  | cons c l ih =>
    rw [List.foldl_cons]
    by_cases hy : y ∈ l
    · rw [ih _ hy]
      by_cases hc : y = c
      · subst hc; rw [Dev.core_modCore_same, hf]
      · rw [Dev.core_modCore_ne _ _ hc]
    · rw [Dev.core_foldl_modCore_of_not_mem f _ hy]
      rcases List.mem_cons.mp h with rfl | h
      · exact Dev.core_modCore_same _ _ _
      · exact absurd h hy

/-- A core whose request for onset is granted. -/
def Core.granted (k : Core) : Core := { k with onsetReq := false, onset := true }

/-- The device once a row of a C-die has been granted onset. -/
def Dev.onsetGranted (d : Dev) (x row : Nat) : Dev :=
  (d.onsetRow x row).foldl (fun d c => d.modCore c Core.granted)
    { d with onset := NMap.put d.onset x (row, d.now (pressClk x) + d.pace) (23, 0) }

theorem execOnsetGrant_of_due {x : Die} {s : State} {row : Nat} {rest : List Nat}
    (hrows : ((List.range 24).map (fun i => ((NMap.get s.dev.onset x.val (23, 0)).1 + 1 + i) % 24)).filter
      (fun r => !(s.dev.onsetRow x.val r).isEmpty) = row :: rest)
    (hdue : (NMap.get s.dev.onset x.val (23, 0)).2 ≤ s.dev.now (pressClk x.val)) (hr : s.dev.inReset (pImp x.val) = false) :
    execOnsetGrant x s = .next { s with dev := s.dev.onsetGranted x.val row } := by
  unfold execOnsetGrant
  rw [onDev_eq]
  dsimp only
  rw [hrows]
  dsimp only
  rw [if_neg (by rw [hr]; exact fun h => h.elim (Nat.not_lt.mpr hdue) Bool.false_ne_true)]
  rfl

/-- Only the bindings and the domains in reset bear on a signal's target. -/
theorem Dev.signalTarget_signals (d : Dev) (l : List Signal) (g : Signal) :
    ({ d with signals := l } : Dev).signalTarget g = d.signalTarget g := rfl

/-- An arriving signal leaves the list of those on their way. -/
theorem execSignalArrival_of_some {k : Nat} {g : Signal} {s : State} (h : s.dev.signals[k]? = some g) :
    execSignalArrival k s = .next { s with dev := ({ s.dev with signals := s.dev.signals.eraseIdx k }).signalArrives g } := by
  unfold execSignalArrival
  rw [onDev_eq, h]

/-! ### The obligation, clause by clause -/

theorem signalArrival_spec {s : State} {k : Nat} {g : Signal} (hg : s.dev.signals[k]? = some g) :
    ∃ d, exec (.signalArrival k) s = .next { s with dev := d } ∧ Safety.memoryKept s.dev d ∧
      d.signals = s.dev.signals.eraseIdx k ∧
      (∀ t tl b, s.dev.signalTarget g = some (t, tl) → (s.dev.core t).bind tl = some b → g.htok < b.htok.length →
        d.headTok t tl g.htok = min (s.dev.headTok t tl g.htok + g.inc) 255 ∧
        (255 < s.dev.headTok t tl g.htok + g.inc → s.dev.inReset (.core t) = false →
          (d.get (.core t) fERR_STAT_SRC 0).testBit 5 = true)) ∧
      (s.dev.signalTarget g = none → s.dev.runIs g.src g.slot g.pos = true →
        d = ({ s.dev with signals := d.signals }).endRun g.src g.slot 0x25 stDlv g.ent true) ∧
      (s.dev.signalTarget g = none → s.dev.runIs g.src g.slot g.pos = false →
        d = ({ s.dev with signals := d.signals }).raise (.core g.src) 6 (g.slot * 256)) := by
  refine ⟨_, execSignalArrival_of_some hg, Safety.memoryKept_of_mem_eq (Dev.signalArrives_mem _ _), Dev.signalArrives_signals _ _,
    fun t tl b ht hb hi => ?_, fun ht hr => ?_, fun ht hr => ?_⟩
  · rw [Dev.signalArrives_of_target (by rw [Dev.signalTarget_signals]; exact ht)]
    exact ⟨Dev.headTok_signalTaken hb hi, fun ho hreset => Dev.testBit_tokovf_signalTaken hb ho hreset⟩
  · rw [Dev.signalArrives_signals, Dev.signalArrives_of_no_target (by rw [Dev.signalTarget_signals]; exact ht)]
    exact if_pos hr
  · rw [Dev.signalArrives_signals, Dev.signalArrives_of_no_target (by rw [Dev.signalTarget_signals]; exact ht)]
    exact if_neg (by rw [Bool.not_eq_true]; exact hr)

/-- A command whose own work is done completes. -/
theorem commandComplete_spec {s : State} {c : CoreId} {stn : Stn} {sl : Slot} {x : Exec}
    (hx : ((s.dev.core c).station stn.val).exec = some x) (hs : x.slot = sl.val) (hu : x.until_ ≤ s.dev.now (pressClk c.die.val))
    (hw : stn.val = stPlt ∨ stn.val = stFld ∨
      stn.val = stFdr ∧ (∀ r ∈ s.dev.reqs, (∀ offs, r.cli ≠ .feeder c sl.val x.ent offs) ∧
        (r.cli = .prefetch c sl.val x.ent → r.issued = true)) ∨
      stn.val = stDlv ∧ (s.dev.runAt c sl.val).isSome = true ∧ x.sending = true ∧ s.dev.dlvSent c sl.val x.ent = true) :
    ∃ d, exec (.commandComplete c stn sl) s = .next { s with dev := d } ∧ Safety.memoryKept s.dev d ∧
      d = (s.dev.freeStation c stn.val).completed c stn.val sl.val x.ent ∧ ((d.core c).station stn.val).exec = none ∧
      d.get (.core c) (fSTN_DONE_COUNT.at stn.val) 0 = (s.dev.get (.core c) (fSTN_DONE_COUNT.at stn.val) 0 + 1) % 2 ^ 32 := by
  have hink : stn.val ≠ stInk := by
    unfold stPlt stFld stFdr stDlv at hw; unfold stInk; omega
  have hdone : s.dev.completeAt c stn.val sl.val x = (s.dev.freeStation c stn.val).completed c stn.val sl.val x.ent := by
    rcases hw with h | h | ⟨h, hreqs⟩ | ⟨h, hrun, hsend, hsent⟩
    · exact Dev.completeAt_of_workDone hs hu (by rw [h]; decide) (Dev.workDone_of_press hu (by rw [h]; decide) (by rw [h]; decide))
    · exact Dev.completeAt_of_workDone hs hu (by rw [h]; decide) (Dev.workDone_of_press hu (by rw [h]; decide) (by rw [h]; decide))
    · exact Dev.completeAt_of_workDone hs hu (by rw [h]; decide) (by rw [h]; exact Dev.workDone_of_feeder hs hu hreqs)
    · obtain ⟨r, hr⟩ := Option.isSome_iff_exists.mp hrun
      rw [h] at hx ⊢
      rw [Dev.completeAt_delivery hs hu hr, if_neg (by rw [hsend]; exact fun h => Bool.noConfusion h.1)]
      rw [if_pos hsend, Dev.dlvEnd, if_pos ⟨hsent, by rw [hx]; rfl⟩]
  obtain ⟨hidle, hcount⟩ := s.dev.completes_spec c sl.val x.ent stn.isLt
  refine ⟨_, (execCommandComplete_of_exec sl hink hx).trans (by rw [hdone]), Safety.memoryKept_of_mem_eq ?_, rfl, hidle, hcount⟩
  rw [Dev.completed_mem, Dev.freeStation_mem]

/-- A releasing Delivery command waits for its release set, and sends its writes once it is performed (R157). -/
theorem deliveryRelease_spec {s : State} {c : CoreId} {stn : Stn} {sl : Slot} {x : Exec} {r : Run} (h : stn.val = stDlv)
    (hx : ((s.dev.core c).station stDlv).exec = some x) (hs : x.slot = sl.val) (hu : x.until_ ≤ s.dev.now (pressClk c.die.val))
    (hsend : x.sending = false) (hr : s.dev.runAt c sl.val = some r) :
    (s.dev.relDone c sl.val (entry r.img x.ent) = false → exec (.commandComplete c stn sl) s = .next s) ∧
    (s.dev.relDone c sl.val (entry r.img x.ent) = true →
      ∃ d e f : Dev, exec (.commandComplete c stn sl) s = .next { s with dev := d } ∧ Safety.memoryKept s.dev d ∧
        e = { s.dev with cores := e.cores } ∧ ((e.core c).station stDlv).exec = some { x with sending := true } ∧
        f = (e.dcacheDrop c ((e.dlvReqs c sl.val x.ent r (entry r.img x.ent)).flatMap Req.linesOf)).issueSeen .clean
          (e.dlvReqs c sl.val x.ent r (entry r.img x.ent)) ∧
        (f.dlvSent c sl.val x.ent = false → d = f) ∧
        (f.dlvSent c sl.val x.ent = true → ((f.core c).station stDlv).exec ≠ none →
          d = (f.freeStation c stDlv).completed c stDlv sl.val x.ent)) := by
  have hexec := execCommandComplete_of_exec sl (show stn.val ≠ stInk by rw [h]; decide) (show _ = some x by rw [h]; exact hx)
  rw [h, Dev.completeAt_delivery hs hu hr] at hexec
  refine ⟨fun hrel => ?_, fun hrel => ?_⟩
  · rw [if_pos ⟨hsend, hrel⟩] at hexec
    exact hexec
  · rw [if_neg (by rw [hrel]; exact fun h => Bool.noConfusion h.2), if_neg (by rw [hsend]; exact Bool.false_ne_true)] at hexec
    refine ⟨_, s.dev.dlvReleased c x, _, hexec, Safety.memoryKept_of_mem_eq ?_, rfl, ?_, rfl, fun hn => ?_, fun hy hne => ?_⟩
    · rw [Dev.dlvEnd_mem, Dev.sendDlv_mem]
      exact Dev.modCore_mem _ _ _
    · unfold Dev.dlvReleased
      rw [Dev.core_modCore_same, Core.station_setStation_same]
    · exact if_neg (fun hy => Bool.false_ne_true (hn.symm.trans hy.1))
    · exact if_pos ⟨hy, Option.isSome_iff_ne_none.mpr hne⟩

/-- A LAUNCH completes once its blocks have all ended (R68). -/
theorem launchComplete_spec {s : State} {c : CoreId} {stn : Stn} {sl : Slot} {l : Launch} {r : Run} (h : stn.val = stInk)
    (hl : (s.dev.core c).inker.launches.find? (fun l => l.slot == sl.val) = some l) (hr : s.dev.runAt c sl.val = some r)
    (hh : l.hdr.isSome = true) (he : l.ended = eByte (entry r.img l.ent) 0xD) :
    ∃ d, exec (.commandComplete c stn sl) s = .next { s with dev := d } ∧ Safety.memoryKept s.dev d ∧
      (∀ y ∈ (d.core c).inker.launches, y.slot ≠ sl.val) ∧
      d.get (.core c) (fSTN_DONE_COUNT.at stInk) 0 = (s.dev.get (.core c) (fSTN_DONE_COUNT.at stInk) 0 + 1) % 2 ^ 32 := by
  have hexec := execCommandComplete_of_launch (c := c) sl s h
  rw [Dev.completeLaunch_of_ended hl hr hh he] at hexec
  refine ⟨_, hexec, Safety.memoryKept_of_mem_eq ?_, fun y hy => ?_, Dev.done_completed _ c sl.val l.ent (by decide)⟩
  · exact (Dev.completed_mem _ _ _ _ _).trans (Dev.modCore_mem _ _ _)
  · have := Dev.launches_completed hy
    rw [Dev.launchDropped, Dev.core_modCore_same] at this
    simpa using (List.mem_filter.mp this).2

/-- A station's watchdog that has run out ends the run (R81). -/
theorem watchdog_spec {s : State} {c : CoreId} {stn : Stn} {sl : Slot} {r : Run} {n : Nat} (hr : s.dev.runAt c sl.val = some r)
    (hb : r.stage = .begun) (hn : s.dev.currentEnt c stn.val sl.val = some n)
    (hw : 2 ^ s.dev.wdogExp c r ≤ ((s.dev.core c).station stn.val).wdog.getD sl.val 0) :
    ∃ d, exec (.stationWatchdogExpire c stn sl) s = .next { s with dev := d } ∧ Safety.memoryKept s.dev d ∧
      (s.dev.inReset (.core c) = false → (d.get (.core c) fERR_STAT_SRC 0).testBit 0 = true) ∧
      ∃ y, d.runAt c sl.val = some y ∧ y.stage = .ended ∧ y.err = 0x20 ∧ y.ent = n := by
  have hexec : exec (.stationWatchdogExpire c stn sl) s =
      .next { s with dev := s.dev.endRun c sl.val 0x20 stn.val n (stn.val == stDlv) } := by
    show execStationWatchdogExpire c stn sl s = _
    unfold execStationWatchdogExpire
    rw [onDev_eq, hr, hn]
    dsimp only
    rw [if_pos ⟨hb, hw⟩]
  have h1 : r.stage ≠ .retiring := by rw [hb]; decide
  have h2 : r.stage ≠ .ended := by rw [hb]; decide
  exact ⟨_, hexec, Safety.memoryKept_of_mem_eq (Dev.endRun_mem _ _ _ _ _ _ _),
    fun hreset => Dev.testBit_errStat_endRun _ _ _ hr h1 h2 rfl (by decide) hreset,
    r.failed 0x20 n, Dev.runAt_endRun_same _ _ _ _ hr h1 h2, if_pos hb, rfl, rfl⟩

/-- The next row that asks is granted onset, and it alone (R190). -/
theorem onsetGrant_spec {s : State} {x : Die} {row : Nat} {rest : List Nat}
    (hrows : ((List.range 24).map (fun i => ((NMap.get s.dev.onset x.val (23, 0)).1 + 1 + i) % 24)).filter
      (fun r => !(s.dev.onsetRow x.val r).isEmpty) = row :: rest)
    (hdue : (NMap.get s.dev.onset x.val (23, 0)).2 ≤ s.dev.now (pressClk x.val)) (hr : s.dev.inReset (pImp x.val) = false) :
    ∃ d, exec (.onsetGrant x) s = .next { s with dev := d } ∧ d = { s.dev with cores := d.cores, onset := d.onset } ∧
      NMap.get d.onset x.val (23, 0) = (row, s.dev.now (pressClk x.val) + s.dev.pace) ∧
      (∀ y ∈ s.dev.onsetRow x.val row, d.core y = { s.dev.core y with onsetReq := false, onset := true }) ∧
      ∀ y, y ∉ s.dev.onsetRow x.val row → d.core y = s.dev.core y := by
  refine ⟨_, execOnsetGrant_of_due hrows hdue hr, ?_, ?_, fun y hy => ?_, fun y hy => ?_⟩
  · unfold Dev.onsetGranted; rw [Dev.foldl_modCore_eq]
  · unfold Dev.onsetGranted; rw [Dev.foldl_modCore_eq]; exact NMap.get_put_same _ _ _ _
  · exact Dev.core_foldl_modCore_of_mem (f := Core.granted) (fun _ => rfl) _ hy
  · exact Dev.core_foldl_modCore_of_not_mem _ _ hy

/-- Settles O21: each Delivery command is an issue of its station, and a lemma of its own says what a signal, a completion, ageing, a
watchdog and an onset grant do. -/
theorem deliveryIssuesAndStationsComplete : Obligations.DeliveryIssuesAndStationsComplete := by
  unfold Obligations.DeliveryIssuesAndStationsComplete
  refine ⟨fun c sl ecc arr s => ⟨fun op i y n r x hi hx h => ?_, fun k g hg => signalArrival_spec hg⟩,
    fun c stn sl s => ⟨fun x hx hs hu hw => commandComplete_spec hx hs hu hw,
      fun x r h hx hs hu hsend hr => deliveryRelease_spec h hx hs hu hsend hr,
      fun l r h hl hr hh he => launchComplete_spec h hl hr hh he, fun b hb hp ha hlen => ?_,
      fun r n hr hb hn hw => watchdog_spec hr hb hn hw, fun x row rest hrows hdue hreset => onsetGrant_spec hrows hdue hreset⟩⟩
  · subst hx
    simp only [List.mem_cons, Prod.mk.injEq, List.not_mem_nil, or_false] at hi
    obtain ⟨rfl, rfl, rfl⟩ | ⟨rfl, rfl, rfl⟩ | ⟨rfl, rfl, rfl⟩ | ⟨rfl, rfl, rfl⟩ := hi <;> exact onDev_deliverCmd _ h
  · exact ⟨_, execArbAgePromote_of_old hb hp ha, rfl, Dev.effLevel_promoted c stn.val (by rw [hlen]; exact sl.isLt),
      fun k hk => Dev.core_modCore_ne _ _ hk⟩

end Sys2Proof.Machine

/-! ## LAUNCHes and their blocks (R68, R120 to R122, R131, R132) -/

namespace Sys2Proof.Machine

/-! ### LAUNCH -/

/-- The device once a LAUNCH has left its queue: the instruction cache is empty, and fills of it in flight are not installed. -/
def Dev.launchTaken (d : Dev) (c : CoreId) (sl n : Nat) (r : Run) : Dev :=
  let d := (d.takeCmd c stInk sl n r).modInker c (fun k => { k with icache := [], launches := k.launches ++ [⟨sl, n, none, 0, 0⟩] })
  { d with reqs := d.reqs.map (fun q : Req => match q.cli with
      | .ifetch c' _ => if c' = c then { q with noinstall := true } else q
      | _ => q) }

/-- The request for the header of a LAUNCH's kernel. -/
def Dev.headerReq (d : Dev) (c : CoreId) (sl n : Nat) (r : Run) : Req :=
  { Req.blank with cli := .header c sl, op := .rd, addr := eAddr (entry r.img n), mask := byteMask (eAddr (entry r.img n) % 128) 32,
                   part := d.slotPart c sl, quad := c.die.val / 2, tc := 1 }

theorem Dev.core_launchTaken (d : Dev) (c : CoreId) (sl n : Nat) (r : Run) : (d.launchTaken c sl n r).core c =
    { (d.takeCmd c stInk sl n r).core c with
      inker := { ((d.takeCmd c stInk sl n r).core c).inker with
        icache := [], launches := ((d.takeCmd c stInk sl n r).core c).inker.launches ++ [⟨sl, n, none, 0, 0⟩] } } :=
  Dev.core_modCore_same _ c
    (fun k => { k with inker := { k.inker with icache := [], launches := k.inker.launches ++ [⟨sl, n, none, 0, 0⟩] } })

theorem Dev.launchTaken_eq (d : Dev) (c : CoreId) (sl n : Nat) (r : Run) : d.launchTaken c sl n r =
    { d with cores := (d.launchTaken c sl n r).cores, queues := (d.launchTaken c sl n r).queues,
             reqs := (d.launchTaken c sl n r).reqs } := by
  unfold Dev.launchTaken Dev.modInker; rw [Dev.takeCmd_eq]; rfl

/-- The Inker and the bindings do not change when a command's tokens are taken. -/
theorem Dev.core_takeCmd_keeps (d : Dev) (c : CoreId) (stn sl n : Nat) (r : Run) :
    ((d.takeCmd c stn sl n r).core c).inker = (d.core c).inker ∧ ((d.takeCmd c stn sl n r).core c).binds = (d.core c).binds ∧
    ((d.takeCmd c stn sl n r).core c).station stn =
      { (d.core c).station stn with queue := dropFirst (fun e => decide (e = (sl, n))) ((d.core c).station stn).queue } := by
  rw [Dev.core_takeCmd]
  exact ⟨by rw [Core.takeToks_eq]; rfl, by rw [Core.binds_takeToks]; rfl,
    by rw [Core.station_takeToks, Core.station_setStation_same]⟩

theorem Dev.slotPart_launchTaken (d : Dev) (c : CoreId) (sl n : Nat) (r : Run) :
    (d.launchTaken c sl n r).slotPart c sl = d.slotPart c sl := by
  obtain ⟨-, hb, -⟩ := d.core_takeCmd_keeps c stInk sl n r
  have hbind : ((d.launchTaken c sl n r).core c).bind sl = (d.core c).bind sl := by
    rw [Dev.core_launchTaken]
    unfold Core.bind
    rw [hb]
  unfold Dev.slotPart
  rw [hbind, Dev.launchTaken_eq]
  rfl

theorem execLaunch_of_eligible {c : CoreId} {sl : Slot} {s : State} {r : Run} {n : Nat} (hr : s.dev.runAt c sl.val = some r)
    (hn : ((s.dev.core c).station stInk).nextOf sl.val = some n) (he : s.dev.eligible c stInk sl.val = true)
    (hl : ∀ l ∈ (s.dev.core c).inker.launches, l.slot ≠ sl.val) (hd : s.dev.domInReset (.core c) = false) :
    execLaunch c sl s = .next { s with
      dev := (s.dev.launchTaken c sl.val n r).issue (s.dev.headerReq c sl.val n r) } := by
  have hany : (s.dev.core c).inker.launches.any (fun l => l.slot == sl.val) = false := by
    rw [List.any_eq_false]; intro l hm; simpa using hl l hm
  have hpart := s.dev.slotPart_launchTaken c sl.val n r
  unfold execLaunch
  rw [onDev_eq]
  dsimp only
  rw [if_neg (by simp [he, hany, hd]), hn, hr]
  unfold Dev.headerReq
  rw [← hpart]
  rfl

/-! ### The header (R122) -/

theorem execKernelHeaderArrival_of_ready {c : CoreId} {sl : Slot} {s : State} {r : Run} {q : Req} {l : Launch} {h : Nat}
    (hr : s.dev.runAt c sl.val = some r) (hq : s.dev.reqs.find? (fun y => decide (y.cli = .header c sl.val) && y.ready) = some q)
    (hl : (s.dev.core c).inker.launches.find? (fun l => l.slot == sl.val) = some l)
    (hh : h = (q.res >>> (8 * (q.addr % 128))) % 2 ^ 256) :
    ∃ d e : Dev, execKernelHeaderArrival c sl s = .next { s with dev := d } ∧ Safety.memoryKept s.dev d ∧
      e = { s.dev with reqs := dropFirst (fun y => y.id == q.id) s.dev.reqs } ∧
      (q.resErr = true → d = e.endRun c sl.val 0x26 stInk l.ent false) ∧
      (q.resErr = false → q.resPsn = true → d = e.endRun c sl.val 0x22 stInk l.ent false) ∧
      (q.resErr = false → q.resPsn = false →
        headerBad h (entry r.img l.ent) (hBufSz r.img (eByte (entry r.img l.ent) 0xE % 16)) = true →
        d = e.endRun c sl.val 8 stInk l.ent false) ∧
      (q.resErr = false → q.resPsn = false →
        headerBad h (entry r.img l.ent) (hBufSz r.img (eByte (entry r.img l.ent) 0xE % 16)) = false →
        d = { e with cores := d.cores } ∧ (d.core c).inker.launches.find? (fun l => l.slot == sl.val) =
          some { l with hdr := some (byteOf h 2, byteOf h 3, (h >>> 32) % 2 ^ 32) }) := by
  subst hh
  unfold execKernelHeaderArrival
  rw [onDev_eq]
  dsimp only
  rw [hq, hl, hr]
  dsimp only
  refine ⟨_, s.dev.dropReq q.id, rfl, Safety.memoryKept_of_mem_eq ?_, rfl, fun he => ?_, fun he hp => ?_, fun he hp hb => ?_,
    fun he hp hb => ?_⟩
  · simp only [Dev.mem_ite, Dev.endRun_mem, Dev.modInker_mem, Dev.dropReq_mem, ite_self]
  · rw [he, if_pos rfl]
  · rw [he, hp, if_neg (by decide), if_pos rfl]
  · rw [he, hp, hb, if_neg (by decide), if_neg (by decide), if_pos rfl]
  · rw [he, hp, hb, if_neg (by decide), if_neg (by decide), if_neg (by decide)]
    refine ⟨rfl, ?_⟩
    unfold Dev.modInker
    rw [Dev.core_modCore_same]
    have hslot := List.find?_some hl
    exact find?_replaceFirst hl hslot

/-! ### Groups of a block (R121, R131) -/

/-- Groups that begin one after another. -/
def Inker.beginGroups (mk : (Nat × Nat) × Nat → Group) (l : List ((Nat × Nat) × Nat)) (k : Inker) : Inker :=
  l.foldl (fun i x => i.setGroup x.1.1 (some (mk x))) k

theorem Inker.beginGroups_eq (mk : (Nat × Nat) × Nat → Group) (l : List ((Nat × Nat) × Nat)) (k : Inker) :
    k.beginGroups mk l = { k with groups := (k.beginGroups mk l).groups } := by
  unfold Inker.beginGroups
  induction l generalizing k with
  | nil => rfl
  | cons x l ih => rw [List.foldl_cons, ih]; rfl

theorem Inker.group_setGroup (k : Inker) (g h : Nat) (x : Option Group) : (k.setGroup g x).group h = if h = g then x else k.group h :=
  NMap.get_put k.groups none g h x

theorem Inker.group_beginGroups_of_ne (mk : (Nat × Nat) × Nat → Group) {l : List ((Nat × Nat) × Nat)} {g : Nat} (k : Inker)
    (h : g ∉ l.map (fun x => x.1.1)) : (k.beginGroups mk l).group g = k.group g := by
  unfold Inker.beginGroups
  induction l generalizing k with
  | nil => rfl
  | cons x l ih =>
    rw [List.map_cons, List.mem_cons, not_or] at h
    rw [List.foldl_cons, ih _ h.2, Inker.group_setGroup, if_neg h.1]

/-- In distinct group slots, each group is as it began. -/
theorem Inker.group_beginGroups_of_mem (mk : (Nat × Nat) × Nat → Group) {l : List ((Nat × Nat) × Nat)} {x : (Nat × Nat) × Nat} (k : Inker)
    (hn : (l.map (fun x => x.1.1)).Nodup) (h : x ∈ l) : (k.beginGroups mk l).group x.1.1 = some (mk x) := by
  induction l generalizing k with
  | nil => cases h
  | cons y l ih =>
    rw [List.map_cons, List.nodup_cons] at hn
    show ((k.setGroup y.1.1 (some (mk y))).beginGroups mk l).group x.1.1 = _
    rcases List.mem_cons.mp h with rfl | h
    · rw [Inker.group_beginGroups_of_ne mk _ hn.1, Inker.group_setGroup, if_pos rfl]
    · exact ih _ hn.2 h

theorem map_fst_zip_sublist {α β : Type} (l : List α) (m : List β) : ((l.zip m).map (·.1)).Sublist l := by
  induction l generalizing m with
  | nil => simp
  | cons a l ih =>
    cases m with
    | nil => simp
    | cons b m => rw [List.zip_cons_cons, List.map_cons]; exact (ih m).cons_cons a

/-- The group slots a block takes are distinct. -/
theorem Inker.nodup_of_fit {k : Inker} {sl lgran lbuf ngrp nreg b a : Nat} {gs cs : List Nat}
    (h : k.fit sl lgran lbuf ngrp nreg = some (b, gs, cs, a)) : gs.Nodup := by
  unfold Inker.fit at h
  dsimp only at h
  split at h
  · split at h
    · cases h
      exact ((List.nodup_range (n := 16)).filter _).sublist (List.take_sublist _ _)
    · cases h
  · cases h

/-! ### Admission (R132) -/

/-- A group of a block as it begins: registers unwritten, at the kernel's first instruction. -/
def beginGroup (e : Img) (b : Nat) (x : (Nat × Nat) × Nat) : Group :=
  { block := b, grp := x.2, colBase := x.1.2, nreg := eByte e 0xF,
    paths := [{ lanes := BitVec.allOnes 32, pc := eAddr e + 0x20, st := .run, stack := [], issued := 0, since := 0 }], regs := [],
    rcache := [], until_ := 0 }

/-- The Inker once a block has been admitted. -/
def Inker.admitted (k : Inker) (l : Launch) (e : Img) (b : Nat) (gs cs : List Nat) (a : Nat) : Inker :=
  let i := k.beginGroups (beginGroup e b) (gs.zip cs).zipIdx
  { i with blocks := NMap.put i.blocks b (some ⟨l.slot, l.ent, l.next, a⟩) none,
           launches := { l with next := l.next + 1 } :: i.launches.filter (fun y => y.slot != l.slot),
           lastAdmit := l.slot, chosen := none }

theorem Dev.inker_admitNext (d : Dev) (c : CoreId) (l : Launch) (r : Run) (e : Img) (lgran b : Nat) (gs cs : List Nat) (a : Nat) :
    ((d.admitNext c l r e lgran (b, gs, cs, a)).core c).inker = (d.core c).inker.admitted l e b gs cs a :=
  congrArg Core.inker (Dev.core_modCore_same _ _ _)

theorem Inker.launches_admitted (k : Inker) (l : Launch) (e : Img) (b : Nat) (gs cs : List Nat) (a : Nat) :
    (k.admitted l e b gs cs a).launches = { l with next := l.next + 1 } :: k.launches.filter (fun y => y.slot != l.slot) := by
  unfold Inker.admitted; rw [Inker.beginGroups_eq]

theorem Inker.block_admitted (k : Inker) (l : Launch) (e : Img) (b : Nat) (gs cs : List Nat) (a : Nat) :
    (k.admitted l e b gs cs a).block b = some ⟨l.slot, l.ent, l.next, a⟩ := NMap.get_put_same _ _ _ _

theorem Inker.group_admitted {k : Inker} {l : Launch} {e : Img} {b : Nat} {gs cs : List Nat} {a i g : Nat} (hn : gs.Nodup)
    (hg : gs[i]? = some g) (hi : i < cs.length) : ∃ col, (k.admitted l e b gs cs a).group g = some (beginGroup e b ((g, col), i)) := by
  obtain ⟨col, hcol⟩ : ∃ col, cs[i]? = some col := ⟨cs[i], List.getElem?_eq_getElem hi⟩
  have hmem : ((g, col), i) ∈ (gs.zip cs).zipIdx := by
    rw [List.mk_mem_zipIdx_iff_getElem?, List.getElem?_zip_eq_some]
    exact ⟨hg, hcol⟩
  have hnodup : ((gs.zip cs).zipIdx.map (fun x => x.1.1)).Nodup := by
    have : (gs.zip cs).zipIdx.map (fun x => x.1.1) = (gs.zip cs).map (·.1) := by
      rw [← List.zipIdx_map_fst 0 (gs.zip cs), List.map_map, List.zipIdx_map_fst]; rfl
    rw [this]
    exact hn.sublist (map_fst_zip_sublist gs cs)
  exact ⟨col, Inker.group_beginGroups_of_mem _ _ hnodup hmem⟩

/-- The LAUNCH that may admit a block: the one chosen, or else the one arbitration gives (R132). -/
def Dev.admitTurn (d : Dev) (c : CoreId) : Option Nat :=
  match (d.core c).inker.chosen with
  | some x => some x
  | none => d.pick c stInk (d.launchReady c)

theorem Dev.admitTurn_eq {d : Dev} {c : CoreId} {sl : Nat} (h : (d.core c).inker.chosen = some sl ∨
    (d.core c).inker.chosen = none ∧ d.pick c stInk (d.launchReady c) = some sl) : d.admitTurn c = some sl := by
  unfold Dev.admitTurn
  rcases h with h | ⟨h, hp⟩ <;> rw [h]
  exact hp

/-- The device once the LAUNCH whose turn it is has been tried: its next block admitted, or its turn kept. -/
def Dev.admitOrWait (d : Dev) (c : CoreId) (sl : Nat) (l : Launch) (r : Run) : Dev :=
  match (d.core c).inker.fit sl ((l.hdr.map (fun h => h.1)).getD 0) (hBufSz r.img (eByte (entry r.img l.ent) 0xE % 16))
      (eByte (entry r.img l.ent) 0xC) (eByte (entry r.img l.ent) 0xF) with
  | none => d.modInker c (fun k => { k with chosen := some sl })
  | some f => (d.chosen c stInk sl).admitNext c l r (entry r.img l.ent) ((l.hdr.map (fun h => h.1)).getD 0) f

theorem Dev.admitOrWait_of_fit {d : Dev} {c : CoreId} {sl : Nat} {l : Launch} {r : Run} {f : Nat × List Nat × List Nat × Nat}
    (h : (d.core c).inker.fit sl ((l.hdr.map (fun h => h.1)).getD 0) (hBufSz r.img (eByte (entry r.img l.ent) 0xE % 16))
      (eByte (entry r.img l.ent) 0xC) (eByte (entry r.img l.ent) 0xF) = some f) :
    d.admitOrWait c sl l r =
      (d.chosen c stInk sl).admitNext c l r (entry r.img l.ent) ((l.hdr.map (fun h => h.1)).getD 0) f := by
  unfold Dev.admitOrWait; rw [h]

theorem Dev.admitOrWait_of_not_fit {d : Dev} {c : CoreId} {sl : Nat} {l : Launch} {r : Run}
    (h : (d.core c).inker.fit sl ((l.hdr.map (fun h => h.1)).getD 0) (hBufSz r.img (eByte (entry r.img l.ent) 0xE % 16))
      (eByte (entry r.img l.ent) 0xC) (eByte (entry r.img l.ent) 0xF) = none) :
    d.admitOrWait c sl l r = d.modInker c (fun k => { k with chosen := some sl }) := by
  unfold Dev.admitOrWait; rw [h]

section
variable {c : CoreId} {sl : Slot} {s : State} {r : Run} {l : Launch}
  (hr : s.dev.runAt c sl.val = some r) (hl : (s.dev.core c).inker.launches.find? (fun l => l.slot == sl.val) = some l)
  (hready : s.dev.launchReady c sl.val = true)
  (hturn : (s.dev.core c).inker.chosen = some sl.val ∨
    (s.dev.core c).inker.chosen = none ∧ s.dev.pick c stInk (s.dev.launchReady c) = some sl.val)
include hr hl hready hturn

/-- The LAUNCH whose turn it is admits its next block where it fits, and keeps its turn where it does not. -/
theorem execBlockAdmit_of_ready : execBlockAdmit c sl s = .next { s with dev := s.dev.admitOrWait c sl.val l r } := by
  unfold execBlockAdmit
  rw [onDev_eq]
  refine congrArg (fun d => Host.Outcome.next { s with dev := d }) ((if_neg (not_not_intro (Dev.admitTurn_eq hturn))).trans ?_)
  dsimp only
  rw [hl, hr]
  exact if_neg (by rw [hready]; decide)

theorem blockAdmit_spec {b a : Nat} {gs cs : List Nat}
    (hfit : (s.dev.core c).inker.fit sl.val ((l.hdr.map (fun h => h.1)).getD 0)
      (hBufSz r.img (eByte (entry r.img l.ent) 0xE % 16)) (eByte (entry r.img l.ent) 0xC) (eByte (entry r.img l.ent) 0xF) =
      some (b, gs, cs, a)) :
    ∃ d, execBlockAdmit c sl s = .next { s with dev := d } ∧ d = { s.dev with cores := d.cores } ∧
      (d.core c).inker.block b = some ⟨sl.val, l.ent, l.next, a⟩ ∧ (d.core c).inker.chosen = none ∧
      (d.core c).inker.launches = { l with next := l.next + 1 } :: (s.dev.core c).inker.launches.filter (fun y => y.slot != sl.val) ∧
      (∀ i g, gs[i]? = some g → i < cs.length → ∃ y, (d.core c).inker.group g = some y ∧ y.block = b ∧ y.grp = i ∧
        y.nreg = eByte (entry r.img l.ent) 0xF ∧ y.regs = [] ∧ ∃ p, y.paths = [p] ∧ p.pc = eAddr (entry r.img l.ent) + 0x20 ∧
        p.lanes = BitVec.allOnes 32 ∧ p.st = .run) ∧
      ∀ k, k ≠ c → d.core k = s.dev.core k := by
  have hslot : l.slot = sl.val := by have := List.find?_some hl; simpa using this
  have hexec := execBlockAdmit_of_ready hr hl hready hturn
  rw [Dev.admitOrWait_of_fit hfit] at hexec
  have hink : ((s.dev.chosen c stInk sl.val).core c).inker = (s.dev.core c).inker := by rw [Dev.core_chosen]; rfl
  refine ⟨_, hexec, rfl, ?_, ?_, ?_, fun i g hg hi => ?_, fun k hk => ?_⟩
  · rw [Dev.inker_admitNext, Inker.block_admitted, hslot]
  · rw [Dev.inker_admitNext]; rfl
  · rw [Dev.inker_admitNext, Inker.launches_admitted, hslot, hink]
  · rw [Dev.inker_admitNext]
    obtain ⟨col, hy⟩ := Inker.group_admitted (k := ((s.dev.chosen c stInk sl.val).core c).inker) (l := l) (e := entry r.img l.ent)
      (b := b) (a := a) (Inker.nodup_of_fit hfit) hg hi
    exact ⟨_, hy, rfl, rfl, rfl, rfl, _, rfl, rfl, rfl, rfl⟩
  · exact (Dev.core_modCore_ne _ _ hk).trans (Dev.core_modCore_ne _ _ hk)

theorem blockAdmit_waits
    (hfit : (s.dev.core c).inker.fit sl.val ((l.hdr.map (fun h => h.1)).getD 0)
      (hBufSz r.img (eByte (entry r.img l.ent) 0xE % 16)) (eByte (entry r.img l.ent) 0xC) (eByte (entry r.img l.ent) 0xF) = none) :
    ∃ d, execBlockAdmit c sl s = .next { s with dev := d } ∧ d = { s.dev with cores := d.cores } ∧
      d.core c = { s.dev.core c with inker := { (s.dev.core c).inker with chosen := some sl.val } } ∧
      ∀ k, k ≠ c → d.core k = s.dev.core k := by
  have hexec := execBlockAdmit_of_ready hr hl hready hturn
  rw [Dev.admitOrWait_of_not_fit hfit] at hexec
  exact ⟨_, hexec, rfl, Dev.core_modCore_same _ _ _, fun k hk => Dev.core_modCore_ne _ _ hk⟩

end

/-! ### The end of a block (R131) -/

/-- What becomes of a request of a core whose block ends: what is in flight for a group of the block goes on without it. -/
def Req.ofEndedBlock (c : CoreId) (mine : Nat → Bool) (r : Req) : Option Req :=
  match r.cli with
  | .inkSt c' g sl n => some (if c' = c ∧ mine g = true then { r with cli := .inkSt c 16 sl n } else r)
  | .inkLd c' g sl n => some (if c' = c ∧ mine g = true then { r with cli := .inkLd c 16 sl n } else r)
  | .atom c' g sl n => some (if c' = c ∧ mine g = true then { r with cli := .atom c 16 sl n } else r)
  | .ifetch c' g => if c' = c ∧ mine g = true then (if r.ready then none else some { r with cli := .prefetch c 8 0 }) else some r
  | _ => some r

/-- The group slot is one of a block's. -/
def Inker.blockHas (k : Inker) (b g : Nat) : Bool := (k.blockGroups b).any (fun e => e.1 == g)

theorem Inker.blockHas_iff {k : Inker} {b g : Nat} : k.blockHas b g = true ↔ ∃ e ∈ k.blockGroups b, e.1 = g := by
  simp [Inker.blockHas]

/-- The Inker once a block of a slot has ended. -/
def Inker.blockGone (k : Inker) (b sl : Nat) (j : Inker) : Inker :=
  { j with groups := j.groups.filter (fun e => !k.blockHas b e.1), blocks := NMap.put j.blocks b none none,
           launches := replaceFirst (fun y => y.slot == sl) (fun y => { y with ended := y.ended + 1 }) j.launches }

/-- The device once a block of a slot has ended. -/
def Dev.blockEnded (d : Dev) (c : CoreId) (b sl : Nat) : Dev :=
  ({ d with reqs := d.reqs.filterMap (Req.ofEndedBlock c ((d.core c).inker.blockHas b)) } : Dev).modInker c
    ((d.core c).inker.blockGone b sl)

theorem execBlockEnd_of_ended {c : CoreId} {b : Fin 8} {s : State} {x : Block} (hx : (s.dev.core c).inker.block b.val = some x)
    (hp : ∀ e ∈ (s.dev.core c).inker.blockGroups b.val, e.2.paths = []) :
    execBlockEnd c b s = .next { s with dev := s.dev.blockEnded c b.val x.slot } := by
  have hany : ((s.dev.core c).inker.blockGroups b.val).any (fun e => !e.2.paths.isEmpty) = false := by
    rw [List.any_eq_false]; intro e he; simp [hp e he]
  unfold execBlockEnd
  rw [onDev_eq]
  dsimp only
  rw [hx]
  dsimp only
  rw [if_neg (by rw [hany]; decide)]
  rfl

/-- No group slot is left to the block. -/
theorem Inker.blockGroups_blockGone (k : Inker) (b sl : Nat) : (k.blockGone b sl k).blockGroups b = [] := by
  unfold Inker.blockGroups
  rw [List.filterMap_eq_nil_iff]
  intro e he
  obtain ⟨hm, hout⟩ := List.mem_filter.mp he
  cases hg : e.2 with
  | none => rfl
  | some g =>
    dsimp only
    split
    · next hb =>
      have hin : k.blockHas b e.1 = true := Inker.blockHas_iff.mpr ⟨(e.1, g), List.mem_filterMap.mpr ⟨e, hm, by rw [hg]; simp [hb]⟩, rfl⟩
      rw [hin] at hout
      cases hout
    · rfl

/-- A request that is of no group of the block stays as it is. -/
theorem Req.ofEndedBlock_of_other {c : CoreId} {mine : Nat → Bool} {y : Req} (h : ∀ g, mine g = true → y.cli ≠ .ifetch c g ∧
    ∀ sl n, y.cli ≠ .inkSt c g sl n ∧ y.cli ≠ .inkLd c g sl n ∧ y.cli ≠ .atom c g sl n) : y.ofEndedBlock c mine = some y := by
  unfold Req.ofEndedBlock
  split
  · next c' g sl n hc => rw [if_neg]; rintro ⟨rfl, hg⟩; exact ((h g hg).2 sl n).1 hc
  · next c' g sl n hc => rw [if_neg]; rintro ⟨rfl, hg⟩; exact ((h g hg).2 sl n).2.1 hc
  · next c' g sl n hc => rw [if_neg]; rintro ⟨rfl, hg⟩; exact ((h g hg).2 sl n).2.2 hc
  · next c' g hc => rw [if_neg]; rintro ⟨rfl, hg⟩; exact (h g hg).1 hc
  · rfl

/-- Stores, loads and atomics of a group of the block go on without it. -/
theorem Req.ofEndedBlock_of_mine {c : CoreId} {mine : Nat → Bool} {y : Req} {g sl n : Nat} (hg : mine g = true) :
    (y.cli = .inkSt c g sl n → y.ofEndedBlock c mine = some { y with cli := .inkSt c 16 sl n }) ∧
    (y.cli = .inkLd c g sl n → y.ofEndedBlock c mine = some { y with cli := .inkLd c 16 sl n }) ∧
    (y.cli = .atom c g sl n → y.ofEndedBlock c mine = some { y with cli := .atom c 16 sl n }) := by
  unfold Req.ofEndedBlock
  refine ⟨fun h => ?_, fun h => ?_, fun h => ?_⟩ <;> rw [h] <;> exact congrArg some (if_pos ⟨rfl, hg⟩)

theorem blockEnd_spec {c : CoreId} {b : Fin 8} {s : State} {x : Block} (hx : (s.dev.core c).inker.block b.val = some x)
    (hp : ∀ e ∈ (s.dev.core c).inker.blockGroups b.val, e.2.paths = []) :
    ∃ d, execBlockEnd c b s = .next { s with dev := d } ∧ d = { s.dev with cores := d.cores, reqs := d.reqs } ∧
      (d.core c).inker.block b.val = none ∧ (d.core c).inker.blockGroups b.val = [] ∧
      (d.core c).inker.launches = replaceFirst (fun y => y.slot == x.slot) (fun y => { y with ended := y.ended + 1 })
        (s.dev.core c).inker.launches ∧
      (∀ k, k ≠ c → d.core k = s.dev.core k) ∧
      (∀ y ∈ s.dev.reqs, (∀ e ∈ (s.dev.core c).inker.blockGroups b.val, y.cli ≠ .ifetch c e.1 ∧
        ∀ sl n, y.cli ≠ .inkSt c e.1 sl n ∧ y.cli ≠ .inkLd c e.1 sl n ∧ y.cli ≠ .atom c e.1 sl n) → y ∈ d.reqs) ∧
      (∀ y ∈ s.dev.reqs, ∀ e ∈ (s.dev.core c).inker.blockGroups b.val, ∀ sl n,
        (y.cli = .inkSt c e.1 sl n → { y with cli := .inkSt c 16 sl n } ∈ d.reqs) ∧
        (y.cli = .inkLd c e.1 sl n → { y with cli := .inkLd c 16 sl n } ∈ d.reqs) ∧
        (y.cli = .atom c e.1 sl n → { y with cli := .atom c 16 sl n } ∈ d.reqs)) := by
  have hink : ((s.dev.blockEnded c b.val x.slot).core c).inker = (s.dev.core c).inker.blockGone b.val x.slot (s.dev.core c).inker :=
    congrArg Core.inker (Dev.core_modCore_same _ _ _)
  refine ⟨_, execBlockEnd_of_ended hx hp, rfl, ?_, ?_, ?_, fun k hk => Dev.core_modCore_ne _ _ hk, fun y hy ho => ?_,
    fun y hy e he sl n => ?_⟩
  · rw [hink]; exact NMap.get_put_same _ _ _ _
  · rw [hink, Inker.blockGroups_blockGone]
  · rw [hink]; rfl
  · refine List.mem_filterMap.mpr ⟨y, hy, Req.ofEndedBlock_of_other (fun g hg => ?_)⟩
    obtain ⟨e, he, rfl⟩ := Inker.blockHas_iff.mp hg
    exact ho e he
  · obtain ⟨hst, hld, hat⟩ := Req.ofEndedBlock_of_mine (c := c) (y := y) (sl := sl) (n := n) (Inker.blockHas_iff.mpr ⟨e, he, rfl⟩)
    exact ⟨fun h => List.mem_filterMap.mpr ⟨y, hy, hst h⟩, fun h => List.mem_filterMap.mpr ⟨y, hy, hld h⟩,
      fun h => List.mem_filterMap.mpr ⟨y, hy, hat h⟩⟩

/-! ### The obligation -/

theorem launch_spec {c : CoreId} {sl : Slot} {s : State} {r : Run} {n : Nat} (hr : s.dev.runAt c sl.val = some r)
    (hn : ((s.dev.core c).station stInk).nextOf sl.val = some n) (he : s.dev.eligible c stInk sl.val = true)
    (hl : ∀ l ∈ (s.dev.core c).inker.launches, l.slot ≠ sl.val) (hd : s.dev.domInReset (.core c) = false) :
    ∃ d e : Dev, execLaunch c sl s = .next { s with dev := d } ∧ Safety.memoryKept s.dev d ∧
      (e.core c).inker.icache = [] ∧ (e.core c).inker.launches = (s.dev.core c).inker.launches ++ [⟨sl.val, n, none, 0, 0⟩] ∧
      ((e.core c).station stInk).queue = dropFirst (fun x => decide (x = (sl.val, n))) ((s.dev.core c).station stInk).queue ∧
      e = { s.dev with cores := e.cores, queues := e.queues, reqs := e.reqs } ∧
      d = e.issue (s.dev.headerReq c sl.val n r) := by
  obtain ⟨hink, -, hst⟩ := s.dev.core_takeCmd_keeps c stInk sl.val n r
  refine ⟨_, s.dev.launchTaken c sl.val n r, execLaunch_of_eligible hr hn he hl hd, Safety.memoryKept_of_mem_eq ?_, ?_, ?_, ?_,
    s.dev.launchTaken_eq c sl.val n r, rfl⟩
  · rw [Dev.issue_mem, Dev.launchTaken_eq]
  · rw [Dev.core_launchTaken]
  · rw [Dev.core_launchTaken, hink]
  · rw [Dev.core_launchTaken]
    exact congrArg Station.queue hst

/-- Settles O22: a LAUNCH, its header, the admission of a block where it fits and where it waits, and the end of a block, each by a
lemma of its own. -/
theorem launchesAdmitAndEndBlocks : Obligations.LaunchesAdmitAndEndBlocks := by
  unfold Obligations.LaunchesAdmitAndEndBlocks
  refine fun c sl s r hr => ⟨fun n hn he hl hd => launch_spec hr hn he hl hd,
    fun q l h hq hl hh => execKernelHeaderArrival_of_ready hr hq hl hh, fun l lgran b gs cs a hl hready hturn hg hfit => ?_,
    fun l lgran hl hready hturn hg hfit => ?_, fun b x hx hp => blockEnd_spec hx hp⟩
  · subst hg; exact blockAdmit_spec hr hl hready hturn hfit
  · subst hg; exact blockAdmit_waits hr hl hready hturn hfit

end Sys2Proof.Machine

/-! ## Head waits and the end of runs (O18)

A poll, its reply and the timeout change the run of one slot; the end of a run clears its tokens and drops it from its queue, and what
is dropped is marked at the slots of the cores alone. -/

namespace Sys2Proof.Machine

/-! ### Runs that leave their queue (R186) -/

/-- The slot of a run that leaves its queue is free from now on. -/
def Dev.freeSlot (x : Nat) (d : Dev) (r : Run) : Dev :=
  match r.core with
  | some c => d.modCore c (fun k => match k.bind r.slot with
    | some b => k.setBind r.slot (some { b with freed := d.now (pressClk x) })
    | none => k)
  | none => d

theorem Dev.freeSlot_eq (x : Nat) (d : Dev) (r : Run) : d.freeSlot x r = { d with cores := (d.freeSlot x r).cores } := by
  unfold Dev.freeSlot; split <;> rfl

theorem Dev.tok_freeSlot (x : Nat) (d : Dev) (r : Run) (c : CoreId) (t : Nat) : ((d.freeSlot x r).core c).tok t = (d.core c).tok t := by
  unfold Dev.freeSlot
  split
  · next a _ =>
    by_cases h : c = a
    · subst h
      rw [Dev.core_modCore_same]
      split <;> rfl
    · rw [Dev.core_modCore_ne _ _ h]
  · rfl

theorem Dev.foldl_freeSlot_eq (x : Nat) (rs : List Run) (d : Dev) :
    rs.foldl (Dev.freeSlot x) d = { d with cores := (rs.foldl (Dev.freeSlot x) d).cores } := by
  induction rs generalizing d with
  | nil => rfl
  | cons r rs ih => rw [List.foldl_cons, ih, Dev.freeSlot_eq]

theorem Dev.tok_foldl_freeSlot (x : Nat) (rs : List Run) (d : Dev) (c : CoreId) (t : Nat) :
    ((rs.foldl (Dev.freeSlot x) d).core c).tok t = (d.core c).tok t := by
  induction rs generalizing d with
  | nil => rfl
  | cons r rs ih => rw [List.foldl_cons, ih, Dev.tok_freeSlot]

/-- The requests left once what was asked for some runs of a queue has been dropped. -/
def Dev.reqsWithout (d : Dev) (x q : Nat) (rs : List Run) : List Req :=
  d.reqs.filter (fun r => !rs.any (fun y => decide (r.cli = .fetch x q y.pos)))

/-- Runs leave a queue: what was asked for them goes, their slots are free, and the queue holds the others. -/
theorem Dev.dropRuns_eq_freeSlot (d : Dev) (x q : Nat) (gone : Run → Bool) :
    d.dropRuns x q gone = (((d.queue (queueKey x q)).runs.filter gone).foldl (Dev.freeSlot x)
      { d with reqs := d.reqsWithout x q ((d.queue (queueKey x q)).runs.filter gone) }).modQueue (queueKey x q)
        (fun y => { y with runs := y.runs.filter (fun r => !gone r) }) := rfl

theorem Dev.dropRuns_eq (d : Dev) (x q : Nat) (gone : Run → Bool) : d.dropRuns x q gone =
    { d with cores := (d.dropRuns x q gone).cores, queues := (d.dropRuns x q gone).queues, reqs := (d.dropRuns x q gone).reqs } := by
  rw [Dev.dropRuns_eq_freeSlot, Dev.foldl_freeSlot_eq]; rfl

theorem Dev.tok_dropRuns (d : Dev) (x q : Nat) (gone : Run → Bool) (c : CoreId) (t : Nat) :
    ((d.dropRuns x q gone).core c).tok t = (d.core c).tok t := by
  rw [Dev.dropRuns_eq_freeSlot]
  exact Dev.tok_foldl_freeSlot x _ _ c t

theorem Dev.runs_dropRuns (d : Dev) (x q : Nat) (gone : Run → Bool) : ((d.dropRuns x q gone).queue (queueKey x q)).runs =
    (d.queue (queueKey x q)).runs.filter (fun r => !gone r) := by
  rw [Dev.dropRuns_eq_freeSlot, Dev.queue_modQueue_same, Dev.foldl_freeSlot_eq]
  rfl

/-! ### Tokens given back (R51, R198) -/

/-- Tokens are given back. -/
def Core.clearToks (ts : List Nat) (k : Core) : Core := ts.foldl (fun k t => k.setTok t 0) k

theorem Core.clearToks_eq (ts : List Nat) (k : Core) : k.clearToks ts = { k with toks := (k.clearToks ts).toks } := by
  unfold Core.clearToks
  induction ts generalizing k with
  | nil => rfl
  | cons t ts ih => rw [List.foldl_cons, ih]; rfl

theorem Core.tok_setTok (k : Core) (t u v : Nat) : (k.setTok t v).tok u = if u = t then v else k.tok u := NMap.get_put k.toks 0 t u v

theorem Core.tok_clearToks_of_zero (ts : List Nat) {k : Core} {t : Nat} (h : k.tok t = 0) : (k.clearToks ts).tok t = 0 := by
  unfold Core.clearToks
  induction ts generalizing k with
  | nil => exact h
  | cons u ts ih => exact ih ((Core.tok_setTok k u t 0).trans (ite_eq_left_iff.mpr fun _ => h))

theorem Core.tok_clearToks {ts : List Nat} (k : Core) {t : Nat} (h : t ∈ ts) : (k.clearToks ts).tok t = 0 := by
  induction ts generalizing k with
  | nil => cases h
  | cons u ts ih =>
    rcases List.mem_cons.mp h with rfl | h
    · exact Core.tok_clearToks_of_zero ts (k := k.setTok t 0) (by rw [Core.tok_setTok, if_pos rfl])
    · exact ih _ h

/-! ### RUN_END (R63, R198) -/

/-- The device once an ended run has given back its tokens and left its queue. -/
def Dev.runGone (d : Dev) (c : CoreId) (q : Nat) (r : Run) : Dev :=
  (d.modCore c (Core.clearToks r.tokMap)).dropRun c.die.val q r.pos

theorem Dev.runGone_eq (d : Dev) (c : CoreId) (q : Nat) (r : Run) : d.runGone c q r =
    { d with cores := (d.runGone c q r).cores, queues := (d.runGone c q r).queues, reqs := (d.runGone c q r).reqs } := by
  unfold Dev.runGone Dev.dropRun; rw [Dev.dropRuns_eq]; rfl

theorem Dev.tok_runGone (d : Dev) (c : CoreId) (q : Nat) (r : Run) {t : Nat} (h : t ∈ r.tokMap) : ((d.runGone c q r).core c).tok t = 0 := by
  unfold Dev.runGone Dev.dropRun
  rw [Dev.tok_dropRuns, Dev.core_modCore_same]
  exact Core.tok_clearToks _ h

theorem Dev.runs_runGone (d : Dev) (c : CoreId) (q : Nat) (r : Run) : ((d.runGone c q r).queue (queueKey c.die.val q)).runs =
    (d.queue (queueKey c.die.val q)).runs.filter (fun y => y.pos != r.pos) := Dev.runs_dropRuns _ _ _ _

theorem execRunEnd_of_done {c : CoreId} {sl : Slot} {s : State} {r : Run} {b : Bind} (hr : s.dev.runAt c sl.val = some r)
    (hb : (s.dev.core c).bind sl.val = some b) (hs : r.stage = .ended) (hd : s.dev.runDone c sl.val = true) :
    execRunEnd c sl s = .next { s with dev := s.dev.finishRun c sl.val b.q r } := by
  unfold execRunEnd
  rw [onDev_eq, hr, hb]
  dsimp only
  rw [if_pos ⟨hs, hd⟩]

/-- An ended run gives back its tokens, leaves its queue and journals; its queue is HELD if it was to be. -/
theorem runEnd_spec {c : CoreId} {sl : Slot} {s : State} {r : Run} {b : Bind} (hr : s.dev.runAt c sl.val = some r)
    (hb : (s.dev.core c).bind sl.val = some b) (hs : r.stage = .ended) (hd : s.dev.runDone c sl.val = true) :
    ∃ (d e : Dev) (err : Nat), execRunEnd c sl s = .next { s with dev := d } ∧ Safety.memoryKept s.dev d ∧
      err = (if r.err = 0 ∧ r.tokMap.any (fun t => (s.dev.core c).tok t != 0) = true then 0x23 else r.err) ∧
      e = { s.dev with cores := e.cores, queues := e.queues, reqs := e.reqs } ∧ (∀ t ∈ r.tokMap, (e.core c).tok t = 0) ∧
      (e.queue (queueKey c.die.val b.q)).runs = (s.dev.queue (queueKey c.die.val b.q)).runs.filter (fun y => y.pos != r.pos) ∧
      ∃ w, w = e.writeJournal c.die.val b.q { r with err := err } (r.status err) (s.dev.gen (.core c))
          (NMap.get (s.dev.core c).sticky sl.val Sticky.init).xflag (NMap.get (s.dev.core c).sticky sl.val Sticky.init).chsat ∧
        d = (w.set (pImp c.die.val) fIMP_QSTAT_BEGUN b.q (w.qBegun c.die.val b.q - 1)).testHeld c.die.val b.q := by
  refine ⟨_, s.dev.runGone c b.q r, _, execRunEnd_of_done hr hb hs hd, ?_, rfl, Dev.runGone_eq _ _ _ _, fun t ht => Dev.tok_runGone _ _ _ _ ht,
    Dev.runs_runGone _ _ _ _, _, rfl, ?_⟩
  · exact Safety.memoryKept_of_mem_eq (Dev.finishRun_mem _ _ _ _ _)
  · rfl

/-! ### Polls (R77) -/

/-- A change that keeps the place and the stage of a slot's run leaves it at its slot. -/
theorem Dev.runAt_modRun_of_kept {d : Dev} {c : CoreId} {sl : Nat} {r : Run} {f : Run → Run} (h : d.runAt c sl = some r)
    (hc : (f r).core = r.core) (hsl : (f r).slot = r.slot) (hst : (f r).stage = r.stage) :
    (d.modRun c sl f).runAt c sl = some (f r) := by
  obtain ⟨h1, h2, h3⟩ := Dev.isAt_of_runAt h
  exact Dev.runAt_modRun h (Run.isAt_iff.mpr ⟨hc.trans h1, hsl.trans h2, fun h => h3 (hst.symm.trans h)⟩)

/-- The next poll of a run is due an interval later. -/
def Run.polled (r : Run) : Run := { r with pollDue := r.pollDue + 2 ^ hPoll r.img }

/-- A poll of the run is outstanding. -/
def Run.pollSent (r : Run) : Run := { r with pollOut := true }

/-- The flag read of a run that polls. -/
def Dev.pollReq (d : Dev) (c : CoreId) (sl : Nat) (r : Run) : Req :=
  { Req.blank with cli := .poll c sl, op := .rd, addr := hWaitB r.img,
                   mask := byteMask (hWaitB r.img % 128) (if waWide r.img then 8 else 4), part := d.slotPart c sl,
                   quad := c.die.val / 2, tc := 0, scope := waScope r.img }

section
variable {c : CoreId} {sl : Slot} {s : State} {r : Run} (hr : s.dev.runAt c sl.val = some r) (hs : r.stage = .waiting)
include hr hs

theorem execFlagPollDue_of_due (hk : hWaitKind r.img = 2) (hdue : r.pollDue ≤ s.dev.now (pressClk c.die.val)) :
    execFlagPollDue c sl s = .next { s with dev :=
      if r.pollOut = true then (s.dev.modRun c sl.val Run.polled)
      else ((s.dev.modRun c sl.val Run.polled).modRun c sl.val Run.pollSent).issue (s.dev.pollReq c sl.val r) } := by
  unfold execFlagPollDue
  rw [onDev_eq, hr]
  dsimp only
  rw [if_pos ⟨hs, hk, hdue⟩]
  rfl

/-- A poll that is due issues a flag read, unless one is outstanding. -/
theorem flagPollDue_spec (hk : hWaitKind r.img = 2) (hdue : r.pollDue ≤ s.dev.now (pressClk c.die.val)) :
    ∃ d e : Dev, execFlagPollDue c sl s = .next { s with dev := d } ∧ Safety.memoryKept s.dev d ∧
      e = { s.dev with queues := e.queues } ∧
      e.runAt c sl.val = some { r with pollDue := r.pollDue + 2 ^ hPoll r.img, pollOut := true } ∧
      (r.pollOut = true → d = e) ∧ (r.pollOut = false → d = e.issue (s.dev.pollReq c sl.val r)) := by
  have hexec := execFlagPollDue_of_due hr hs hk hdue
  have hpolled : (s.dev.modRun c sl.val Run.polled).runAt c sl.val = some r.polled := Dev.runAt_modRun_of_kept hr rfl rfl rfl
  cases hp : r.pollOut with
  | true =>
    rw [if_pos hp] at hexec
    refine ⟨_, _, hexec, Safety.memoryKept_of_mem_eq (Dev.modRun_mem _ _ _ _), Dev.modRun_eq _ _ _ _, ?_, fun _ => rfl, fun h => nomatch h⟩
    rw [hpolled, Run.polled, ← hp]
  | false =>
    rw [if_neg (by rw [hp]; decide)] at hexec
    refine ⟨_, _, hexec, Safety.memoryKept_of_mem_eq (by simp), ?_, Dev.runAt_modRun_of_kept hpolled rfl rfl rfl,
      fun h => (nomatch h), fun _ => rfl⟩
    rw [Dev.modRun_eq, Dev.modRun_eq]

/-- The device once a slot's flag read has returned. -/
def Dev.pollTaken (d : Dev) (c : CoreId) (sl : Nat) (q : Req) : Dev := (d.dropReq q.id).modRun c sl (fun r => { r with pollOut := false })

/-- What a reply makes of a wait on a flag: the comparison the head names (R77). -/
def pollHolds (r : Run) (q : Req) : Bool :=
  flagHolds (waCmp r.img) ((q.res >>> (8 * (q.addr % 128))) % 2 ^ (if waWide r.img then 64 else 32)) (hWaitC r.img)

theorem execFlagPollReply_of_ready {q : Req} (hq : s.dev.reqs.find? (fun y => decide (y.cli = .poll c sl.val) && y.ready) = some q) :
    execFlagPollReply c sl s = .next { s with dev :=
      if q.resErr = true then ((s.dev.pollTaken c sl.val q).endRun c sl.val 0x26 7 0xFFFF false).retireSlot c sl.val
      else if q.resPsn = true then ((s.dev.pollTaken c sl.val q).endRun c sl.val 0x22 7 0xFFFF false).retireSlot c sl.val
      else (s.dev.pollTaken c sl.val q).testHeads (fun y => y.core == some c && y.slot == sl.val && pollHolds r q) } := by
  unfold execFlagPollReply
  rw [onDev_eq, hr, hq]
  dsimp only
  rw [if_neg (not_not_intro hs)]
  rfl

/-- The wait is satisfied by a reply in time for which the comparison holds, and goes on else. -/
theorem Dev.stage_pollTaken (q : Req) : ∃ y, ((s.dev.pollTaken c sl.val q).testHeads
      (fun y => y.core == some c && y.slot == sl.val && pollHolds r q)).runAt c sl.val = some y ∧
    y.stage = if s.dev.now (pressClk c.die.val) ≤ r.waitStart + waitLimit r.img ∧ pollHolds r q = true then .ready else .waiting := by
  obtain ⟨hcore, hslot, -⟩ := Dev.isAt_of_runAt hr
  have htaken : (s.dev.pollTaken c sl.val q).runAt c sl.val = some { r with pollOut := false } :=
    Dev.runAt_modRun_of_kept (d := s.dev.dropReq q.id) hr rfl rfl rfl
  obtain ⟨y, hy, hl⟩ := Dev.runAt_testHeads (fun y => y.core == some c && y.slot == sl.val && pollHolds r q) htaken
  refine ⟨y, hy, (hl.stage hs).trans ?_⟩
  have hnow : (s.dev.pollTaken c sl.val q).now (pressClk c.die.val) = s.dev.now (pressClk c.die.val) := by
    unfold Dev.pollTaken; rw [Dev.modRun_eq]; rfl
  rw [Dev.inTime_of_core (r := { r with pollOut := false }) hcore, hnow]
  simp [hcore, hslot]

/-- The reply to a poll satisfies the wait, leaves it, or ends the run. -/
theorem flagPollReply_spec {q : Req} (hq : s.dev.reqs.find? (fun y => decide (y.cli = .poll c sl.val) && y.ready) = some q) :
    ∃ d e : Dev, execFlagPollReply c sl s = .next { s with dev := d } ∧ Safety.memoryKept s.dev d ∧
      e = { s.dev with queues := e.queues, reqs := e.reqs } ∧ e.reqs = dropFirst (fun y => y.id == q.id) s.dev.reqs ∧
      e.runAt c sl.val = some { r with pollOut := false } ∧
      (q.resErr = true → d = (e.endRun c sl.val 0x26 7 0xFFFF false).retireSlot c sl.val) ∧
      (q.resErr = false → q.resPsn = true → d = (e.endRun c sl.val 0x22 7 0xFFFF false).retireSlot c sl.val) ∧
      (q.resErr = false → q.resPsn = false → d = { e with queues := d.queues, useCtr := d.useCtr } ∧
        ∃ y, d.runAt c sl.val = some y ∧ y.stage =
          if s.dev.now (pressClk c.die.val) ≤ r.waitStart + waitLimit r.img ∧ pollHolds r q = true then .ready else .waiting) := by
  refine ⟨_, s.dev.pollTaken c sl.val q, execFlagPollReply_of_ready hr hs hq, ?_, ?_, ?_,
    Dev.runAt_modRun_of_kept (d := s.dev.dropReq q.id) hr rfl rfl rfl, fun he => if_pos he, fun he hp => ?_, fun he hp => ?_⟩
  · refine Safety.memoryKept_of_mem_eq ?_
    unfold Dev.pollTaken
    split
    · simp
    · split <;> simp
  · unfold Dev.pollTaken; rw [Dev.modRun_eq]; rfl
  · unfold Dev.pollTaken; rw [Dev.modRun_eq]; rfl
  · rw [if_neg (by rw [he]; decide), if_pos hp]
  · rw [if_neg (by rw [he]; decide), if_neg (by rw [hp]; decide)]
    exact ⟨Dev.testHeads_eq _ _, Dev.stage_pollTaken hr hs q⟩

/-! ### The timeout of a head wait (R77) -/

/-- A wait that its limit has passed ends the run with HEADTMO, not started. -/
theorem headWaitTimeout_spec (hlate : r.waitStart + waitLimit r.img < s.dev.now (pressClk c.die.val)) :
    ∃ d e : Dev, execHeadWaitTimeout c sl s = .next { s with dev := d } ∧ Safety.memoryKept s.dev d ∧
      d = e.retireSlot c sl.val ∧ (s.dev.inReset (.core c) = false → (e.get (.core c) fERR_STAT_SRC 0).testBit 1 = true) ∧
      ∃ y, e.runAt c sl.val = some y ∧ y.stage = .retiring ∧ y.err = 0x21 ∧ y.img = r.img := by
  obtain ⟨hcore, -, -⟩ := Dev.isAt_of_runAt hr
  have h1 : r.stage ≠ .retiring := by rw [hs]; decide
  have h2 : r.stage ≠ .ended := by rw [hs]; decide
  have htime : s.dev.inTime r = false := by rw [Dev.inTime_of_core hcore, decide_eq_false_iff_not]; omega
  refine ⟨_, s.dev.endRun c sl.val 0x21 0 0xFFFF false, ?_, ?_, rfl, fun hreset => ?_, _, Dev.runAt_endRun_same _ _ _ _ hr h1 h2, ?_, rfl, rfl⟩
  · unfold execHeadWaitTimeout
    rw [onDev_eq, hr]
    dsimp only
    rw [if_pos ⟨hs, htime⟩]
  · exact Safety.memoryKept_of_mem_eq (by simp)
  · exact Dev.testBit_errStat_endRun _ _ _ hr h1 h2 (code := 0x21) rfl (by decide) hreset
  · show (if r.stage = .begun then Stage.ended else .retiring) = .retiring
    rw [hs]; rfl

end

/-- Settles O18: `runEnd_spec`, `flagPollDue_spec`, `flagPollReply_spec` and `headWaitTimeout_spec`, one for each of the four commands. -/
theorem runsWaitAndEnd : Obligations.RunsWaitAndEnd := by
  unfold Obligations.RunsWaitAndEnd
  exact ⟨fun _ _ _ _ _ hr hb hs hd => runEnd_spec hr hb hs hd, fun _ _ _ _ hr hs =>
    ⟨flagPollDue_spec hr hs, fun _ hq => flagPollReply_spec hr hs hq, headWaitTimeout_spec hr hs⟩⟩

end Sys2Proof.Machine

/-! ## Runs are fetched, checked and bound (R61, R185, R186)

A fetch is three arrivals of bytes: the ring entry, the header, and the entries once the run fits into the buffer (the model's reading
of R185, log entry 15). Each clause follows one branch of `Dev.imageArrives`; what it does to the queue is a `replaceFirst` at the run's
position. -/

namespace Sys2Proof.Machine

/-! ### Asking for a run (R185) -/

/-- The queues of an Imposer's level give up the mark of the one last served. -/
def Dev.unserve (d : Dev) (x lvl : Nat) : Dev :=
  { d with queues := NMap.update d.queues Queue.init (fun j y =>
      if j / 64 = x ∧ d.qPrio x (j % 64) = lvl then { y with served := false } else y) }

theorem Dev.runs_unserve (d : Dev) (x lvl j : Nat) : ((d.unserve x lvl).queue j).runs = (d.queue j).runs := by
  have hget := NMap.get_update (m := d.queues) (d := Queue.init)
    (fun j y => if j / 64 = x ∧ d.qPrio x (j % 64) = lvl then { y with served := false } else y)
    (fun k => by split <;> rfl) j
  show (NMap.get (d.unserve x lvl).queues j Queue.init).runs = (d.queue j).runs
  rw [Dev.unserve, hget]
  split <;> rfl

/-- The queue is served, and fetches the run at a position. -/
def Dev.fetching (d : Dev) (x q pos : Nat) : Dev :=
  (d.unserve x (d.qPrio x q)).modQueue (queueKey x q) (fun y => { y with served := true, runs := y.runs ++ [Run.new pos] })

/-- The queue chosen for fetching has its next position's run fetched. -/
theorem runFetch_spec {k : QId} {s : State} {x q : Nat} (hx : x = k.die.val) (hq : q = k.q.val) (hpick : s.dev.fetchPick x = some q)
    (hwaits : s.dev.fetchWaits x = false) (hreset : s.dev.inReset (pImp x) = false) :
    ∃ d e : Dev, execRunFetch k s = .next { s with dev := e } ∧
      e = d.fetchBytes x q (s.dev.nextFetch x q) (s.dev.qBase x q 0x108 + 8 * (s.dev.nextFetch x q % s.dev.qSize x q)) 8 ∧
      d = { s.dev with queues := d.queues } ∧
      (d.queue (queueKey x q)).runs = (s.dev.queue (queueKey x q)).runs ++ [Run.new (s.dev.nextFetch x q)] ∧
      (d.queue (queueKey x q)).served = true ∧ ∀ j, j ≠ queueKey x q → (d.queue j).runs = (s.dev.queue j).runs := by
  subst hx hq
  refine ⟨s.dev.fetching k.die.val k.q.val (s.dev.nextFetch k.die.val k.q.val), _, ?_, rfl, rfl, ?_, ?_, fun j hj => ?_⟩
  · unfold execRunFetch
    rw [onDev_eq]
    dsimp only
    rw [if_pos ⟨hpick, hwaits, hreset⟩]
    rfl
  · rw [Dev.fetching, Dev.queue_modQueue_same, Dev.runs_unserve]
  · rw [Dev.fetching, Dev.queue_modQueue_same]
  · rw [Dev.fetching, Dev.modQueue, Dev.queue_setQueue_ne _ _ _ hj, Dev.runs_unserve]

/-! ### A run at a position of a queue -/

/-- The queue's run at a position changes. -/
def Dev.modRunPos (d : Dev) (x q pos : Nat) (f : Run → Run) : Dev :=
  d.modQueue (queueKey x q) (fun y => { y with runs := replaceFirst (fun z => z.pos == pos) f y.runs })

theorem Dev.exists_mem_modRunPos {d : Dev} {x q pos : Nat} (f : Run → Run) (h : ∃ r ∈ (d.queue (queueKey x q)).runs, r.pos = pos) :
    ∃ w, w.pos = pos ∧ f w ∈ ((d.modRunPos x q pos f).queue (queueKey x q)).runs := by
  obtain ⟨r, hm, hp⟩ := h
  obtain ⟨w, -, hw, hf⟩ := exists_mem_replaceFirst (p := fun z : Run => z.pos == pos) f ⟨r, hm, beq_iff_eq.mpr hp⟩
  exact ⟨w, beq_iff_eq.mp hw, by rw [Dev.modRunPos, Dev.queue_modQueue_same]; exact hf⟩

/-- The end of a fetch checks or retires the run at its position, and changes nothing but its queue. -/
theorem fetchEnd_spec {d : Dev} {x q pos : Nat} (code ent : Nat) (img : Img) (cmds : List (List Nat))
    (h : ∃ r ∈ (d.queue (queueKey x q)).runs, r.pos = pos) :
    ∃ e, d.fetchEnd x q pos code ent img cmds = e ∧ e = { d with queues := e.queues } ∧
      ∃ z ∈ (e.queue (queueKey x q)).runs, z.pos = pos ∧ z.stage = (if code = 0 then .checked else .retiring) ∧ z.err = code ∧
        z.ent = ent ∧ z.img = img ∧ z.toPlace = cmds ∧ z.checkedAt = d.now (pressClk x) := by
  obtain ⟨w, hw, hm⟩ := Dev.exists_mem_modRunPos (fun r : Run =>
    { r with stage := if code = 0 then .checked else .retiring, err := code, ent := ent, img := img, toPlace := cmds,
             checkedAt := d.now (pressClk x) }) h
  exact ⟨_, rfl, rfl, _, hm, hw, rfl, rfl, rfl, rfl, rfl, rfl⟩

/-! ### Bytes that arrive (R185) -/

/-- The whole image is checked. -/
def Dev.imageChecked (d : Dev) (x q : Nat) (r : Run) (img : Img) : Dev :=
  match checkRun img (d.targetSet x q) (d.quadsOf (d.chanOf (x / 2))) with
  | some (code, ent) => d.fetchEnd x q r.pos code ent img []
  | none => d.fetchEnd x q r.pos 0 0xFFFF img (cmdsOf img)

theorem Dev.imageGoes_of_entry {d : Dev} {x q : Nat} {r : Run} {bytes : List Byte} (h : r.phase = 0) :
    d.imageGoes x q r bytes =
      if 2 ^ 48 ≤ fieldLE bytes 0 8 ∨ fieldLE bytes 0 8 % 64 ≠ 0 then (d.raise (pImp x) 1 q).fetchEnd x q r.pos 0x41 0xFFFF [] []
      else (d.modRunPos x q r.pos (fun z => { z with phase := 1, hdrAddr := fieldLE bytes 0 8 })).fetchBytes x q r.pos
        (fieldLE bytes 0 8) 64 := by
  unfold Dev.imageGoes; rw [h]; rfl

theorem Dev.imageGoes_of_header {d : Dev} {x q : Nat} {r : Run} {bytes : List Byte} (h : r.phase = 1) :
    d.imageGoes x q r bytes =
      if imageBytes bytes - 64 = 0 then d.imageChecked x q r bytes
      else (d.modRunPos x q r.pos (fun z => { z with phase := 2, img := bytes })).fetchBytes x q r.pos (r.hdrAddr + 64)
        (imageBytes bytes - 64) := by
  unfold Dev.imageGoes; rw [h]; rfl

theorem Dev.imageGoes_of_entries {d : Dev} {x q : Nat} {r : Run} {bytes : List Byte} (h : r.phase = 2) :
    d.imageGoes x q r bytes = d.imageChecked x q r (r.img ++ bytes) := by
  unfold Dev.imageGoes; rw [h]; rfl

theorem imageBytes_of_legal {h : Img} (h1 : 1 ≤ hNent h) (h2 : hNent h ≤ 256) : imageBytes h - 64 = 32 * hNent h := by
  unfold imageBytes; rw [if_pos ⟨h1, h2⟩]; omega

theorem imageBytes_of_illegal {h : Img} (hn : hNent h = 0 ∨ 256 < hNent h) : imageBytes h - 64 = 0 := by
  unfold imageBytes; rw [if_neg (by omega)]

/-- The device without the requests of a run's fetch. -/
def Dev.fetchGone (d : Dev) (x q pos : Nat) : Dev := { d with reqs := d.reqs.filter (fun y => !decide (y.cli = .fetch x q pos)) }

section
variable {d : Dev} {x q : Nat} {r : Run}
  (hr : (d.queue (queueKey x q)).runs.find? (fun r => r.stage == .fetching &&
    !(d.fetchReqs x q r.pos).isEmpty && (d.fetchReqs x q r.pos).all (fun y => y.ready)) = some r)
include hr

theorem Dev.mem_runs_of_arrival : ∃ z ∈ (d.queue (queueKey x q)).runs, z.pos = r.pos := ⟨r, List.mem_of_find?_eq_some hr, rfl⟩

theorem Dev.imageArrives_of_error (h : ∃ y ∈ d.fetchReqs x q r.pos, y.resErr = true ∨ y.resPsn = true) :
    d.imageArrives x q r = ((d.fetchGone x q r.pos).raise (pImp x) 0 q).fetchEnd x q r.pos 0x40 0xFFFF r.img [] := by
  have hall := List.find?_some hr
  have hany : (d.fetchReqs x q r.pos).any (fun y => y.resErr || y.resPsn) = true := by simpa using h
  simp only [Bool.and_eq_true] at hall
  obtain ⟨⟨-, hne⟩, hrd⟩ := hall
  unfold Dev.imageArrives
  dsimp only
  rw [if_neg (by simp only [Bool.not_eq_true'] at hne; simp [hne, hrd]), if_pos hany]
  rfl

theorem Dev.imageArrives_of_good (h : ∀ y ∈ d.fetchReqs x q r.pos, y.resErr = false ∧ y.resPsn = false) :
    d.imageArrives x q r =
      if r.phase = 1 ∧ 131072 < d.bufUsed x + imageBytes (Dev.fetched (d.fetchReqs x q r.pos)) then d
      else (d.fetchGone x q r.pos).imageGoes x q r (Dev.fetched (d.fetchReqs x q r.pos)) := by
  have hall := List.find?_some hr
  have hany : (d.fetchReqs x q r.pos).any (fun y => y.resErr || y.resPsn) = false := by
    rw [List.any_eq_false]; intro y hy; simp [h y hy]
  simp only [Bool.and_eq_true] at hall
  obtain ⟨⟨-, hne⟩, hrd⟩ := hall
  unfold Dev.imageArrives
  dsimp only
  rw [if_neg (by simp only [Bool.not_eq_true'] at hne; simp [hne, hrd]), if_neg (by rw [hany]; decide)]
  rfl

/-- A ring entry off its grid or out of range ends the run with QENTRY; a good one has the header asked for. -/
theorem Dev.imageArrives_entry {bytes : List Byte} (h : ∀ y ∈ d.fetchReqs x q r.pos, y.resErr = false ∧ y.resPsn = false)
    (hp : r.phase = 0) (hb : Dev.fetched (d.fetchReqs x q r.pos) = bytes) :
    ((2 ^ 48 ≤ fieldLE bytes 0 8 ∨ fieldLE bytes 0 8 % 64 ≠ 0) →
      d.imageArrives x q r = ((d.fetchGone x q r.pos).raise (pImp x) 1 q).fetchEnd x q r.pos 0x41 0xFFFF [] []) ∧
    (fieldLE bytes 0 8 < 2 ^ 48 → fieldLE bytes 0 8 % 64 = 0 →
      ∃ f : Dev, d.imageArrives x q r = f.fetchBytes x q r.pos (fieldLE bytes 0 8) 64 ∧
        f = { d.fetchGone x q r.pos with queues := f.queues } ∧
        ∃ z ∈ (f.queue (queueKey x q)).runs, z.pos = r.pos ∧ z.phase = 1 ∧ z.hdrAddr = fieldLE bytes 0 8) := by
  rw [Dev.imageArrives_of_good hr h, if_neg (by omega), hb, Dev.imageGoes_of_entry hp]
  refine ⟨fun hbad => if_pos hbad, fun h1 h2 => ?_⟩
  rw [if_neg (by omega)]
  obtain ⟨w, hw, hm⟩ := Dev.exists_mem_modRunPos (d := d.fetchGone x q r.pos)
    (fun z : Run => { z with phase := 1, hdrAddr := fieldLE bytes 0 8 }) (Dev.mem_runs_of_arrival (d := d) hr)
  exact ⟨_, rfl, rfl, _, hm, hw, rfl, rfl⟩

/-- A header whose run does not fit into the buffer waits. -/
theorem Dev.imageArrives_header_waits {bytes : List Byte} (h : ∀ y ∈ d.fetchReqs x q r.pos, y.resErr = false ∧ y.resPsn = false)
    (hp : r.phase = 1) (hb : Dev.fetched (d.fetchReqs x q r.pos) = bytes) (hfull : 131072 < d.bufUsed x + imageBytes bytes) :
    d.imageArrives x q r = d := by
  rw [Dev.imageArrives_of_good hr h, hb, if_pos ⟨hp, hfull⟩]

/-- A header whose run fits has the run's entries asked for. -/
theorem Dev.imageArrives_header {bytes : List Byte} (h : ∀ y ∈ d.fetchReqs x q r.pos, y.resErr = false ∧ y.resPsn = false)
    (hp : r.phase = 1) (hb : Dev.fetched (d.fetchReqs x q r.pos) = bytes) (hfit : d.bufUsed x + imageBytes bytes ≤ 131072)
    (h1 : 1 ≤ hNent bytes) (h2 : hNent bytes ≤ 256) :
    ∃ f : Dev, d.imageArrives x q r = f.fetchBytes x q r.pos (r.hdrAddr + 64) (32 * hNent bytes) ∧
      f = { d.fetchGone x q r.pos with queues := f.queues } ∧
      ∃ z ∈ (f.queue (queueKey x q)).runs, z.pos = r.pos ∧ z.phase = 2 ∧ z.img = bytes := by
  rw [Dev.imageArrives_of_good hr h, hb, if_neg (by omega), Dev.imageGoes_of_header hp, imageBytes_of_legal h1 h2, if_neg (by omega)]
  obtain ⟨w, hw, hm⟩ := Dev.exists_mem_modRunPos (d := d.fetchGone x q r.pos) (fun z : Run => { z with phase := 2, img := bytes })
    (Dev.mem_runs_of_arrival (d := d) hr)
  exact ⟨_, rfl, rfl, _, hm, hw, rfl, rfl⟩

/-- An image that is whole, or whose header names no legal number of entries, is checked. -/
theorem Dev.imageArrives_whole {bytes : List Byte} {img : Img}
    (h : ∀ y ∈ d.fetchReqs x q r.pos, y.resErr = false ∧ y.resPsn = false) (hb : Dev.fetched (d.fetchReqs x q r.pos) = bytes)
    (hi : r.phase = 1 ∧ d.bufUsed x + imageBytes bytes ≤ 131072 ∧ (hNent bytes = 0 ∨ 256 < hNent bytes) ∧ img = bytes ∨
      r.phase = 2 ∧ img = r.img ++ bytes) : d.imageArrives x q r = (d.fetchGone x q r.pos).imageChecked x q r img := by
  rw [Dev.imageArrives_of_good hr h, hb, if_neg (by omega)]
  rcases hi with ⟨hp, -, hn, rfl⟩ | ⟨hp, rfl⟩
  · rw [Dev.imageGoes_of_header hp, if_pos (imageBytes_of_illegal hn)]
  · rw [Dev.imageGoes_of_entries hp]

end

theorem Dev.imageChecked_of_pass {d : Dev} {x q : Nat} {r : Run} {img : Img}
    (h : checkRun img (d.targetSet x q) (d.quadsOf (d.chanOf (x / 2))) = none) :
    d.imageChecked x q r img = d.fetchEnd x q r.pos 0 0xFFFF img (cmdsOf img) := by unfold Dev.imageChecked; rw [h]

theorem Dev.imageChecked_of_fail {d : Dev} {x q : Nat} {r : Run} {img : Img} {code ent : Nat}
    (h : checkRun img (d.targetSet x q) (d.quadsOf (d.chanOf (x / 2))) = some (code, ent)) :
    d.imageChecked x q r img = d.fetchEnd x q r.pos code ent img [] := by unfold Dev.imageChecked; rw [h]

/-- When every line asked for is there, the fetch goes on as its bytes and its phase say, and what retires does. -/
theorem runImageArrival_spec {s : State} {x : Nat} {k : Fin 64} {quad : Quad} {half : Fin 2} {r : Run} {rs : List Req} {bytes : List Byte}
    {gone : Dev} (hx : x = 2 * quad.val + half.val)
    (hr : (s.dev.queue (queueKey x k.val)).runs.find? (fun r => r.stage == .fetching &&
      !(s.dev.fetchReqs x k.val r.pos).isEmpty && (s.dev.fetchReqs x k.val r.pos).all (fun y => y.ready)) = some r)
    (hreset : s.dev.inReset (pImp x) = false) (hrs : s.dev.fetchReqs x k.val r.pos = rs) (hb : Dev.fetched rs = bytes)
    (hgone : gone = s.dev.fetchGone x k.val r.pos) :
    ∃ d e : Dev, execRunImageArrival quad half k s = .next { s with dev := d } ∧ Safety.memoryKept s.dev d ∧
      d = e.retireAll x k.val ∧
      ((∃ y ∈ rs, y.resErr = true ∨ y.resPsn = true) →
        e = (gone.raise (pImp x) 0 k.val).fetchEnd x k.val r.pos 0x40 0xFFFF r.img []) ∧
      ((∀ y ∈ rs, y.resErr = false ∧ y.resPsn = false) →
        (r.phase = 1 → 131072 < s.dev.bufUsed x + imageBytes bytes → e = s.dev) ∧
        (r.phase = 0 →
          ((2 ^ 48 ≤ fieldLE bytes 0 8 ∨ fieldLE bytes 0 8 % 64 ≠ 0) →
            e = (gone.raise (pImp x) 1 k.val).fetchEnd x k.val r.pos 0x41 0xFFFF [] []) ∧
          (fieldLE bytes 0 8 < 2 ^ 48 → fieldLE bytes 0 8 % 64 = 0 →
            ∃ f : Dev, e = f.fetchBytes x k.val r.pos (fieldLE bytes 0 8) 64 ∧ f = { gone with queues := f.queues } ∧
              ∃ z ∈ (f.queue (queueKey x k.val)).runs, z.pos = r.pos ∧ z.phase = 1 ∧ z.hdrAddr = fieldLE bytes 0 8)) ∧
        (r.phase = 1 → s.dev.bufUsed x + imageBytes bytes ≤ 131072 → 1 ≤ hNent bytes → hNent bytes ≤ 256 →
          ∃ f : Dev, e = f.fetchBytes x k.val r.pos (r.hdrAddr + 64) (32 * hNent bytes) ∧ f = { gone with queues := f.queues } ∧
            ∃ z ∈ (f.queue (queueKey x k.val)).runs, z.pos = r.pos ∧ z.phase = 2 ∧ z.img = bytes) ∧
        (∀ img, (r.phase = 1 ∧ s.dev.bufUsed x + imageBytes bytes ≤ 131072 ∧ (hNent bytes = 0 ∨ 256 < hNent bytes) ∧ img = bytes ∨
              r.phase = 2 ∧ img = r.img ++ bytes) →
          (checkRun img (s.dev.targetSet x k.val) (s.dev.quadsOf (s.dev.chanOf (x / 2))) = none →
            e = gone.fetchEnd x k.val r.pos 0 0xFFFF img (cmdsOf img)) ∧
          (∀ code ent, checkRun img (s.dev.targetSet x k.val) (s.dev.quadsOf (s.dev.chanOf (x / 2))) = some (code, ent) →
            e = gone.fetchEnd x k.val r.pos code ent img []))) := by
  subst hx hrs hgone
  refine ⟨_, s.dev.imageArrives _ k.val r, ?_, Safety.memoryKept_of_mem_eq (by simp), rfl, Dev.imageArrives_of_error hr, fun hgood =>
    ⟨fun hp => Dev.imageArrives_header_waits hr hgood hp hb, fun hp => Dev.imageArrives_entry hr hgood hp hb,
      fun hp => Dev.imageArrives_header hr hgood hp hb, fun img hi => ?_⟩⟩
  · unfold execRunImageArrival
    rw [onDev_eq]
    dsimp only
    rw [hr]
    dsimp only
    rw [if_neg (by rw [hreset]; decide)]
  · rw [Dev.imageArrives_whole hr hgood hb hi]
    exact ⟨Dev.imageChecked_of_pass (d := s.dev.fetchGone _ _ _), fun _ _ => Dev.imageChecked_of_fail (d := s.dev.fetchGone _ _ _)⟩

/-! ### Binding (R186) -/

/-- The run takes its slot, and its head wait begins. -/
def Run.bound (c : CoreId) (sl now : Nat) (r : Run) : Run :=
  { r with stage := .waiting, core := some c, slot := sl, waitStart := now, pollDue := now }

/-- What the head wait of a run asks for is there as the wait begins. -/
def Dev.waitMet (d : Dev) (c : CoreId) (sl : Nat) (r : Run) : Bool :=
  match hWaitKind r.img with
  | 0 => true
  | 1 => decide (hWaitB r.img ≤ (NMap.get d.arr (arrKey (waQuad r.img) (waCtr r.img)) (0 : BitVec 64)).toNat)
  | 3 => decide (waCnt r.img ≤ d.headTok c sl (waTok r.img))
  | _ => false

theorem Dev.testRun_eq_testHeads (d : Dev) (c : CoreId) (sl : Nat) :
    d.testRun c sl = d.testHeads (fun r => r.core == some c && r.slot == sl && d.waitMet c sl r) := rfl

/-- A run bound to a core waits there, and is ready at once where it waits for nothing. -/
theorem Dev.exists_mem_testRun_bound {d : Dev} {key : Nat} {c : CoreId} {sl now : Nat} {w : Run} (h : w.bound c sl now ∈ (d.queue key).runs) :
    ∃ y ∈ ((d.testRun c sl).queue key).runs, y.pos = w.pos ∧ y.core = some c ∧ y.slot = sl ∧ y.waitStart = now ∧
      (y.stage = .waiting ∨ y.stage = .ready) ∧ (hWaitKind y.img = 0 → d.now (pressClk c.die.val) = now → y.stage = .ready) := by
  rw [Dev.testRun_eq_testHeads]
  obtain ⟨y, hy, hl⟩ := Dev.exists_mem_queue_testHeads (fun r => r.core == some c && r.slot == sl && d.waitMet c sl r) h
  have hst := hl.stage rfl
  have heq := hl.eq
  have himg : y.img = w.img := by rw [heq]; rfl
  refine ⟨y, hy, by rw [heq]; rfl, by rw [heq]; rfl, by rw [heq]; rfl, by rw [heq]; rfl, ?_, fun hk hnow => ?_⟩
  · rw [hst]
    by_cases hok : (fun r => d.inTime r && (r.core == some c && r.slot == sl && d.waitMet c sl r)) (w.bound c sl now) = true
    · exact .inr (if_pos hok)
    · exact .inl (if_neg hok)
  · have htime : d.inTime (w.bound c sl now) = true := by
      rw [Dev.inTime_of_core (r := w.bound c sl now) (c := c) rfl, hnow]
      exact decide_eq_true (Nat.le_add_right _ _)
    have hmet : d.waitMet c sl (w.bound c sl now) = true := by
      unfold Dev.waitMet
      rw [show hWaitKind (w.bound c sl now).img = 0 from himg ▸ hk]
      rfl
    rw [hst, htime, hmet]
    simp [Run.bound]

/-- A checked run one of whose slots is free is bound there. -/
theorem runBind_spec {k : QId} {s : State} {x q pos : Nat} {c : CoreId} {sl : Nat} (hx : x = k.die.val) (hq : q = k.q.val)
    (h : ((s.dev.queue (queueKey x q)).runs.filter (fun r => r.stage == .checked)).findSome?
      (fun r => (s.dev.bindAt x q r).map (fun e => (r.pos, e))) = some (pos, c, sl)) :
    ∃ d, execRunBind k s = .next { s with dev := d } ∧ d = { s.dev with queues := d.queues, useCtr := d.useCtr } ∧
      ∃ r ∈ (d.queue (queueKey x q)).runs, r.pos = pos ∧ r.core = some c ∧ r.slot = sl ∧
        r.waitStart = s.dev.now (pressClk x) ∧ (r.stage = .waiting ∨ r.stage = .ready) ∧
        (hWaitKind r.img = 0 → c.die = k.die → r.stage = .ready) := by
  subst hx hq
  obtain ⟨r, hr, hpos⟩ := List.exists_of_findSome?_eq_some h
  obtain ⟨e, -, he⟩ := Option.map_eq_some_iff.mp hpos
  have hmem : ∃ r ∈ (s.dev.queue (queueKey k.die.val k.q.val)).runs, r.pos = pos :=
    ⟨r, (List.mem_filter.mp hr).1, congrArg Prod.fst he⟩
  obtain ⟨w, hw, hm⟩ := Dev.exists_mem_modRunPos (Run.bound c sl (s.dev.now (pressClk k.die.val))) hmem
  obtain ⟨y, hy, hypos, hcore, hslot, hstart, hstage, hready⟩ := Dev.exists_mem_testRun_bound hm
  refine ⟨(s.dev.modRunPos k.die.val k.q.val pos (Run.bound c sl (s.dev.now (pressClk k.die.val)))).testRun c sl, ?_, rfl, y, hy,
    hypos.trans hw, hcore, hslot, hstart, hstage, fun hk hdie => hready hk (by rw [hdie]; rfl)⟩
  unfold execRunBind
  rw [onDev_eq]
  dsimp only
  rw [h]
  rfl

end Sys2Proof.Machine

/-! ## Runs begin and their commands are placed (O17; R51, R54, R187, R188)

`Dev.runBegun` is what a run's begin does before what retires does; its registers, its slot's run and the corrected error of the Stone
are read off step by step. -/

namespace Sys2Proof.Machine

/-! ### What a Stone access finds at a core (R54) -/

theorem Dev.runAt_of_mem_coreRuns {d : Dev} {c : CoreId} {e : Nat × Run} (h : e ∈ d.coreRuns c) : d.runAt c e.1 = some e.2 := by
  obtain ⟨sl, -, hs⟩ := List.mem_filterMap.mp h
  obtain ⟨r, hr, rfl⟩ := Option.map_eq_some_iff.mp hs
  exact hr

/-- A Stone access finds nothing, records an error of the core, or ends a run that holds the granule. -/
theorem Dev.stoneEcc_cases (d : Dev) (c : CoreId) (e : StoneEcc) (stn sl ent : Nat) :
    d.stoneEcc c e stn sl ent = d ∨ (∃ n g, d.stoneEcc c e stn sl ent = d.raise (.core c) n g) ∨
    ∃ tl r g en own, d.runAt c tl = some r ∧ r.holds = true ∧ d.stoneEcc c e stn sl ent = d.endRun c tl 0x27 g en own := by
  cases e with
  | clean => exact .inl rfl
  | array a => exact .inl rfl
  | corrected g => exact .inr (.inl ⟨_, _, rfl⟩)
  | uncorrectable g =>
    unfold Dev.stoneEcc
    dsimp only
    split
    · next x hx =>
      have hhold := List.find?_some hx
      rw [Bool.and_eq_true] at hhold
      exact .inr (.inr ⟨_, _, _, _, _, Dev.runAt_of_mem_coreRuns (List.mem_of_find?_eq_some hx), hhold.1, rfl⟩)
    · exact .inr (.inl ⟨_, _, rfl⟩)

@[simp] theorem Dev.bind_stoneEcc (d : Dev) (c b : CoreId) (e : StoneEcc) (stn sl ent tl : Nat) :
    ((d.stoneEcc c e stn sl ent).core b).bind tl = (d.core b).bind tl := by
  obtain h | ⟨n, g, h⟩ | ⟨ul, r, g, en, own, -, -, h⟩ := d.stoneEcc_cases c e stn sl ent <;> rw [h]
  · rw [Dev.core_raise]
  · rw [Dev.bind_endRun]

/-- A run that holds no Stone yet stands. -/
theorem Dev.runAt_stoneEcc {d : Dev} {c : CoreId} {tl : Nat} {r : Run} (e : StoneEcc) (stn sl ent : Nat) (h : d.runAt c tl = some r)
    (hh : r.holds = false) : (d.stoneEcc c e stn sl ent).runAt c tl = some r := by
  obtain he | ⟨n, g, he⟩ | ⟨ul, y, g, en, own, hy, hyh, he⟩ := d.stoneEcc_cases c e stn sl ent <;> rw [he]
  · exact h
  · rw [Dev.runAt_raise]; exact h
  · have hne : tl ≠ ul := by
      rintro rfl
      rw [h] at hy
      cases hy
      rw [hh] at hyh
      cases hyh
    rw [Dev.runAt_endRun_ne _ _ _ _ _ hne]
    exact h

/-- Only the error registers of the core's page change. -/
theorem Dev.get_stoneEcc_ne (d : Dev) {c : CoreId} {q : Page} {f : FieldDef} {i : Nat} (e : StoneEcc) (stn sl ent : Nat)
    (h1 : regKey q f.off i ≠ regKey (.core c) fERR_STAT_SRC.off 0) (h2 : regKey q f.off i ≠ regKey (.core c) fERR_FIRST_VALID.off 0) :
    (d.stoneEcc c e stn sl ent).get q f i = d.get q f i := by
  obtain h | ⟨n, g, h⟩ | ⟨ul, r, g, en, own, -, -, h⟩ := d.stoneEcc_cases c e stn sl ent <;> rw [h]
  · exact Dev.get_raise_ne d _ _ h1 h2
  · exact Dev.get_endRun_ne d _ _ _ _ _ h1 h2

/-! ### Acquires (R147) -/

theorem Dev.foldl_rcInvalidate_eq (l : List Nat) (part : Option Nat) (d : Dev) :
    l.foldl (fun d y => d.rcInvalidate y part) d =
      { d with lines := (l.foldl (fun d y => d.rcInvalidate y part) d).lines, reqs := (l.foldl (fun d y => d.rcInvalidate y part) d).reqs } := by
  induction l generalizing d with
  | nil => rfl
  | cons y l ih => rw [List.foldl_cons, ih]; rfl

theorem Dev.acquire_eq (d : Dev) (c : CoreId) (scope part : Nat) : d.acquire c scope part =
    { d with cores := (d.acquire c scope part).cores, reqs := (d.acquire c scope part).reqs, lines := (d.acquire c scope part).lines } := by
  unfold Dev.acquire
  split
  · rfl
  · dsimp only
    split
    · rw [Dev.foldl_rcInvalidate_eq]; rfl
    · rfl

/-- The core once its data cache has been invalidated. -/
def Core.uncached (k : Core) : Core := { k with inker := { k.inker with dcache := [] } }

theorem Dev.bind_uncached {d e : Dev} {c : CoreId} (h : e.cores = (d.modCore c Core.uncached).cores) (b : CoreId) (tl : Nat) :
    (e.core b).bind tl = (d.core b).bind tl := by
  have he : e.core b = (d.modCore c Core.uncached).core b := by unfold Dev.core; rw [h]
  rw [he]
  by_cases hb : b = c
  · subst hb; rw [Dev.core_modCore_same]; rfl
  · rw [Dev.core_modCore_ne _ _ hb]

@[simp] theorem Dev.bind_acquire (d : Dev) (c b : CoreId) (scope part tl : Nat) :
    ((d.acquire c scope part).core b).bind tl = (d.core b).bind tl := by
  unfold Dev.acquire
  split
  · rfl
  · dsimp only
    split
    · exact Dev.bind_uncached (by rw [Dev.foldl_rcInvalidate_eq]; rfl) b tl
    · exact Dev.bind_uncached rfl b tl

/-! ### The begin of a run (R51, R187) -/

/-- The granules a run's buffers take at their places. -/
def Run.placedGrans (r : Run) (bufs : List Nat) : List Nat :=
  (List.range 16).flatMap (fun b => (List.range (hBufSz r.img b)).map (fun i => bufs.getD b 0 + i))

/-- The core once a slot's buffers and tokens have been cleared. -/
def Core.cleared (sl : Nat) (grans toks : List Nat) (k : Core) : Core :=
  ({ k with written := k.written.filter (fun l => !grans.contains (l / 32)),
            stone := NMap.dropIf k.stone (fun a => grans.contains (a / 4096)),
            sticky := NMap.put k.sticky sl Sticky.init Sticky.init } : Core).clearToks toks

theorem Core.binds_cleared (sl : Nat) (grans toks : List Nat) (k : Core) : (k.cleared sl grans toks).binds = k.binds := by
  unfold Core.cleared; rw [Core.clearToks_eq]

/-- The head token a run takes as it begins, and how much of it. -/
def Run.takes (r : Run) : Option (Nat × Nat) := if hWaitKind r.img = 3 then some (waTok r.img, waCnt r.img) else none

/-- The head token a run waited for is taken. -/
def Dev.takeHead (d : Dev) (c : CoreId) (sl : Nat) (r : Run) : Dev :=
  match r.takes with
  | some (i, n) => d.modCore c (fun k => match k.bind sl with
      | some b => k.setBind sl (some { b with htok := b.htok.set i (b.htok.getD i 0 - n) })
      | none => k)
  | none => d

theorem Dev.takeHead_eq (d : Dev) (c : CoreId) (sl : Nat) (r : Run) : d.takeHead c sl r = { d with cores := (d.takeHead c sl r).cores } := by
  unfold Dev.takeHead; split <;> rfl

/-- Every slot stays bound to its queue. -/
theorem Dev.queueOf_takeHead (d : Dev) (c : CoreId) (sl : Nat) (r : Run) (b : CoreId) (tl : Nat) :
    (((d.takeHead c sl r).core b).bind tl).map (·.q) = ((d.core b).bind tl).map (·.q) := by
  unfold Dev.takeHead
  split
  · next i n _ =>
    by_cases hb : b = c
    · subst hb
      rw [Dev.core_modCore_same]
      cases hs : (d.core b).bind sl with
      | none => rfl
      | some a =>
        dsimp only
        rw [Core.bind_setBind]
        by_cases ht : tl = sl
        · subst ht; rw [if_pos rfl, hs]; rfl
        · rw [if_neg ht]
    · rw [Dev.core_modCore_ne _ _ hb]
  · rfl

/-- The run has begun: it holds its tokens and buffers. -/
def Run.begins (toks bufs : List Nat) (used : Option (Nat × Nat)) (r : Run) : Run :=
  { r with stage := if nCmds r.img = 0 then .ended else .begun, tokMap := toks, bufAt := bufs, htokUsed := used }

/-- The device as a run takes its Stone, its tokens and its head token. -/
def Dev.runCleared (d : Dev) (c : CoreId) (sl : Nat) (r : Run) (toks bufs : List Nat) : Dev :=
  (d.modCore c (Core.cleared sl (r.placedGrans bufs) toks)).takeHead c sl r

/-- The device as the slot's run has begun, its head wait's acquire performed. -/
def Dev.runTaken (d : Dev) (c : CoreId) (sl : Nat) (r : Run) (toks bufs : List Nat) : Dev :=
  ((d.runCleared c sl r toks bufs).acquire c (headScope r.img) ((d.runCleared c sl r toks bufs).slotPart c sl)).modRun c sl
    (Run.begins toks bufs r.takes)

/-- The device once a run has begun, before what retires does. -/
def Dev.runBegun (d : Dev) (c : CoreId) (sl q : Nat) (r : Run) (toks bufs : List Nat) : Dev :=
  ((d.runTaken c sl r toks bufs).set (pImp c.die.val) fIMP_QRP_RP q ((d.runTaken c sl r toks bufs).qRp c.die.val q + 1)).set
    (pImp c.die.val) fIMP_QSTAT_BEGUN q ((d.runTaken c sl r toks bufs).qBegun c.die.val q + 1)

theorem Dev.beginRun_eq (d : Dev) (c : CoreId) (sl q : Nat) (r : Run) (toks bufs : List Nat) :
    d.beginRun c sl q r toks bufs = (d.runBegun c sl q r toks bufs).retireAll c.die.val q := rfl

theorem Dev.runCleared_eq (d : Dev) (c : CoreId) (sl : Nat) (r : Run) (toks bufs : List Nat) :
    d.runCleared c sl r toks bufs = { d with cores := (d.runCleared c sl r toks bufs).cores } := by
  unfold Dev.runCleared; rw [Dev.takeHead_eq]; rfl

theorem Dev.regs_runTaken (d : Dev) (c : CoreId) (sl : Nat) (r : Run) (toks bufs : List Nat) :
    (d.runTaken c sl r toks bufs).regs = d.regs := by
  unfold Dev.runTaken; rw [Dev.modRun_regs, Dev.acquire_eq, Dev.runCleared_eq]

/-- The slot's run is the one that has begun. -/
theorem Dev.runAt_runTaken {d : Dev} {c : CoreId} {sl : Nat} {r : Run} (toks bufs : List Nat) (h : d.runAt c sl = some r) :
    (d.runTaken c sl r toks bufs).runAt c sl = some (r.begins toks bufs r.takes) := by
  have hcleared : (d.runCleared c sl r toks bufs).runAt c sl = some r := by
    rw [← h, ← Dev.runAt_modCore d c c sl (Core.cleared sl (r.placedGrans bufs) toks) (Core.binds_cleared _ _ _ _)]
    exact Dev.runAt_congr (by rw [Dev.runCleared_eq]; rfl) (Dev.queueOf_takeHead _ c sl r c sl)
  obtain ⟨hc, hs, -⟩ := Dev.isAt_of_runAt h
  refine Dev.runAt_modRun ((Dev.runAt_congr (by rw [Dev.acquire_eq]) (by rw [Dev.bind_acquire])).trans hcleared)
    (Run.isAt_iff.mpr ⟨hc, hs, ?_⟩)
  show (if nCmds r.img = 0 then Stage.ended else .begun) ≠ .fetching
  split <;> decide

theorem Dev.runAt_set (d : Dev) (p : Page) (f : FieldDef) (i v : Nat) (c : CoreId) (sl : Nat) :
    (d.set p f i v).runAt c sl = d.runAt c sl := Dev.runAt_congr rfl rfl

theorem Dev.runAt_runBegun {d : Dev} {c : CoreId} {sl : Nat} {r : Run} (q : Nat) (toks bufs : List Nat) (h : d.runAt c sl = some r) :
    (d.runBegun c sl q r toks bufs).runAt c sl = some (r.begins toks bufs r.takes) := by
  rw [Dev.runBegun, Dev.runAt_set, Dev.runAt_set]
  exact Dev.runAt_runTaken toks bufs h

/-! ### The registers of a begin -/

/-- A core's error registers lie on another page than its Imposer's. -/
theorem regKey_imp_ne_core (c : CoreId) {a b : Nat} (i : Nat) (hb : b < 4096) (ha : a < 4096) :
    regKey (pImp c.die.val) a i ≠ regKey (.core c) b 0 := by
  have hrow := c.row.isLt
  have hcol := c.col.isLt
  rw [pImp_val]
  unfold regKey pageNo
  dsimp only
  omega

/-- RP and the count of begun runs go on by one, in words of their own. -/
theorem Dev.qRp_runBegun (d : Dev) (c : CoreId) (sl q : Nat) (r : Run) (toks bufs : List Nat) :
    (d.runBegun c sl q r toks bufs).qRp c.die.val q = (d.qRp c.die.val q + 1) % 2 ^ 32 := by
  have hapart : regKey (pImp c.die.val) fIMP_QRP_RP.off q ≠ regKey (pImp c.die.val) fIMP_QSTAT_BEGUN.off q := by
    unfold regKey; simp only [fIMP_QRP_RP, fIMP_QSTAT_BEGUN]; omega
  unfold Dev.qRp Dev.runBegun
  rw [Dev.get_set_ne _ _ hapart, Dev.get_set _ _ _ _ _ (by decide) (by decide)]
  unfold Dev.qRp
  rw [Dev.get_congr (Dev.regs_runTaken d c sl r toks bufs)]
  rfl

theorem Dev.qBegun_runBegun (d : Dev) (c : CoreId) (sl q : Nat) (r : Run) (toks bufs : List Nat) :
    (d.runBegun c sl q r toks bufs).qBegun c.die.val q = (d.qBegun c.die.val q + 1) % 2 ^ 10 := by
  unfold Dev.qBegun Dev.runBegun
  rw [Dev.get_set _ _ _ _ _ (by decide) (by decide)]
  unfold Dev.qBegun
  rw [Dev.get_congr (Dev.regs_runTaken d c sl r toks bufs)]
  rfl

/-- The error registers of the core stand. -/
theorem Dev.errStat_runBegun (d : Dev) (c : CoreId) (sl q : Nat) (r : Run) (toks bufs : List Nat) :
    (d.runBegun c sl q r toks bufs).get (.core c) fERR_STAT_SRC 0 = d.get (.core c) fERR_STAT_SRC 0 := by
  unfold Dev.runBegun
  rw [Dev.get_set_ne _ _ (regKey_imp_ne_core c q (by decide) (by decide)).symm,
    Dev.get_set_ne _ _ (regKey_imp_ne_core c q (by decide) (by decide)).symm, Dev.get_congr (Dev.regs_runTaken d c sl r toks bufs)]

theorem Dev.get_imp_stoneEcc (d : Dev) (c : CoreId) (e : StoneEcc) (stn sl ent : Nat) {f : FieldDef} (hf : f.off < 4096) (i : Nat) :
    (d.stoneEcc c e stn sl ent).get (pImp c.die.val) f i = d.get (pImp c.die.val) f i :=
  Dev.get_stoneEcc_ne d e stn sl ent (regKey_imp_ne_core c i (by decide) hf) (regKey_imp_ne_core c i (by decide) hf)

/-! ### RUN_BEGIN -/

theorem mem_of_firstBegin {l : List (Nat × Nat × Nat)} {e : Nat × Nat × Nat} (h : firstBegin l = some e) : e ∈ l := by
  induction l with
  | nil => cases h
  | cons x l ih =>
    unfold firstBegin at h
    cases hl : firstBegin l with
    | none => rw [hl] at h; cases h; exact List.mem_cons_self
    | some y =>
      rw [hl] at h
      dsimp only at h
      split at h <;> cases h
      · exact List.mem_cons_self
      · exact List.mem_cons_of_mem _ (ih hl)

/-- The run that begins waits for Stone or tokens, and holds none yet. -/
theorem Dev.stage_of_beginner {d : Dev} {c : CoreId} {sl l o : Nat} {r : Run} (h : (sl, l, o) ∈ d.beginners c) (hr : d.runAt c sl = some r) :
    r.stage = .ready := by
  obtain ⟨e, he, hs⟩ := List.mem_filterMap.mp h
  split at hs
  · split at hs
    · next hready =>
      cases hs
      have hrun := Dev.runAt_of_mem_coreRuns he
      rw [hr] at hrun
      cases hrun
      exact hready.1
    · cases hs
  · cases hs

theorem execRunBegin_of_first {c : CoreId} {s : State} (ecc : StoneEcc) {sl l o : Nat} {r : Run} {b : Bind} {bufs : List Nat}
    (hf : firstBegin (s.dev.beginners c) = some (sl, l, o)) (hr : s.dev.runAt c sl = some r) (hb : (s.dev.core c).bind sl = some b)
    (ht : hNtok r.img ≤ (s.dev.freeToks c).length)
    (hp : placeBufs ((List.range 16).map (hBufSz r.img)) (s.dev.usedGrans c) = some bufs) :
    execRunBegin c ecc s = .next
      { s with dev := (s.dev.stoneEcc c ecc stInk 8 0xFFFF).beginRun c sl b.q r ((s.dev.freeToks c).take (hNtok r.img)) bufs } := by
  unfold execRunBegin
  rw [onDev_eq, hf]
  dsimp only
  rw [hr, hb]
  dsimp only
  rw [if_neg (Nat.not_lt.mpr ht), hp]

/-- The first run in the order of R51 begins where tokens and Stone are free for it. -/
theorem runBegin_spec {c : CoreId} {s : State} {ecc : StoneEcc} {sl l o : Nat} {r : Run} {b : Bind} {bufs : List Nat}
    (hf : firstBegin (s.dev.beginners c) = some (sl, l, o)) (hr : s.dev.runAt c sl = some r) (hb : (s.dev.core c).bind sl = some b)
    (ht : hNtok r.img ≤ (s.dev.freeToks c).length)
    (hp : placeBufs ((List.range 16).map (hBufSz r.img)) (s.dev.usedGrans c) = some bufs) :
    ∃ d e : Dev, execRunBegin c ecc s = .next { s with dev := d } ∧ Safety.memoryKept s.dev d ∧
      d = e.retireAll c.die.val b.q ∧ e.qRp c.die.val b.q = (s.dev.qRp c.die.val b.q + 1) % 2 ^ 32 ∧
      e.qBegun c.die.val b.q = (s.dev.qBegun c.die.val b.q + 1) % 2 ^ 10 ∧
      ∃ r' : Run, e.runAt c sl = some r' ∧ r'.img = r.img ∧ r'.tokMap = (s.dev.freeToks c).take (hNtok r.img) ∧ r'.bufAt = bufs ∧
        r'.stage = (if nCmds r.img = 0 then .ended else .begun) ∧
        (∀ g, ecc = .corrected g → s.dev.inReset (.core c) = false → (e.get (.core c) fERR_STAT_SRC 0).testBit 3 = true) := by
  have hready := Dev.stage_of_beginner (mem_of_firstBegin hf) hr
  have hrun := Dev.runAt_stoneEcc ecc stInk 8 0xFFFF hr (by unfold Run.holds; rw [hready]; decide)
  refine ⟨_, (s.dev.stoneEcc c ecc stInk 8 0xFFFF).runBegun c sl b.q r ((s.dev.freeToks c).take (hNtok r.img)) bufs,
    execRunBegin_of_first ecc hf hr hb ht hp, Safety.memoryKept_of_mem_eq (by simp), Dev.beginRun_eq _ _ _ _ _ _ _, ?_, ?_,
    _, Dev.runAt_runBegun _ _ _ hrun, rfl, rfl, rfl, rfl, fun g hg hreset => ?_⟩
  · rw [Dev.qRp_runBegun, Dev.qRp, Dev.get_imp_stoneEcc _ _ _ _ _ _ (by decide)]; rfl
  · rw [Dev.qBegun_runBegun, Dev.qBegun, Dev.get_imp_stoneEcc _ _ _ _ _ _ (by decide)]; rfl
  · rw [Dev.errStat_runBegun, hg]
    exact Dev.testBit_errStat_raise s.dev _ 3 _ hreset (by decide)

/-! ### COMMAND_PLACE (R188) -/

/-- A begun run's next command for a station enters its queue where an entry is left to the slot or to all. -/
theorem commandPlace_spec {c : CoreId} {s : State} {sl : Slot} {stn : Stn} {r : Run} {n : Nat} {rest : List Nat}
    (hr : s.dev.runAt c sl.val = some r) (hs : r.stage = .begun) (hnext : r.toPlace.getD stn.val [] = n :: rest)
    (hroom : (((s.dev.core c).station stn.val).queue.filter (fun e => e.1 == sl.val)).length < 4 ∧
        ((s.dev.core c).station stn.val).queue.length < 64 ∨
      (List.range 8).foldl (fun a i => a + ((((s.dev.core c).station stn.val).queue.filter (fun e => e.1 == i)).length - 4)) 0 <
        64 - 4 * ((s.dev.coreRuns c).filter (fun e => e.2.stage == .begun)).length) :
    ∃ d, execCommandPlace c sl stn s = .next { s with dev := d } ∧ d = { s.dev with cores := d.cores, queues := d.queues } ∧
      ((d.core c).station stn.val).queue = ((s.dev.core c).station stn.val).queue ++ [(sl.val, n)] ∧
      d.runAt c sl.val = some { r with toPlace := r.toPlace.set stn.val rest } := by
  refine ⟨(s.dev.modCore c (fun k => k.setStation stn.val { (s.dev.core c).station stn.val with
    queue := ((s.dev.core c).station stn.val).queue ++ [(sl.val, n)] })).modRun c sl.val
      (fun r => { r with toPlace := r.toPlace.set stn.val rest }), ?_, ?_, ?_, ?_⟩
  · unfold execCommandPlace
    rw [onDev_eq, hr]
    dsimp only
    rw [if_pos ⟨hs, hroom⟩, hnext]
  · rw [Dev.modRun_eq]; rfl
  · rw [Dev.core_modRun, Dev.core_modCore_same, Core.station_setStation_same]
  · exact Dev.runAt_modRun_of_kept ((Dev.runAt_modCore _ _ _ _ _ rfl).trans hr) rfl rfl rfl

/-- Settles O17: `runFetch_spec`, `runImageArrival_spec`, `fetchEnd_spec` and `runBind_spec` for the Imposer, `runBegin_spec` and
`commandPlace_spec` for the core. -/
theorem runsFetchedAndBegun : Obligations.RunsFetchedAndBegun := by
  unfold Obligations.RunsFetchedAndBegun
  refine ⟨fun k s x q hx hq => ⟨runFetch_spec hx hq, ?_, fun _ _ code ent img cmds h => fetchEnd_spec code ent img cmds h,
    fun _ _ _ h => runBind_spec hx hq h⟩, fun _ _ => ⟨fun _ _ _ _ _ _ _ hf hr hb ht hp => runBegin_spec hf hr hb ht hp,
    fun _ _ _ _ _ hr hs hnext hroom => commandPlace_spec hr hs hnext hroom⟩⟩
  intro quad half r rs bytes gone hhalf hr hreset hrs hb hgone
  subst hq
  exact runImageArrival_spec hhalf hr hreset hrs hb hgone

end Sys2Proof.Machine

/-! ## BF16 is the upper half of binary32 (O9; R82, R83)

Of two IEEE formats with one exponent field and one bias, an encoding of the shorter over as many zeros as its fraction lacks has
the sign, exponent field and fraction of the shorter, and so its value; BF16 and binary32 are such a pair, 16 fraction bits apart. -/

namespace Sys2Proof.Machine

open Sys2Proof

/-- The bits of a number shifted left by `k` are its bits, `k` places higher. -/
theorem bitsOf_two_pow_mul (k b hi lo : Nat) : bitsOf (2 ^ k * b) (hi + k) (lo + k) = bitsOf b hi lo := by
  unfold bitsOf
  rw [Nat.add_comm lo k, Nat.shiftRight_add, Nat.mul_comm, ← Nat.shiftLeft_eq, Nat.shiftLeft_shiftRight,
    show hi + k + 1 - (k + lo) = hi + 1 - lo by omega]

/-- An encoding of an IEEE format by its exponent field: all ones for infinities and NaNs, 0 for zeros and subnormals, normal
otherwise (R82). -/
theorem decodeFloat_ieee (eb fb bias b : Nat) :
    decodeFloat ⟨eb, fb, bias, .ieee⟩ b =
      if bitsOf b (eb + fb - 1) fb = 2 ^ eb - 1 then
        (if b % 2 ^ fb = 0 then .inf (b.testBit (eb + fb)) else .nan)
      else if bitsOf b (eb + fb - 1) fb = 0 then .num (b.testBit (eb + fb)) (b % 2 ^ fb) (1 - (bias : Int) - fb)
      else .num (b.testBit (eb + fb)) (2 ^ fb + b % 2 ^ fb) ((bitsOf b (eb + fb - 1) fb : Int) - bias - fb) := by
  simp only [decodeFloat, Bool.and_eq_true, beq_iff_eq, and_true, reduceCtorEq, and_false, false_and, if_false]

/-- A value whose significand has `k` more bits: the same number, counted in units `2 ^ k` times smaller. -/
def refineVal (k : Nat) : Val → Val
  | .num g m e => .num g (2 ^ k * m) (e - k)
  | v => v

/-- `k` zeros below an encoding of an IEEE format encode the same value in the format whose fraction is `k` bits longer: sign and
exponent fields are those of the encoding, and the fraction is `2 ^ k` times its fraction. -/
theorem decodeFloat_two_pow_mul (eb fb bias k b : Nat) (h : 0 < eb) :
    decodeFloat ⟨eb, fb + k, bias, .ieee⟩ (2 ^ k * b) = refineVal k (decodeFloat ⟨eb, fb, bias, .ieee⟩ b) := by
  have hexp : bitsOf (2 ^ k * b) (eb + (fb + k) - 1) (fb + k) = bitsOf b (eb + fb - 1) fb := by
    rw [show eb + (fb + k) - 1 = eb + fb - 1 + k by omega, bitsOf_two_pow_mul]
  have hsign : (2 ^ k * b).testBit (eb + (fb + k)) = b.testBit (eb + fb) := by
    rw [← Nat.add_assoc, Nat.testBit_two_pow_mul, Nat.add_sub_cancel, decide_eq_true (Nat.le_add_left _ _), Bool.true_and]
  have hfrac : 2 ^ k * b % 2 ^ (fb + k) = 2 ^ k * (b % 2 ^ fb) := by
    rw [Nat.add_comm, Nat.pow_add, Nat.mul_mod_mul_left]
  have hinf : 2 ^ k * (b % 2 ^ fb) = 0 ↔ b % 2 ^ fb = 0 := by
    rw [Nat.mul_eq_zero, or_iff_right (Nat.ne_of_gt (Nat.two_pow_pos k))]
  simp only [decodeFloat_ieee, hexp, hsign, hfrac, hinf]
  by_cases hones : bitsOf b (eb + fb - 1) fb = 2 ^ eb - 1
  · rw [if_pos hones, if_pos hones]
    by_cases hzero : b % 2 ^ fb = 0
    · rw [if_pos hzero]; rfl
    · rw [if_neg hzero]; rfl
  rw [if_neg hones, if_neg hones]
  by_cases hsub : bitsOf b (eb + fb - 1) fb = 0
  · rw [if_pos hsub, if_pos hsub, refineVal, Int.natCast_add, Int.sub_sub _ (fb : Int)]
  · rw [if_neg hsub, if_neg hsub, refineVal, Int.natCast_add, Int.sub_sub _ (fb : Int), Nat.mul_add, ← Nat.pow_add,
      Nat.add_comm k]

/-- What a BF16 encoding stands for: sign bit 15, exponent field bits 14:7 and fraction bits 6:0 (R83). -/
theorem decodeFloat_bf16 (b : Nat) :
    decodeFloat bf16 b =
      if bitsOf b 14 7 = 255 then (if b % 128 = 0 then .inf (b.testBit 15) else .nan)
      else if bitsOf b 14 7 = 0 then .num (b.testBit 15) (b % 128) (-133)
      else .num (b.testBit 15) (128 + b % 128) ((bitsOf b 14 7 : Int) - 127 - 7) :=
  decodeFloat_ieee 8 7 127 b

/-- BF16 is binary32 without the 16 lowest bits of its fraction (R83). -/
theorem decodeFloat_fp32_of_bf16 (b : Nat) : decodeFloat fp32 (65536 * b) = refineVal 16 (decodeFloat bf16 b) :=
  decodeFloat_two_pow_mul 8 7 127 16 b (by decide)

/-- Settles O9: `decodeFloat_fp32_of_bf16` for the binary32 value, `decodeFloat_bf16` for what each encoding stands for. -/
theorem bf16IsUpperHalfOfBinary32 : Obligations.Bf16IsUpperHalfOfBinary32 := by
  unfold Obligations.Bf16IsUpperHalfOfBinary32
  refine fun b _ => ⟨fun g m e h => ?_, fun g h => ?_, fun h => ?_, ?_⟩
  · rw [decodeFloat_fp32_of_bf16, h]; rfl
  · rw [decodeFloat_fp32_of_bf16, h]; rfl
  · rw [decodeFloat_fp32_of_bf16, h]; rfl
  rintro x rfl
  rw [decodeFloat_bf16]
  by_cases hones : bitsOf b 14 7 = 255
  · rw [if_pos hones]
    by_cases hfrac : b % 128 = 0
    · rw [if_pos hfrac]; exact .inr (.inl rfl)
    · rw [if_neg hfrac]; exact .inl rfl
  rw [if_neg hones]
  by_cases hsub : bitsOf b 14 7 = 0
  · rw [if_pos hsub]
    exact .inr (.inr ⟨_, _, rfl, fun _ => ⟨rfl, rfl⟩, fun h => absurd hsub h⟩)
  · rw [if_neg hsub]
    exact .inr (.inr ⟨_, _, rfl, fun h => absurd h hsub, fun _ => ⟨rfl, by omega⟩⟩)

end Sys2Proof.Machine

/-! ## Every command that can be formed completes (O2) -/

namespace Sys2Proof.Machine

/-- Every arm of `exec` is a change of the device alone, and only the form of the command can refuse it. -/
theorem exec_eq_onDevIf (i : Instr) : ∃ f : Dev → Dev, ∀ s, exec i s = onDevIf i.wellFormed f s := by
  cases i with
  | atomExch c g i => exact ⟨fun d => d.atomCmd c g.val .exch i, fun _ => rfl⟩
  | atomCas c g i => exact ⟨fun d => d.atomCmd c g.val .cas i, fun _ => rfl⟩
  | _ => exact ⟨_, fun _ => rfl⟩

/-- Settles O2: by `exec_eq_onDevIf`, and what `onDevIf` answers in either case. -/
theorem formedCommandsComplete : Obligations.FormedCommandsComplete := by
  unfold Obligations.FormedCommandsComplete
  intro i s
  obtain ⟨f, hf⟩ := exec_eq_onDevIf i
  rw [hf]
  refine ⟨fun h => ⟨f s.dev, ?_⟩, fun h => ?_⟩
  · rw [h, onDevIf_true]
  · rw [h, onDevIf_false]

end Sys2Proof.Machine

/-! ## Registers and paths of a group (R125, R126, R139 to R141) -/

namespace Sys2Proof.Machine

/-! ### Registers -/

theorem Group.setReg_eq (g : Group) (x lane v : Nat) : g.setReg x lane v = { g with regs := (g.setReg x lane v).regs } := by
  unfold Group.setReg; split <;> rfl

@[simp] theorem Group.nreg_setReg (g : Group) (x lane v : Nat) : (g.setReg x lane v).nreg = g.nreg := by rw [Group.setReg_eq]

/-- A register of a lane is written alone: 32 lanes of each register have keys of their own. -/
theorem Group.reg_setReg (g : Group) {x y lane l : Nat} (v : Nat) (hlane : lane < 32) (hl : l < 32) :
    (g.setReg x lane v).reg y l = if y = x ∧ l = lane ∧ x < g.nreg then v % 2 ^ 32 else g.reg y l := by
  have hkey : 32 * y + l = 32 * x + lane ↔ y = x ∧ l = lane := by omega
  unfold Group.setReg
  by_cases hx : x < g.nreg
  · rw [if_pos hx]
    unfold Group.reg
    dsimp only
    rw [NMap.get_put]
    simp only [hkey, hx, and_true]
    by_cases hy : y = x ∧ l = lane
    · rw [if_pos hy, if_pos hy, hy.1, if_pos hx, BitVec.toNat_ofNat]
    · rw [if_neg hy, if_neg hy]
  · rw [if_neg hx, if_neg (fun h => hx h.2.2)]

theorem Group.setRegN_eq (g : Group) (x lane n v : Nat) : g.setRegN x lane n v = { g with regs := (g.setRegN x lane n v).regs } := by
  induction n generalizing g x v with
  | zero => rfl
  | succ n ih => rw [Group.setRegN, ih, Group.setReg_eq]

@[simp] theorem Group.nreg_setRegN (g : Group) (x lane n v : Nat) : (g.setRegN x lane n v).nreg = g.nreg := by rw [Group.setRegN_eq]

/-- The registers of another lane, and those outside the ones written, stay. -/
theorem Group.reg_setRegN_other (g : Group) {x y lane l n : Nat} (v : Nat) (hlane : lane < 32) (hl : l < 32)
    (h : l ≠ lane ∨ y < x ∨ x + n ≤ y) : (g.setRegN x lane n v).reg y l = g.reg y l := by
  induction n generalizing g x v with
  | zero => rfl
  | succ n ih =>
    rw [Group.setRegN, ih _ _ (by omega), Group.reg_setReg g v hlane hl, if_neg (by omega)]

/-- The registers written hold the value, least significant first. -/
theorem Group.reg_setRegN_same (g : Group) {x lane n i : Nat} (v : Nat) (hlane : lane < 32) (hi : i < n) (hx : x + i < g.nreg) :
    (g.setRegN x lane n v).reg (x + i) lane = v / 2 ^ (32 * i) % 2 ^ 32 := by
  induction n generalizing g x v i with
  | zero => omega
  | succ n ih =>
    rw [Group.setRegN]
    cases i with
    | zero =>
      rw [Group.reg_setRegN_other _ _ hlane hlane (.inr (.inl (by omega))), Group.reg_setReg g v hlane hlane,
        if_pos ⟨rfl, rfl, hx⟩, Nat.mul_zero, Nat.pow_zero, Nat.div_one]
    | succ i =>
      rw [show x + (i + 1) = x + 1 + i by omega, ih (g.setReg x lane v) (v / 2 ^ 32) (by omega) (by rw [Group.nreg_setReg]; omega),
        Nat.div_div_eq_div_mul, ← Nat.pow_add, show 32 + 32 * i = 32 * (i + 1) by omega]

/-- The value of each lane listed is written to `n` registers from `dst`. -/
def Group.writes (dst n : Nat) (l : List (Nat × Nat)) (g : Group) : Group := l.foldl (fun y p => y.setRegN dst p.1 n p.2) g

theorem Group.writes_eq (dst n : Nat) (l : List (Nat × Nat)) (g : Group) :
    g.writes dst n l = { g with regs := (g.writes dst n l).regs } := by
  unfold Group.writes
  induction l generalizing g with
  | nil => rfl
  | cons p l ih => rw [List.foldl_cons, ih, Group.setRegN_eq]

@[simp] theorem Group.nreg_writes (dst n : Nat) (l : List (Nat × Nat)) (g : Group) : (g.writes dst n l).nreg = g.nreg := by
  rw [Group.writes_eq]

theorem Group.reg_writes_other {dst n : Nat} {l : List (Nat × Nat)} (g : Group) {r lane : Nat} (hl : ∀ p ∈ l, p.1 < 32)
    (hlane : lane < 32) (h : lane ∉ l.map (·.1) ∨ r < dst ∨ dst + n ≤ r) : (g.writes dst n l).reg r lane = g.reg r lane := by
  unfold Group.writes
  induction l generalizing g with
  | nil => rfl
  | cons p l ih =>
    rw [List.map_cons, List.mem_cons, not_or] at h
    rw [List.foldl_cons, ih _ (fun q hq => hl q (List.mem_cons_of_mem _ hq)) (h.imp_left (fun h => h.2)),
      Group.reg_setRegN_other _ _ (hl p List.mem_cons_self) hlane (h.imp_left (fun h => h.1))]

theorem Group.reg_writes_mem {dst n i : Nat} {l : List (Nat × Nat)} (g : Group) {p : Nat × Nat} (hl : ∀ p ∈ l, p.1 < 32)
    (hn : (l.map (·.1)).Nodup) (hp : p ∈ l) (hi : i < n) (hd : dst + i < g.nreg) :
    (g.writes dst n l).reg (dst + i) p.1 = p.2 / 2 ^ (32 * i) % 2 ^ 32 := by
  induction l generalizing g with
  | nil => cases hp
  | cons q l ih =>
    rw [List.map_cons, List.nodup_cons] at hn
    have hl' : ∀ p ∈ l, p.1 < 32 := fun r hr => hl r (List.mem_cons_of_mem _ hr)
    show ((g.setRegN dst q.1 n q.2).writes dst n l).reg (dst + i) p.1 = _
    rcases List.mem_cons.mp hp with rfl | hp
    · rw [Group.reg_writes_other _ hl' (hl p List.mem_cons_self) (.inl hn.1), Group.reg_setRegN_same g _ (hl p List.mem_cons_self) hi hd]
    · exact ih _ hl' hn.2 hp (by rw [Group.nreg_setRegN]; exact hd)

/-- Registers are written in one way whatever else the group holds. -/
theorem Group.regs_setReg_congr {g h : Group} (hn : g.nreg = h.nreg) (hr : g.regs = h.regs) (x lane v : Nat) :
    (g.setReg x lane v).regs = (h.setReg x lane v).regs := by
  unfold Group.setReg; rw [hn, hr]; split
  · rfl
  · exact hr

theorem Group.regs_setRegN_congr {g h : Group} (hn : g.nreg = h.nreg) (hr : g.regs = h.regs) (x lane n v : Nat) :
    (g.setRegN x lane n v).regs = (h.setRegN x lane n v).regs := by
  induction n generalizing g h x v with
  | zero => exact hr
  | succ n ih => exact ih (by simp [hn]) (Group.regs_setReg_congr hn hr x lane v) _ _

theorem Group.regs_writes_congr {g h : Group} (hn : g.nreg = h.nreg) (hr : g.regs = h.regs) (dst n : Nat) (l : List (Nat × Nat)) :
    (g.writes dst n l).regs = (h.writes dst n l).regs := by
  unfold Group.writes
  induction l generalizing g h with
  | nil => exact hr
  | cons p l ih => exact ih (by simp [hn]) (Group.regs_setRegN_congr hn hr dst p.1 n p.2)

/-! ### Lanes -/

theorem lt_of_mem_lanesOf {b : BitVec 32} {l : Nat} (h : l ∈ lanesOf b) : l < 32 := List.mem_range.mp (List.mem_filter.mp h).1

theorem nodup_lanesOf (b : BitVec 32) : (lanesOf b).Nodup := List.nodup_range.filter _

/-! ### Paths -/

/-- The group with other paths. -/
def Group.on (g : Group) (ps : List Path) : Group := { g with paths := ps }

@[simp] theorem Group.paths_on (g : Group) (ps : List Path) : (g.on ps).paths = ps := rfl
@[simp] theorem Group.on_on (g : Group) (ps qs : List Path) : (g.on ps).on qs = g.on qs := rfl
theorem Group.on_of_paths_eq {g : Group} {ps : List Path} (h : g.paths = ps) : g.on ps = g := by rw [← h]; rfl

/-- `f` looks at the paths of a group alone, and changes nothing else. -/
def Group.PathsOnly (f : Group → Group) : Prop := ∀ g h : Group, g.paths = h.paths → f g = g.on (f h).paths

theorem Group.PathsOnly.paths_congr {f : Group → Group} (hf : Group.PathsOnly f) {g h : Group} (e : g.paths = h.paths) :
    (f g).paths = (f h).paths := by rw [hf g h e, Group.paths_on]

theorem Group.mates_congr {g h : Group} (e : g.paths = h.paths) : g.mates = h.mates := by
  funext p; unfold Group.mates; rw [e]

theorem Group.mergeable_congr {g h : Group} (e : g.paths = h.paths) : g.mergeable = h.mergeable := by
  funext p; unfold Group.mergeable Group.live; rw [Group.mates_congr e, e]

theorem Group.stamp_congr {g h : Group} (e : g.paths = h.paths) : g.stamp = h.stamp := by
  unfold Group.stamp; rw [e]

theorem Group.merge_pathsOnly : Group.PathsOnly Group.merge := by
  intro g h e
  unfold Group.merge
  rw [Group.mergeable_congr e, Group.mates_congr e, Group.stamp_congr e, e]
  split
  · rw [Group.on_of_paths_eq e]
  · rfl

theorem Group.elect_pathsOnly : Group.PathsOnly Group.elect := by
  intro g h e
  unfold Group.elect
  rw [e]
  split
  · rw [Group.on_of_paths_eq e]
  · rfl

theorem Group.arriveAll_succ (g : Group) (n : Nat) : g.arriveAll (n + 1) =
    if (g.paths.map Path.arrive).any (g.on (g.paths.map Path.arrive)).mergeable then
      (g.on (g.paths.map Path.arrive)).merge.arriveAll n
    else g.on (g.paths.map Path.arrive) := rfl

theorem Group.arriveAll_pathsOnly (n : Nat) : Group.PathsOnly (fun g => g.arriveAll n) := by
  induction n with
  | zero => exact fun g h e => (Group.on_of_paths_eq e).symm
  | succ n ih =>
    intro g h e
    have hmerge := Group.merge_pathsOnly (g.on (h.paths.map Path.arrive)) (h.on (h.paths.map Path.arrive)) rfl
    have hagain := ih _ _ (Group.merge_pathsOnly.paths_congr (g := g.on (h.paths.map Path.arrive))
      (h := h.on (h.paths.map Path.arrive)) rfl)
    dsimp only at hagain ⊢
    rw [Group.arriveAll_succ, Group.arriveAll_succ, e,
      Group.mergeable_congr (g := g.on (h.paths.map Path.arrive)) (h := h.on (h.paths.map Path.arrive)) rfl]
    split
    · rw [hagain, hmerge]; rfl
    · rfl

theorem Group.settled_pathsOnly : Group.PathsOnly Group.settled := by
  intro g h e
  have harr : g.arriveAll 40 = g.on (h.arriveAll 40).paths := Group.arriveAll_pathsOnly 40 g h e
  have hpaths : (g.arriveAll 40).paths = (h.arriveAll 40).paths := by rw [harr, Group.paths_on]
  have helect (ps : List Path) : ((g.arriveAll 40).on ps).elect = g.on ((h.arriveAll 40).on ps).elect.paths := by
    rw [Group.elect_pathsOnly ((g.arriveAll 40).on ps) ((h.arriveAll 40).on ps) rfl, harr, Group.on_on, Group.on_on]
  unfold Group.settled
  dsimp only
  rw [hpaths, e, Group.stamp_congr hpaths]
  split
  · split
    · exact harr
    · split
      · exact helect _
      · exact (Group.elect_pathsOnly _ (h.arriveAll 40) hpaths).trans (by rw [harr]; rfl)
  · exact harr

theorem Group.advance_pathsOnly : Group.PathsOnly Group.advance := by
  intro g h e
  unfold Group.advance
  rw [e]
  split
  · exact Group.settled_pathsOnly _ _ rfl
  · exact (Group.on_of_paths_eq e).symm

end Sys2Proof.Machine

/-! ## Instructions of a group (R122, R124, R127, R133) -/

namespace Sys2Proof.Machine

/-! ### Changing a group -/

/-- What `Dev.modGroup` does to the Inker. -/
def Inker.modGroup (k : Inker) (g : Nat) (f : Group → Group) : Inker :=
  match k.group g with
  | some x => k.setGroup g (some (f x))
  | none => k

theorem Inker.modGroup_eq (k : Inker) (g : Nat) (f : Group → Group) : k.modGroup g f = { k with groups := (k.modGroup g f).groups } := by
  unfold Inker.modGroup; split <;> rfl

theorem Inker.group_modGroup_same (k : Inker) (g : Nat) (f : Group → Group) : (k.modGroup g f).group g = (k.group g).map f := by
  unfold Inker.modGroup
  split
  · next x hx => rw [Inker.group_setGroup, if_pos rfl, hx]; rfl
  · next hx => rw [hx]; rfl

theorem Inker.group_modGroup_ne (k : Inker) {g h : Nat} (f : Group → Group) (e : h ≠ g) : (k.modGroup g f).group h = k.group h := by
  unfold Inker.modGroup
  split
  · rw [Inker.group_setGroup, if_neg e]
  · rfl

theorem Dev.modGroup_eq (d : Dev) (c : CoreId) (g : Nat) (f : Group → Group) :
    d.modGroup c g f = d.modCore c (fun k => { k with inker := k.inker.modGroup g f }) := rfl

/-- A change of a core keeps a device that differs by cores alone. -/
theorem Dev.modCore_of_cores {d e : Dev} (c : CoreId) (f : Core → Core) (h : e = { d with cores := e.cores }) :
    e.modCore c f = { d with cores := (e.modCore c f).cores } :=
  congrArg (fun y : Dev => { y with cores := (e.modCore c f).cores }) h

theorem Dev.modInker_of_cores {d e : Dev} (c : CoreId) (f : Inker → Inker) (h : e = { d with cores := e.cores }) :
    e.modInker c f = { d with cores := (e.modInker c f).cores } := Dev.modCore_of_cores c _ h

theorem Dev.modGroup_of_cores {d e : Dev} (c : CoreId) (g : Nat) (f : Group → Group) (h : e = { d with cores := e.cores }) :
    e.modGroup c g f = { d with cores := (e.modGroup c g f).cores } := by
  rw [Dev.modGroup_eq]
  exact Dev.modCore_of_cores c _ h

theorem Dev.addFlags_of_cores {d e : Dev} (c : CoreId) (sl fl buf : Nat) (h : e = { d with cores := e.cores }) :
    e.addFlags c sl fl buf = { d with cores := (e.addFlags c sl fl buf).cores } := Dev.modCore_of_cores c _ h

theorem Dev.core_modGroup (d : Dev) (c : CoreId) (g : Nat) (f : Group → Group) :
    (d.modGroup c g f).core c = { d.core c with inker := (d.core c).inker.modGroup g f } := by
  rw [Dev.modGroup_eq, Dev.core_modCore_same]

theorem Dev.core_modGroup_ne (d : Dev) {c k : CoreId} (g : Nat) (f : Group → Group) (h : k ≠ c) :
    (d.modGroup c g f).core k = d.core k := Dev.core_modCore_ne d _ h

theorem Dev.core_modInker (d : Dev) (c : CoreId) (f : Inker → Inker) :
    (d.modInker c f).core c = { d.core c with inker := f (d.core c).inker } := Dev.core_modCore_same d c _

/-- The group itself, once it has been changed. -/
theorem Dev.group_modGroup {d : Dev} {c : CoreId} {g : Nat} {z : Group} (f : Group → Group) (h : (d.core c).inker.group g = some z) :
    ((d.modGroup c g f).core c).inker.group g = some (f z) := by
  rw [Dev.core_modGroup, Inker.group_modGroup_same, h, Option.map_some]

theorem Dev.group_modGroup_ne (d : Dev) (c : CoreId) {g j : Nat} (f : Group → Group) (h : j ≠ g) :
    ((d.modGroup c g f).core c).inker.group j = (d.core c).inker.group j := by
  rw [Dev.core_modGroup, Inker.group_modGroup_ne _ _ h]

theorem Inker.modGroup_congr {k : Inker} {g : Nat} {z : Group} {f f' : Group → Group} (h : k.group g = some z) (hf : f z = f' z) :
    k.modGroup g f = k.modGroup g f' := by
  unfold Inker.modGroup; rw [h]; dsimp only; rw [hf]

/-- Only what is done to the group that stands there matters. -/
theorem Dev.modGroup_congr {d : Dev} {c : CoreId} {g : Nat} {z : Group} {f f' : Group → Group} (h : (d.core c).inker.group g = some z)
    (hf : f z = f' z) : d.modGroup c g f = d.modGroup c g f' := by
  rw [Dev.modGroup_eq, Dev.modGroup_eq]
  unfold Dev.modCore
  dsimp only
  rw [Inker.modGroup_congr h hf]

/-! ### Sticky flags (R79, R117) -/

/-- What `Dev.addFlags` does to the core. -/
def Core.flagged (sl fl buf : Nat) (k : Core) : Core :=
  let s := NMap.get k.sticky sl Sticky.init
  let s' : Sticky := ⟨s.xflag ||| fl, if fl.testBit 8 then s.chsat ||| 2 ^ buf else s.chsat⟩
  { k with sticky := NMap.put k.sticky sl s' Sticky.init }

theorem Dev.core_addFlags (d : Dev) (c : CoreId) (sl fl buf : Nat) : (d.addFlags c sl fl buf).core c = (d.core c).flagged sl fl buf :=
  Dev.core_modCore_same d c _

theorem Dev.core_addFlags_ne (d : Dev) {c k : CoreId} (sl fl buf : Nat) (h : k ≠ c) : (d.addFlags c sl fl buf).core k = d.core k :=
  Dev.core_modCore_ne d _ h

/-! ### What an instruction runs in -/

/-- The context is the one of a group that stands at the core: its block, its run, which has begun, and the lanes of its current
path. -/
structure Dev.Hosts (d : Dev) (c : CoreId) (g : Nat) (x : Ctx) : Prop where
  group : (d.core c).inker.group g = some x.g
  block : (d.core c).inker.block x.g.block = some x.block
  slot : x.block.slot = x.slot
  run : d.runAt c x.slot = some x.run
  begun : x.run.stage = .begun
  lanes : ∃ b, x.lanes = lanesOf b

theorem Dev.hosts_of_ctx {d : Dev} {c : CoreId} {g : Nat} {x : Ctx} {p : Path} {l : Launch} (h : d.ctx c g = some (x, p, l)) :
    d.Hosts c g x := by
  unfold Dev.ctx at h
  dsimp only at h
  split at h
  · cases h
  next y hy =>
    split at h
    · next b q r hb hp =>
      split at h
      · next w n hw hn =>
        split at h
        · next hc =>
          cases h
          exact ⟨hy, hb, rfl, hw, hc.1, _, rfl⟩
        · cases h
      · cases h
    · cases h

section
variable {d : Dev} {c : CoreId} {g : Nat} {x : Ctx} {srcs : List (Nat × Nat × Bool)} {dst : List (Nat × Nat)}

theorem Dev.hosts_of_mayRun (h : Safety.mayRun d c g srcs dst x) : d.Hosts c g x := by
  obtain ⟨p, l, hctx, -⟩ := h
  exact Dev.hosts_of_ctx hctx

theorem Dev.Hosts.lt_of_mem_lanes (h : d.Hosts c g x) {l : Nat} (hl : l ∈ x.lanes) : l < 32 := by
  obtain ⟨b, hb⟩ := h.lanes
  exact lt_of_mem_lanesOf (hb ▸ hl)

theorem Dev.Hosts.nodup_lanes (h : d.Hosts c g x) : x.lanes.Nodup := by
  obtain ⟨b, hb⟩ := h.lanes
  exact hb ▸ nodup_lanesOf b

/-! ### Issuing -/

/-- Where the group may run an instruction, it is performed in the device that has taken the issue, unless its own condition holds it. -/
theorem Dev.inkIssue_of_mayRun (h : Safety.mayRun d c g srcs dst x) (cost : Nat × Nat) (ok : Dev → Ctx → Bool) (body : Dev → Ctx → Dev) :
    d.inkIssue c g srcs dst cost ok body = if ok d x = true then body (d.tookIssue c g srcs cost) x else d := by
  obtain ⟨p, l, hctx, hpc, hline, hsrc, hdst, hfirst⟩ := h
  have hs : srcs.any (fun e => d.awaited c g e.1 e.2.1) = false := List.any_eq_false.mpr fun e he => by simp [hsrc e he]
  have ht : dst.any (fun e => d.awaited c g e.1 e.2) = false := List.any_eq_false.mpr fun e he => by simp [hdst e he]
  unfold Dev.inkIssue
  rw [hctx]
  dsimp only
  rw [if_neg (Nat.not_le.mpr hpc), if_neg (by simp only [hline]; decide), hs, ht, hfirst]
  cases ok d x <;> rfl

theorem Dev.inkIssue_of_ok (h : Safety.mayRun d c g srcs dst x) (cost : Nat × Nat) {ok : Dev → Ctx → Bool} (body : Dev → Ctx → Dev)
    (hok : ok d x = true) : d.inkIssue c g srcs dst cost ok body = body (d.tookIssue c g srcs cost) x := by
  rw [Dev.inkIssue_of_mayRun h, if_pos hok]

theorem Dev.inkIssue_of_held (h : Safety.mayRun d c g srcs dst x) (cost : Nat × Nat) {ok : Dev → Ctx → Bool} (body : Dev → Ctx → Dev)
    (hok : ok d x = false) : d.inkIssue c g srcs dst cost ok body = d := by
  rw [Dev.inkIssue_of_mayRun h, hok]; rfl

theorem Dev.inkPlain_of_ok (h : Safety.mayRun d c g srcs dst x) (cost : Nat × Nat) {ok : Dev → Ctx → Bool} (body : Dev → Ctx → Dev)
    (hok : ok d x = true) : d.inkPlain c g srcs dst cost ok body = (body (d.tookIssue c g srcs cost) x).advance c g :=
  Dev.inkIssue_of_ok h cost _ hok

theorem Dev.inkPlain_of_held (h : Safety.mayRun d c g srcs dst x) (cost : Nat × Nat) {ok : Dev → Ctx → Bool} (body : Dev → Ctx → Dev)
    (hok : ok d x = false) : d.inkPlain c g srcs dst cost ok body = d := Dev.inkIssue_of_held h cost _ hok

theorem Dev.core_tookIssue (d : Dev) (c : CoreId) (g : Nat) (srcs : List (Nat × Nat × Bool)) (cost : Nat × Nat) :
    (d.tookIssue c g srcs cost).core c = { d.core c with inker := ((d.tookIssue c g srcs cost).core c).inker } := by
  unfold Dev.tookIssue
  rw [Dev.core_modGroup, Dev.core_modInker]

theorem Dev.inker_tookIssue (d : Dev) (c : CoreId) (g : Nat) (srcs : List (Nat × Nat × Bool)) (cost : Nat × Nat) :
    ((d.tookIssue c g srcs cost).core c).inker =
      { (d.core c).inker with groups := ((d.tookIssue c g srcs cost).core c).inker.groups,
                              unitTo := ((d.tookIssue c g srcs cost).core c).inker.unitTo, lastGroup := g } := by
  unfold Dev.tookIssue
  rw [Dev.core_modGroup, Dev.core_modInker, Inker.modGroup_eq]

theorem Dev.group_tookIssue_ne (d : Dev) (c : CoreId) {g j : Nat} (srcs : List (Nat × Nat × Bool)) (cost : Nat × Nat) (h : j ≠ g) :
    ((d.tookIssue c g srcs cost).core c).inker.group j = (d.core c).inker.group j := by
  unfold Dev.tookIssue
  rw [Dev.group_modGroup_ne _ _ _ h, Dev.core_modInker]
  rfl

theorem Dev.tookIssue_eq (d : Dev) (c : CoreId) (g : Nat) (srcs : List (Nat × Nat × Bool)) (cost : Nat × Nat) :
    d.tookIssue c g srcs cost = { d with cores := (d.tookIssue c g srcs cost).cores } :=
  Dev.modGroup_of_cores c g _ (Dev.modInker_of_cores c _ rfl)

theorem Dev.Hosts.group_tookIssue (h : d.Hosts c g x) (srcs : List (Nat × Nat × Bool)) (cost : Nat × Nat) :
    ((d.tookIssue c g srcs cost).core c).inker.group g = some (Safety.groupAt d c x srcs cost) :=
  Dev.group_modGroup _ (by rw [Dev.core_modInker]; exact h.group)

theorem Dev.runAt_tookIssue (d : Dev) (c : CoreId) (g : Nat) (srcs : List (Nat × Nat × Bool)) (cost : Nat × Nat) (sl : Nat) :
    (d.tookIssue c g srcs cost).runAt c sl = d.runAt c sl := Dev.runAt_congr rfl (by rw [Dev.core_tookIssue]; rfl)

end

/-! ### A Stone access of a thread (R54) -/

/-- The entry a filter keeps is found again. -/
theorem NMap.get_filter_of_pos {β : Type} {m : NMap β} {k : Nat} {d v : β} (p : Nat × β → Bool) (h : NMap.get m k d = v) (hv : v ≠ d)
    (hp : p (k, v) = true) : NMap.get (m.filter p) k d = v := by
  induction m with
  | nil => exact absurd h.symm hv
  | cons e m ih =>
    obtain ⟨j, w⟩ := e
    rw [NMap.get_cons] at h
    by_cases hj : j = k
    · subst hj
      rw [if_pos rfl] at h
      subst h
      rw [List.filter_cons_of_pos hp, NMap.get_cons, if_pos rfl]
    · rw [if_neg hj] at h
      cases hw : p (j, w) with
      | true => rw [List.filter_cons_of_pos hw, NMap.get_cons, if_neg hj, ih h]
      | false => rw [List.filter_cons_of_neg (by simp [hw]), ih h]

/-- What the Inker drops of a slot leaves the groups of another slot's blocks. -/
theorem Inker.group_dropSlot {k : Inker} {g sl : Nat} {z : Group} {b : Block} (hg : k.group g = some z) (hb : k.block z.block = some b)
    (hs : b.slot ≠ sl) : (k.dropSlot sl).group g = some z := by
  refine NMap.get_filter_of_pos _ hg (by simp) ?_
  unfold Inker.block at hb
  dsimp only
  rw [hb]
  simpa using hs

/-- Ending the run of another slot leaves the group. -/
theorem Dev.group_endRun {d : Dev} {c : CoreId} {g sl : Nat} {z : Group} {b : Block} (code stn ent : Nat) (own : Bool)
    (hg : (d.core c).inker.group g = some z) (hb : (d.core c).inker.block z.block = some b) (hs : b.slot ≠ sl) :
    ((d.endRun c sl code stn ent own).core c).inker.group g = some z := by
  rcases d.endRun_cases c sl code stn ent own with h | h | h <;> rw [h]
  · exact hg
  · rw [Dev.core_modRun, Dev.core_runErrRaised]; exact hg
  · rw [Dev.core_modRun, Dev.core_abandon_same, Dev.core_runErrRaised]
    exact Inker.group_dropSlot hg hb hs

/-- Where the run of the group's slot goes on after a Stone access, the group stands: a run that the access ends is not begun. -/
theorem Dev.Hosts.group_stoneEcc {d : Dev} {c : CoreId} {g : Nat} {x : Ctx} (h : d.Hosts c g x) (srcs : List (Nat × Nat × Bool))
    (cost : Nat × Nat) (ecc : StoneEcc)
    (hrun : ((d.tookIssue c g srcs cost).stoneEcc c ecc stInk x.slot x.n).running c x.slot = true) :
    (((d.tookIssue c g srcs cost).stoneEcc c ecc stInk x.slot x.n).core c).inker.group g = some (Safety.groupAt d c x srcs cost) := by
  have hgroup := h.group_tookIssue srcs cost
  have hblock : ((d.tookIssue c g srcs cost).core c).inker.block x.g.block = some x.block := by
    rw [Dev.inker_tookIssue]; exact h.block
  have hat : (d.tookIssue c g srcs cost).runAt c x.slot = some x.run := (Dev.runAt_tookIssue d c g srcs cost x.slot).trans h.run
  rcases Dev.stoneEcc_cases (d.tookIssue c g srcs cost) c ecc stInk x.slot x.n with he | ⟨n, y, he⟩ | ⟨tl, r, y, en, own, -, -, he⟩ <;>
    rw [he] at hrun ⊢
  · exact hgroup
  · rw [Dev.core_raise]; exact hgroup
  · by_cases hs : x.slot = tl
    · subst hs
      have hend := Dev.runAt_endRun_same 0x27 y en own hat (by rw [h.begun]; decide) (by rw [h.begun]; decide)
      unfold Dev.running at hrun
      rw [hend] at hrun
      have hstage : (x.run.failed 0x27 en).stage = .ended := if_pos h.begun
      dsimp only at hrun
      rw [hstage] at hrun
      cases hrun
    · exact Dev.group_endRun _ _ _ _ hgroup hblock (h.slot ▸ hs)

end Sys2Proof.Machine

/-! ## Instructions that write registers and the Stone (O23; R54, R130, R134, R135) -/

namespace Sys2Proof.Machine

@[simp] theorem Group.regs_advance (g : Group) : g.advance.regs = g.regs := by rw [Group.advance_pathsOnly g g rfl]; rfl

@[simp] theorem Group.nreg_advance (g : Group) : g.advance.nreg = g.nreg := by rw [Group.advance_pathsOnly g g rfl]; rfl

/-! ### A value for each lane -/

/-- What INK_ARITH and TLD do for one lane: its registers take the operation's value, a free value of `w` bits where the spec states
none, and the exceptions gather. -/
def laneStep (dst n w : Nat) (val : Nat → Option Nat) (fl : Nat → Nat) (y : Dev × Group × Nat) (lane : Nat) : Dev × Group × Nat :=
  match val lane with
  | some v => (y.1, y.2.1.setRegN dst lane n v, y.2.2 ||| fl lane)
  | none => ((y.1.free w).2, y.2.1.setRegN dst lane n (y.1.free w).1, y.2.2 ||| fl lane)

/-- The values list the given ones, lane by lane. -/
def LaneValues (val : Nat → Option Nat) (lanes : List Nat) (l : List (Nat × Nat)) : Prop :=
  l.map (·.1) = lanes ∧ ∀ p ∈ l, ∀ v, val p.1 = some v → p.2 = v

theorem LaneValues.cons {val : Nat → Option Nat} {lanes : List Nat} {l : List (Nat × Nat)} (h : LaneValues val lanes l) (lane v : Nat)
    (hv : ∀ w, val lane = some w → v = w) : LaneValues val (lane :: lanes) ((lane, v) :: l) := by
  refine ⟨by rw [List.map_cons, h.1], fun p hp => ?_⟩
  rcases List.mem_cons.mp hp with rfl | hp
  · exact hv
  · exact h.2 p hp

theorem laneValues_map (v : Nat → Nat) (lanes : List Nat) :
    LaneValues (fun lane => some (v lane)) lanes (lanes.map (fun l => (l, v l))) := by
  refine ⟨by rw [List.map_map]; exact List.map_id lanes, fun p hp w hw => ?_⟩
  obtain ⟨l, -, rfl⟩ := List.mem_map.mp hp
  exact Option.some.inj hw

theorem laneStep_eq (dst n w : Nat) (val : Nat → Option Nat) (fl : Nat → Nat) (y : Dev × Group × Nat) (lane : Nat) :
    ∃ v k, (∀ u, val lane = some u → v = u) ∧
      laneStep dst n w val fl y lane = ({ y.1 with freeCtr := k }, y.2.1.setRegN dst lane n v, y.2.2 ||| fl lane) := by
  unfold laneStep
  split
  · next v hv => exact ⟨v, y.1.freeCtr, fun u hu => Option.some.inj (hv.symm.trans hu), rfl⟩
  · next hv => exact ⟨_, y.1.freeCtr + 1, fun u hu => (by rw [hv] at hu; cases hu), rfl⟩

theorem Dev.modGroup_writes_map (d : Dev) (c : CoreId) (g dst n : Nat) (lanes : List Nat) (v : Nat → Nat) :
    d.modGroup c g (Group.writes dst n (lanes.map (fun l => (l, v l)))) =
      d.modGroup c g (fun y => lanes.foldl (fun y lane => y.setRegN dst lane n (v lane)) y) :=
  congrArg (d.modGroup c g) (funext fun _ => List.foldl_map)

/-- All lanes: the values are written, free values drawn, the exceptions gathered. -/
theorem foldl_laneStep (dst n w : Nat) (val : Nat → Option Nat) (fl : Nat → Nat) (lanes : List Nat) (y : Dev × Group × Nat) :
    ∃ l k, LaneValues val lanes l ∧ lanes.foldl (laneStep dst n w val fl) y =
      ({ y.1 with freeCtr := k }, y.2.1.writes dst n l, lanes.foldl (fun a lane => a ||| fl lane) y.2.2) := by
  induction lanes generalizing y with
  | nil => exact ⟨[], y.1.freeCtr, ⟨rfl, fun p hp => by cases hp⟩, rfl⟩
  | cons lane lanes ih =>
    obtain ⟨v, k, hv, hstep⟩ := laneStep_eq dst n w val fl y lane
    obtain ⟨l, k', hl, hrest⟩ := ih (laneStep dst n w val fl y lane)
    refine ⟨(lane, v) :: l, k', hl.cons lane v hv, ?_⟩
    rw [List.foldl_cons, List.foldl_cons, hrest, hstep]
    rfl

/-! ### The frames of Safety -/

section
variable {d : Dev} {c : CoreId} {g : Nat} {x : Ctx}

/-- A group whose registers are those of the context's group with the values written. -/
theorem Dev.Hosts.lanesTake (h : d.Hosts c g x) {y : Group} {dst n : Nat} {val : Nat → Option Nat} {l : List (Nat × Nat)}
    (hl : LaneValues val x.lanes l) (hn : y.nreg = x.g.nreg) (hr : y.regs = (x.g.writes dst n l).regs) :
    Safety.lanesTake x y dst n val := by
  have hlt : ∀ p ∈ l, p.1 < 32 := fun p hp => h.lt_of_mem_lanes (hl.1 ▸ List.mem_map_of_mem hp)
  have hreg (r lane : Nat) : y.reg r lane = (x.g.writes dst n l).reg r lane := by
    unfold Group.reg; rw [hr, hn, Group.nreg_writes]
  refine ⟨fun lane hlane v hv i hi hd => ?_, fun r lane hlane ho => ?_⟩
  · obtain ⟨p, hp, rfl⟩ := List.mem_map.mp (hl.1 ▸ hlane)
    rw [hreg, Group.reg_writes_mem x.g hlt (hl.1 ▸ h.nodup_lanes) hp hi hd, hl.2 p hp v hv]
  · rw [hreg, Group.reg_writes_other x.g hlt hlane (hl.1 ▸ ho)]

/-- A device that differs by registers of a group, the slot's flags and free values drawn, once the group goes on. -/
theorem wroteLanes_advance {f e : Dev} {st : NMap Sticky} {z : Group} {F : Group → Group}
    (he : e = { f with cores := e.cores, freeCtr := e.freeCtr }) (hne : ∀ k, k ≠ c → e.core k = f.core k)
    (hcore : e.core c = { f.core c with inker := (f.core c).inker.modGroup g F, sticky := st })
    (hg : (f.core c).inker.group g = some z) (hF : F z = { z with regs := (F z).regs }) :
    Safety.wroteLanes f (e.advance c g) c g st z (F z).advance := by
  have hcore' : (e.advance c g).core c =
      { f.core c with inker := ((f.core c).inker.modGroup g F).modGroup g Group.advance, sticky := st } := by
    unfold Dev.advance; rw [Dev.core_modGroup, hcore]
  refine ⟨congrArg (fun y : Dev => { y with cores := (e.advance c g).cores }) he,
    fun k hk => (Dev.core_modGroup_ne _ _ _ hk).trans (hne k hk), ?_, ?_, fun j hj => ?_, ?_, ?_⟩
  · rw [hcore']
  · rw [hcore', Inker.modGroup_eq, Inker.modGroup_eq]
  · rw [hcore', Inker.group_modGroup_ne _ _ hj, Inker.group_modGroup_ne _ _ hj]
  · rw [hcore', Inker.group_modGroup_same, Inker.group_modGroup_same, hg]; rfl
  · rw [Group.advance_pathsOnly (F z) z (by rw [hF])]
    exact congrArg (fun y : Group => y.on z.advance.paths) hF

/-- What INK_ARITH and TLD leave of the lanes' fold: the group's registers and the slot's flags. -/
def Dev.lanesWritten (c : CoreId) (g sl : Nat) (r : Dev × Group × Nat) : Dev :=
  (r.1.modGroup c g (fun y => { y with regs := r.2.1.regs })).addFlags c sl r.2.2 0

theorem wroteLanes_lanesWritten {f : Dev} {z : Group} (sl k fl : Nat) (y : Group) (hg : (f.core c).inker.group g = some z) :
    Safety.wroteLanes f ((Dev.lanesWritten c g sl ({ f with freeCtr := k }, y, fl)).advance c g) c g ((f.addFlags c sl fl 0).core c).sticky
      z ({ z with regs := y.regs } : Group).advance := by
  refine wroteLanes_advance (F := fun z => { z with regs := y.regs }) rfl (fun b hb => ?_) ?_ hg rfl
  · unfold Dev.lanesWritten
    rw [Dev.core_addFlags_ne _ _ _ _ hb, Dev.core_modGroup_ne _ _ _ hb]
    rfl
  · unfold Dev.lanesWritten
    rw [Dev.core_addFlags, Dev.core_modGroup, Dev.core_addFlags]
    rfl

/-- The fold of a value for each lane, in a device where the group stands. -/
theorem lanes_foldl_laneStep (h : d.Hosts c g x) {f : Dev} (srcs : List (Nat × Nat × Bool)) (cost : Nat × Nat)
    (hg : (f.core c).inker.group g = some (Safety.groupAt d c x srcs cost)) (dst n w sl : Nat) (val : Nat → Option Nat) (fl : Nat → Nat) :
    ∃ y, Safety.wroteLanes f ((Dev.lanesWritten c g sl (x.lanes.foldl (laneStep dst n w val fl) (f, x.g, 0))).advance c g) c g
        ((f.addFlags c sl (x.lanes.foldl (fun a lane => a ||| fl lane) 0) 0).core c).sticky (Safety.groupAt d c x srcs cost) y ∧
      Safety.lanesTake x y dst n val := by
  obtain ⟨l, k, hl, hfold⟩ := foldl_laneStep dst n w val fl x.lanes (f, x.g, 0)
  rw [hfold]
  exact ⟨_, wroteLanes_lanesWritten _ _ _ _ hg, h.lanesTake hl (by rw [Group.nreg_advance]; rfl) (by rw [Group.regs_advance])⟩

theorem mem_lanesWritten_foldl (f : Dev) (dst n w sl : Nat) (val : Nat → Option Nat) (fl : Nat → Nat) :
    (Dev.lanesWritten c g sl (x.lanes.foldl (laneStep dst n w val fl) (f, x.g, 0))).mem = f.mem := by
  obtain ⟨l, k, -, hfold⟩ := foldl_laneStep dst n w val fl x.lanes (f, x.g, 0)
  unfold Dev.lanesWritten
  rw [hfold, Dev.addFlags_mem, Dev.modGroup_mem]

/-- The same value of every lane, whatever the device: TLD without a tile, and LLD. -/
theorem wroteLanes_writes (h : d.Hosts c g x) {f : Dev} (srcs : List (Nat × Nat × Bool)) (cost : Nat × Nat)
    (hg : (f.core c).inker.group g = some (Safety.groupAt d c x srcs cost)) (dst n : Nat) (v : Nat → Nat) :
    ∃ y, Safety.wroteLanes f ((f.modGroup c g (Group.writes dst n (x.lanes.map (fun l => (l, v l))))).advance c g) c g (f.core c).sticky
        (Safety.groupAt d c x srcs cost) y ∧
      Safety.lanesTake x y dst n (fun lane => some (v lane)) := by
  refine ⟨_, wroteLanes_advance rfl (fun k hk => Dev.core_modGroup_ne _ _ _ hk) (Dev.core_modGroup _ _ _ _) hg (Group.writes_eq _ _ _ _),
    h.lanesTake (laneValues_map v x.lanes) ?_ ?_⟩
  · rw [Group.nreg_advance, Group.nreg_writes]; rfl
  · rw [Group.regs_advance]; exact Group.regs_writes_congr (g := Safety.groupAt d c x srcs cost) (h := x.g) rfl rfl _ _ _

/-- An instruction that meets the Stone goes on to what it does there, where its run does. -/
theorem stoneMet_of_inkStone {e d : Dev} {ecc : StoneEcc} {go done : Dev → _} (hd : d = (e.inkStone c x ecc go).advance c g)
    (h : ∀ f, f = e.stoneEcc c ecc stInk x.slot x.n → f.running c x.slot = true → d = (go f).advance c g → done f) :
    Safety.stoneMet e d c g x ecc done := by
  unfold Dev.inkStone at hd
  dsimp only at hd
  refine ⟨_, rfl, fun hr => ?_, fun hr => h _ rfl hr ?_⟩
  · rw [hd, hr]; rfl
  · rw [hd, if_pos hr]

end

/-! ### INK_ARITH (R135) -/

/-- What an operation gives a lane, none where the spec states no value, and the exceptions it meets. -/
def Ctx.aluValue (x : Ctx) (i : InkInstr) (lane : Nat) : Option Nat :=
  match x.special lane i.op with
  | some v => some v
  | none => (inkAlu i.op i.rnd.val (x.g.regN i.srcA.val lane (opShape i.op).1) (x.g.regN i.srcB.val lane (opShape i.op).2.1)
      (x.g.regN i.srcC.val lane (opShape i.op).2.2.1)).1

def Ctx.aluFlags (x : Ctx) (i : InkInstr) (lane : Nat) : Nat :=
  match x.special lane i.op with
  | some _ => 0
  | none => (inkAlu i.op i.rnd.val (x.g.regN i.srcA.val lane (opShape i.op).1) (x.g.regN i.srcB.val lane (opShape i.op).2.1)
      (x.g.regN i.srcC.val lane (opShape i.op).2.2.1)).2

/-- A lane of INK_ARITH. -/
theorem laneStep_aluLane (x : Ctx) (i : InkInstr) (y : Dev × Group × Nat) (lane : Nat) :
    ((y.1.aluLane x i lane).1, y.2.1.setRegN i.dst.val lane (opShape i.op).2.2.2 (y.1.aluLane x i lane).2.1,
      y.2.2 ||| (y.1.aluLane x i lane).2.2) =
      laneStep i.dst.val (opShape i.op).2.2.2 (32 * (opShape i.op).2.2.2) (x.aluValue i) (x.aluFlags i) y lane := by
  unfold laneStep Ctx.aluValue Ctx.aluFlags Dev.aluLane
  cases x.special lane i.op with
  | some v => rfl
  | none =>
    dsimp only
    generalize inkAlu i.op _ _ _ _ = r
    obtain ⟨v | v, fl⟩ := r <;> rfl

theorem inkArith_spec {c : CoreId} {g : Fin 16} {i : InkInstr} {s : State} {x : Ctx} {srcs : List (Nat × Nat × Bool)}
    (hsrcs : srcs = [(i.srcA.val, (opShape i.op).1, i.hints.getLsbD 0), (i.srcB.val, (opShape i.op).2.1, i.hints.getLsbD 1),
      (i.srcC.val, (opShape i.op).2.2.1, i.hints.getLsbD 2)])
    (h : Safety.mayRun s.dev c g.val srcs [(i.dst.val, (opShape i.op).2.2.2)] x) :
    ∃ d y, execInkArith c g i s = .next { s with dev := d } ∧
      Safety.wroteLanes (Safety.atGroup s.dev c g.val srcs (opCost i.op)) d c g.val
        (((Safety.atGroup s.dev c g.val srcs (opCost i.op)).addFlags c x.slot
          (x.lanes.foldl (fun a lane => a ||| x.aluFlags i lane) 0) 0).core c).sticky (Safety.groupAt s.dev c x srcs (opCost i.op)) y ∧
      Safety.lanesTake x y i.dst.val (opShape i.op).2.2.2 (x.aluValue i) := by
  have hx := Dev.hosts_of_mayRun h
  obtain ⟨y, hy⟩ := lanes_foldl_laneStep hx srcs (opCost i.op) (hx.group_tookIssue srcs (opCost i.op)) i.dst.val (opShape i.op).2.2.2
    (32 * (opShape i.op).2.2.2) x.slot (x.aluValue i) (x.aluFlags i)
  refine ⟨_, y, ?_, hy⟩
  unfold execInkArith
  rw [onDev_eq]
  dsimp only
  rw [← hsrcs, Dev.inkPlain_of_ok h _ _ rfl]
  simp only [laneStep_aluLane]
  rfl

/-! ### TLD (R134) -/

/-- What a lane reads of a tile, none where the spec states no value, and the exceptions it meets. -/
def Ctx.tldAt (x : Ctx) (k : Core) (td : Img) (mode : TileMode) (ri rj lane : Nat) : Option Nat × Nat :=
  tldLane k x.run (tileOf td) mode (x.g.reg ri lane) (x.g.reg rj lane)

/-- TLD once its Stone access has been met. -/
def Dev.tldDone (c : CoreId) (g : Nat) (x : Ctx) (dst t ri rj : Nat) (mode : TileMode) (d : Dev) : Dev :=
  match x.tdesc t with
  | none => d.modGroup c g (Group.writes dst 1 (x.lanes.map (fun l => (l, 0))))
  | some td => Dev.lanesWritten c g x.slot (x.lanes.foldl (laneStep dst (tileRegs (tileOf td) mode) 32
      (fun lane => (x.tldAt (d.core c) td mode ri rj lane).1) (fun lane => (x.tldAt (d.core c) td mode ri rj lane).2)) (d, x.g, 0))

theorem Dev.tldDone_mem (c : CoreId) (g : Nat) (x : Ctx) (dst t ri rj : Nat) (mode : TileMode) (d : Dev) :
    (Dev.tldDone c g x dst t ri rj mode d).mem = d.mem := by
  unfold Dev.tldDone
  split
  · rw [Dev.modGroup_mem]
  · rw [mem_lanesWritten_foldl]

theorem execTld_of_mayRun {c : CoreId} {g : Fin 16} {s : State} {x : Ctx} {dst ri rj : Fin 256} {t : Fin 4} {mode : TileMode}
    {hints : BitVec 3} (ecc : StoneEcc) {srcs : List (Nat × Nat × Bool)}
    (hsrcs : srcs = [(ri.val, 1, hints.getLsbD 0), (rj.val, 1, hints.getLsbD 1)])
    (h : Safety.mayRun s.dev c g.val srcs [(dst.val, s.dev.tileCount c g.val t.val mode)] x) :
    execTld c g dst t ri rj mode s hints ecc =
      .next { s with dev := ((Safety.atGroup s.dev c g.val srcs costStone).inkStone c x ecc
        (Dev.tldDone c g.val x dst.val t.val ri.val rj.val mode)).advance c g.val } := by
  unfold execTld
  rw [onDev_eq]
  dsimp only
  rw [← hsrcs, Dev.inkPlain_of_ok h _ _ rfl]
  refine congrArg (fun go => Host.Outcome.next { s with dev :=
    (((s.dev.tookIssue c g.val srcs costStone).inkStone c x ecc go).advance c g.val) }) (funext fun f => ?_)
  unfold Dev.tldDone
  cases x.tdesc t.val with
  | none => exact (Dev.modGroup_writes_map f c g.val dst.val 1 x.lanes (fun _ => 0)).symm
  | some td => rfl

theorem tld_spec {c : CoreId} {g : Fin 16} {s : State} {x : Ctx} {dst ri rj : Fin 256} {t : Fin 4} {mode : TileMode}
    {hints : BitVec 3} {ecc : StoneEcc} {e : Dev} {srcs : List (Nat × Nat × Bool)}
    (hsrcs : srcs = [(ri.val, 1, hints.getLsbD 0), (rj.val, 1, hints.getLsbD 1)])
    (h : Safety.mayRun s.dev c g.val srcs [(dst.val, s.dev.tileCount c g.val t.val mode)] x)
    (he : e = Safety.atGroup s.dev c g.val srcs costStone) :
    ∃ d, execTld c g dst t ri rj mode s hints ecc = .next { s with dev := d } ∧ Safety.memoryKept s.dev d ∧
      Safety.stoneMet e d c g.val x ecc (fun f => ∃ y,
        (x.tdesc t.val = none → Safety.wroteLanes f d c g.val (f.core c).sticky (Safety.groupAt s.dev c x srcs costStone) y ∧
          Safety.lanesTake x y dst.val 1 (fun _ => some 0)) ∧
        (∀ td fl, x.tdesc t.val = some td →
          fl = x.lanes.foldl (fun a lane => a ||| (x.tldAt (f.core c) td mode ri.val rj.val lane).2) 0 →
          Safety.wroteLanes f d c g.val ((f.addFlags c x.slot fl 0).core c).sticky (Safety.groupAt s.dev c x srcs costStone) y ∧
          Safety.lanesTake x y dst.val (tileRegs (tileOf td) mode) (fun lane => (x.tldAt (f.core c) td mode ri.val rj.val lane).1))) := by
  subst he
  have hx := Dev.hosts_of_mayRun h
  refine ⟨_, execTld_of_mayRun ecc hsrcs h, Safety.memoryKept_of_mem_eq ?_, stoneMet_of_inkStone rfl fun f hf hrun hd => ?_⟩
  · rw [Dev.advance_mem, Dev.inkStone_mem _ _ _ _ _ (Dev.tldDone_mem _ _ _ _ _ _ _ _), Safety.atGroup, Dev.tookIssue_mem]
  have hg : (f.core c).inker.group g.val = some (Safety.groupAt s.dev c x srcs costStone) :=
    hf ▸ hx.group_stoneEcc srcs costStone ecc (hf ▸ hrun)
  rw [hd]
  unfold Dev.tldDone
  cases htd : x.tdesc t.val with
  | none =>
    obtain ⟨y, hy⟩ := wroteLanes_writes hx srcs costStone hg dst.val 1 (fun _ => 0)
    exact ⟨y, fun _ => hy, fun td fl htd' => by cases htd'⟩
  | some td =>
    obtain ⟨y, hy⟩ := lanes_foldl_laneStep hx srcs costStone hg dst.val (tileRegs (tileOf td) mode) 32 x.slot
      (fun lane => (x.tldAt (f.core c) td mode ri.val rj.val lane).1) (fun lane => (x.tldAt (f.core c) td mode ri.val rj.val lane).2)
    refine ⟨y, fun htd' => (by cases htd'), fun td' fl htd' hfl => ?_⟩
    cases htd'
    rw [hfl]
    exact hy

/-! ### LLD, TST and LST (R130, R134) -/

/-- What a lane reads of block-local memory: 0 where the LAUNCH has none. -/
def Ctx.lldAt (x : Ctx) (k : Core) (ro n lane : Nat) : Nat :=
  match x.local (x.g.reg ro lane) n with
  | some a => k.stoneN a n
  | none => 0

theorem Ctx.some_lldAt (x : Ctx) (k : Core) (ro n lane : Nat) : some (x.lldAt k ro n lane) =
    match x.local (x.g.reg ro lane) n with
    | some a => some (k.stoneN a n)
    | none => some 0 := by
  unfold Ctx.lldAt; cases x.local (x.g.reg ro lane) n <;> rfl

theorem lld_spec {c : CoreId} {g : Fin 16} {s : State} {x : Ctx} {dst ro : Fin 256} {size : Fin 5} {n : Nat}
    {hints : BitVec 3} {ecc : StoneEcc} {e : Dev} {srcs : List (Nat × Nat × Bool)} (hn : n = accBytes size.val)
    (hsrcs : srcs = [(ro.val, 1, hints.getLsbD 0)])
    (h : Safety.mayRun s.dev c g.val srcs [(dst.val, regsFor n)] x) (he : e = Safety.atGroup s.dev c g.val srcs costStone) :
    ∃ d, execLld c g dst ro size s hints ecc = .next { s with dev := d } ∧ Safety.memoryKept s.dev d ∧
      Safety.stoneMet e d c g.val x ecc (fun f => ∃ y,
        Safety.wroteLanes f d c g.val (f.core c).sticky (Safety.groupAt s.dev c x srcs costStone) y ∧
        Safety.lanesTake x y dst.val (regsFor n) (fun lane => some (x.lldAt (f.core c) ro.val n lane))) := by
  subst he hn
  have hx := Dev.hosts_of_mayRun h
  have hexec : execLld c g dst ro size s hints ecc = .next { s with dev := ((Safety.atGroup s.dev c g.val srcs costStone).inkStone c x ecc
      (fun f => f.modGroup c g.val (Group.writes dst.val (regsFor (accBytes size.val))
        (x.lanes.map (fun l => (l, x.lldAt (f.core c) ro.val (accBytes size.val) l)))))).advance c g.val } := by
    unfold execLld
    rw [onDev_eq]
    dsimp only
    rw [← hsrcs, Dev.inkPlain_of_ok h _ _ rfl]
    simp only [Dev.modGroup_writes_map]
    rfl
  refine ⟨_, hexec, Safety.memoryKept_of_mem_eq ?_, stoneMet_of_inkStone rfl fun f hf hrun hd => ?_⟩
  · rw [Dev.advance_mem, Dev.inkStone_mem _ _ _ _ _ (fun _ => Dev.modGroup_mem _ _ _ _), Safety.atGroup, Dev.tookIssue_mem]
  rw [hd]
  exact wroteLanes_writes hx srcs costStone (hf ▸ hx.group_stoneEcc srcs costStone ecc (hf ▸ hrun)) _ _ _

/-- TST once its Stone access has been met. -/
def Dev.tstDone (c : CoreId) (x : Ctx) (src t ri rj : Nat) (mode : TileMode) (rnd : Nat) (d : Dev) : Dev :=
  match x.tdesc t with
  | none => d
  | some td =>
    let r := x.lanes.foldl (fun (y : Core × Nat) lane =>
      let z := tstLane y.1 x.run (tileOf td) mode rnd (x.g.reg ri lane) (x.g.reg rj lane) (x.g.regN src lane (tileRegs (tileOf td) mode))
      (z.1, y.2 ||| z.2)) (d.core c, 0)
    (d.setCore c r.1).addFlags c x.slot r.2 0

theorem Dev.tstDone_eq (c : CoreId) (x : Ctx) (src t ri rj : Nat) (mode : TileMode) (rnd : Nat) (d : Dev) :
    Dev.tstDone c x src t ri rj mode rnd d = { d with cores := (Dev.tstDone c x src t ri rj mode rnd d).cores } := by
  unfold Dev.tstDone; split <;> rfl

theorem tst_spec {c : CoreId} {g : Fin 16} {s : State} {x : Ctx} {src ri rj : Fin 256} {t : Fin 4} {mode : TileMode} {rnd : Fin 4}
    {hints : BitVec 3} {ecc : StoneEcc} {e : Dev} {srcs : List (Nat × Nat × Bool)}
    (hsrcs : srcs = [(ri.val, 1, hints.getLsbD 0), (rj.val, 1, hints.getLsbD 1),
      (src.val, s.dev.tileCount c g.val t.val mode, hints.getLsbD 2)])
    (h : Safety.mayRun s.dev c g.val srcs [] x) (he : e = Safety.atGroup s.dev c g.val srcs costStone) :
    ∃ d, execTst c g src t ri rj mode rnd s hints ecc = .next { s with dev := d } ∧ Safety.memoryKept s.dev d ∧
      Safety.stoneMet e d c g.val x ecc (fun f =>
        d = { f with cores := d.cores } ∧ d = (Dev.tstDone c x src.val t.val ri.val rj.val mode rnd.val f).advance c g.val) := by
  subst he
  have hexec : execTst c g src t ri rj mode rnd s hints ecc = .next { s with dev :=
      (((Safety.atGroup s.dev c g.val srcs costStone).inkStone c x ecc
        (Dev.tstDone c x src.val t.val ri.val rj.val mode rnd.val)).advance c g.val) } := by
    unfold execTst
    rw [onDev_eq]
    dsimp only
    rw [← hsrcs, Dev.inkPlain_of_ok h _ _ rfl]
    rfl
  refine ⟨_, hexec, Safety.memoryKept_of_mem_eq ?_, stoneMet_of_inkStone rfl fun f hf hrun hd => ⟨?_, hd⟩⟩
  · rw [Dev.advance_mem, Dev.inkStone_mem _ _ _ _ _ (fun _ => by rw [Dev.tstDone_eq]), Safety.atGroup, Dev.tookIssue_mem]
  · rw [hd]
    exact congrArg (fun y : Dev => { y with cores := ((Dev.tstDone c x src.val t.val ri.val rj.val mode rnd.val f).advance c g.val).cores })
      (Dev.tstDone_eq c x src.val t.val ri.val rj.val mode rnd.val f)

/-- The Stone as LST leaves it. -/
def Core.lstDone (x : Ctx) (src ro n : Nat) (k : Core) : Core :=
  x.lanes.foldl (fun k lane => match x.local (x.g.reg ro lane) n with
    | some a => k.stoneWrite a n (x.g.regN src lane (regsFor n))
    | none => k) k

theorem lst_spec {c : CoreId} {g : Fin 16} {s : State} {x : Ctx} {src ro : Fin 256} {size : Fin 5} {n : Nat}
    {hints : BitVec 3} {ecc : StoneEcc} {e : Dev} {srcs : List (Nat × Nat × Bool)} (hn : n = accBytes size.val)
    (hsrcs : srcs = [(ro.val, 1, hints.getLsbD 0), (src.val, regsFor n, hints.getLsbD 1)])
    (h : Safety.mayRun s.dev c g.val srcs [] x) (he : e = Safety.atGroup s.dev c g.val srcs costStone) :
    ∃ d, execLst c g src ro size s hints ecc = .next { s with dev := d } ∧ Safety.memoryKept s.dev d ∧
      Safety.stoneMet e d c g.val x ecc (fun f =>
        d = { f with cores := d.cores } ∧ d = (f.setCore c ((f.core c).lstDone x src.val ro.val n)).advance c g.val) := by
  subst he hn
  have hexec : execLst c g src ro size s hints ecc = .next { s with dev := ((Safety.atGroup s.dev c g.val srcs costStone).inkStone c x ecc
      (fun f => f.modCore c (Core.lstDone x src.val ro.val (accBytes size.val)))).advance c g.val } := by
    unfold execLst
    rw [onDev_eq]
    dsimp only
    rw [← hsrcs, Dev.inkPlain_of_ok h _ _ rfl]
    rfl
  refine ⟨_, hexec, Safety.memoryKept_of_mem_eq ?_, stoneMet_of_inkStone rfl fun f hf hrun hd => ⟨?_, hd⟩⟩
  · rw [Dev.advance_mem, Dev.inkStone_mem _ _ _ _ _ (fun _ => Dev.modCore_mem _ _ _), Safety.atGroup, Dev.tookIssue_mem]
  · rw [hd]; rfl

/-- Settles O23: INK_ARITH, TLD and LLD by what a fold over the lanes writes, TST and LST by what they leave of the Stone. -/
theorem inkerRegisterInstructions : Obligations.InkerRegisterInstructions := by
  unfold Obligations.InkerRegisterInstructions
  intro c g s x hints ecc
  refine ⟨fun i sh e srcs fl hsh hsrcs h he hfl => ?_, fun dst ri rj t mode e srcs hsrcs h he => tld_spec hsrcs h he,
    fun dst ro size n e srcs hn hsrcs h he => ?_, fun src ri rj t mode rnd e srcs hsrcs h he => ?_,
    fun src ro size n e srcs hn hsrcs h he => lst_spec hn hsrcs h he⟩
  · subst hsh he hfl
    exact inkArith_spec hsrcs h
  · obtain ⟨d, hexec, hmem, hd⟩ := lld_spec hn hsrcs h he
    refine ⟨d, hexec, hmem, ?_⟩
    simp only [Ctx.some_lldAt] at hd
    exact hd
  · obtain ⟨d, hexec, hmem, f, hf, hend, hgo⟩ := tst_spec hsrcs h he
    refine ⟨d, hexec, hmem, f, hf, hend, fun hrun => ?_⟩
    obtain ⟨hkept, hd⟩ := hgo hrun
    refine ⟨hkept, fun ht => ?_, fun td w ht hw => ?_⟩
    · rw [hd]; unfold Dev.tstDone; rw [ht]
    · rw [hd, hw]; unfold Dev.tstDone; rw [ht]

end Sys2Proof.Machine

/-! ## Barriers, exits, branches, fences and path switches (O25; R136, R139 to R141, R157, R158) -/

namespace Sys2Proof.Machine

/-! ### Acquires (R147) -/

/-- An acquire wider than the thread's core empties its data cache, and leaves the rest of the core. -/
theorem Dev.core_acquire (d : Dev) (c : CoreId) {scope : Nat} (part : Nat) (h : scope ≠ 0) :
    (d.acquire c scope part).core c = (d.core c).uncached := by
  have hcores : (d.acquire c scope part).cores = (d.modCore c Core.uncached).cores := by
    unfold Dev.acquire
    rw [if_neg h]
    dsimp only
    split
    · rw [Dev.foldl_rcInvalidate_eq]; rfl
    · rfl
  unfold Dev.core
  rw [hcores]
  exact Dev.core_modCore_same d c Core.uncached

theorem Dev.dcache_advance (d : Dev) (c : CoreId) (g : Nat) : ((d.advance c g).core c).inker.dcache = (d.core c).inker.dcache := by
  unfold Dev.advance; rw [Dev.core_modGroup, Inker.modGroup_eq]

/-! ### Barriers (R136) -/

theorem NMap.mem_of_get {β : Type} {m : NMap β} {k : Nat} {d v : β} (h : NMap.get m k d = v) (hv : v ≠ d) : (k, v) ∈ m := by
  induction m with
  | nil => exact absurd h.symm hv
  | cons e m ih =>
    obtain ⟨j, w⟩ := e
    rw [NMap.get_cons] at h
    by_cases hj : j = k
    · rw [if_pos hj] at h
      rw [hj, h]
      exact List.mem_cons_self
    · rw [if_neg hj] at h
      exact List.mem_cons_of_mem _ (ih h)

/-- The groups of a block, as `Inker.barrier` lists them. -/
theorem Inker.mem_blockGroups {k : Inker} {h b : Nat} {z : Group} (hz : k.group h = some z) (hb : z.block = b) :
    (h, z) ∈ k.blockGroups b :=
  List.mem_filterMap.mpr ⟨(h, some z), NMap.mem_of_get hz (by simp), by simp [hb]⟩

/-- A barrier that a path of the block has not reached stands. -/
theorem Inker.barrier_of_absent {k : Inker} {h b : Nat} {z : Group} (hz : k.group h = some z) (hb : z.block = b)
    (hp : ∃ p ∈ z.paths, p.st ≠ .bar) : k.barrier b = k := by
  obtain ⟨p, hp, hst⟩ := hp
  refine if_neg fun hall => ?_
  have hall : ∀ e ∈ k.blockGroups b, e.2.paths.all (fun p => p.st == .bar) = true := List.all_eq_true.mp hall
  have hbar := List.all_eq_true.mp (hall _ (Inker.mem_blockGroups hz hb)) p hp
  exact hst (beq_iff_eq.mp hbar)

/-- An instruction that changes its group and then the Inker changes nothing but its core. -/
theorem Dev.inkerChanged_eq (d : Dev) (c : CoreId) (g : Nat) (srcs : List (Nat × Nat × Bool)) (cost : Nat × Nat) (f : Group → Group)
    (k : Inker → Inker) : ((Safety.atGroup d c g srcs cost).modGroup c g f).modInker c k =
      { d with cores := (((Safety.atGroup d c g srcs cost).modGroup c g f).modInker c k).cores } :=
  Dev.modInker_of_cores c _ (Dev.modGroup_of_cores c g _ (Dev.tookIssue_eq d c g srcs cost))

section
variable {c : CoreId} {g : Fin 16} {s : State} {x : Ctx}

theorem execBar_of_released (h : Safety.mayRun s.dev c g.val [] [] x) {p : Path} {r : List Path} (hp : x.g.paths = p :: r)
    (hrel : s.dev.threadReleased c g.val 0 = true) :
    execBar c g s = .next { s with dev := (((Safety.atGroup s.dev c g.val [] costNone).modGroup c g.val
      (fun _ => ({ Safety.groupAt s.dev c x [] costNone with
        paths := { p with pc := p.pc + 16, issued := p.issued + 1, st := .bar } :: r } : Group).settled)).modInker c
      (fun k => k.barrier x.g.block)) } := by
  have hgroup := (Dev.hosts_of_mayRun h).group_tookIssue [] costNone
  unfold execBar
  rw [onDev_eq, Dev.inkIssue_of_ok h _ _ hrel, Dev.modGroup_congr hgroup]
  · rfl
  · show (match x.g.paths with | p :: r => _ | [] => _) = _
    rw [hp]

theorem execExit_of_mayRun (h : Safety.mayRun s.dev c g.val [] [] x) {p : Path} {r : List Path} (hp : x.g.paths = p :: r) :
    execExit c g s = .next { s with dev := (((Safety.atGroup s.dev c g.val [] costNone).modGroup c g.val
      (fun _ => (({ Safety.groupAt s.dev c x [] costNone with paths := r } : Group).arriveAll 40).elect)).modInker c
      (fun k => k.barrier x.g.block)) } := by
  have hgroup := (Dev.hosts_of_mayRun h).group_tookIssue [] costNone
  have hdrop : (Safety.groupAt s.dev c x [] costNone).paths.drop 1 = r := by
    show x.g.paths.drop 1 = r
    rw [hp]; rfl
  unfold execExit
  rw [onDev_eq, Dev.inkIssue_of_ok h _ _ rfl, Dev.modGroup_congr hgroup]
  · rfl
  · dsimp only
    rw [hdrop]

/-! ### Branches (R139) -/

theorem execBra_of_mayRun {rc : Fin 256} {target reconv : BitVec 48} {hints : BitVec 3} {srcs : List (Nat × Nat × Bool)}
    (hsrcs : srcs = [(rc.val, 1, hints.getLsbD 0)]) (h : Safety.mayRun s.dev c g.val srcs [] x) :
    execBra c g rc target reconv s hints = .next { s with dev := ((Safety.atGroup s.dev c g.val srcs costNone).modGroup c g.val
      (fun y => y.branch rc.val target.toNat reconv.toNat)) } := by
  unfold execBra
  rw [onDev_eq, ← hsrcs, Dev.inkIssue_of_ok h _ _ rfl]
  rfl

end

/-! ### Path switches (R141) -/

theorem longest_eq_some {l : List Path} {q : Path} (h : longest l = some q) : q ∈ l ∧ q.st = .run := by
  induction l generalizing q with
  | nil => cases h
  | cons p l ih =>
    unfold longest at h
    split at h
    · split at h
      · next hp => cases h; exact ⟨List.mem_cons_self, hp⟩
      · cases h
    · next y hy =>
      split at h
      · next hp => cases h; exact ⟨List.mem_cons_self, hp.1⟩
      · cases h
        exact ⟨List.mem_cons_of_mem _ (ih hy).1, (ih hy).2⟩

/-- The path that has waited longest of those that can run takes the place of the current one. -/
theorem Group.switch_of_others {g : Group} {p : Path} {r : List Path} (hp : g.paths = p :: r) (ho : g.others = true) :
    ∃ q, q ∈ r ∧ q.st = .run ∧ g.switch.paths.head? = some { q with issued := 0 } := by
  unfold Group.others at ho
  rw [hp] at ho
  obtain ⟨q, hq⟩ := Option.isSome_iff_exists.mp ho
  have hq : longest r = some q := hq
  obtain ⟨hmem, hrun⟩ := longest_eq_some hq
  refine ⟨q, hmem, hrun, ?_⟩
  unfold Group.switch Group.elect
  rw [hp]
  dsimp only
  rw [hq]
  rfl

theorem execPathSwitch_of_due {c : CoreId} {g : Fin 16} {s : State} {z : Group} {p : Path} {r : List Path}
    (hz : (s.dev.core c).inker.group g.val = some z) (hp : z.paths = p :: r) (hi : 64 ≤ p.issued) (ho : z.others = true) :
    execPathSwitch c g s = .next { s with dev := s.dev.modGroup c g.val (fun _ => z.switch) } := by
  unfold execPathSwitch
  rw [onDev_eq, Dev.modGroup_congr hz]
  rw [hp]
  exact if_pos ⟨hi, ho⟩

/-! ### The obligation -/

theorem acquired_memoryKept {d e : Dev} {c : CoreId} {g : Nat} {srcs : List (Nat × Nat × Bool)} {cost : Nat × Nat}
    (he : e = Safety.atGroup d c g srcs cost) (scope part : Nat) : Safety.memoryKept d ((e.acquire c scope part).advance c g) := by
  refine Safety.memoryKept_of_mem_eq ?_
  rw [Dev.advance_mem, Dev.acquire_mem, he, Safety.atGroup, Dev.tookIssue_mem]

section
variable {c : CoreId} {g : Fin 16} {s : State} {x : Ctx} {e : Dev} {y : Group} {scope : Scope}
  (h : Safety.mayRun s.dev c g.val [] [] x) (he : e = Safety.atGroup s.dev c g.val [] costNone)
include h

theorem bar_held (hrel : s.dev.threadReleased c g.val 0 = false) : execBar c g s = .next s := by
  unfold execBar
  rw [onDev_eq, Dev.inkIssue_of_held h _ _ hrel]

theorem fenceRel_held (hrel : s.dev.threadReleased c g.val scope.val = false) : execFenceRel c g scope s = .next s := by
  unfold execFenceRel
  rw [onDev_eq, Dev.inkPlain_of_held h _ _ hrel]

theorem fenceAr_held (hrel : s.dev.threadReleased c g.val scope.val = false) : execFenceAr c g scope s = .next s := by
  unfold execFenceAr
  rw [onDev_eq, Dev.inkPlain_of_held h _ _ hrel]

theorem fenceRel_spec (hy : y = Safety.groupAt s.dev c x [] costNone) (hrel : s.dev.threadReleased c g.val scope.val = true) :
    ∃ d, execFenceRel c g scope s = .next { s with dev := d } ∧ d = { s.dev with cores := d.cores } ∧
      (d.core c).inker.group g.val = some y.advance := by
  subst hy
  refine ⟨(Safety.atGroup s.dev c g.val [] costNone).advance c g.val, ?_, Dev.modGroup_of_cores c g.val _ (Dev.tookIssue_eq _ _ _ _ _),
    Dev.group_modGroup _ ((Dev.hosts_of_mayRun h).group_tookIssue [] costNone)⟩
  unfold execFenceRel
  rw [onDev_eq, Dev.inkPlain_of_ok h _ _ hrel]
  rfl

include he

theorem fenceAr_spec (hrel : s.dev.threadReleased c g.val scope.val = true) :
    ∃ d, execFenceAr c g scope s = .next { s with dev := d } ∧ Safety.memoryKept s.dev d ∧
      d = (e.acquire c scope.val x.part).advance c g.val := by
  refine ⟨_, ?_, acquired_memoryKept he _ _, rfl⟩
  unfold execFenceAr
  rw [onDev_eq, Dev.inkPlain_of_ok h _ _ hrel, he]
  rfl

theorem fenceAcq_spec :
    ∃ d, execFenceAcq c g scope s = .next { s with dev := d } ∧ Safety.memoryKept s.dev d ∧
      d = (e.acquire c scope.val x.part).advance c g.val ∧ (scope.val ≠ 0 → (d.core c).inker.dcache = []) := by
  refine ⟨_, ?_, acquired_memoryKept he _ _, rfl, fun hs => ?_⟩
  · unfold execFenceAcq
    rw [onDev_eq, Dev.inkPlain_of_ok h _ _ rfl, he]
    rfl
  · rw [Dev.dcache_advance, Dev.core_acquire _ _ _ hs]
    rfl

end

/-- Settles O25: each command's meaning where the group may run it, `Inker.barrier_of_absent` for a barrier that is not complete and
`Group.switch_of_others` for the path that takes the turn. -/
theorem inkerControlInstructions : Obligations.InkerControlInstructions := by
  unfold Obligations.InkerControlInstructions
  intro c g s x y e he hy
  refine ⟨fun h p r hp => ⟨fun hrel => ?_, bar_held h, ?_⟩, fun k j b z hz hb hp => Inker.barrier_of_absent hz hb hp,
    fun rc target reconv hints srcs hsrcs h => ?_,
    fun scope h => ⟨fun hrel => ⟨fenceRel_spec h hy hrel, fenceAr_spec h he hrel⟩, fun hrel => ⟨fenceRel_held h hrel, fenceAr_held h hrel⟩,
      fenceAcq_spec h he⟩,
    fun z p r hz hp hi ho => ⟨_, execPathSwitch_of_due hz hp hi ho, Dev.modGroup_of_cores c g.val _ rfl, Dev.group_modGroup _ hz,
      Group.switch_of_others hp ho⟩⟩
  · subst he hy
    exact ⟨_, execBar_of_released h hp hrel, Dev.inkerChanged_eq _ _ _ _ _ _ _, rfl⟩
  · subst he hy
    exact ⟨_, execExit_of_mayRun h hp, Dev.inkerChanged_eq _ _ _ _ _ _ _, rfl⟩
  · have hgroup := (Dev.hosts_of_mayRun h).group_tookIssue srcs costNone
    exact ⟨_, execBra_of_mayRun hsrcs h, Dev.modGroup_of_cores c g.val _ (Dev.tookIssue_eq _ _ _ _ _), Dev.group_modGroup _ hgroup,
      fun j hj => (Dev.group_modGroup_ne _ _ _ hj).trans (Dev.group_tookIssue_ne _ _ _ _ hj)⟩

end Sys2Proof.Machine

/-! ## Loads, stores, atomics and their replies (O24; R54, R124, R142 to R149, R157, R158) -/

namespace Sys2Proof.Machine

/-! ### Loads and stores -/

section
variable {c : CoreId} {g : Fin 16} {s : State} {hints : BitVec 3} {arr : ArrayEcc} {x : Ctx} {e : Dev} {rv ra : Fin 256} {size : Fin 5}
  {srcs : List (Nat × Nat × Bool)}

theorem execLd_of_mayRun (nocache parity : Bool) (hsrcs : srcs = [(ra.val, 2, hints.getLsbD 0)])
    (h : Safety.mayRun s.dev c g.val srcs [(rv.val, regsFor (accBytes size.val))] x) (hacq : Dev.acquired c g.val s.dev x = true)
    (he : e = Safety.atGroup s.dev c g.val srcs costMem) : execLd c g rv ra size nocache parity s hints arr =
      .next { s with dev := (e.inkLoad c g.val x rv.val ra.val size.val nocache parity none arr).advance c g.val } := by
  unfold execLd
  rw [onDev_eq, ← hsrcs, Dev.inkPlain_of_ok h _ _ hacq, he]
  rfl

theorem execLdAcq_of_mayRun (scope : Scope) (parity : Bool) (hsrcs : srcs = [(ra.val, 2, hints.getLsbD 0)])
    (h : Safety.mayRun s.dev c g.val srcs [(rv.val, regsFor (accBytes size.val))] x) (hacq : Dev.acquired c g.val s.dev x = true)
    (he : e = Safety.atGroup s.dev c g.val srcs costMem) : execLdAcq c g rv ra size scope s parity hints arr =
      .next { s with dev := (e.inkLoad c g.val x rv.val ra.val size.val false parity (some scope.val) arr).advance c g.val } := by
  unfold execLdAcq
  rw [onDev_eq, ← hsrcs, Dev.inkPlain_of_ok h _ _ hacq, he]
  rfl

theorem inkLoad_memoryKept (he : e = Safety.atGroup s.dev c g.val srcs costMem) (nocache parity : Bool) (acq : Option Nat) :
    Safety.memoryKept s.dev ((e.inkLoad c g.val x rv.val ra.val size.val nocache parity acq arr).advance c g.val) := by
  refine Safety.memoryKept_of_mem_eq ?_
  rw [Dev.advance_mem, Dev.inkLoad_mem, he, Safety.atGroup, Dev.tookIssue_mem]

theorem inkStore_memoryKept (he : e = Safety.atGroup s.dev c g.val srcs costMem) :
    Safety.memoryKept s.dev ((e.inkStore c g.val x rv.val ra.val size.val arr).advance c g.val) := by
  refine Safety.memoryKept_of_mem_eq ?_
  rw [Dev.advance_mem, Dev.inkStore_mem, he, Safety.atGroup, Dev.tookIssue_mem]

theorem execSt_of_mayRun (hsrcs : srcs = stSrcs rv.val ra.val size.val hints) (h : Safety.mayRun s.dev c g.val srcs [] x)
    (he : e = Safety.atGroup s.dev c g.val srcs costMem) : execSt c g rv ra size s hints arr =
      .next { s with dev := (e.inkStore c g.val x rv.val ra.val size.val arr).advance c g.val } := by
  unfold execSt
  rw [onDev_eq, ← hsrcs, Dev.inkPlain_of_ok h _ _ rfl, he]
  rfl

theorem execStRel_of_released {scope : Scope} (hsrcs : srcs = stSrcs rv.val ra.val size.val hints)
    (h : Safety.mayRun s.dev c g.val srcs [] x) (he : e = Safety.atGroup s.dev c g.val srcs costMem)
    (hrel : s.dev.threadReleased c g.val scope.val = true) : execStRel c g rv ra size scope s hints arr =
      .next { s with dev := (e.inkStore c g.val x rv.val ra.val size.val arr).advance c g.val } := by
  unfold execStRel
  rw [onDev_eq, ← hsrcs, Dev.inkPlain_of_ok h _ _ hrel, he]
  rfl

theorem execStRel_held {scope : Scope} (hsrcs : srcs = stSrcs rv.val ra.val size.val hints)
    (h : Safety.mayRun s.dev c g.val srcs [] x) (hrel : s.dev.threadReleased c g.val scope.val = false) :
    execStRel c g rv ra size scope s hints arr = .next s := by
  unfold execStRel
  rw [onDev_eq, ← hsrcs, Dev.inkPlain_of_held h _ _ hrel]

end

/-! ### Replies (R149) -/

/-- A reply ends its run with an address error, else with poison, else is taken. -/
theorem reply_cases {q : Req} {d a b good : Dev} (hd : d = if q.resErr = true then a else if q.resPsn = true then b else good) :
    (q.resErr = true → d = a) ∧ (q.resErr = false → q.resPsn = true → d = b) ∧ (q.resErr = false → q.resPsn = false → d = good) := by
  subst hd
  refine ⟨fun he => if_pos he, fun he hp => ?_, fun he hp => ?_⟩
  · rw [he, hp]; rfl
  · rw [he, hp]; rfl

theorem Dev.getD_inkFail (d : Dev) (c : CoreId) (sl n : Nat) (q : Req) (good : Dev) : (d.inkFail c sl n q).getD good =
    if q.resErr = true then d.endRun c sl 0x26 stInk n false
    else if q.resPsn = true then d.endRun c sl 0x22 stInk n false else good := by
  unfold Dev.inkFail
  split
  · rfl
  · split <;> rfl

theorem mem_reply {e good : Dev} {c : CoreId} {sl n : Nat} {q : Req} (h : good.mem = e.mem) :
    (if q.resErr = true then e.endRun c sl 0x26 stInk n false
     else if q.resPsn = true then e.endRun c sl 0x22 stInk n false else good).mem = e.mem :=
  Dev.mem_if (Dev.endRun_mem _ _ _ _ _ _ _) (Dev.mem_if (Dev.endRun_mem _ _ _ _ _ _ _) h)

/-- The acquire of a reply, where its access is one (R147, R158). -/
def Dev.replyAcquires (d : Dev) (c : CoreId) (q : Req) : Dev :=
  match q.acq with
  | some sc => d.acquire c sc q.part
  | none => d

theorem Dev.replyAcquires_mem (d : Dev) (c : CoreId) (q : Req) : (d.replyAcquires c q).mem = d.mem := by
  unfold Dev.replyAcquires
  split
  · exact Dev.acquire_mem _ _ _ _
  · rfl

/-- A load's reply delivered: the lanes' registers, and the data cache where nothing intervened. -/
def Dev.loadFilled (d : Dev) (c : CoreId) (g : Nat) (q : Req) : Dev :=
  let d := d.modGroup c g (fun y => y.fill q.dst q.size q.res q.lanes)
  if q.nocache || q.noinstall then d else d.modInker c (fun k => k.dfill (q.addr / 128) q.part q.res)

theorem Dev.loadFilled_eq (d : Dev) (c : CoreId) (g : Nat) (q : Req) :
    d.loadFilled c g q = { d with cores := (d.loadFilled c g q).cores } := by
  unfold Dev.loadFilled
  dsimp only
  split <;> rfl

theorem Dev.group_loadFilled (d : Dev) (c : CoreId) (g : Nat) (q : Req) : ((d.loadFilled c g q).core c).inker.group g =
    ((d.core c).inker.group g).map (fun y => y.fill q.dst q.size q.res q.lanes) := by
  unfold Dev.loadFilled
  dsimp only
  split
  · rw [Dev.core_modGroup, Inker.group_modGroup_same]
  · rw [Dev.core_modInker, Dev.core_modGroup]
    exact Inker.group_modGroup_same _ _ _

theorem Dev.dcache_loadFilled_installed (d : Dev) (c : CoreId) (g : Nat) {q : Req} (h1 : q.nocache = false) (h2 : q.noinstall = false) :
    ((d.loadFilled c g q).core c).inker.dcache.head? = some (q.addr / 128, q.part, BitVec.ofNat 1024 q.res) := by
  unfold Dev.loadFilled
  rw [h1, h2]
  dsimp only [Bool.or_false]
  rw [if_neg (by decide), Dev.core_modInker]
  rfl

theorem Dev.dcache_loadFilled_kept (d : Dev) (c : CoreId) (g : Nat) {q : Req} (h : q.nocache = true ∨ q.noinstall = true) :
    ((d.loadFilled c g q).core c).inker.dcache = (d.core c).inker.dcache := by
  unfold Dev.loadFilled
  dsimp only
  rw [if_pos (Bool.or_eq_true_iff.mpr h), Dev.core_modGroup, Inker.modGroup_eq]

section
variable {c : CoreId} {s : State} {rq : Nat} {q : Req} {g sl n : Nat} (hq : s.dev.req rq = some q) (hready : q.ready = true)
include hq hready

theorem execInkerLoadReply_of_ready (hcli : q.cli = .inkLd c g sl n) : execInkerLoadReply c rq s = .next { s with dev :=
    (((s.dev.dropReq rq).inkFail c sl n q).getD (((s.dev.dropReq rq).loadFilled c g q).replyAcquires c q)) } := by
  unfold execInkerLoadReply
  rw [onDev_eq]
  dsimp only
  rw [hq]
  dsimp only
  rw [hcli]
  dsimp only
  rw [if_neg (by simp [hready])]
  unfold Dev.replyAcquires
  cases (s.dev.dropReq rq).inkFail c sl n q with
  | some d => rfl
  | none => cases q.acq <;> rfl

theorem inkerLoadReply_spec (hcli : q.cli = .inkLd c g sl n) :
    ∃ d e : Dev, execInkerLoadReply c rq s = .next { s with dev := d } ∧ Safety.memoryKept s.dev d ∧
      e = { s.dev with reqs := dropFirst (fun y => y.id == rq) s.dev.reqs } ∧
      (q.resErr = true → d = e.endRun c sl 0x26 stInk n false) ∧
      (q.resErr = false → q.resPsn = true → d = e.endRun c sl 0x22 stInk n false) ∧
      (q.resErr = false → q.resPsn = false → d = (e.loadFilled c g q).replyAcquires c q) := by
  refine ⟨_, s.dev.dropReq rq, execInkerLoadReply_of_ready hq hready hcli, Safety.memoryKept_of_mem_eq ?_, rfl,
    reply_cases (Dev.getD_inkFail _ _ _ _ _ _)⟩
  rw [Dev.getD_inkFail, mem_reply (by rw [Dev.replyAcquires_mem, Dev.loadFilled_eq]), Dev.dropReq_mem]

end

/-- A fetched line enters the instruction cache. -/
def Inker.ifill (k : Inker) (l : Nat) : Inker := { k with icache := (l :: k.icache.filter (fun m => m != l)).take 128 }

theorem instructionFetchReply_spec {c : CoreId} {g : Fin 16} {s : State} {q : Req}
    (hq : s.dev.reqs.find? (fun y => decide (y.cli = .ifetch c g.val) && y.ready) = some q) :
    ∃ d e : Dev, execInstructionFetchReply c g s = .next { s with dev := d } ∧ Safety.memoryKept s.dev d ∧
      e = { s.dev with reqs := dropFirst (fun y => y.id == q.id) s.dev.reqs } ∧
      (q.resErr = true →
        d = e.endRun c ((e.groupSlot c g.val).getD (0, 0xFFFF)).1 0x26 stInk ((e.groupSlot c g.val).getD (0, 0xFFFF)).2 false) ∧
      (q.resErr = false → q.resPsn = true →
        d = e.endRun c ((e.groupSlot c g.val).getD (0, 0xFFFF)).1 0x22 stInk ((e.groupSlot c g.val).getD (0, 0xFFFF)).2 false) ∧
      (q.resErr = false → q.resPsn = false →
        d = if q.noinstall = true then e else e.modInker c (fun k => k.ifill (q.addr / 128))) := by
  have hexec : execInstructionFetchReply c g s = .next { s with dev :=
      (if q.resErr = true then (s.dev.dropReq q.id).endRun c (((s.dev.dropReq q.id).groupSlot c g.val).getD (0, 0xFFFF)).1 0x26 stInk
          (((s.dev.dropReq q.id).groupSlot c g.val).getD (0, 0xFFFF)).2 false
        else if q.resPsn = true then (s.dev.dropReq q.id).endRun c (((s.dev.dropReq q.id).groupSlot c g.val).getD (0, 0xFFFF)).1 0x22 stInk
          (((s.dev.dropReq q.id).groupSlot c g.val).getD (0, 0xFFFF)).2 false
        else if q.noinstall = true then s.dev.dropReq q.id
        else (s.dev.dropReq q.id).modInker c (fun k => k.ifill (q.addr / 128))) } := by
    unfold execInstructionFetchReply
    rw [onDev_eq]
    dsimp only
    rw [hq]
    rfl
  refine ⟨_, s.dev.dropReq q.id, hexec, Safety.memoryKept_of_mem_eq ?_, rfl, reply_cases rfl⟩
  rw [mem_reply (Dev.mem_if rfl (Dev.modInker_mem _ _ _)), Dev.dropReq_mem]

/-! ### Reading back what was written to the Stone (R52) -/

theorem Core.stoneByte_stoneWrite_outside (k : Core) {a n x : Nat} (v : Nat) (h : x < a ∨ a + n ≤ x) :
    (k.stoneWrite a n v).stoneByte x = k.stoneByte x := by
  induction n generalizing k a v with
  | zero => rfl
  | succ n ih => rw [Core.stoneWrite, ih _ _ (by omega), Core.stoneByte_putByte, if_neg (by omega)]

theorem Core.stoneN_congr {j k : Core} {a n : Nat} (h : ∀ x, a ≤ x → x < a + n → j.stoneByte x = k.stoneByte x) :
    j.stoneN a n = k.stoneN a n := by
  induction n generalizing a with
  | zero => rfl
  | succ n ih =>
    rw [Core.stoneN, Core.stoneN, h a (Nat.le_refl a) (by omega), ih fun x hx hn => h x (by omega) (by omega)]

theorem Core.stoneN_stoneWrite_apart (k : Core) {a n b m : Nat} (v : Nat) (h : b + m ≤ a ∨ a + n ≤ b) :
    (k.stoneWrite a n v).stoneN b m = k.stoneN b m :=
  Core.stoneN_congr fun _ _ _ => Core.stoneByte_stoneWrite_outside k v (by omega)

theorem Core.stoneN_stoneWrite_same (k : Core) (a n v : Nat) : (k.stoneWrite a n v).stoneN a n = v % 256 ^ n := by
  induction n generalizing k a v with
  | zero => rw [Nat.pow_zero, Nat.mod_one]; rfl
  | succ n ih =>
    rw [Core.stoneWrite, Core.stoneN, ih, Core.stoneByte_stoneWrite_outside _ _ (.inl (Nat.lt_succ_self a)), Core.stoneByte_putByte,
      if_pos rfl, BitVec.toNat_ofNat]
    show v % 256 + 256 * (v / 256 % 256 ^ n) = v % 256 ^ (n + 1)
    rw [Nat.pow_succ', Nat.mod_mul]

theorem Core.stoneWrite_eq (k : Core) (a n v : Nat) :
    k.stoneWrite a n v = { k with stone := (k.stoneWrite a n v).stone, written := (k.stoneWrite a n v).written } := by
  induction n generalizing k a v with
  | zero => rfl
  | succ n ih =>
    rw [Core.stoneWrite, ih]
    unfold Core.touch
    split <;> rfl

/-! ### Atomics in block-local memory (R130, R143) -/

/-- Accesses of one width at different addresses have no byte in common: both are aligned within the block's area. -/
theorem Ctx.local_apart {x : Ctx} {o o' bytes a b : Nat} (ha : x.local o bytes = some a) (hb : x.local o' bytes = some b) (h : a ≠ b) :
    a + bytes ≤ b ∨ b + bytes ≤ a := by
  unfold Ctx.local at ha hb
  split at ha
  · cases ha
  rw [if_neg ‹_›] at hb
  have halign (m : Nat) : m - m % bytes = bytes * (m / bytes) := by have := Nat.div_add_mod m bytes; omega
  have ha := Option.some.inj ha
  have hb := Option.some.inj hb
  rw [halign] at ha hb
  generalize o % (4096 * x.lgran) / bytes = i at ha
  generalize o' % (4096 * x.lgran) / bytes = j at hb
  have hstep {i j : Nat} (hij : i < j) : bytes * i + bytes ≤ bytes * j := by
    rw [← Nat.mul_succ]; exact Nat.mul_le_mul_left bytes hij
  rcases Nat.lt_trichotomy i j with hij | hij | hij
  · have := hstep hij; omega
  · subst hij; omega
  · have := hstep hij; omega

/-- Bytes of an atomic's word, and the registers it takes. -/
abbrev atomBytes (i : AtomInstr) : Nat := atomWidth i.width.val
abbrev atomRegs (i : AtomInstr) : Nat := regsFor (atomBytes i)

/-- Where the word of a lane lies in the Stone, none where the LAUNCH has no block-local memory. -/
def Ctx.atomWord (x : Ctx) (i : AtomInstr) (lane : Nat) : Option Nat := x.local (x.g.reg i.addr.val lane) (atomBytes i)

/-- One lane of an atomic in block-local memory. -/
def Ctx.atomLane (x : Ctx) (op : AOp) (i : AtomInstr) (y : Core × Group × Nat) (lane : Nat) : Core × Group × Nat :=
  let a := x.g.regN i.op1.val lane (atomRegs i)
  match x.atomWord i lane with
  | none => (y.1, y.2.1.setRegN i.dst.val lane (atomRegs i) 0, y.2.2)
  | some s =>
    let old := y.1.stoneN s (atomBytes i)
    (y.1.stoneWrite s (atomBytes i) (atomApply op (atomBytes i) old a (x.g.regN i.op2.val lane (atomRegs i))),
      y.2.1.setRegN i.dst.val lane (atomRegs i) old, y.2.2 ||| atomFlags op old a)

theorem Dev.atomLocal_eq (d : Dev) (c : CoreId) (g : Nat) (x : Ctx) (op : AOp) (i : AtomInstr) : d.atomLocal c g x op i =
    (((d.setCore c (x.lanes.foldl (x.atomLane op i) (d.core c, x.g, 0)).1).modGroup c g
      (fun y => { y with regs := (x.lanes.foldl (x.atomLane op i) (d.core c, x.g, 0)).2.1.regs })).addFlags c x.slot
      (x.lanes.foldl (x.atomLane op i) (d.core c, x.g, 0)).2.2 0) := rfl

section
variable (x : Ctx) (op : AOp) (i : AtomInstr)

/-- A lane that has a word. -/
theorem Ctx.atomLane_of_word {lane a : Nat} (ha : x.atomWord i lane = some a) (y : Core × Group × Nat) : x.atomLane op i y lane =
    (y.1.stoneWrite a (atomBytes i) (atomApply op (atomBytes i) (y.1.stoneN a (atomBytes i)) (x.g.regN i.op1.val lane (atomRegs i))
        (x.g.regN i.op2.val lane (atomRegs i))),
      y.2.1.setRegN i.dst.val lane (atomRegs i) (y.1.stoneN a (atomBytes i)),
      y.2.2 ||| atomFlags op (y.1.stoneN a (atomBytes i)) (x.g.regN i.op1.val lane (atomRegs i))) := by
  unfold Ctx.atomLane
  dsimp only
  rw [ha]

/-- All that a lane can do: its registers are written, and its word where it has one. -/
theorem Ctx.atomLane_cases (y : Core × Group × Nat) (lane : Nat) :
    (∃ v, (x.atomLane op i y lane).2.1 = y.2.1.setRegN i.dst.val lane (atomRegs i) v) ∧
      ((x.atomLane op i y lane).1 = y.1 ∨
        ∃ a v, x.atomWord i lane = some a ∧ (x.atomLane op i y lane).1 = y.1.stoneWrite a (atomBytes i) v) := by
  cases ha : x.atomWord i lane with
  | some a => rw [x.atomLane_of_word op i ha]; exact ⟨⟨_, rfl⟩, .inr ⟨a, _, rfl, rfl⟩⟩
  | none =>
    unfold Ctx.atomLane
    dsimp only
    rw [ha]
    exact ⟨⟨_, rfl⟩, .inl rfl⟩

theorem Ctx.inker_foldl_atomLane (l : List Nat) (y : Core × Group × Nat) : (l.foldl (x.atomLane op i) y).1.inker = y.1.inker := by
  induction l generalizing y with
  | nil => rfl
  | cons m l ih =>
    rw [List.foldl_cons, ih]
    obtain ⟨-, h | ⟨a, v, -, h⟩⟩ := x.atomLane_cases op i y m
    · rw [h]
    · rw [h, Core.stoneWrite_eq]

theorem Ctx.nreg_foldl_atomLane (l : List Nat) (y : Core × Group × Nat) : (l.foldl (x.atomLane op i) y).2.1.nreg = y.2.1.nreg := by
  induction l generalizing y with
  | nil => rfl
  | cons m l ih =>
    obtain ⟨⟨v, h⟩, -⟩ := x.atomLane_cases op i y m
    rw [List.foldl_cons, ih, h, Group.nreg_setRegN]

/-- Lanes that name other words leave a lane's word and its registers. -/
theorem Ctx.foldl_atomLane_other {l : List Nat} {lane a : Nat} (hlane : lane < 32) (ha : x.atomWord i lane = some a)
    (hl : ∀ m ∈ l, m < 32 ∧ m ≠ lane ∧ x.atomWord i m ≠ some a) (y : Core × Group × Nat) :
    (l.foldl (x.atomLane op i) y).1.stoneN a (atomBytes i) = y.1.stoneN a (atomBytes i) ∧
      ∀ r, (l.foldl (x.atomLane op i) y).2.1.reg r lane = y.2.1.reg r lane := by
  induction l generalizing y with
  | nil => exact ⟨rfl, fun _ => rfl⟩
  | cons m l ih =>
    obtain ⟨hm, hne, hword⟩ := hl m List.mem_cons_self
    obtain ⟨hstone, hreg⟩ := ih (fun k hk => hl k (List.mem_cons_of_mem _ hk)) (x.atomLane op i y m)
    obtain ⟨⟨v, hg⟩, hc⟩ := x.atomLane_cases op i y m
    rw [List.foldl_cons]
    refine ⟨hstone.trans ?_, fun r => (hreg r).trans ?_⟩
    · obtain hc | ⟨b, w, hb, hc⟩ := hc
      · rw [hc]
      · rw [hc, Core.stoneN_stoneWrite_apart _ _ (Ctx.local_apart ha hb fun h => hword (h ▸ hb))]
    · rw [hg, Group.reg_setRegN_other _ _ hm hlane (.inl (Ne.symm hne))]

/-- A word that one lane names takes the operation's result, and the lane's registers its old value. -/
theorem Ctx.foldl_atomLane_same {l : List Nat} {lane a : Nat} (hl : ∀ m ∈ l, m < 32) (hn : l.Nodup) (hlane : lane ∈ l)
    (ha : x.atomWord i lane = some a) (hother : ∀ m ∈ l, m ≠ lane → x.atomWord i m ≠ some a) (y : Core × Group × Nat) :
    (l.foldl (x.atomLane op i) y).1.stoneN a (atomBytes i) =
        atomApply op (atomBytes i) (y.1.stoneN a (atomBytes i)) (x.g.regN i.op1.val lane (atomRegs i))
          (x.g.regN i.op2.val lane (atomRegs i)) % 2 ^ (8 * atomBytes i) ∧
      ∀ k, k < atomRegs i → i.dst.val + k < y.2.1.nreg →
        (l.foldl (x.atomLane op i) y).2.1.reg (i.dst.val + k) lane = y.1.stoneN a (atomBytes i) / 2 ^ (32 * k) % 2 ^ 32 := by
  obtain ⟨before, after, rfl⟩ := List.append_of_mem hlane
  obtain ⟨-, hnodup, hdisj⟩ := List.nodup_append.mp hn
  have hothers : ∀ m ∈ before ++ lane :: after, m ≠ lane → m < 32 ∧ m ≠ lane ∧ x.atomWord i m ≠ some a :=
    fun m hm hne => ⟨hl m hm, hne, hother m hm hne⟩
  obtain ⟨hbefore, -⟩ := x.foldl_atomLane_other op i (hl lane hlane) ha
    (fun m hm => hothers m (List.mem_append_left _ hm) (hdisj m hm lane List.mem_cons_self)) y
  have hnreg := x.nreg_foldl_atomLane op i before y
  rw [List.foldl_append, List.foldl_cons]
  generalize before.foldl (x.atomLane op i) y = z at hbefore hnreg ⊢
  obtain ⟨hafter, hreg⟩ := x.foldl_atomLane_other op i (hl lane hlane) ha
    (fun m hm => hothers m (List.mem_append_right _ (List.mem_cons_of_mem _ hm)) fun h => (List.nodup_cons.mp hnodup).1 (h ▸ hm))
    (x.atomLane op i z lane)
  rw [hafter]
  refine ⟨?_, fun k hk hd => ?_⟩
  · rw [x.atomLane_of_word op i ha, Core.stoneN_stoneWrite_same, hbefore, Nat.pow_mul]
  · rw [hreg, x.atomLane_of_word op i ha]
    dsimp only
    rw [Group.reg_setRegN_same _ _ (hl lane hlane) hk (by omega), hbefore]

end

theorem Dev.atomLocal_of_cores (f : Dev) (c : CoreId) (g : Nat) (x : Ctx) (op : AOp) (i : AtomInstr) :
    (f.atomLocal c g x op i).advance c g = { f with cores := ((f.atomLocal c g x op i).advance c g).cores } := by
  rw [Dev.atomLocal_eq]
  exact Dev.modGroup_of_cores c g _ (Dev.addFlags_of_cores c _ _ _ (Dev.modGroup_of_cores c g _ rfl))

section
variable {d f : Dev} {c : CoreId} {g : Nat} {x : Ctx} (op : AOp) (i : AtomInstr)

/-- Only the fold over the lanes bears on the Stone. -/
theorem Dev.stoneN_atomLocal (a n : Nat) : (((f.atomLocal c g x op i).advance c g).core c).stoneN a n =
    (x.lanes.foldl (x.atomLane op i) (f.core c, x.g, 0)).1.stoneN a n := by
  rw [Dev.atomLocal_eq]
  unfold Dev.advance
  rw [Dev.core_modGroup, Dev.core_addFlags, Dev.core_modGroup, Dev.core_setCore_same]
  exact Core.stoneN_congr fun _ _ _ => rfl

theorem Dev.group_atomLocal {z : Group} (hg : (f.core c).inker.group g = some z) :
    (((f.atomLocal c g x op i).advance c g).core c).inker.group g =
      some ({ z with regs := (x.lanes.foldl (x.atomLane op i) (f.core c, x.g, 0)).2.1.regs } : Group).advance := by
  refine Dev.group_modGroup _ ?_
  rw [Dev.atomLocal_eq, Dev.core_addFlags]
  refine Dev.group_modGroup _ ?_
  rw [Dev.core_setCore_same, Ctx.inker_foldl_atomLane]
  exact hg

/-- An atomic in block-local memory, in a device where its group stands. -/
theorem Dev.Hosts.atomLocal (h : d.Hosts c g x) {srcs : List (Nat × Nat × Bool)} {cost : Nat × Nat}
    (hg : (f.core c).inker.group g = some (Safety.groupAt d c x srcs cost)) {lane a : Nat} (hlane : lane ∈ x.lanes)
    (ha : x.atomWord i lane = some a) (hother : ∀ m ∈ x.lanes, m ≠ lane → x.atomWord i m ≠ some a) :
    (((f.atomLocal c g x op i).advance c g).core c).stoneN a (atomBytes i) =
        atomApply op (atomBytes i) ((f.core c).stoneN a (atomBytes i)) (x.g.regN i.op1.val lane (atomRegs i))
          (x.g.regN i.op2.val lane (atomRegs i)) % 2 ^ (8 * atomBytes i) ∧
      ∃ y, (((f.atomLocal c g x op i).advance c g).core c).inker.group g = some y ∧
        ∀ k, k < atomRegs i → i.dst.val + k < x.g.nreg →
          y.reg (i.dst.val + k) lane = (f.core c).stoneN a (atomBytes i) / 2 ^ (32 * k) % 2 ^ 32 := by
  obtain ⟨hstone, hreg⟩ := x.foldl_atomLane_same op i (fun m hm => h.lt_of_mem_lanes hm) h.nodup_lanes hlane ha hother (f.core c, x.g, 0)
  refine ⟨(Dev.stoneN_atomLocal op i a _).trans hstone, _, Dev.group_atomLocal op i hg, fun k hk hd => ?_⟩
  rw [← hreg k hk hd]
  unfold Group.reg
  rw [Group.regs_advance, Group.nreg_advance, Ctx.nreg_foldl_atomLane]
  rfl

end

/-! ### The commands ATOM -/

section
variable {c : CoreId} {g : Fin 16} {i : AtomInstr} {s : State} {op : AOp} {x : Ctx} {e : Dev} {srcs : List (Nat × Nat × Bool)}

/-- Each operation of Table 5.5 has a command of its own. -/
theorem exec_atom {cmd : Instr} (h : (op, cmd) ∈ [(AOp.add, Instr.atomAdd c g i), (.fadd, .atomFadd c g i), (.smin, .atomSmin c g i),
      (.smax, .atomSmax c g i), (.umin, .atomUmin c g i), (.umax, .atomUmax c g i), (.and, .atomAnd c g i), (.or, .atomOr c g i),
      (.xor, .atomXor c g i), (.exch, .atomExch c g i), (.cas, .atomCas c g i)]) (hw : atomWidthOk op i.width.val = true) :
    exec cmd s = .next { s with dev := s.dev.atomCmd c g.val op i } := by
  have hexec : exec cmd s = execAtom c g op i s := by
    simp only [List.mem_cons, List.not_mem_nil, or_false, Prod.mk.injEq] at h
    obtain ⟨rfl, rfl⟩ | ⟨rfl, rfl⟩ | ⟨rfl, rfl⟩ | ⟨rfl, rfl⟩ | ⟨rfl, rfl⟩ | ⟨rfl, rfl⟩ | ⟨rfl, rfl⟩ | ⟨rfl, rfl⟩ | ⟨rfl, rfl⟩ | ⟨rfl, rfl⟩ |
      ⟨rfl, rfl⟩ := h <;> rfl
  rw [hexec, execAtom, hw, onDevIf_true]

variable (hsrcs : srcs = [(i.addr.val, if i.loc then 1 else 2, i.hints.getLsbD 0), (i.op1.val, atomRegs i, i.hints.getLsbD 1),
    (i.op2.val, if op = .cas then atomRegs i else 0, i.hints.getLsbD 2)])
  (h : Safety.mayRun s.dev c g.val srcs [(i.dst.val, atomRegs i)] x) (he : e = Safety.atGroup s.dev c g.val srcs costMem)
include hsrcs h he

theorem atomCmd_of_local (hloc : i.loc = true) : s.dev.atomCmd c g.val op i =
    (e.inkStone c x i.ecc (fun d => d.atomLocal c g.val x op i)).advance c g.val := by
  unfold Dev.atomCmd
  dsimp only
  rw [← hsrcs, Dev.inkPlain_of_ok h _ _ (by rw [hloc]; rfl), if_pos hloc, he]
  rfl

theorem atomCmd_of_memory (hloc : i.loc = false) (hacq : Dev.acquired c g.val s.dev x = true)
    (hord : i.ord = .none ∨ i.ord = .acq ∨ s.dev.threadReleased c g.val i.scope.val = true) :
    s.dev.atomCmd c g.val op i = (e.atomMem c g.val x op i).advance c g.val := by
  have hrel : (!(match i.ord with | .rel => true | .ar => true | _ => false) || s.dev.threadReleased c g.val i.scope.val) = true := by
    obtain ho | ho | ho := hord
    · rw [ho]; rfl
    · rw [ho]; rfl
    · rw [ho, Bool.or_true]
  unfold Dev.atomCmd
  dsimp only
  rw [← hsrcs, Dev.inkPlain_of_ok h _ _ (by rw [hloc, hacq, Bool.and_true]; exact hrel), if_neg (by rw [hloc]; decide), he]
  rfl

/-- In block-local memory, as far as words that one lane names tell. -/
theorem atomLocal_spec (hloc : i.loc = true) : Safety.stoneMet e (s.dev.atomCmd c g.val op i) c g.val x i.ecc (fun f =>
    s.dev.atomCmd c g.val op i = (f.atomLocal c g.val x op i).advance c g.val ∧
    s.dev.atomCmd c g.val op i = { f with cores := (s.dev.atomCmd c g.val op i).cores } ∧
    ∀ lane ∈ x.lanes, ∀ a, x.atomWord i lane = some a → (∀ m ∈ x.lanes, m ≠ lane → x.atomWord i m ≠ some a) →
      ((s.dev.atomCmd c g.val op i).core c).stoneN a (atomBytes i) =
          atomApply op (atomBytes i) ((f.core c).stoneN a (atomBytes i)) (x.g.regN i.op1.val lane (atomRegs i))
            (x.g.regN i.op2.val lane (atomRegs i)) % 2 ^ (8 * atomBytes i) ∧
        ∃ y, ((s.dev.atomCmd c g.val op i).core c).inker.group g.val = some y ∧
          ∀ k, k < atomRegs i → i.dst.val + k < x.g.nreg →
            y.reg (i.dst.val + k) lane = (f.core c).stoneN a (atomBytes i) / 2 ^ (32 * k) % 2 ^ 32) := by
  have hx := Dev.hosts_of_mayRun h
  refine stoneMet_of_inkStone (atomCmd_of_local hsrcs h he hloc) fun f hf hrun hd => ⟨hd, ?_, fun lane hlane a ha hother => ?_⟩
  · rw [hd]; exact Dev.atomLocal_of_cores _ _ _ _ _ _
  · subst he
    rw [hd]
    exact hx.atomLocal op i (hf ▸ hx.group_stoneEcc srcs costMem i.ecc (hf ▸ hrun)) hlane ha hother

end

/-! ### The reply of an atomic (R143, R144) -/

/-- The lanes a request's answer goes to. -/
def Req.atomLanes (q : Req) : List (Nat × Nat × Nat × Nat) :=
  match q.op with
  | .atom _ _ l => l
  | _ => []

/-- An atomic's reply delivered: each lane's registers, and the exceptions. -/
def Dev.atomFilled (d : Dev) (c : CoreId) (g sl : Nat) (q : Req) : Dev :=
  (d.modGroup c g (fun y => q.atomLanes.foldl (fun y l =>
    y.setRegN q.dst l.1 (regsFor q.size) ((q.res >>> (128 * l.1)) % 2 ^ (8 * q.size))) y)).addFlags c sl q.flags 0

theorem Dev.atomFilled_eq (d : Dev) (c : CoreId) (g sl : Nat) (q : Req) :
    d.atomFilled c g sl q = { d with cores := (d.atomFilled c g sl q).cores } :=
  Dev.addFlags_of_cores c _ _ _ (Dev.modGroup_of_cores c g _ rfl)

theorem Dev.sticky_atomFilled (d : Dev) (c : CoreId) (g sl : Nat) (q : Req) :
    ((d.atomFilled c g sl q).core c).sticky = ((d.addFlags c sl q.flags 0).core c).sticky := by
  rw [Dev.atomFilled, Dev.core_addFlags, Dev.core_addFlags, Dev.core_modGroup]
  rfl

theorem Dev.group_atomFilled (d : Dev) (c : CoreId) (g sl : Nat) {q : Req} {op : AOp} {w : Nat} {ls : List (Nat × Nat × Nat × Nat)}
    (hop : q.op = .atom op w ls) : ((d.atomFilled c g sl q).core c).inker.group g = ((d.core c).inker.group g).map (fun y =>
      ls.foldl (fun y l => y.setRegN q.dst l.1 (regsFor q.size) ((q.res >>> (128 * l.1)) % 2 ^ (8 * q.size))) y) := by
  have hlanes : q.atomLanes = ls := by unfold Req.atomLanes; rw [hop]
  rw [Dev.atomFilled, hlanes, Dev.core_addFlags]
  show ((Dev.modGroup d c g _).core c).inker.group g = _
  rw [Dev.core_modGroup, Inker.group_modGroup_same]

theorem execAtomReply_of_ready {c : CoreId} {s : State} {rq : Nat} {q : Req} {g sl n : Nat} (hq : s.dev.req rq = some q)
    (hready : q.ready = true) (hcli : q.cli = .atom c g sl n) : execAtomReply c rq s = .next { s with dev :=
      (((s.dev.dropReq rq).inkFail c sl n q).getD ((((s.dev.dropReq rq).atomFilled c g sl q).replyAcquires c q).nextHostAtom q.cli)) } := by
  unfold execAtomReply
  rw [onDev_eq]
  dsimp only
  rw [hq]
  dsimp only
  rw [hcli]
  dsimp only
  rw [if_neg (by simp [hready])]
  unfold Dev.replyAcquires
  cases (s.dev.dropReq rq).inkFail c sl n q with
  | some d => rfl
  | none => cases q.acq <;> rfl

theorem atomReply_spec {c : CoreId} {s : State} {rq : Nat} {q : Req} {g sl n : Nat} (hq : s.dev.req rq = some q)
    (hready : q.ready = true) (hcli : q.cli = .atom c g sl n) :
    ∃ d e : Dev, execAtomReply c rq s = .next { s with dev := d } ∧ Safety.memoryKept s.dev d ∧
      e = { s.dev with reqs := dropFirst (fun y => y.id == rq) s.dev.reqs } ∧
      (q.resErr = true → d = e.endRun c sl 0x26 stInk n false) ∧
      (q.resErr = false → q.resPsn = true → d = e.endRun c sl 0x22 stInk n false) ∧
      (q.resErr = false → q.resPsn = false → d = ((e.atomFilled c g sl q).replyAcquires c q).nextHostAtom q.cli) := by
  refine ⟨_, s.dev.dropReq rq, execAtomReply_of_ready hq hready hcli, Safety.memoryKept_of_mem_eq ?_, rfl,
    reply_cases (Dev.getD_inkFail _ _ _ _ _ _)⟩
  rw [Dev.getD_inkFail, mem_reply ?_, Dev.dropReq_mem]
  rw [Dev.nextHostAtom_mem, Dev.replyAcquires_mem, Dev.atomFilled, Dev.addFlags_mem, Dev.modGroup_mem]

/-! ### The obligation -/

/-- Settles O24: loads and stores as their instructions perform them, `inkerLoadReply_spec`, `instructionFetchReply_spec` and
`atomReply_spec` for the replies, and `Dev.Hosts.atomLocal` for the words of block-local memory. -/
theorem inkerMemoryInstructions : Obligations.InkerMemoryInstructions := by
  unfold Obligations.InkerMemoryInstructions
  refine ⟨fun c g s hints arr => ⟨fun x e rv ra size srcs dst hsrcs hdst h hacq he => ?_, fun x e rv ra size srcs hsrcs h he => ?_,
    fun rq q g' sl n hq hcli hready => ?_, fun q hq => ?_⟩,
    fun c g i s => ⟨fun op cmd x e n srcs hcmd hw hn hsrcs h he => ?_, fun rq q g' sl n hq hcli hready => ?_⟩⟩
  · subst hdst
    exact ⟨fun nocache parity => ⟨_, execLd_of_mayRun nocache parity hsrcs h hacq he, inkLoad_memoryKept he _ _ _, rfl⟩,
      fun scope parity => ⟨_, execLdAcq_of_mayRun scope parity hsrcs h hacq he, inkLoad_memoryKept he _ _ _, rfl⟩⟩
  · exact ⟨⟨_, execSt_of_mayRun hsrcs h he, inkStore_memoryKept he, rfl⟩,
      fun scope => ⟨fun hrel => ⟨_, execStRel_of_released hsrcs h he hrel, inkStore_memoryKept he, rfl⟩, execStRel_held hsrcs h⟩⟩
  · obtain ⟨d, e, hexec, hmem, he, herr, hpsn, hgood⟩ := inkerLoadReply_spec hq hready hcli
    refine ⟨d, e, hexec, hmem, he, herr, hpsn, fun h1 h2 => ⟨e.loadFilled c g' q, Dev.loadFilled_eq _ _ _ _, hgood h1 h2, ?_,
      Dev.dcache_loadFilled_installed _ _ _, fun h => ?_⟩⟩
    · rw [Dev.group_loadFilled, he]; rfl
    · rw [Dev.dcache_loadFilled_kept _ _ _ h, he]; rfl
  · obtain ⟨d, e, hexec, hmem, he, herr, hpsn, hgood⟩ := instructionFetchReply_spec hq
    refine ⟨d, e, hexec, hmem, he, herr, hpsn, fun h1 h2 hi => ?_, fun h1 h2 hi => ?_⟩
    · rw [hgood h1 h2, if_neg (by rw [hi]; decide)]
      exact ⟨rfl, by rw [Dev.core_modInker]; rfl⟩
    · rw [hgood h1 h2, if_pos hi]
  · subst hn
    have hmem : Safety.memoryKept s.dev (s.dev.atomCmd c g.val op i) := Safety.memoryKept_of_mem_eq (Dev.atomCmd_mem _ _ _ _ _)
    exact ⟨fun hloc => ⟨_, exec_atom hcmd hw, hmem, atomLocal_spec hsrcs h he hloc⟩,
      fun hloc hacq hord => ⟨_, exec_atom hcmd hw, hmem, atomCmd_of_memory hsrcs h he hloc hacq hord⟩⟩
  · obtain ⟨d, e, hexec, hmem, he, herr, hpsn, hgood⟩ := atomReply_spec hq hready hcli
    refine ⟨d, e, hexec, hmem, he, herr, hpsn, fun aop w ls hop h1 h2 =>
      ⟨e.atomFilled c g' sl q, Dev.atomFilled_eq _ _ _ _ _, hgood h1 h2, ?_, ?_⟩⟩
    · exact Dev.sticky_atomFilled _ _ _ _ _
    · rw [Dev.group_atomFilled _ _ _ _ hop, he]; rfl

end Sys2Proof.Machine

/-! ## Colophon writes, reductions and Chase buffers (O26; R172 to R174, R247 to R250, R253, R254, R360) -/

namespace Sys2Proof.Machine

/-! ### Requests by their numbers -/

theorem dropFirst_replaceFirst {α : Type} {p : α → Bool} {f : α → α} (l : List α) (h : ∀ x, p (f x) = p x) :
    dropFirst p (replaceFirst p f l) = dropFirst p l := by
  induction l with
  | nil => rfl
  | cons x r ih =>
    unfold replaceFirst
    cases hx : p x with
    | true => rw [if_pos rfl, dropFirst, dropFirst, h, hx, if_pos rfl, if_pos rfl]
    | false => rw [if_neg (by decide), dropFirst, dropFirst, hx, if_neg (by decide), if_neg (by decide), ih]

theorem Dev.id_of_req {d : Dev} {id : Nat} {r : Req} (h : d.req id = some r) : r.id = id := by
  unfold Dev.req at h
  simpa using List.find?_some h

theorem Dev.req_modReq {d : Dev} {id : Nat} {r : Req} {f : Req → Req} (h : d.req id = some r) (hf : (f r).id = r.id) :
    (d.modReq id f).req id = some (f r) :=
  find?_replaceFirst h (by rw [hf, Dev.id_of_req h, beq_self_eq_true])

/-! ### The arrival of a colophon write (R172, R173, R360) -/

/-- The request as it stands once its home has taken it. -/
def Req.taken (r : Req) : Req := { r with accepted := true }

/-- A colophon write that has reached its B-die: discarded where the group is not its owner's or holds a write already (log entry
131), else sent to its home or held. -/
def Dev.colophonArrives (d : Dev) (q rq : Nat) (r : Req) : Dev :=
  let g := r.group % 4096
  let k := arrKey q g
  let e := d.grp k
  let f := d.modReq rq Req.taken
  if d.ctrOwner q g ≠ d.owner (lineStack r.line) (lineOff r.line) then
    (d.raise (pQctl q) 0 (g + 0x8000)).turnAwayColo rq 5
  else if e.held.isSome then ((f.setGrp k { e with dup := true }).raise (pQctl q) 1 g).turnAwayColo rq 5
  else if r.expect ≤ e.tally then (f.setGrp k { e with tally := e.tally - r.expect }).wireMsg (coloMsg q r)
  else (f.setGrp k { e with held := some (r.taken, d.now (netClk q)) }).dropReq rq

theorem Dev.colophonArrives_mem (d : Dev) (q rq : Nat) (r : Req) : (d.colophonArrives q rq r).mem = d.mem := by
  unfold Dev.colophonArrives
  dsimp only
  split
  · rw [Dev.turnAwayColo_mem, Dev.raise_mem]
  · split
    · rw [Dev.turnAwayColo_mem, Dev.raise_mem, Dev.setGrp_mem, Dev.modReq_mem]
    · split
      · rw [Dev.wireMsg_mem, Dev.setGrp_mem, Dev.modReq_mem]
      · rw [Dev.dropReq_mem, Dev.setGrp_mem, Dev.modReq_mem]

theorem execColophonWriteArrival_of_arrived {q : Quad} {s : State} {rq st off : Nat} {r : Req} (hreq : s.dev.req rq = some r)
    (hflag : r.flag = true) (hcolo : r.colo = true) (hacc : r.accepted = false) (htgt : r.tgt = .stack st off)
    (hq : st / 5 = q.val) (hearlier : s.dev.coreEarlier r = false) (hcarries : s.dev.carries (agentDie r.agent) q.val = true) :
    execColophonWriteArrival q rq s = .next { s with dev := s.dev.colophonArrives q.val rq r } := by
  unfold execColophonWriteArrival
  rw [onDev_eq]
  dsimp only
  rw [hreq]
  dsimp only
  rw [if_neg (by simp [htgt, hflag, hcolo, hacc, hearlier, hcarries, hq])]
  rfl

section

variable {d : Dev} {q rq g : Nat} {r : Req} {e : Grp} (hg : g = r.group % 4096)
include hg

theorem Dev.colophonArrives_of_foreign (h : d.ctrOwner q g ≠ d.owner (lineStack r.line) (lineOff r.line)) :
    d.colophonArrives q rq r = (d.raise (pQctl q) 0 (g + 0x8000)).turnAwayColo rq 5 := by
  subst hg
  exact if_pos h

variable (he : e = d.grp (arrKey q g)) (hown : d.ctrOwner q g = d.owner (lineStack r.line) (lineOff r.line))
include he hown

theorem Dev.colophonArrives_of_dup (hheld : e.held ≠ none) : d.colophonArrives q rq r =
    (((d.modReq rq Req.taken).setGrp (arrKey q g) { e with dup := true }).raise (pQctl q) 1 g).turnAwayColo rq 5 := by
  subst hg he
  unfold Dev.colophonArrives
  dsimp only
  rw [if_neg (not_not_intro hown), if_pos (Option.isSome_iff_ne_none.mpr hheld)]

variable (hheld : e.held = none)
include hheld

theorem Dev.colophonArrives_of_reached (htally : r.expect ≤ e.tally) : d.colophonArrives q rq r =
    ((d.modReq rq Req.taken).setGrp (arrKey q g) { e with tally := e.tally - r.expect }).wireMsg (coloMsg q r) := by
  subst hg he
  unfold Dev.colophonArrives
  dsimp only
  rw [if_neg (not_not_intro hown), if_neg (by rw [hheld]; decide), if_pos htally]

theorem Dev.colophonArrives_of_short (htally : e.tally < r.expect) : d.colophonArrives q rq r =
    ((d.modReq rq Req.taken).setGrp (arrKey q g) { e with held := some (r.taken, d.now (netClk q)) }).dropReq rq := by
  subst hg he
  unfold Dev.colophonArrives
  dsimp only
  rw [if_neg (not_not_intro hown), if_neg (by rw [hheld]; decide), if_neg (Nat.not_le.mpr htally)]

end

/-! ### Held writes that go (R174) -/

theorem execColophonHoldTimeout_of_due {q : Quad} {g : Fin 4096} {s : State} {r : Req} {since : Nat}
    (hheld : (s.dev.grp (arrKey q.val g.val)).held = some (r, since))
    (hdue : since + 2 ^ s.dev.get (pQctl q.val) fQCTL_COLO_TMO_EXP 0 ≤ s.dev.now (netClk q.val)) :
    execColophonHoldTimeout q g s = .next { s with dev := ((s.dev.setGrp (arrKey q.val g.val)
      { s.dev.grp (arrKey q.val g.val) with held := none, tmo := true }).raise (pQctl q.val) 3 g.val).answerColo r 6 } := by
  unfold execColophonHoldTimeout
  rw [onDev_eq]
  dsimp only
  rw [hheld]
  dsimp only
  rw [if_neg (Nat.not_lt.mpr hdue)]

/-- The entry QCTL_GRP_IDX names. -/
def Dev.grpNamed (d : Dev) (q : Nat) : Nat := arrKey q (d.get (pQctl q) fQCTL_GRP_IDX_IDX 0)

/-- That entry without a tally and a held write. -/
def Dev.grpCleared (d : Dev) (q : Nat) : Dev := d.setGrp (d.grpNamed q) { d.grp (d.grpNamed q) with tally := 0, held := none }

theorem grpClear_of_empty {d : Dev} {q : Nat} (h : (d.grp (d.grpNamed q)).held = none) : grpClear d q = d.grpCleared q := by
  unfold Dev.grpNamed at h
  unfold grpClear
  dsimp only
  rw [h]
  rfl

theorem grpClear_of_held {d : Dev} {q : Nat} {r : Req} {since : Nat} (h : (d.grp (d.grpNamed q)).held = some (r, since)) :
    grpClear d q = (d.grpCleared q).answerColo r 6 := by
  unfold Dev.grpNamed at h
  unfold grpClear
  dsimp only
  rw [h]
  rfl

theorem grpClear_memoryKept (d : Dev) (q : Nat) : Safety.memoryKept d (grpClear d q) := by
  apply Safety.memoryKept_of_mem_eq
  cases h : (d.grp (d.grpNamed q)).held with
  | none => rw [grpClear_of_empty h, Dev.grpCleared, Dev.setGrp_mem]
  | some e => rw [grpClear_of_held h, Dev.answerColo_mem, Dev.grpCleared, Dev.setGrp_mem]

theorem execGrpClear_of_writable {via : Via} {q : Quad} {s : State} (h : s.dev.writable via (pQctl q.val) = true) :
    execGrpClear via q s = .next { s with dev := grpClear s.dev q.val } := by
  rw [execGrpClear, onDev_eq, Dev.viaWrite_of_writable _ _ _ _ h]

/-! ### A reduction in the Case (R247 to R249, R253) -/

/-- The data of lines in a Case, joined, and whether one is poisoned. -/
def Dev.caseData (d : Dev) (q part : Nat) (ls : List Nat) : Nat × Bool :=
  gather (fun l => match d.caseCopy q l part with
    | some (_, c) => (c.data.toNat, c.psn)
    | none => (0, true)) ls

/-- A line of a result becomes a dirty home copy. -/
def Dev.putReduced (q part : Nat) (psn : Bool) (d : Dev) (l v : Nat) : Dev :=
  match d.caseCopy q l part with
  | some (s, c) => ({ d with useCtr := d.useCtr + 1 }).setCline (8 + q) s l
      (some { c with data := BitVec.ofNat 1024 v, dirty := true, psn := psn, held := false, used := d.useCtr + 1 })
  | none => d

theorem Dev.putReduced_of_copy {d : Dev} {q part l s : Nat} {c : CLine} (psn : Bool) (v : Nat) (h : d.caseCopy q l part = some (s, c)) :
    Dev.putReduced q part psn d l v = ({ d with useCtr := d.useCtr + 1 }).setCline (8 + q) s l
      (some { c with data := BitVec.ofNat 1024 v, dirty := true, psn := psn, held := false, used := d.useCtr + 1 }) := by
  rw [Dev.putReduced, h]

theorem Dev.putReduced_eq (q part : Nat) (psn : Bool) (d : Dev) (l v : Nat) :
    Dev.putReduced q part psn d l v =
      { d with lines := (Dev.putReduced q part psn d l v).lines, useCtr := (Dev.putReduced q part psn d l v).useCtr } := by
  unfold Dev.putReduced; split <;> rfl

theorem Dev.scatter_putReduced_eq (q part : Nat) (psn : Bool) (ls : List Nat) (d : Dev) (v : Nat) :
    d.scatter (Dev.putReduced q part psn) v ls = { d with lines := (d.scatter (Dev.putReduced q part psn) v ls).lines,
                                                          useCtr := (d.scatter (Dev.putReduced q part psn) v ls).useCtr } := by
  induction ls generalizing d v with
  | nil => rfl
  | cons l ls ih => rw [Dev.scatter, ih, Dev.putReduced_eq]

theorem ofNat_mod_two_pow (w v : Nat) : BitVec.ofNat w (v % 2 ^ w) = BitVec.ofNat w v := by
  apply BitVec.eq_of_toNat_eq
  rw [BitVec.toNat_ofNat, BitVec.toNat_ofNat, Nat.mod_mod]

/-- The Case's line of a reduction of a single line. -/
theorem Dev.cline_scatter_putReduced {d : Dev} {q part l s : Nat} {c : CLine} (psn : Bool) (v : Nat)
    (h : d.caseCopy q l part = some (s, c)) : (d.scatter (Dev.putReduced q part psn) v [l]).cline (8 + q) s l =
      some { c with data := BitVec.ofNat 1024 v, dirty := true, psn := psn, held := false, used := d.useCtr + 1 } := by
  rw [Dev.scatter, Dev.scatter, Dev.putReduced_of_copy psn _ h, ofNat_mod_two_pow]
  exact NMap.get_put_same _ _ _ _

/-- What a reduction gives is recorded, and its write performed. -/
def Dev.reduced (d : Dev) (r : Req) (fl : Nat) (psn : Bool) : Dev := (d.rbFlags r fl psn).accDone r

theorem Dev.reduced_memoryKept {d e : Dev} (r : Req) (fl : Nat) (psn : Bool) (h : e.mem = d.mem) :
    Safety.memoryKept d (e.reduced r fl psn) :=
  Safety.memoryKept_of_mem_eq (by rw [Dev.reduced, Dev.accDone_mem, Dev.rbFlags_mem, h])

/-! ### A reduction at the controllers (R250, R263) -/

/-- A Case's copy of a line leaves for the controller. -/
def Dev.copyToMemory (q : Nat) (r : Req) (d : Dev) (l : Nat) : Dev :=
  match d.caseCopy q l r.part with
  | some (s, c) => (d.setCline (8 + q) s l none).when c.dirty (fun d => d.dramWrite l c.data.toNat c.psn r.svc)
  | none => d

theorem Dev.copyToMemory_mem (q : Nat) (r : Req) (d : Dev) (l : Nat) : (Dev.copyToMemory q r d l).mem = d.mem := by
  unfold Dev.copyToMemory
  split
  · rw [Dev.when_mem _ _ _ (fun _ => Dev.dramWrite_mem _ _ _ _ _), Dev.setCline_mem]
  · rfl

/-- The data of lines at their controllers, joined, and whether one is poisoned. -/
def Dev.dramData (d : Dev) (ls : List Nat) : Nat × Bool := gather (fun l => ((d.dramRead l).1, (d.dramRead l).2.1)) ls

/-- The device once the Case's copies of a reduction's lines are on their way. -/
def Dev.copiesGone (d : Dev) (q : Nat) (r : Req) : Dev := (accLines r).foldl (Dev.copyToMemory q r) d

/-- The device once the controllers have read the lines. -/
def Dev.linesRead (d : Dev) (q : Nat) (r : Req) : Dev := (accLines r).foldl (fun e l => (e.dramRead l).2.2) (d.copiesGone q r)

theorem Dev.linesRead_mem (d : Dev) (q : Nat) (r : Req) : (d.linesRead q r).mem = d.mem := by
  rw [Dev.linesRead, Dev.mem_foldl _ _ _ Dev.dramRead_mem, Dev.copiesGone, Dev.mem_foldl _ _ _ (Dev.copyToMemory_mem q r)]

/-- What a reduction at the controllers gives, with its flags. -/
def Dev.dramGives (d : Dev) (q : Nat) (r : Req) : Nat × Nat := (d.linesRead q r).reduceInto r ((d.copiesGone q r).dramData (accLines r)).1

/-- Whether an operand of it is poisoned. -/
def Dev.dramPoison (d : Dev) (q : Nat) (r : Req) : Bool := ((d.copiesGone q r).dramData (accLines r)).2 || r.psn

/-- The lines of the result on their way to the controllers. -/
def Dev.dramReduced (d : Dev) (q : Nat) (r : Req) : Dev :=
  (d.linesRead q r).scatter (fun e l v => e.dramWrite l v (d.dramPoison q r) r.svc) (d.dramGives q r).1 (accLines r)

theorem Dev.dramReduced_mem (d : Dev) (q : Nat) (r : Req) : (d.dramReduced q r).mem = d.mem := by
  rw [Dev.dramReduced, Dev.scatter_mem _ _ _ _ (fun _ _ _ => Dev.dramWrite_mem _ _ _ _ _), Dev.linesRead_mem]

section

variable {q : Quad} {n : Fin 16} {s : State} {r : Req} (hhead : s.dev.redHead (q.val * 16 + n.val) = some r)
  (hready : s.dev.accReady r = true)
include hhead hready

theorem execReductionPerform_of_here (hmc : ∀ e ∈ s.dev.redMc, e.2 ≠ r.id) {x : Nat × Bool} {p : Bool}
    (hx : x = s.dev.caseData q.val r.part (accLines r)) {y : Nat × Nat} (hy : y = s.dev.reduceInto r x.1) (hp : p = (x.2 || r.psn)) :
    execReductionPerform q n s =
      .next { s with dev := (s.dev.scatter (Dev.putReduced q.val r.part p) y.1 (accLines r)).reduced r y.2 p } := by
  subst hx hy hp
  have hany : s.dev.redMc.any (fun e => e.2 == r.id) = false := by simpa using hmc
  unfold execReductionPerform
  rw [onDev_eq]
  dsimp only
  rw [hhead]
  dsimp only
  rw [hany, hready, if_neg (by decide)]
  rfl

theorem execMcReduction_of_here (hmc : ∃ e ∈ s.dev.redMc, e.2 = r.id) (hstk : s.dev.stkWaits (lineStack r.line) = false) :
    execMcReduction q n s =
      .next { s with dev := (s.dev.dramReduced q.val r).reduced r (s.dev.dramGives q.val r).2 (s.dev.dramPoison q.val r) } := by
  have hany : s.dev.redMc.any (fun e => e.2 == r.id) = true := by simpa using hmc
  unfold execMcReduction
  rw [onDev_eq]
  dsimp only
  rw [hhead]
  dsimp only
  rw [hany, hready, hstk, if_neg (by decide)]
  rfl

end

/-! ### Chase buffers are opened and closed (R254) -/

theorem rbIdx_lt (d : Dev) (q : Nat) : rbIdx d q < 64 := Nat.mod_lt _ (by decide)

/-- A buffer opened anew reads its state, and no sticky flag. -/
theorem rbOpenTo_reads (d : Dev) (q e : Nat) {st : Nat} (h : st < 4) : rbState (rbOpenTo d q e st) q e = st ∧
    (rbOpenTo d q e st).get (pQctl q) fQCTL_RB_STAT_POISON e = 0 ∧ (rbOpenTo d q e st).get (pQctl q) fQCTL_RB_STAT_SAT e = 0 ∧
    (rbOpenTo d q e st).get (pQctl q) fQCTL_RB_STAT_IND e = 0 ∧ (rbOpenTo d q e st).get (pQctl q) fQCTL_RB_STAT_NX e = 0 := by
  unfold rbState rbOpenTo
  refine ⟨?_, ?_, ?_, ?_, ?_⟩
  · exact (Dev.get_set _ _ _ _ _ (by decide) (by decide)).trans (Nat.mod_eq_of_lt h)
  all_goals simp (disch := decide) only [Dev.get_set_apart, Dev.get_set]
  all_goals rfl

theorem wordsKept_set_rbStat {d f : Dev} {q : Quad} {e : Nat} {fld : FieldDef} (v : Nat) (he : e < 64)
    (h : Safety.wordsKept d f [(.qctl q, 0x298, e)]) (hoff : fld.off = 0x298) :
    Safety.wordsKept d (f.set (pQctl q.val) fld e v) [(.qctl q, 0x298, e)] := by
  refine Safety.wordsKept_set _ _ _ _ h ?_ ?_ ?_ (Nat.lt_trans he (by decide))
  · rw [pQctl_val, hoff]; exact List.mem_singleton.mpr rfl
  · rw [hoff]
  · rw [hoff]; decide

theorem wordsKept_rbOpenTo (d : Dev) (q : Quad) {e : Nat} (st : Nat) (he : e < 64) :
    Safety.wordsKept d (rbOpenTo d q.val e st) [(.qctl q, 0x298, e)] :=
  wordsKept_set_rbStat _ he (wordsKept_set_rbStat _ he (wordsKept_set_rbStat _ he (wordsKept_set_rbStat _ he
    (wordsKept_set_rbStat _ he (Safety.wordsKept_refl d _) rfl) rfl) rfl) rfl) rfl

section

variable {via : Via} {q : Quad} {s : State} (hw : s.dev.writable via (pQctl q.val) = true)
include hw

theorem exec_rbOpen (clear : Bool) : exec (if clear then .rbOpenClear via q else .rbOpen via q) s =
    .next { s with dev := rbCmd s.dev q.val (if clear then 3 else 1) } := by
  cases clear with
  | true =>
    show execRbOpenClear via q s = _
    rw [execRbOpenClear, onDev_eq, Dev.viaWrite_of_writable _ _ _ _ hw]
    rfl
  | false =>
    show execRbOpen via q s = _
    rw [execRbOpen, onDev_eq, Dev.viaWrite_of_writable _ _ _ _ hw]
    rfl

theorem execRbClose_of_writable : execRbClose via q s = .next { s with dev := rbCmd s.dev q.val 4 } := by
  rw [execRbClose, onDev_eq, Dev.viaWrite_of_writable _ _ _ _ hw]

end

theorem rbCmd_open_of_legal {d : Dev} {q : Nat} (h : rbIllegal d q (rbIdx d q) = false) (clear : Bool) :
    rbCmd d q (if clear then 3 else 1) = rbOpenTo d q (rbIdx d q) (if clear then 1 else 2) := by
  cases clear <;> exact if_neg (by rw [h]; decide)

theorem rbCmd_open_of_illegal {d : Dev} {q : Nat} (h : rbIllegal d q (rbIdx d q) = true) (clear : Bool) :
    rbCmd d q (if clear then 3 else 1) = rbIll d q (rbIdx d q) := by
  cases clear <;> exact if_pos h

theorem rbCmd_close_of_open {d : Dev} {q : Nat} (h : rbState d q (rbIdx d q) = 2) :
    rbCmd d q 4 = d.set (pQctl q) fQCTL_RB_STAT_STATE (rbIdx d q) 3 := if_pos h

theorem rbCmd_close_of_closed {d : Dev} {q : Nat} (h : rbState d q (rbIdx d q) = 0) : rbCmd d q 4 = d :=
  (if_neg (by rw [h]; decide)).trans (if_pos h)

theorem rbState_set (d : Dev) (q e : Nat) {v : Nat} (h : v < 4) : rbState (d.set (pQctl q) fQCTL_RB_STAT_STATE e v) q e = v :=
  (Dev.get_set _ _ _ _ _ (by decide) (by decide)).trans (Nat.mod_eq_of_lt h)

theorem execRbCloseDone_of_idle {q : Quad} {e : Fin 64} {s : State} (hst : rbState s.dev q.val e.val = 3) (hq : s.dev.redq = []) :
    execRbCloseDone q e s = .next { s with dev := s.dev.set (pQctl q.val) fQCTL_RB_STAT_STATE e.val 0 } := by
  unfold execRbCloseDone
  rw [onDev_eq]
  dsimp only
  rw [hq, if_neg (by simp [hst])]

/-! ### Zeros over a range (R254, R263) -/

/-- A line of a zeroed range takes the tag of its key `t`; where that is not loaded, KEYMISS is raised. -/
def Dev.zeroTag (t : Nat → Option Nat) (d : Dev) (l : Nat) : Dev :=
  match t l with
  | some tag => { d with lineKey := NMap.put d.lineKey l tag 0 }
  | none => d.keyMiss l

theorem Dev.keyMiss_eq (d : Dev) (l : Nat) : d.keyMiss l = { d with regs := (d.keyMiss l).regs, evq := (d.keyMiss l).evq } := by
  unfold Dev.keyMiss; rw [Dev.raise_eq]; rfl

theorem Dev.zeroTag_eq (t : Nat → Option Nat) (d : Dev) (l : Nat) : Dev.zeroTag t d l =
    { d with regs := (Dev.zeroTag t d l).regs, evq := (Dev.zeroTag t d l).evq, lineKey := (Dev.zeroTag t d l).lineKey } := by
  unfold Dev.zeroTag
  split
  · rfl
  · rw [Dev.keyMiss_eq]

theorem Dev.zeroTag_of_loaded {t : Nat → Option Nat} (d : Dev) {l : Nat} (h : (t l).isSome = true) : Dev.zeroTag t d l =
    { d with lineKey := (Dev.zeroTag t d l).lineKey } := by
  obtain ⟨tag, htag⟩ := Option.isSome_iff_exists.mp h
  unfold Dev.zeroTag
  rw [htag]

theorem Dev.foldl_zeroTag_eq (t : Nat → Option Nat) (lo : Nat) (is : List Nat) (d : Dev) :
    is.foldl (fun e i => Dev.zeroTag t e (lo + i)) d = { d with
      regs := (is.foldl (fun e i => Dev.zeroTag t e (lo + i)) d).regs, evq := (is.foldl (fun e i => Dev.zeroTag t e (lo + i)) d).evq,
      lineKey := (is.foldl (fun e i => Dev.zeroTag t e (lo + i)) d).lineKey } := by
  induction is generalizing d with
  | nil => rfl
  | cons i is ih => rw [List.foldl_cons, ih, Dev.zeroTag_eq]

theorem Dev.foldl_zeroTag_of_loaded {t : Nat → Option Nat} {lo : Nat} (is : List Nat) (h : ∀ i ∈ is, (t (lo + i)).isSome = true)
    (d : Dev) : is.foldl (fun e i => Dev.zeroTag t e (lo + i)) d =
      { d with lineKey := (is.foldl (fun e i => Dev.zeroTag t e (lo + i)) d).lineKey } := by
  induction is generalizing d with
  | nil => rfl
  | cons i is ih =>
    rw [List.foldl_cons, ih (fun j hj => h j (List.mem_cons_of_mem _ hj)), Dev.zeroTag_of_loaded d (h i List.mem_cons_self)]

/-- The lines of a range whose key is loaded. -/
def Dev.zeroedLine (d : Dev) (lo n l : Nat) : Bool := decide (lo ≤ l ∧ l < lo + n) && (d.keyTag l).isSome

/-- Their contents and their waiting writes are gone. -/
def Dev.zeroedLines (d : Dev) (lo n : Nat) : Dev :=
  { d.dropQueued (d.zeroedLine lo n) with
    mem := NMap.dropIf d.mem (fun a => d.zeroedLine lo n (a / 128)), poisoned := d.poisoned.filter (fun l => !d.zeroedLine lo n l),
    lineKey := NMap.dropIf d.lineKey (d.zeroedLine lo n) }

theorem Dev.zeroLines_def (d : Dev) (lo n : Nat) : d.zeroLines lo n = if d.on (pStk (lineStack lo)) fSTK_ENC_EN 0 = true then
    (List.range n).foldl (fun e i => Dev.zeroTag d.keyTag e (lo + i)) (d.zeroedLines lo n) else d.zeroedLines lo n := rfl

/-- Zeroing reaches the range's bytes, poison, tags and waiting writes, and may raise KEYMISS. -/
theorem Dev.zeroLines_eq (d : Dev) (lo n : Nat) : d.zeroLines lo n =
    { d with regs := (d.zeroLines lo n).regs, evq := (d.zeroLines lo n).evq,
             mem := NMap.dropIf d.mem (fun a => d.zeroedLine lo n (a / 128)), poisoned := (d.zeroLines lo n).poisoned,
             lineKey := (d.zeroLines lo n).lineKey, mcs := (d.zeroLines lo n).mcs } := by
  rw [Dev.zeroLines_def]
  split
  · rw [Dev.foldl_zeroTag_eq]; rfl
  · rfl

theorem Dev.zeroLines_of_loaded {d : Dev} {lo n : Nat} (h : ∀ l, lo ≤ l → l < lo + n → (d.keyTag l).isSome = true) :
    d.zeroLines lo n = { d with mem := (d.zeroLines lo n).mem, poisoned := (d.zeroLines lo n).poisoned,
                                lineKey := (d.zeroLines lo n).lineKey, mcs := (d.zeroLines lo n).mcs } := by
  rw [Dev.zeroLines_def]
  split
  · rw [Dev.foldl_zeroTag_of_loaded _ (fun i hi => h _ (Nat.le_add_right _ _) (Nat.add_lt_add_left (List.mem_range.mp hi) _))]; rfl
  · rfl

/-! ### A buffer is cleared (R254) -/

/-- A block that waited for the buffer is checked. -/
def Dev.admitWaiting (d : Dev) (r : HReq) : Dev :=
  match d.waitingAcc r with
  | some rq => d.accAdmit r rq
  | none => d

theorem Dev.admitWaiting_mem (d : Dev) (r : HReq) : (d.admitWaiting r).mem = d.mem := by
  unfold Dev.admitWaiting
  split
  · exact Dev.accAdmit_mem _ _ _
  · rfl

/-- The buffer `e` of a B-die, of the lines [lo, lo + n), cleared and OPEN. -/
def Dev.rbCleared (d : Dev) (q e lo n : Nat) : Dev :=
  ((d.discardCopies (fun l => decide (lo ≤ l ∧ l < lo + n))).zeroLines lo n).set (pQctl q) fQCTL_RB_STAT_STATE e 2

section

variable (d : Dev) (q e lo n : Nat)

theorem Dev.rbCleared_eq : d.rbCleared q e lo n =
    { d with regs := (d.rbCleared q e lo n).regs, evq := (d.rbCleared q e lo n).evq,
             lines := NMap.dropIf d.lines (fun k => decide (lo ≤ keyLine k ∧ keyLine k < lo + n)),
             dir := NMap.dropIf d.dir (fun l => decide (lo ≤ l ∧ l < lo + n)),
             mem := NMap.dropIf d.mem (fun a => d.zeroedLine lo n (a / 128)), poisoned := (d.rbCleared q e lo n).poisoned,
             lineKey := (d.rbCleared q e lo n).lineKey, mcs := (d.rbCleared q e lo n).mcs } := by
  rw [Dev.rbCleared, Dev.zeroLines_eq]; rfl

theorem Dev.homeq_rbCleared : (d.rbCleared q e lo n).homeq = d.homeq := by rw [Dev.rbCleared_eq]

theorem Dev.mem_rbCleared : (d.rbCleared q e lo n).mem = NMap.dropIf d.mem (fun a => d.zeroedLine lo n (a / 128)) := by
  rw [Dev.rbCleared_eq]

theorem Dev.lines_rbCleared : (d.rbCleared q e lo n).lines =
    NMap.dropIf d.lines (fun k => decide (lo ≤ keyLine k ∧ keyLine k < lo + n)) := by rw [Dev.rbCleared_eq]

theorem Dev.dir_rbCleared : (d.rbCleared q e lo n).dir = NMap.dropIf d.dir (fun l => decide (lo ≤ l ∧ l < lo + n)) := by
  rw [Dev.rbCleared_eq]

theorem Dev.rbState_rbCleared : rbState (d.rbCleared q e lo n) q e = 2 := rbState_set _ q e (by decide)

theorem Dev.read_rbCleared (a : Nat) : Memory.read (d.rbCleared q e lo n).mem a =
    if lo ≤ a / 128 ∧ a / 128 < lo + n ∧ (d.keyTag (a / 128)).isSome = true then 0 else Memory.read d.mem a := by
  have hzero : d.zeroedLine lo n (a / 128) = true ↔ lo ≤ a / 128 ∧ a / 128 < lo + n ∧ (d.keyTag (a / 128)).isSome = true := by
    rw [Dev.zeroedLine, Bool.and_eq_true, decide_eq_true_eq, and_assoc]
  rw [Dev.mem_rbCleared, Memory.read, NMap.get_dropIf]
  simp only [hzero]
  rfl

variable {d lo n}

/-- The range is cached nowhere. -/
theorem Dev.uncached_rbCleared {l : Nat} (hl : l < 2 ^ 41) (hlo : lo ≤ l) (hhi : l < lo + n) :
    (d.rbCleared q e lo n).dirEnt l = none ∧ ∀ w i, (d.rbCleared q e lo n).cline w i l = none := by
  have hkey : ∀ w i, keyLine (lineKeyOf w i l) = l := fun w i => by unfold keyLine lineKeyOf; omega
  refine ⟨?_, fun w i => ?_⟩
  · rw [Dev.dirEnt, Dev.dir_rbCleared, NMap.get_dropIf, if_pos (decide_eq_true ⟨hlo, hhi⟩)]
  · rw [Dev.cline, Dev.lines_rbCleared, NMap.get_dropIf, hkey, if_pos (decide_eq_true ⟨hlo, hhi⟩)]

section

variable (h : ∀ l, lo ≤ l → l < lo + n → (d.keyTag l).isSome = true)
include h

theorem Dev.rbCleared_of_loaded : d.rbCleared q e lo n =
    { d with regs := (d.rbCleared q e lo n).regs, lines := (d.rbCleared q e lo n).lines, dir := (d.rbCleared q e lo n).dir,
             mem := (d.rbCleared q e lo n).mem, poisoned := (d.rbCleared q e lo n).poisoned,
             lineKey := (d.rbCleared q e lo n).lineKey, mcs := (d.rbCleared q e lo n).mcs } := by
  have hzero := Dev.zeroLines_of_loaded (d := d.discardCopies (fun l => decide (lo ≤ l ∧ l < lo + n))) h
  rw [Dev.rbCleared, hzero]
  rfl

theorem Dev.regs_rbCleared : (d.rbCleared q e lo n).regs = (d.set (pQctl q) fQCTL_RB_STAT_STATE e 2).regs := by
  have hzero := Dev.zeroLines_of_loaded (d := d.discardCopies (fun l => decide (lo ≤ l ∧ l < lo + n))) h
  rw [Dev.rbCleared, hzero]
  rfl

theorem Dev.wordsKept_rbCleared (q : Quad) {e : Nat} (he : e < 64) :
    Safety.wordsKept d (d.rbCleared q.val e lo n) [(.qctl q, 0x298, e)] :=
  Safety.wordsKept_trans (wordsKept_set_rbStat 2 he (Safety.wordsKept_refl d _) rfl)
    (Safety.wordsKept_of_regs _ (Dev.regs_rbCleared q.val e h))

end

end

theorem execRbClearDone_of_idle {q : Quad} {e : Fin 64} {s : State} {lo n : Nat} (hst : rbState s.dev q.val e.val = 1)
    (hstk : s.dev.stkWaits (rbBase s.dev q.val e.val / 2 ^ 37) = false) (hlo : lo = rbBase s.dev q.val e.val / 128)
    (hn : n = 3 * rbBlocks s.dev q.val e.val) (hidle : s.dev.rangeIdle lo n = true) :
    execRbClearDone q e s = .next { s with dev := ((s.dev.homeq.filter (fun r => decide (lo ≤ r.line ∧ r.line < lo + n))).foldl
      Dev.admitWaiting (s.dev.rbCleared q.val e.val lo n)) } := by
  subst hlo hn
  rw [← Dev.homeq_rbCleared s.dev q.val e.val (rbBase s.dev q.val e.val / 128) (3 * rbBlocks s.dev q.val e.val)]
  unfold execRbClearDone
  rw [onDev_eq]
  dsimp only
  rw [if_neg (by rw [hst, hstk, hidle]; decide)]
  rfl

/-! ### The obligation -/

/-- Settles O26: `Dev.colophonArrives` for what becomes of a colophon write, `Dev.putReduced` and `Dev.reduced` for the lines and the
rest of a reduction, and `Dev.rbCleared` for a buffer's range. -/
theorem colophonsReductionsAndChase : Obligations.ColophonsReductionsAndChase := by
  unfold Obligations.ColophonsReductionsAndChase
  refine ⟨fun q s => ⟨?arrival, ?timeout, ?grpClear⟩, fun q n s r hhead hready => ⟨?inCase, ?inDram⟩,
    fun via q s => ⟨fun hw e he => ⟨?opened, ?illegal, ?closing, ?closed⟩, ?cleared, ?closeDone⟩⟩
  case arrival =>
    intro rq r st off g e hreq hflag hcolo hacc htgt hq hearlier hcarries hg he
    refine ⟨_, execColophonWriteArrival_of_arrived hreq hflag hcolo hacc htgt hq hearlier hcarries,
      Safety.memoryKept_of_mem_eq (Dev.colophonArrives_mem _ _ _ _), Dev.colophonArrives_of_foreign hg, fun hown => ⟨?_, ?_, ?_⟩⟩
    · intro hheld htally
      rw [Dev.colophonArrives_of_reached hg he hown hheld htally]
      exact ⟨rfl, Dev.grp_setGrp_same _ _ _, Dev.req_modReq hreq rfl⟩
    · intro htally hheld
      rw [Dev.colophonArrives_of_short hg he hown hheld htally]
      exact ⟨rfl, dropFirst_replaceFirst _ (fun _ => rfl), Dev.grp_setGrp_same _ _ _⟩
    · intro hheld
      rw [Dev.colophonArrives_of_dup hg he hown hheld]
      exact ⟨_, rfl, rfl, Dev.grp_setGrp_same _ _ _⟩
  case timeout =>
    intro g e r since he hheld hdue
    subst he
    refine ⟨_, _, execColophonHoldTimeout_of_due hheld hdue, Safety.memoryKept_of_mem_eq ?_, rfl, Dev.grp_setGrp_same _ _ _, rfl⟩
    rw [Dev.answerColo_mem, Dev.raise_mem, Dev.setGrp_mem]
  case grpClear =>
    intro via e hw he
    subst he
    exact ⟨_, s.dev.grpCleared q.val, execGrpClear_of_writable hw, grpClear_memoryKept _ _, rfl, Dev.grp_setGrp_same _ _ _,
      grpClear_of_empty, fun r since => grpClear_of_held⟩
  case inCase =>
    intro hmc x y p hx hy hp
    refine ⟨_, _, execReductionPerform_of_here hhead hready hmc hx hy hp, Dev.reduced_memoryKept _ _ _ ?_,
      Dev.scatter_putReduced_eq _ _ _ _ _ _, rfl, fun sl c _ hone hcopy => ?_⟩
    · rw [Dev.scatter_putReduced_eq]
    · rw [hone]
      exact Dev.cline_scatter_putReduced p y.1 hcopy
  case inDram =>
    intro hmc hstk
    refine ⟨_, s.dev.copiesGone q.val r, s.dev.dramReduced q.val r, s.dev.linesRead q.val r,
      execMcReduction_of_here hhead hready hmc hstk, Dev.reduced_memoryKept _ _ _ (Dev.dramReduced_mem _ _ _), rfl,
      fun x y p hx _ hy hp _ => ?_⟩
    subst hx hy hp
    rfl
  case opened =>
    intro hlegal clear
    subst he
    have hlt : (if clear then 1 else 2) < 4 := by cases clear <;> decide
    obtain ⟨hst, hpsn, hsat, hind, hnx⟩ := rbOpenTo_reads s.dev q.val (rbIdx s.dev q.val) hlt
    rw [pQctl_val] at hpsn hsat hind hnx
    refine ⟨_, exec_rbOpen hw clear, ?_⟩
    rw [rbCmd_open_of_legal hlegal]
    exact ⟨hst, hpsn, hsat, hind, hnx, rfl, wordsKept_rbOpenTo _ _ _ (rbIdx_lt _ _)⟩
  case illegal =>
    intro hillegal clear
    subst he
    refine ⟨_, exec_rbOpen hw clear, ?_⟩
    rw [rbCmd_open_of_illegal hillegal, rbIll]
    refine ⟨?_, ?_, rfl, wordsKept_set_rbStat _ (rbIdx_lt _ _) (Safety.wordsKept_refl _ _) rfl⟩
    · rw [← pQctl_val]
      exact Dev.on_set_one _ _ _ _ (by decide) (by decide)
    · exact Dev.get_set_apart _ _ _ _ _ _ rfl (by decide) (by decide) (by decide) (by decide)
  case closing =>
    intro hopen
    subst he
    refine ⟨_, execRbClose_of_writable hw, ?_⟩
    rw [rbCmd_close_of_open hopen]
    exact ⟨rbState_set _ _ _ (by decide), rfl, wordsKept_set_rbStat _ (rbIdx_lt _ _) (Safety.wordsKept_refl _ _) rfl⟩
  case closed =>
    intro hclosed
    subst he
    refine (execRbClose_of_writable hw).trans ?_
    rw [rbCmd_close_of_closed hclosed]
  case cleared =>
    intro e hst hstk lo n hlo hn hidle
    refine ⟨_, s.dev.rbCleared q.val e.val lo n, execRbClearDone_of_idle hst hstk hlo hn hidle, fun a => ?_,
      Dev.rbState_rbCleared _ _ _ _ _, fun l hl hlow hhigh => Dev.uncached_rbCleared _ _ hl hlow hhigh,
      fun hkeys => ⟨Dev.wordsKept_rbCleared hkeys q e.isLt, Dev.rbCleared_of_loaded _ _ hkeys⟩, rfl⟩
    rw [Dev.mem_foldl _ _ _ Dev.admitWaiting_mem]
    exact Dev.read_rbCleared _ _ _ _ _ a
  case closeDone =>
    intro e hst hredq
    exact ⟨_, execRbCloseDone_of_idle hst hredq, rbState_set _ _ _ (by decide), rfl,
      wordsKept_set_rbStat _ e.isLt (Safety.wordsKept_refl _ _) rfl⟩

end Sys2Proof.Machine

/-! ## Queue registers, doorbells and ENABLE (O15; R181, R183, R194, R357, R364, R369) -/

namespace Sys2Proof.Machine

/-! ### Registers of an Imposer -/

/-- A field of a word that a frame does not list reads as before. -/
theorem get_of_wordsKept {d e : Dev} {w : List (Page × Nat × Nat)} (h : Safety.wordsKept d e w) {p : Page} {f : FieldDef} {i : Nat}
    (hm : (p, f.off, i) ∉ w) (ha : f.off % 4 = 0) (hl : f.off < 4096) (hi : i < 16384) : e.get p f i = d.get p f i := by
  unfold Dev.get; rw [h p f.off i ha hl hi hm]

/-- Raising a source writes ERR_STAT and ERR_FIRST of the page alone. -/
theorem wordsKept_raise {d e : Dev} {w : List (Page × Nat × Nat)} {p : Page} (n v : Nat) (h : Safety.wordsKept d e w)
    (hs : (p, 0x020, 0) ∈ w) (hf : (p, 0x030, 0) ∈ w) : Safety.wordsKept d (e.raise p n v) w := by
  have hset : Safety.wordsKept d (e.set p fERR_STAT_SRC 0 (e.get p fERR_STAT_SRC 0 ||| 2 ^ n)) w :=
    Safety.wordsKept_set _ _ _ _ h hs rfl (by decide) (by decide)
  cases hr : e.inReset p with
  | true => unfold Dev.raise; rw [if_pos hr]; exact h
  | false =>
    obtain ⟨u, he | he⟩ := e.raise_regs_cases p n v hr
    · exact Safety.wordsKept_trans hset (Safety.wordsKept_of_regs _ he)
    · refine Safety.wordsKept_trans ?_ (Safety.wordsKept_of_regs _ he)
      exact Safety.wordsKept_set _ _ _ _ (Safety.wordsKept_set _ _ _ _ (Safety.wordsKept_set _ _ _ _ hset hf rfl (by decide) (by decide))
        hf rfl (by decide) (by decide)) hf rfl (by decide) (by decide)

/-- A write of a listed word of an Imposer's page keeps the others. -/
theorem wordsKept_setImp {d e : Dev} {w : List (Page × Nat × Nat)} {x : Die} {off i : Nat} {fld : FieldDef} (v : Nat)
    (h : Safety.wordsKept d e w) (hf : fld.off = off) (hm : (Page.imp x, off, i) ∈ w) (ha : off % 4 = 0) (hl : off < 4096)
    (hi : i < 16384) : Safety.wordsKept d (e.set (pImp x.val) fld i v) w := by
  subst hf
  exact Safety.wordsKept_set _ _ _ _ h (by rw [pImp_val]; exact hm) ha hl hi

theorem lt_of_qsel {d : Dev} {x : Die} {q : Nat} (h : d.get (.imp x) fIMP_QSEL_Q 0 = q) : q < 64 := h ▸ Nat.mod_lt _ (by decide)

/-- The arrangement stands on another page, so a write of an Imposer's register leaves it. -/
theorem Dev.arr?_setImp (d : Dev) (x : Nat) (f : FieldDef) (i v : Nat) (hf : f.off < 4096) (hi : i < 16384) :
    (d.set (pImp x) f i v).arr? = d.arr? :=
  Dev.get_set_ne _ _ (regKey_ne_page hf (by decide) hi (by decide) (by unfold pImp pageNo; dsimp only; omega))

theorem Dev.nPart_setImp (d : Dev) (x : Nat) (f : FieldDef) (i v : Nat) (hf : f.off < 4096) (hi : i < 16384) :
    (d.set (pImp x) f i v).nPart = d.nPart := by
  unfold Dev.nPart Dev.nChan; rw [Dev.arr?_setImp d x f i v hf hi]

theorem Dev.inReset_congr {d e : Dev} (ha : e.arr? = d.arr?) (hp : e.power = d.power) (hr : e.rsts = d.rsts) (p : Page) :
    e.inReset p = d.inReset p := by
  have hch : e.chanOf = d.chanOf := by unfold Dev.chanOf; rw [ha]
  have hqs : e.quadsOf = d.quadsOf := by unfold Dev.quadsOf; rw [hch]
  have hop : e.isSealedOp = d.isSealedOp := by unfold Dev.isSealedOp; rw [ha]
  have hdq : e.domQuad = d.domQuad := by unfold Dev.domQuad; rw [hop, hch, hqs]
  have hpd : e.pageDom p = d.pageDom p := by unfold Dev.pageDom; rw [hop, hqs, hdq]
  have hco : e.contains = d.contains := by unfold Dev.contains; rw [hdq]
  unfold Dev.inReset Dev.domInReset
  rw [hpd, hco, hp, hr]

theorem Dev.inReset_of_writable {d : Dev} {via : Via} {p : Page} (h : d.writable via p = true) : d.inReset p = false := by
  unfold Dev.writable at h
  simp only [Bool.and_eq_true, Bool.not_eq_true'] at h
  exact h.2

/-! ### What queue commands change -/

/-- Beside the registers, only the cores, the queues and the requests differ. -/
def Dev.OnlyJobs (d e : Dev) : Prop := e = { d with regs := e.regs, cores := e.cores, queues := e.queues, reqs := e.reqs }

theorem Dev.OnlyJobs.refl (d : Dev) : d.OnlyJobs d := rfl

theorem Dev.OnlyJobs.trans {d e f : Dev} (h : d.OnlyJobs e) (g : e.OnlyJobs f) : d.OnlyJobs f :=
  Eq.trans g (congrArg (fun y : Dev => { y with regs := f.regs, cores := f.cores, queues := f.queues, reqs := f.reqs }) h)

theorem Dev.OnlyJobs.regs_cores {d e : Dev} (h : d.OnlyJobs e) (hq : e.queues = d.queues) (hr : e.reqs = d.reqs) :
    e = { d with regs := e.regs, cores := e.cores } := Eq.trans h (by rw [hq, hr])

theorem Dev.onlyJobs_set (d : Dev) (p : Page) (f : FieldDef) (i v : Nat) : d.OnlyJobs (d.set p f i v) := rfl

/-! ### IMP_QSTAT -/

theorem Dev.qState_setQState (d : Dev) (x q : Nat) {v : Nat} (hv : v < 8) : (d.setQState x q v).qState x q = v :=
  (Dev.get_set _ _ _ _ _ (by decide) (by decide)).trans (Nat.mod_eq_of_lt hv)

theorem Dev.err_qErr (d : Dev) (x q : Nat) {v : Nat} (hv : v < 16) : (d.qErr x q v).get (pImp x) fIMP_QSTAT_ERR q = v :=
  (Dev.get_set _ _ _ _ _ (by decide) (by decide)).trans (Nat.mod_eq_of_lt hv)

@[simp] theorem Dev.qState_qErr (d : Dev) (x q v : Nat) : (d.qErr x q v).qState x q = d.qState x q :=
  Dev.get_set_apart _ _ _ _ _ _ rfl (by decide) (by decide) (by decide) (by decide)

theorem wordsKept_qErr {d e : Dev} {w : List (Page × Nat × Nat)} {x : Die} {q : Nat} (v : Nat) (h : Safety.wordsKept d e w)
    (hm : (Page.imp x, 0x12C, q) ∈ w) (hq : q < 64) : Safety.wordsKept d (e.qErr x.val q v) w :=
  wordsKept_setImp v h rfl hm (by decide) (by decide) (Nat.lt_trans hq (by decide))

theorem wordsKept_setQState {d e : Dev} {w : List (Page × Nat × Nat)} {x : Die} {q : Nat} (v : Nat) (h : Safety.wordsKept d e w)
    (hm : (Page.imp x, 0x12C, q) ∈ w) (hq : q < 64) : Safety.wordsKept d (e.setQState x.val q v) w :=
  wordsKept_setImp v h rfl hm (by decide) (by decide) (Nat.lt_trans hq (by decide))

/-! ### Doorbells (R181) -/

section
variable {via : Via} {x : Die} {s : State} (hw : s.dev.writable via (pImp x.val) = true) (val : Word)
include hw

theorem exec_doorbellWrite (q : Fin 64) :
    exec (.doorbellWrite via ⟨x, q⟩ val) s = .next { s with dev := doorbell s.dev x.val q.val val.toNat } := by
  show execDoorbellWrite via _ val s = _
  rw [execDoorbellWrite, onDev_eq, Dev.viaWrite_of_writable _ _ _ _ hw]

theorem exec_impQpartWrite : exec (.impQpartWrite via x val) s = .next { s with dev := qpartWrite s.dev x.val val.toNat } := by
  show execImpQpartWrite via x val s = _
  rw [execImpQpartWrite, onDev_eq, Dev.viaWrite_of_writable _ _ _ _ hw]

theorem exec_impCmapWrite : exec (.impCmapWrite via x val) s = .next { s with dev := cmapWrite s.dev x.val val.toNat } := by
  show execImpCmapWrite via x val s = _
  rw [execImpCmapWrite, onDev_eq, Dev.viaWrite_of_writable _ _ _ _ hw]

end

section
variable {d : Dev} {x : Die} {q v : Nat} (hq : q < 64)
include hq

/-- A doorbell within the ring is the new write pointer. -/
theorem doorbell_within (hv : v < 2 ^ 32) (h : (v + 2 ^ 32 - d.qRp x.val q) % 2 ^ 32 ≤ d.qSize x.val q) :
    (doorbell d x.val q v).qWp x.val q = v ∧ doorbell d x.val q v = { d with regs := (doorbell d x.val q v).regs } ∧
      Safety.wordsKept d (doorbell d x.val q v) [(.imp x, 0x200 + 4 * q, 0)] := by
  have heq : doorbell d x.val q v = d.set (pImp x.val) (fIMP_QWP_WP.at q) 0 v := if_neg (Nat.not_lt.mpr h)
  rw [heq]
  exact ⟨(Dev.get_set _ _ _ _ _ (Nat.zero_le _) (Nat.lt_succ_self 31)).trans (Nat.mod_eq_of_lt hv), rfl,
    wordsKept_setImp (off := 0x200 + 4 * q) v (Safety.wordsKept_refl _ _) rfl (List.mem_singleton_self _) (by omega) (by omega) (by decide)⟩

/-- A doorbell past the ring is discarded and reported. -/
theorem doorbell_past (hr : d.inReset (pImp x.val) = false) (h : d.qSize x.val q < (v + 2 ^ 32 - d.qRp x.val q) % 2 ^ 32) :
    (doorbell d x.val q v).qWp x.val q = d.qWp x.val q ∧ (doorbell d x.val q v).get (.imp x) fIMP_QSTAT_ERR q = 7 ∧
      ((doorbell d x.val q v).get (.imp x) fERR_STAT_SRC 0).testBit 3 = true ∧
      doorbell d x.val q v = { d with regs := (doorbell d x.val q v).regs, evq := (doorbell d x.val q v).evq } ∧
      Safety.wordsKept d (doorbell d x.val q v) [(.imp x, 0x12C, q), (.imp x, 0x020, 0), (.imp x, 0x030, 0)] := by
  have heq : doorbell d x.val q v = (d.qErr x.val q 7).raise (.imp x) 3 q := (if_pos h).trans (by rw [pImp_val])
  have hkept : Safety.wordsKept d ((d.qErr x.val q 7).raise (.imp x) 3 q) [(.imp x, 0x12C, q), (.imp x, 0x020, 0), (.imp x, 0x030, 0)] :=
    wordsKept_raise _ _ (wordsKept_qErr 7 (Safety.wordsKept_refl _ _) (by simp) hq) (by simp) (by simp)
  have hreset : (d.qErr x.val q 7).inReset (.imp x) = false := by
    rw [← pImp_val, ← hr]
    exact Dev.inReset_congr (Dev.arr?_setImp _ _ _ _ _ (by decide) (by omega)) rfl rfl _
  have herr : (d.qErr x.val q 7).get (.imp x) fIMP_QSTAT_ERR q = 7 := pImp_val x ▸ Dev.err_qErr d x.val q (by decide)
  rw [heq]
  refine ⟨?_, ?_, Dev.testBit_errStat_raise _ _ 3 _ hreset (by decide), ?_, hkept⟩
  · have hoff : (fIMP_QWP_WP.at q).off = 0x200 + 4 * q := rfl
    unfold Dev.qWp
    rw [pImp_val]
    exact get_of_wordsKept hkept (by simp; omega) (by omega) (by omega) (by decide)
  · rw [Dev.get_raise_ne, herr] <;> exact regKey_ne_off (by decide) (by decide) (by decide) (by omega) (by decide)
  · rw [Dev.raise_eq]; rfl

end

/-! ### Queue partitions (R357) -/

section
variable {d : Dev} {x : Die} {q : Nat} (hsel : d.get (.imp x) fIMP_QSEL_Q 0 = q) (v : Nat)
include hsel

theorem qpartWrite_eq : qpartWrite d x.val v = if d.qState x.val q ≠ 0 then d.qErr x.val q 6 else if d.nPart ≤ v % 64 then d.qErr x.val q 5
    else d.set (pImp x.val) fIMP_QPART_PART q (v % 64) := by
  subst hsel; rw [← pImp_val x]; rfl

theorem qpartWrite_frame : qpartWrite d x.val v = { d with regs := (qpartWrite d x.val v).regs } ∧
    Safety.wordsKept d (qpartWrite d x.val v) [(.imp x, 0x130, q), (.imp x, 0x12C, q)] := by
  have hq := lt_of_qsel hsel
  rw [qpartWrite_eq hsel]
  split
  case isTrue => exact ⟨rfl, wordsKept_qErr _ (Safety.wordsKept_refl _ _) (by simp) hq⟩
  case isFalse =>
    split
    case isTrue => exact ⟨rfl, wordsKept_qErr _ (Safety.wordsKept_refl _ _) (by simp) hq⟩
    case isFalse =>
      exact ⟨rfl, wordsKept_setImp (off := 0x130) _ (Safety.wordsKept_refl _ _) rfl (by simp) (by decide) (by decide) (by omega)⟩

/-- A refusal keeps the partition and names its code. -/
theorem qPart_qErr {e : Nat} (he : e < 16) : (d.qErr x.val q e).qPart x.val q = d.qPart x.val q ∧
    (d.qErr x.val q e).get (.imp x) fIMP_QSTAT_ERR q = e := by
  have hq := lt_of_qsel hsel
  exact ⟨Dev.get_set_ne _ _ (regKey_ne_off (by decide) (by decide) (by omega) (by omega) (by decide)),
    pImp_val x ▸ Dev.err_qErr d x.val q he⟩

theorem qpartWrite_spec :
    (d.qState x.val q = 0 → v % 64 < d.nPart → (qpartWrite d x.val v).qPart x.val q = v % 64 ∧
      (qpartWrite d x.val v).word (.imp x) 0x12C q = d.word (.imp x) 0x12C q) ∧
    (d.qState x.val q ≠ 0 → (qpartWrite d x.val v).qPart x.val q = d.qPart x.val q ∧
      (qpartWrite d x.val v).get (.imp x) fIMP_QSTAT_ERR q = 6) ∧
    (d.qState x.val q = 0 → d.nPart ≤ v % 64 → (qpartWrite d x.val v).qPart x.val q = d.qPart x.val q ∧
      (qpartWrite d x.val v).get (.imp x) fIMP_QSTAT_ERR q = 5) := by
  rw [qpartWrite_eq hsel]
  refine ⟨fun hoff hlt => ?_, fun hon => ?_, fun hoff hge => ?_⟩
  · rw [if_neg (not_not_intro hoff), if_neg (Nat.not_le.mpr hlt)]
    have hq := lt_of_qsel hsel
    exact ⟨(Dev.get_set _ _ _ _ _ (by decide) (by decide)).trans (Nat.mod_mod _ _),
      Dev.word_setWord_ne _ _ (regKey_ne_off (by decide) (by decide) (by omega) (by omega) (by decide))⟩
  · rw [if_pos hon]; exact qPart_qErr hsel (by decide)
  · rw [if_neg (not_not_intro hoff), if_pos hge]; exact qPart_qErr hsel (by decide)

end

/-! ### Core maps (R364) -/

/-- The device once a write has cleared ILL where it carries a 1 there. -/
def Dev.cmapCleared (d : Dev) (x i v : Nat) : Dev := if v.testBit 31 then d.set (pImp x) fIMP_CMAP_ILL i 0 else d

theorem Dev.cmapCleared_cases (d : Dev) (x i v : Nat) : d.cmapCleared x i v = d.set (pImp x) fIMP_CMAP_ILL i 0 ∨ d.cmapCleared x i v = d := by
  unfold Dev.cmapCleared
  split
  · exact .inl rfl
  · exact .inr rfl

theorem Dev.cmapCleared_eq (d : Dev) (x i v : Nat) : d.cmapCleared x i v = { d with regs := (d.cmapCleared x i v).regs } := by
  rcases d.cmapCleared_cases x i v with h | h <;> rw [h]
  rfl

theorem Dev.nPart_cmapCleared (d : Dev) (x v : Nat) {i : Nat} (hi : i < 16384) : (d.cmapCleared x i v).nPart = d.nPart := by
  rcases d.cmapCleared_cases x i v with h | h <;> rw [h]
  exact Dev.nPart_setImp _ _ _ _ _ (by decide) hi

theorem Dev.part_cmapCleared (d : Dev) (x i v : Nat) :
    (d.cmapCleared x i v).get (pImp x) fIMP_CMAP_PART i = d.get (pImp x) fIMP_CMAP_PART i := by
  rcases d.cmapCleared_cases x i v with h | h <;> rw [h]
  exact Dev.get_set_apart _ _ _ _ _ _ rfl (by decide) (by decide) (by decide) (by decide)

theorem wordsKept_cmapCleared (d : Dev) (x : Die) {i : Nat} (v : Nat) (hi : i < 16384) :
    Safety.wordsKept d (d.cmapCleared x.val i v) [(.imp x, 0x138, i)] := by
  rcases d.cmapCleared_cases x.val i v with h | h <;> rw [h]
  · exact wordsKept_setImp 0 (Safety.wordsKept_refl _ _) rfl (List.mem_singleton_self _) (by decide) (by decide) hi
  · exact Safety.wordsKept_refl _ _

/-- A queue is bound to a slot of the core. -/
def Core.anyBound (k : Core) : Bool := (List.range 8).any (fun sl => (k.bind sl).isSome)

theorem Core.anyBound_iff {k : Core} : k.anyBound = true ↔ ∃ sl, sl < 8 ∧ k.bind sl ≠ none := by
  simp [Core.anyBound, Option.isSome_iff_ne_none]

section
variable {d : Dev} {x : Die} {r : Fin 24} {c : Fin 25} {i : Nat} (hi : i = 32 * r.val + c.val)
  (hidx : d.get (.imp x) fIMP_CMAP_IDX_IDX 0 = i) (v : Nat)
include hi hidx

/-- The index names a core, whose bindings decide. -/
theorem cmapWrite_eq : cmapWrite d x.val v =
    if d.nPart ≤ v % 64 ∨ (d.core ⟨x, r, c⟩).anyBound = true then (d.cmapCleared x.val i v).set (pImp x.val) fIMP_CMAP_ILL i 1
    else (d.cmapCleared x.val i v).set (pImp x.val) fIMP_CMAP_PART i (v % 64) := by
  have hr := r.isLt
  have hc := c.isLt
  have hcore : coreAt x.val (i / 32) (i % 32) = ⟨x, r, c⟩ :=
    (coreAt_eq_iff x.isLt (by omega) (by omega)).mpr ⟨rfl, by dsimp only; omega, by dsimp only; omega⟩
  have hnamed (b : Bool) : (i < 768 ∧ i % 32 < 25 ∧ b = true) ↔ b = true := ⟨fun h => h.2.2, fun h => ⟨by omega, by omega, h⟩⟩
  have hpart := d.nPart_cmapCleared x.val v (i := i) (by omega)
  have hbinds : (d.cmapCleared x.val i v).core = d.core := by rw [Dev.cmapCleared_eq]; rfl
  unfold cmapWrite
  simp only [pImp_val, hidx, hcore, hnamed]
  simp only [Dev.cmapCleared, pImp_val] at hpart hbinds ⊢
  rw [hpart, hbinds]
  rfl

theorem cmapWrite_frame : cmapWrite d x.val v = { d with regs := (cmapWrite d x.val v).regs } ∧
    Safety.wordsKept d (cmapWrite d x.val v) [(.imp x, 0x138, i)] := by
  have hlt : i < 16384 := by omega
  have hset (fld : FieldDef) (u : Nat) (hf : fld.off = 0x138) : Safety.wordsKept d ((d.cmapCleared x.val i v).set (pImp x.val) fld i u)
      [(.imp x, 0x138, i)] :=
    wordsKept_setImp u (wordsKept_cmapCleared d x v hlt) hf (List.mem_singleton_self _) (by decide) (by decide) hlt
  rw [cmapWrite_eq hi hidx]
  split
  · exact ⟨by rw [Dev.cmapCleared_eq]; rfl, hset _ _ rfl⟩
  · exact ⟨by rw [Dev.cmapCleared_eq]; rfl, hset _ _ rfl⟩

theorem cmapWrite_spec :
    (v % 64 < d.nPart → (∀ sl, sl < 8 → (d.core ⟨x, r, c⟩).bind sl = none) → (cmapWrite d x.val v).get (.imp x) fIMP_CMAP_PART i = v % 64) ∧
    ((d.nPart ≤ v % 64 ∨ ∃ sl, sl < 8 ∧ (d.core ⟨x, r, c⟩).bind sl ≠ none) →
      (cmapWrite d x.val v).on (.imp x) fIMP_CMAP_ILL i = true ∧
      (cmapWrite d x.val v).get (.imp x) fIMP_CMAP_PART i = d.get (.imp x) fIMP_CMAP_PART i) := by
  rw [cmapWrite_eq hi hidx, ← pImp_val x, ← Core.anyBound_iff]
  refine ⟨fun hlt hfree => ?_, fun hbad => ?_⟩
  · have hnone : ¬(d.core ⟨x, r, c⟩).anyBound = true := fun h =>
      have ⟨sl, hsl, hb⟩ := Core.anyBound_iff.mp h
      hb (hfree sl hsl)
    rw [if_neg (not_or.mpr ⟨Nat.not_le.mpr hlt, hnone⟩)]
    exact (Dev.get_set _ _ _ _ _ (by decide) (by decide)).trans (Nat.mod_mod _ _)
  · rw [if_pos hbad]
    refine ⟨Dev.on_set_one _ _ _ _ (by decide) (by decide), ?_⟩
    rw [Dev.get_set_apart _ _ _ _ _ _ (by decide) (by decide) (by decide) (by decide) (by decide), Dev.part_cmapCleared]

end

/-! ### Slots are bound (R183) -/

theorem Core.bind_of_freeSlot {k : Core} {sl : Nat} (h : k.freeSlot = some sl) : sl < 8 ∧ k.bind sl = none :=
  ⟨List.mem_range.mp (List.mem_of_find?_eq_some h), Option.isNone_iff_eq_none.mp (List.find?_some h :)⟩

/-- The device once the lowest free slot of a core, where it has one, has been bound. -/
def Dev.bindOne (d : Dev) (x q : Nat) (htok : List Nat) (c : CoreId) : Dev :=
  match (d.core c).freeSlot with
  | some sl => d.modCore c (fun k => k.setBind sl (some ⟨q, d.qTag x q, d.qPrio x q, htok, 0⟩))
  | none => d

theorem Dev.bindAll_cons (d : Dev) (x q : Nat) (htok : Nat → List Nat) (c : CoreId) (cs : List CoreId) (i : Nat) :
    d.bindAll x q htok (c :: cs) i = (d.bindOne x q (htok i) c).bindAll x q htok cs (i + 1) := rfl

section
variable (d : Dev) (x q : Nat) (htok : List Nat) (c : CoreId)

theorem Dev.bindOne_eq : d.bindOne x q htok c = { d with cores := (d.bindOne x q htok c).cores } := by
  unfold Dev.bindOne; split <;> rfl

theorem Dev.core_bindOne_ne {b : CoreId} (h : b ≠ c) : (d.bindOne x q htok c).core b = d.core b := by
  unfold Dev.bindOne
  split
  · exact Dev.core_modCore_ne _ _ h
  · rfl

theorem Dev.bind_bindOne_same {sl : Nat} (h : (d.core c).freeSlot = some sl) :
    ((d.bindOne x q htok c).core c).bind sl = some ⟨q, d.qTag x q, d.qPrio x q, htok, 0⟩ := by
  unfold Dev.bindOne
  rw [h]
  dsimp only
  rw [Dev.core_modCore_same, Core.bind_setBind_same]

/-- What is bound stays bound. -/
theorem Dev.bind_bindOne_of_bound {b : CoreId} {sl : Nat} {y : Bind} (h : (d.core b).bind sl = some y) :
    ((d.bindOne x q htok c).core b).bind sl = some y := by
  by_cases hb : b = c
  · subst hb
    unfold Dev.bindOne
    split
    case h_1 tl hfree =>
      have hne : sl ≠ tl := fun e => by rw [e, (Core.bind_of_freeSlot hfree).2] at h; cases h
      rw [Dev.core_modCore_same, Core.bind_setBind, if_neg hne, h]
    case h_2 => exact h
  · rw [Dev.core_bindOne_ne _ _ _ _ _ hb, h]

end

theorem Dev.bindAll_eq (x q : Nat) (htok : Nat → List Nat) (cs : List CoreId) (d : Dev) (i : Nat) :
    d.bindAll x q htok cs i = { d with cores := (d.bindAll x q htok cs i).cores } := by
  induction cs generalizing d i with
  | nil => rfl
  | cons c cs ih => rw [Dev.bindAll_cons, ih, Dev.bindOne_eq]

theorem Dev.core_bindAll_of_not_mem (x q : Nat) (htok : Nat → List Nat) {cs : List CoreId} (d : Dev) (i : Nat) {b : CoreId}
    (h : b ∉ cs) : (d.bindAll x q htok cs i).core b = d.core b := by
  induction cs generalizing d i with
  | nil => rfl
  | cons c cs ih =>
    have hc : b ≠ c := fun e => h (e ▸ List.mem_cons_self)
    rw [Dev.bindAll_cons, ih _ _ (fun hcs => h (List.mem_cons_of_mem _ hcs)), Dev.core_bindOne_ne _ _ _ _ _ hc]

theorem Dev.bind_bindAll_of_bound (x q : Nat) (htok : Nat → List Nat) (cs : List CoreId) {d : Dev} (i : Nat) {b : CoreId} {sl : Nat}
    {y : Bind} (h : (d.core b).bind sl = some y) : ((d.bindAll x q htok cs i).core b).bind sl = some y := by
  induction cs generalizing d i with
  | nil => exact h
  | cons c cs ih => exact ih _ (d.bind_bindOne_of_bound x q _ c h)

/-- Every core of the list that has a free slot gets one, with the head tokens of its place. -/
theorem Dev.exists_bind_bindAll (x q : Nat) (htok : Nat → List Nat) {cs : List CoreId} (d : Dev) (i : Nat) {c : CoreId} (hc : c ∈ cs)
    (hfree : (d.core c).freeSlot.isSome = true) : ∃ k, cs[k]? = some c ∧ ∃ sl, sl < 8 ∧
      ((d.bindAll x q htok cs i).core c).bind sl = some ⟨q, d.qTag x q, d.qPrio x q, htok (i + k), 0⟩ := by
  induction cs generalizing d i with
  | nil => cases hc
  | cons b cs ih =>
    by_cases hb : c = b
    · subst hb
      obtain ⟨sl, hsl⟩ := Option.isSome_iff_exists.mp hfree
      exact ⟨0, rfl, sl, (Core.bind_of_freeSlot hsl).1, Dev.bind_bindAll_of_bound x q htok cs _ (d.bind_bindOne_same x q _ c hsl)⟩
    · have hcore := d.core_bindOne_ne x q (htok i) b hb
      obtain ⟨k, hk, sl, hsl, hbind⟩ := ih (d.bindOne x q (htok i) b) (i + 1) ((List.mem_cons.mp hc).resolve_left hb) (by rw [hcore, hfree])
      refine ⟨k + 1, hk, sl, hsl, ?_⟩
      rw [Dev.bindAll_cons, hbind, Nat.add_right_comm i 1 k, Dev.bindOne_eq]
      rfl

/-! ### ENABLE (R183, R194) -/

theorem ite_eq_zero_cases {c : Prop} [Decidable c] {n m : Nat} (hn : n ≠ 0) (h : (if c then n else m) = 0) : ¬c ∧ m = 0 := by
  split at h
  case isTrue => exact absurd h hn
  case isFalse hc => exact ⟨hc, h⟩

theorem Dev.freeSlot_of_enableErr {d : Dev} {x q : Nat} (h : d.enableErr x q = 0) {c : CoreId} (hc : c ∈ d.targetCores x q) :
    (d.core c).freeSlot.isSome = true := by
  unfold Dev.enableErr at h
  dsimp only at h
  obtain ⟨-, h⟩ := ite_eq_zero_cases (by decide) h
  obtain ⟨-, h⟩ := ite_eq_zero_cases (by decide) h
  obtain ⟨-, h⟩ := ite_eq_zero_cases (by decide) h
  obtain ⟨-, h⟩ := ite_eq_zero_cases (by decide) h
  obtain ⟨-, h⟩ := ite_eq_zero_cases (by decide) h
  obtain ⟨hslots, -⟩ := ite_eq_zero_cases (by decide) h
  have hone := List.any_eq_false.mp (Bool.eq_false_iff.mpr hslots) c hc
  simp only [Bool.or_eq_true, not_or, Bool.not_eq_true, Option.isNone_eq_false_iff] at hone
  exact hone.1

theorem Dev.enableErr_lt (d : Dev) (x q : Nat) : d.enableErr x q < 16 := by
  unfold Dev.enableErr
  dsimp only
  repeat' split
  all_goals decide

/-- A queue that starts runs without an error, and every target core has a slot bound to it. -/
theorem Dev.startQueue_spec {d : Dev} {x : Die} {q : Nat} (htok : Nat → List Nat) (hq : q < 64) (herr : d.enableErr x.val q = 0) :
    d.startQueue x.val q htok =
        { d with regs := (d.startQueue x.val q htok).regs, cores := (d.startQueue x.val q htok).cores } ∧
      Safety.wordsKept d (d.startQueue x.val q htok) [(.imp x, 0x12C, q)] ∧ (d.startQueue x.val q htok).qState x.val q = 1 ∧
      (d.startQueue x.val q htok).get (.imp x) fIMP_QSTAT_ERR q = 0 ∧
      (∀ c, c ∉ d.targetCores x.val q → (d.startQueue x.val q htok).core c = d.core c) ∧
      ∀ c ∈ d.targetCores x.val q, ∃ k, (d.targetCores x.val q)[k]? = some c ∧ ∃ sl, sl < 8 ∧
        ((d.startQueue x.val q htok).core c).bind sl = some ⟨q, d.qTag x.val q, d.qPrio x.val q, htok k, 0⟩ := by
  have hbind := Dev.bindAll_eq x.val q htok (d.targetCores x.val q) d 0
  have hother := fun c hc => Dev.core_bindAll_of_not_mem x.val q htok (cs := d.targetCores x.val q) (b := c) d 0 hc
  have hbound := fun c (hc : c ∈ d.targetCores x.val q) => Dev.exists_bind_bindAll x.val q htok d 0 hc (Dev.freeSlot_of_enableErr herr hc)
  unfold Dev.startQueue
  generalize d.bindAll x.val q htok (d.targetCores x.val q) 0 = e at hbind hother hbound ⊢
  have hregs : e.regs = d.regs := by rw [hbind]
  have hqueues : e.queues = d.queues := by rw [hbind]
  have hreqs : e.reqs = d.reqs := by rw [hbind]
  refine ⟨?_, ?_, ?_, pImp_val x ▸ Dev.err_qErr _ x.val q (by decide), hother, fun c hc => ?_⟩
  · have hjobs : d.OnlyJobs ((e.setQState x.val q 1).qErr x.val q 0) :=
      ((show d.OnlyJobs e by unfold Dev.OnlyJobs; rw [hbind]).trans (Dev.onlyJobs_set _ _ _ _ _)).trans (Dev.onlyJobs_set _ _ _ _ _)
    exact hjobs.regs_cores hqueues hreqs
  · exact wordsKept_qErr _ (wordsKept_setQState _ (Safety.wordsKept_of_regs _ hregs) (List.mem_singleton_self _) hq)
      (List.mem_singleton_self _) hq
  · rw [Dev.qState_qErr, Dev.qState_setQState _ _ _ (by decide)]
  · obtain ⟨k, hk, sl, hsl, hb⟩ := hbound c hc
    exact ⟨k, hk, sl, hsl, Nat.zero_add k ▸ hb⟩

/-- QREQ of an Imposer's page does not lie in IMP_QSTAT. -/
theorem Dev.qreq_of_wordsKept {d e : Dev} {x : Die} {q : Nat} (h : Safety.wordsKept d e [(.imp x, 0x12C, q)]) :
    e.on (pImp x.val) fBLK_CTL_QREQ 0 = d.on (pImp x.val) fBLK_CTL_QREQ 0 := by
  unfold Dev.on
  rw [pImp_val, get_of_wordsKept h (f := fBLK_CTL_QREQ) (by simp [fBLK_CTL_QREQ]) rfl (by decide) (by decide)]

/-- A queue that runs is held at once while its page's QREQ is 1. -/
theorem Dev.heldByQreq_of_run {d e : Dev} {x : Die} {q : Nat} (h : Safety.wordsKept d e [(.imp x, 0x12C, q)]) (hst : e.qState x.val q = 1) :
    e.heldByQreq x.val q = if d.on (pImp x.val) fBLK_CTL_QREQ 0 then e.holdQueue x.val q true else e := by
  unfold Dev.heldByQreq
  rw [Dev.qreq_of_wordsKept h]
  simp only [hst, and_true]

theorem Dev.heldByQreq_of_off {d : Dev} {x q : Nat} (hst : d.qState x q = 0) : d.heldByQreq x q = d :=
  if_neg (by rw [hst]; exact fun h => nomatch h.2)

section
variable {d : Dev} {x q : Nat} (host : List Byte) (ans : Answer)

theorem Dev.enableQueue_of_err (restore : Option (List Byte × Answer)) (h : d.enableErr x q ≠ 0) :
    d.enableQueue x q restore = d.qErr x q (d.enableErr x q) := by
  unfold Dev.enableQueue
  split
  case h_1 he => exact absurd he h
  case h_2 => rfl

theorem Dev.enableQueue_of_ok (h : d.enableErr x q = 0) : d.enableQueue x q none = d.startQueue x q (fun _ => [0, 0, 0, 0]) := by
  unfold Dev.enableQueue; rw [h]; rfl

theorem Dev.enableQueue_of_restored {b : List Byte} (h : d.enableErr x q = 0) (hb : d.restoreBytes x q host ans = some b)
    (hcount : fieldLE b 0 4 = (d.targetSet x q).length) (htag : fieldLE b 4 2 = d.qTag x q) :
    d.enableQueue x q (some (host, ans)) = d.startQueue x q (fun i => (List.range 4).map (fun j => fieldLE b (8 + 4 * i + j) 1)) := by
  unfold Dev.enableQueue
  rw [h]
  dsimp only
  rw [hb]
  exact if_pos ⟨hcount, htag⟩

/-- ENABLE, with or without RESTORE, of a queue that is off. -/
theorem qCmd_enable (hsel : d.get (pImp x) fIMP_QSEL_Q 0 = q) (hst : d.qState x q = 0) :
    qCmd d x 0x01 host ans = (d.enableQueue x q none).heldByQreq x q ∧
    qCmd d x 0x03 host ans = (d.enableQueue x q (some (host, ans))).heldByQreq x q := by
  subst hsel
  exact ⟨if_pos hst, if_pos hst⟩

end

/-! ### The obligation -/

theorem qCmdVia_of_writable {via : Via} {x : Die} {s : State} (hw : s.dev.writable via (pImp x.val) = true) (val : Nat) (host : List Byte)
    (ans : Answer) : qCmdVia via x val host ans s = .next { s with dev := qCmd s.dev x.val val host ans } := by
  rw [qCmdVia, onDev_eq, Dev.viaWrite_of_writable _ _ _ _ hw]

section
variable {via : Via} {x : Die} {q : Nat} {s : State} (hw : s.dev.writable via (pImp x.val) = true)
  (hsel : s.dev.get (.imp x) fIMP_QSEL_Q 0 = q) (hst : s.dev.qState x.val q = 0)
include hw hsel hst

theorem exec_enable : exec (.enable via x) s = .next { s with dev := (s.dev.enableQueue x.val q none).heldByQreq x.val q } := by
  rw [← (qCmd_enable [] .ok ((pImp_val x).symm ▸ hsel) hst).1]
  exact qCmdVia_of_writable hw 0x01 [] .ok

theorem exec_enableRestore (host : List Byte) (ans : Answer) : exec (.enableRestore via x host ans) s =
    .next { s with dev := (s.dev.enableQueue x.val q (some (host, ans))).heldByQreq x.val q } := by
  rw [← (qCmd_enable host ans ((pImp_val x).symm ▸ hsel) hst).2]
  exact qCmdVia_of_writable hw 0x03 host ans

/-- An ENABLE that a check of R183 refuses gives its code and binds nothing. -/
theorem enable_refused (herr : s.dev.enableErr x.val q ≠ 0) :
    ∃ d, exec (.enable via x) s = .next { s with dev := d } ∧ d = { s.dev with regs := d.regs } ∧
      Safety.wordsKept s.dev d [(.imp x, 0x12C, q)] ∧ d.qState x.val q = 0 ∧
      d.get (.imp x) fIMP_QSTAT_ERR q = s.dev.enableErr x.val q := by
  have hoff := (Dev.qState_qErr s.dev x.val q (s.dev.enableErr x.val q)).trans hst
  refine ⟨s.dev.qErr x.val q (s.dev.enableErr x.val q), ?_, rfl, ?_, hoff, pImp_val x ▸ Dev.err_qErr _ _ _ (Dev.enableErr_lt _ _ _)⟩
  · rw [exec_enable hw hsel hst, Dev.enableQueue_of_err none herr, Dev.heldByQreq_of_off hoff]
  · exact wordsKept_qErr _ (Safety.wordsKept_refl _ _) (List.mem_singleton_self _) (lt_of_qsel hsel)

theorem enable_accepted (herr : s.dev.enableErr x.val q = 0) :
    ∃ d, exec (.enable via x) s =
        .next { s with dev := if s.dev.on (pImp x.val) fBLK_CTL_QREQ 0 then d.holdQueue x.val q true else d } ∧
      d = { s.dev with regs := d.regs, cores := d.cores } ∧
      Safety.wordsKept s.dev d [(.imp x, 0x12C, q)] ∧ d.qState x.val q = 1 ∧ d.get (.imp x) fIMP_QSTAT_ERR q = 0 ∧
      (∀ c ∈ s.dev.targetCores x.val q, ∃ sl, sl < 8 ∧ (d.core c).bind sl =
        some ⟨q, s.dev.qTag x.val q, s.dev.qPrio x.val q, [0, 0, 0, 0], 0⟩) ∧
      (∀ c, c ∉ s.dev.targetCores x.val q → d.core c = s.dev.core c) := by
  obtain ⟨heq, hkept, hrun, hcode, hother, hbound⟩ :=
    Dev.startQueue_spec (fun _ => [0, 0, 0, 0]) (lt_of_qsel hsel) herr
  refine ⟨_, ?_, heq, hkept, hrun, hcode, fun c hc => (hbound c hc).elim fun _ h => h.2, hother⟩
  rw [exec_enable hw hsel hst, Dev.enableQueue_of_ok herr, Dev.heldByQreq_of_run hkept hrun]

/-- A restored queue starts with the head tokens of its save area. -/
theorem enableRestore_accepted (herr : s.dev.enableErr x.val q = 0) {host : List Byte} {ans : Answer} {b : List Byte}
    (hb : s.dev.restoreBytes x.val q host ans = some b) (hcount : fieldLE b 0 4 = (s.dev.targetSet x.val q).length)
    (htag : fieldLE b 4 2 = s.dev.qTag x.val q) :
    ∃ d, exec (.enableRestore via x host ans) s =
        .next { s with dev := if s.dev.on (pImp x.val) fBLK_CTL_QREQ 0 then d.holdQueue x.val q true else d } ∧
      d = { s.dev with regs := d.regs, cores := d.cores } ∧ Safety.wordsKept s.dev d [(.imp x, 0x12C, q)] ∧
      d.qState x.val q = 1 ∧ d.get (.imp x) fIMP_QSTAT_ERR q = 0 ∧
      (∀ c, c ∉ s.dev.targetCores x.val q → d.core c = s.dev.core c) ∧
      ((s.dev.targetCores x.val q).Nodup → ∀ i c, (s.dev.targetCores x.val q)[i]? = some c →
        ∃ sl, sl < 8 ∧ (d.core c).bind sl = some ⟨q, s.dev.qTag x.val q, s.dev.qPrio x.val q,
          (List.range 4).map (fun j => fieldLE b (8 + 4 * i + j) 1), 0⟩) := by
  obtain ⟨heq, hkept, hrun, hcode, hother, hbound⟩ :=
    Dev.startQueue_spec (fun i => (List.range 4).map (fun j => fieldLE b (8 + 4 * i + j) 1)) (lt_of_qsel hsel) herr
  refine ⟨_, ?_, heq, hkept, hrun, hcode, hother, fun hnodup i c hi => ?_⟩
  · rw [exec_enableRestore hw hsel hst, Dev.enableQueue_of_restored host ans herr hb hcount htag, Dev.heldByQreq_of_run hkept hrun]
  · obtain ⟨k, hk, hslot⟩ := hbound c (List.mem_of_getElem? hi)
    obtain ⟨hlt, -⟩ := List.getElem?_eq_some_iff.mp hi
    obtain rfl : i = k := (List.getElem?_inj hlt hnodup).mp (hi.trans hk.symm)
    exact hslot

end

/-- Settles O15: `doorbell_within` and `doorbell_past`, `qpartWrite_spec`, `cmapWrite_spec`, `enable_refused`, `enable_accepted` and
`enableRestore_accepted`. -/
theorem queuesConfiguredAndEnabled : Obligations.QueuesConfiguredAndEnabled := by
  unfold Obligations.QueuesConfiguredAndEnabled
  refine ⟨fun via x val s hw => ⟨fun k hk => ?_, fun q hsel => ?_, fun r c hidx => ?_⟩, fun via x q s hw hsel hst => ?_⟩
  case refine_1 =>
    obtain ⟨y, q⟩ := k
    obtain rfl : y = x := hk
    exact ⟨_, exec_doorbellWrite hw val q, doorbell_within q.isLt val.isLt, doorbell_past q.isLt (Dev.inReset_of_writable hw)⟩
  case refine_2 =>
    obtain ⟨heq, hkept⟩ := qpartWrite_frame hsel val.toNat
    exact ⟨_, exec_impQpartWrite hw val, heq, hkept, qpartWrite_spec hsel val.toNat⟩
  case refine_3 =>
    obtain ⟨heq, hkept⟩ := cmapWrite_frame (r := r) (c := c) rfl hidx val.toNat
    exact ⟨_, exec_impCmapWrite hw val, heq, hkept, cmapWrite_spec rfl hidx val.toNat⟩
  case refine_4 =>
    exact ⟨enable_refused hw hsel hst, fun herr => ⟨enable_accepted hw hsel hst herr,
      fun host ans b hb hcount htag => enableRestore_accepted hw hsel hst herr hb hcount htag⟩⟩

end Sys2Proof.Machine

/-! ## Queues are held, released, switched off and saved (O16; R191 to R194, R289, R369) -/

namespace Sys2Proof.Machine

/-! ### Fields of IMP_QSTAT stand apart -/

section
variable (d : Dev) (x q v : Nat)

@[simp] theorem Dev.qBegun_qErr : (d.qErr x q v).qBegun x q = d.qBegun x q :=
  Dev.get_set_apart _ _ _ _ _ _ rfl (by decide) (by decide) (by decide) (by decide)

@[simp] theorem Dev.qBegun_setQState : (d.setQState x q v).qBegun x q = d.qBegun x q :=
  Dev.get_set_apart _ _ _ _ _ _ rfl (by decide) (by decide) (by decide) (by decide)

@[simp] theorem Dev.err_setQState : (d.setQState x q v).get (pImp x) fIMP_QSTAT_ERR q = d.get (pImp x) fIMP_QSTAT_ERR q :=
  Dev.get_set_apart _ _ _ _ _ _ rfl (by decide) (by decide) (by decide) (by decide)

@[simp] theorem Dev.qState_setSaved : (d.set (pImp x) fIMP_QSTAT_SAVED q v).qState x q = d.qState x q :=
  Dev.get_set_apart _ _ _ _ _ _ rfl (by decide) (by decide) (by decide) (by decide)

@[simp] theorem Dev.err_setSaved :
    (d.set (pImp x) fIMP_QSTAT_SAVED q v).get (pImp x) fIMP_QSTAT_ERR q = d.get (pImp x) fIMP_QSTAT_ERR q :=
  Dev.get_set_apart _ _ _ _ _ _ rfl (by decide) (by decide) (by decide) (by decide)

@[simp] theorem Dev.qState_setBegun : (d.set (pImp x) fIMP_QSTAT_BEGUN q v).qState x q = d.qState x q :=
  Dev.get_set_apart _ _ _ _ _ _ rfl (by decide) (by decide) (by decide) (by decide)

@[simp] theorem Dev.err_setBegun :
    (d.set (pImp x) fIMP_QSTAT_BEGUN q v).get (pImp x) fIMP_QSTAT_ERR q = d.get (pImp x) fIMP_QSTAT_ERR q :=
  Dev.get_set_apart _ _ _ _ _ _ rfl (by decide) (by decide) (by decide) (by decide)

/-- IMP_QRP and IMP_QSTAT are words of their own. -/
theorem regKey_qstat_ne_qrp (p : Page) : regKey p fIMP_QSTAT_STATE.off q ≠ regKey p fIMP_QRP_RP.off q := by
  unfold regKey; simp only [fIMP_QRP_RP, fIMP_QSTAT_STATE]; omega

@[simp] theorem Dev.qState_setRp : (d.set (pImp x) fIMP_QRP_RP q v).qState x q = d.qState x q :=
  Dev.get_set_ne _ _ (regKey_qstat_ne_qrp q _)

@[simp] theorem Dev.err_setRp : (d.set (pImp x) fIMP_QRP_RP q v).get (pImp x) fIMP_QSTAT_ERR q = d.get (pImp x) fIMP_QSTAT_ERR q :=
  Dev.get_set_ne _ _ (regKey_qstat_ne_qrp q _)

end

theorem Dev.qState_congr {d e : Dev} (h : e.regs = d.regs) (x q : Nat) : e.qState x q = d.qState x q := Dev.get_congr h _ _ _

theorem Dev.qBegun_congr {d e : Dev} (h : e.regs = d.regs) (x q : Nat) : e.qBegun x q = d.qBegun x q := Dev.get_congr h _ _ _

/-! ### Frames of queue commands -/

theorem Dev.OnlyJobs.regs_queues {d e : Dev} (h : d.OnlyJobs e) (hc : e.cores = d.cores) (hr : e.reqs = d.reqs) :
    e = { d with regs := e.regs, queues := e.queues } := Eq.trans h (by rw [hc, hr])

theorem Dev.OnlyJobs.regs_cores_queues {d e : Dev} (h : d.OnlyJobs e) (hr : e.reqs = d.reqs) :
    e = { d with regs := e.regs, cores := e.cores, queues := e.queues } := Eq.trans h (by rw [hr])

theorem Dev.onlyJobs_modQueue (d : Dev) (k : Nat) (f : Queue → Queue) : d.OnlyJobs (d.modQueue k f) := rfl

theorem Dev.onlyJobs_dropRuns (d : Dev) (x q : Nat) (gone : Run → Bool) : d.OnlyJobs (d.dropRuns x q gone) := by
  unfold Dev.OnlyJobs; rw [Dev.dropRuns_eq]

/-! ### Runs that have not begun are withdrawn (R191) -/

theorem Dev.queue_dropRuns (d : Dev) (x q : Nat) (gone : Run → Bool) : (d.dropRuns x q gone).queue (queueKey x q) =
    { d.queue (queueKey x q) with runs := (d.queue (queueKey x q)).runs.filter (fun r => !gone r) } := by
  rw [Dev.dropRuns_eq_freeSlot, Dev.queue_modQueue_same, Dev.foldl_freeSlot_eq]
  rfl

@[simp] theorem Dev.regs_dropRuns (d : Dev) (x q : Nat) (gone : Run → Bool) : (d.dropRuns x q gone).regs = d.regs := by
  rw [Dev.dropRuns_eq]

/-- The run's commands, where it has a core, are abandoned. -/
def Dev.abandonRun (d : Dev) (r : Run) : Dev :=
  match r.core with
  | some c => d.abandon c r.slot false
  | none => d

/-- Neither begun nor ended. -/
def Run.unbegun (r : Run) : Bool := !(r.stage == .begun || r.stage == .ended)

theorem Dev.withdraw_eq (d : Dev) (x q : Nat) : d.withdraw x q =
    (((d.queue (queueKey x q)).runs.filter Run.unbegun).foldl Dev.abandonRun d).dropRuns x q Run.unbegun := rfl

theorem Dev.foldl_abandonRun_eq (rs : List Run) (d : Dev) : rs.foldl Dev.abandonRun d =
    { d with cores := (rs.foldl Dev.abandonRun d).cores, reqs := (rs.foldl Dev.abandonRun d).reqs } := by
  induction rs generalizing d with
  | nil => rfl
  | cons r rs ih =>
    have hone : d.abandonRun r = { d with cores := (d.abandonRun r).cores, reqs := (d.abandonRun r).reqs } := by
      unfold Dev.abandonRun; split <;> rfl
    rw [List.foldl_cons, ih, hone]

theorem Dev.onlyJobs_withdraw (d : Dev) (x q : Nat) : d.OnlyJobs (d.withdraw x q) := by
  rw [Dev.withdraw_eq]
  refine Dev.OnlyJobs.trans ?_ (Dev.onlyJobs_dropRuns _ x q _)
  unfold Dev.OnlyJobs
  rw [Dev.foldl_abandonRun_eq]

@[simp] theorem Dev.regs_withdraw (d : Dev) (x q : Nat) : (d.withdraw x q).regs = d.regs := by
  rw [Dev.withdraw_eq, Dev.regs_dropRuns, Dev.foldl_abandonRun_eq]

theorem Dev.queue_withdraw (d : Dev) (x q : Nat) : (d.withdraw x q).queue (queueKey x q) =
    { d.queue (queueKey x q) with runs := (d.queue (queueKey x q)).runs.filter (fun r => r.stage == .begun || r.stage == .ended) } := by
  rw [Dev.withdraw_eq, Dev.queue_dropRuns, Dev.foldl_abandonRun_eq]
  simp only [Run.unbegun, Bool.not_not]
  rfl

/-! ### Begun runs are withdrawn (R192) -/

/-- The position before RP. -/
def Dev.lastPos (d : Dev) (x q : Nat) : Nat := (d.qRp x q + 2 ^ 32 - 1) % 2 ^ 32

/-- The begun run before RP, where it has made no outbound write. -/
def Dev.lastBegun (d : Dev) (x q : Nat) : Option Run :=
  (d.queue (queueKey x q)).runs.find? (fun r => r.pos == d.lastPos x q && r.stage == .begun && !r.outbound)

/-- The head token a run took is given back. -/
def Dev.giveHead (d : Dev) (c : CoreId) (r : Run) : Dev :=
  match r.htokUsed with
  | some (i, n) => (d.addHead c r.slot i n).1
  | none => d

/-- The device once a core has given up a begun run: commands, tokens, head token. -/
def Dev.begunGone (d : Dev) (c : CoreId) (r : Run) : Dev := ((d.abandon c r.slot false).modCore c (Core.clearToks r.tokMap)).giveHead c r

/-- The device once the begun run before RP has been withdrawn. -/
def Dev.withdrawRun (d : Dev) (x q : Nat) (c : CoreId) (r : Run) : Dev :=
  (((d.begunGone c r).dropRun x q (d.lastPos x q)).set (pImp x) fIMP_QRP_RP q (d.lastPos x q)).set (pImp x) fIMP_QSTAT_BEGUN q
    ((d.begunGone c r).qBegun x q - 1)

theorem Dev.begunGone_eq (d : Dev) (c : CoreId) (r : Run) :
    d.begunGone c r = { d with cores := (d.begunGone c r).cores, reqs := (d.begunGone c r).reqs } := by
  have hgive (e : Dev) : e.giveHead c r = { e with cores := (e.giveHead c r).cores } := by
    unfold Dev.giveHead
    split
    · exact Dev.addHead_eq _ _ _ _ _
    · rfl
  unfold Dev.begunGone
  rw [hgive]
  rfl

section
variable {d : Dev} {x q n : Nat}

theorem Dev.withdrawBegun_of_none (h : d.lastBegun x q = none) : d.withdrawBegun x q (n + 1) = d := by
  unfold Dev.withdrawBegun
  unfold Dev.lastBegun Dev.lastPos at h
  dsimp only
  rw [h]

theorem Dev.withdrawBegun_of_coreless {r : Run} (h : d.lastBegun x q = some r) (hc : r.core = none) : d.withdrawBegun x q (n + 1) = d := by
  unfold Dev.withdrawBegun
  unfold Dev.lastBegun Dev.lastPos at h
  dsimp only
  rw [h]
  dsimp only
  rw [hc]

theorem Dev.withdrawBegun_of_some {r : Run} {c : CoreId} (h : d.lastBegun x q = some r) (hc : r.core = some c) :
    d.withdrawBegun x q (n + 1) = (d.withdrawRun x q c r).withdrawBegun x q n := by
  conv => lhs; unfold Dev.withdrawBegun
  unfold Dev.lastBegun Dev.lastPos at h
  dsimp only
  rw [h]
  dsimp only
  rw [hc]
  rfl

end

/-- What withdrawing one begun run keeps, withdrawing all of them keeps. -/
theorem Dev.withdrawBegun_induction {x q : Nat} {P : Dev → Prop}
    (hstep : ∀ e c r, P e → e.lastBegun x q = some r → P (e.withdrawRun x q c r)) (n : Nat) {d : Dev} (h : P d) :
    P (d.withdrawBegun x q n) := by
  induction n generalizing d with
  | zero => exact h
  | succ n ih =>
    cases hl : d.lastBegun x q with
    | none => rw [Dev.withdrawBegun_of_none hl]; exact h
    | some r =>
      cases hc : r.core with
      | none => rw [Dev.withdrawBegun_of_coreless hl hc]; exact h
      | some c => rw [Dev.withdrawBegun_of_some hl hc]; exact ih (hstep d c r h hl)

theorem Dev.queue_withdrawRun (d : Dev) (x q : Nat) (c : CoreId) (r : Run) : (d.withdrawRun x q c r).queue (queueKey x q) =
    { d.queue (queueKey x q) with runs := (d.queue (queueKey x q)).runs.filter (fun y => y.pos != d.lastPos x q) } := by
  show ((d.begunGone c r).dropRun x q (d.lastPos x q)).queue (queueKey x q) = _
  rw [Dev.dropRun, Dev.queue_dropRuns, Dev.begunGone_eq]
  rfl

theorem Dev.of_lastBegun_eq_some {d : Dev} {x q : Nat} {r : Run} (h : d.lastBegun x q = some r) :
    r ∈ (d.queue (queueKey x q)).runs ∧ r.pos = d.lastPos x q ∧ r.stage = .begun ∧ r.outbound = false := by
  have hp := List.find?_some h
  simp only [Bool.and_eq_true, beq_iff_eq, Bool.not_eq_true'] at hp
  exact ⟨List.mem_of_find?_eq_some h, hp.1.1, hp.1.2, hp.2⟩

theorem Dev.onlyJobs_withdrawRun (d : Dev) (x q : Nat) (c : CoreId) (r : Run) : d.OnlyJobs (d.withdrawRun x q c r) := by
  have hgone : d.OnlyJobs (d.begunGone c r) := by
    unfold Dev.OnlyJobs; rw [Dev.begunGone_eq]
  exact ((hgone.trans (Dev.onlyJobs_dropRuns _ _ _ _)).trans (Dev.onlyJobs_set _ _ _ _ _)).trans (Dev.onlyJobs_set _ _ _ _ _)

theorem Dev.regs_begunGone_dropRun (d : Dev) (x q pos : Nat) (c : CoreId) (r : Run) : ((d.begunGone c r).dropRun x q pos).regs = d.regs := by
  rw [Dev.dropRun, Dev.regs_dropRuns, Dev.begunGone_eq]

/-- What withdrawing begun runs keeps of the device it starts from: all but RP and the count of begun runs, and runs that go. -/
def Dev.LessBegun (x : Die) (q : Nat) (d e : Dev) : Prop :=
  d.OnlyJobs e ∧ Safety.wordsKept d e [(.imp x, 0x12C, q), (.imp x, 0x124, q)] ∧ e.qState x.val q = d.qState x.val q ∧
    e.get (pImp x.val) fIMP_QSTAT_ERR q = d.get (pImp x.val) fIMP_QSTAT_ERR q ∧
    (e.queue (queueKey x.val q)).after = (d.queue (queueKey x.val q)).after ∧
    ∀ r ∈ (e.queue (queueKey x.val q)).runs, r ∈ (d.queue (queueKey x.val q)).runs

theorem Dev.lessBegun_withdrawRun {x : Die} {q : Nat} {d e : Dev} (hq : q < 64) (c : CoreId) (r : Run) (h : d.LessBegun x q e) :
    d.LessBegun x q (e.withdrawRun x.val q c r) := by
  obtain ⟨hjobs, hkept, hst, herr, hafter, hruns⟩ := h
  have hregs := e.regs_begunGone_dropRun x.val q (e.lastPos x.val q) c r
  have hqueue := e.queue_withdrawRun x.val q c r
  refine ⟨hjobs.trans (e.onlyJobs_withdrawRun x.val q c r), Safety.wordsKept_trans hkept ?_, ?_, ?_, ?_, fun y hy => ?_⟩
  · exact wordsKept_setImp (off := 0x12C) _ (wordsKept_setImp (off := 0x124) _ (Safety.wordsKept_of_regs _ hregs) rfl (by simp) (by decide)
      (by decide) (by omega)) rfl (by simp) (by decide) (by decide) (by omega)
  · rw [Dev.withdrawRun, Dev.qState_setBegun, Dev.qState_setRp, ← hst]
    exact Dev.get_congr hregs _ _ _
  · rw [Dev.withdrawRun, Dev.err_setBegun, Dev.err_setRp, ← herr]
    exact Dev.get_congr hregs _ _ _
  · rw [hqueue]; exact hafter
  · rw [hqueue] at hy
    exact hruns y (List.mem_filter.mp hy).1

theorem Dev.lessBegun_withdrawBegun (d : Dev) (x : Die) {q : Nat} (hq : q < 64) (n : Nat) : d.LessBegun x q (d.withdrawBegun x.val q n) :=
  Dev.withdrawBegun_induction (fun _ c r h _ => Dev.lessBegun_withdrawRun hq c r h) n
    ⟨.refl _, Safety.wordsKept_refl _ _, rfl, rfl, rfl, fun _ h => h⟩

theorem eq_of_nodup_map {α β : Type} {f : α → β} {l : List α} (h : (l.map f).Nodup) {a b : α} (ha : a ∈ l) (hb : b ∈ l) (he : f a = f b) :
    a = b := by
  obtain ⟨i, hi, rfl⟩ := List.mem_iff_getElem.mp ha
  obtain ⟨j, hj, rfl⟩ := List.mem_iff_getElem.mp hb
  have hij : (l.map f)[i]? = (l.map f)[j]? := by
    rw [List.getElem?_map, List.getElem?_map, List.getElem?_eq_getElem hi, List.getElem?_eq_getElem hj, Option.map_some, Option.map_some, he]
  obtain rfl : i = j := (List.getElem?_inj (by rw [List.length_map]; exact hi) h).mp hij
  rfl

/-- A run that is over, or has made an outbound write, stays: the run that goes is another, and its position is its own. -/
theorem Dev.mem_withdrawBegun {d : Dev} {x q : Nat} (n : Nat) {r : Run} (hpos : ((d.queue (queueKey x q)).runs.map (fun r => r.pos)).Nodup)
    (hr : r ∈ (d.queue (queueKey x q)).runs) (hstay : r.stage = .ended ∨ r.stage = .begun ∧ r.outbound = true) :
    r ∈ ((d.withdrawBegun x q n).queue (queueKey x q)).runs := by
  refine (Dev.withdrawBegun_induction (P := fun e => ((e.queue (queueKey x q)).runs.map (fun r => r.pos)).Nodup ∧
    r ∈ (e.queue (queueKey x q)).runs) (fun e c z he hz => ?_) n ⟨hpos, hr⟩).2
  obtain ⟨hnodup, hmem⟩ := he
  obtain ⟨hzmem, hzpos, hzst, hzout⟩ := Dev.of_lastBegun_eq_some hz
  rw [Dev.queue_withdrawRun]
  refine ⟨hnodup.sublist (List.filter_sublist.map _), List.mem_filter.mpr ⟨hmem, bne_iff_ne.mpr fun hp => ?_⟩⟩
  have hrz : r = z := eq_of_nodup_map hnodup hmem hzmem (hp.trans hzpos.symm)
  subst hrz
  rcases hstay with h | ⟨-, h⟩
  · rw [hzst] at h; cases h
  · rw [hzout] at h; cases h

/-- With as many steps as there are runs, none is left to withdraw. -/
theorem Dev.lastBegun_withdrawBegun {x q : Nat} (n : Nat) {d : Dev} (hlen : (d.queue (queueKey x q)).runs.length ≤ n)
    (hcore : ∀ r ∈ (d.queue (queueKey x q)).runs, r.stage = .begun → r.core ≠ none) : (d.withdrawBegun x q n).lastBegun x q = none := by
  induction n generalizing d with
  | zero =>
    have hnil : (d.queue (queueKey x q)).runs = [] := List.eq_nil_of_length_eq_zero (Nat.le_zero.mp hlen)
    show d.lastBegun x q = none
    unfold Dev.lastBegun
    rw [hnil]
    rfl
  | succ n ih =>
    cases hl : d.lastBegun x q with
    | none => rw [Dev.withdrawBegun_of_none hl]; exact hl
    | some r =>
      obtain ⟨hmem, hpos, hst, -⟩ := Dev.of_lastBegun_eq_some hl
      obtain ⟨c, hc⟩ := Option.ne_none_iff_exists'.mp (hcore r hmem hst)
      rw [Dev.withdrawBegun_of_some hl hc]
      have hqueue := d.queue_withdrawRun x q c r
      refine ih ?_ fun y hy => ?_
      · have hshort : ((d.queue (queueKey x q)).runs.filter (fun y => y.pos != d.lastPos x q)).length <
            (d.queue (queueKey x q)).runs.length := List.length_filter_lt_length_iff_exists.mpr ⟨r, hmem, by simp [hpos]⟩
        rw [hqueue]
        exact Nat.le_of_lt_succ (Nat.lt_of_lt_of_le hshort hlen)
      · rw [hqueue] at hy
        exact hcore y (List.mem_filter.mp hy).1

/-! ### HELD, and what follows it (R193) -/

/-- The writes of a queue's save area (R193). -/
def Dev.saveReqs (d : Dev) (x q : Nat) : List Req :=
  (lineParts (d.qBase x q 0x118) (d.saveArea x q) ((d.saveArea x q).length + 1)).map
    (fun l => { Req.blank with cli := .save x q, op := .wr, addr := l.1, mask := l.2.1, data := l.2.2, part := d.qPart x q,
                               quad := x / 2, tc := 0, scope := 3 })

/-- The queue is off: its slots are free, and nothing is left to follow. -/
def Dev.switchedOff (d : Dev) (x q saved : Nat) : Dev :=
  (((d.releaseSlots x q).setQState x q 0).set (pImp x) fIMP_QSTAT_SAVED q saved).modQueue (queueKey x q) (fun y => { y with after := 0 })

section
variable {d : Dev} {x q : Nat}

theorem Dev.afterHeld_of_hold (h : (d.queue (queueKey x q)).after = 0) : d.afterHeld x q = d := by
  unfold Dev.afterHeld; rw [h]; rfl

theorem Dev.afterHeld_of_preempt (h : (d.queue (queueKey x q)).after = 1) :
    d.afterHeld x q = (d.setQState x q 4).issueAll (d.saveReqs x q) := by
  unfold Dev.afterHeld; rw [h]; rfl

theorem Dev.afterHeld_of_disable (h : (d.queue (queueKey x q)).after = 2) : d.afterHeld x q = (d.switchedOff x q 0).ledger x := by
  unfold Dev.afterHeld; rw [h]; rfl

/-- While a run has begun and not ended the queue is not HELD. -/
theorem Dev.testHeld_of_begun (h : d.qBegun x q ≠ 0) : d.testHeld x q = d := if_neg fun hh => h hh.2

end

/-- A queue on HOLD is HELD once no run has begun and not ended; nothing follows. -/
theorem Dev.testHeld_cases {d : Dev} {x q : Nat} (hst : d.qState x q = 2) (hafter : (d.queue (queueKey x q)).after = 0) :
    d.qBegun x q = 0 ∧ d.testHeld x q = d.setQState x q 3 ∨ d.qBegun x q ≠ 0 ∧ d.testHeld x q = d := by
  by_cases h : d.qBegun x q = 0
  · exact .inl ⟨h, (if_pos ⟨hst, h⟩).trans (Dev.afterHeld_of_hold (d := d.setQState x q 3) hafter)⟩
  · exact .inr ⟨h, Dev.testHeld_of_begun h⟩

theorem Dev.testHeld_spec {d : Dev} {x : Die} {q : Nat} (hq : q < 64) (hst : d.qState x.val q = 2)
    (hafter : (d.queue (queueKey x.val q)).after = 0) :
    d.OnlyJobs (d.testHeld x.val q) ∧ Safety.wordsKept d (d.testHeld x.val q) [(.imp x, 0x12C, q)] ∧
      (d.testHeld x.val q).qState x.val q = (if (d.testHeld x.val q).qBegun x.val q = 0 then 3 else 2) ∧
      (d.testHeld x.val q).qBegun x.val q = d.qBegun x.val q ∧
      (d.testHeld x.val q).get (pImp x.val) fIMP_QSTAT_ERR q = d.get (pImp x.val) fIMP_QSTAT_ERR q ∧
      (d.testHeld x.val q).queues = d.queues := by
  rcases Dev.testHeld_cases hst hafter with ⟨hb, h⟩ | ⟨hb, h⟩ <;> rw [h]
  · rw [Dev.qBegun_setQState, if_pos hb, Dev.qState_setQState _ _ _ (by decide), Dev.err_setQState]
    exact ⟨Dev.onlyJobs_set _ _ _ _ _, wordsKept_setQState 3 (Safety.wordsKept_refl _ _) (List.mem_singleton_self _) hq, rfl, rfl, rfl, rfl⟩
  · rw [if_neg hb]
    exact ⟨.refl _, Safety.wordsKept_refl _ _, hst, rfl, rfl, rfl⟩

/-! ### Slots are released -/

theorem NMap.get_filter {β : Type} {P : β → Bool} (m : NMap β) {k : Nat} {d v : β} (h : NMap.get (m.filter (fun e => P e.2)) k d = v)
    (hv : v ≠ d) : P v = true := by
  have hmem := NMap.mem_of_get h hv
  exact (List.mem_filter.mp hmem).2

/-- A core of the C-die keeps only the bindings of other queues. -/
theorem Dev.core_releaseSlots (d : Dev) (q : Nat) (c : CoreId) : ((d.releaseSlots c.die.val q).core c) = { d.core c with
    binds := (d.core c).binds.filter (fun e => match e.2 with | some b => b.q != q | none => false) } := by
  have hkey : coreKey c / 1024 = c.die.val := by
    have hrow := c.row.isLt
    have hcol := c.col.isLt
    unfold coreKey
    omega
  show NMap.get (NMap.update d.cores Core.init _) (coreKey c) Core.init = _
  rw [NMap.get_update _ _ _ (fun k => by split <;> rfl), if_pos hkey]
  rfl

theorem Dev.slotOf_releaseSlots (d : Dev) (q : Nat) (c : CoreId) : (d.releaseSlots c.die.val q).slotOf c q = none := by
  refine List.find?_eq_none.mpr fun sl _ => ?_
  cases hb : ((d.releaseSlots c.die.val q).core c).bind sl with
  | none => exact Bool.false_ne_true
  | some b =>
    rw [Dev.core_releaseSlots] at hb
    have hother := NMap.get_filter (P := fun y : Option Bind => match y with | some b => b.q != q | none => false) _ hb (by simp)
    simpa using hother

theorem Dev.slotOf_congr {d e : Dev} (h : e.cores = d.cores) (c : CoreId) (q : Nat) : e.slotOf c q = d.slotOf c q := by
  unfold Dev.slotOf Dev.core; rw [h]

theorem Dev.switchedOff_spec (d : Dev) (x : Die) {q saved : Nat} (hq : q < 64) (hs : saved < 2) :
    (d.switchedOff x.val q saved).qState x.val q = 0 ∧ (d.switchedOff x.val q saved).get (.imp x) fIMP_QSTAT_SAVED q = saved ∧
      (d.switchedOff x.val q saved).get (pImp x.val) fIMP_QSTAT_ERR q = d.get (pImp x.val) fIMP_QSTAT_ERR q ∧
      (∀ c, c.die = x → (d.switchedOff x.val q saved).slotOf c q = none) ∧
      d.OnlyJobs (d.switchedOff x.val q saved) ∧ (d.switchedOff x.val q saved).reqs = d.reqs ∧
      Safety.wordsKept d (d.switchedOff x.val q saved) [(.imp x, 0x12C, q)] := by
  have hfree : d.OnlyJobs (d.releaseSlots x.val q) := rfl
  have hregs : (d.releaseSlots x.val q).regs = d.regs := rfl
  have hreqs : (d.releaseSlots x.val q).reqs = d.reqs := rfl
  have hslots (c : CoreId) (hc : c.die = x) : (d.releaseSlots x.val q).slotOf c q = none := hc ▸ d.slotOf_releaseSlots q c
  unfold Dev.switchedOff
  generalize d.releaseSlots x.val q = f at hfree hregs hreqs hslots ⊢
  have hend := Dev.modQueue_regs ((f.setQState x.val q 0).set (pImp x.val) fIMP_QSTAT_SAVED q saved) (queueKey x.val q)
    (fun y => { y with after := 0 })
  have herr : f.get (pImp x.val) fIMP_QSTAT_ERR q = d.get (pImp x.val) fIMP_QSTAT_ERR q := Dev.get_congr hregs _ _ _
  refine ⟨?_, ?_, ?_, fun c hc => ?_, ?_, hreqs, ?_⟩
  · rw [Dev.qState_congr hend, Dev.qState_setSaved, Dev.qState_setQState _ _ _ (by decide)]
  · rw [Dev.get_congr hend, ← pImp_val x, Dev.get_set _ _ _ _ _ (by decide) (by decide)]
    exact Nat.mod_eq_of_lt hs
  · rw [Dev.get_congr hend, Dev.err_setSaved, Dev.err_setQState, herr]
  · rw [← hslots c hc]
    exact Dev.slotOf_congr rfl c q
  · exact ((hfree.trans (Dev.onlyJobs_set _ _ _ _ _)).trans (Dev.onlyJobs_set _ _ _ _ _)).trans (Dev.onlyJobs_modQueue _ _ _)
  · have hoff : Safety.wordsKept d (f.setQState x.val q 0) [(.imp x, 0x12C, q)] :=
      wordsKept_setQState 0 (Safety.wordsKept_of_regs _ hregs) (List.mem_singleton_self _) hq
    exact Safety.wordsKept_trans (wordsKept_setImp saved hoff rfl (List.mem_singleton_self _) (by decide) (by decide) (by omega))
      (Safety.wordsKept_of_regs _ hend)

/-! ### What the save area is made of -/

section
variable {d e : Dev} {x : Die} {q : Nat} (hkept : Safety.wordsKept d e [(.imp x, 0x12C, q)]) (hq : q < 64)
include hkept hq

/-- The configuration of a queue does not lie in IMP_QSTAT. -/
theorem Dev.get_impCfg {f : FieldDef} (hf : f.off ≠ 0x12C) (ha : f.off % 4 = 0) (hl : f.off < 4096) :
    e.get (pImp x.val) f q = d.get (pImp x.val) f q := by
  rw [pImp_val]
  exact get_of_wordsKept hkept (by simp [hf]) ha hl (by omega)

theorem Dev.qBase_congr {off : Nat} (h1 : off ≠ 0x12C) (h2 : off + 4 ≠ 0x12C) (ha : off % 4 = 0) (hl : off + 4 < 4096) :
    e.qBase x.val q off = d.qBase x.val q off := by
  unfold Dev.qBase Dev.get64
  rw [pImp_val, hkept _ off q ha (by omega) (by omega) (by simp [h1]), hkept _ (off + 4) q (by omega) hl (by omega) (by simp [h2])]

theorem Dev.targetCores_congr (hb : e.boot = d.boot) : e.targetCores x.val q = d.targetCores x.val q := by
  have hcol : e.coreOfLid = d.coreOfLid := by unfold Dev.coreOfLid Dev.logCol Dev.defective; rw [hb]
  have hset (f : FieldDef) (hf : f.off = 0x120) : e.get (pImp x.val) f q = d.get (pImp x.val) f q :=
    Dev.get_impCfg hkept hq (by rw [hf]; decide) (by rw [hf]) (by rw [hf]; decide)
  unfold Dev.targetCores Dev.targetSet
  dsimp only
  rw [hcol, hset fIMP_QSET_ROWLO rfl, hset fIMP_QSET_ROWHI rfl, hset fIMP_QSET_COLLO rfl, hset fIMP_QSET_COLHI rfl]

/-- The save area depends on the queue's configuration, the floor plan and the cores alone. -/
theorem Dev.saveReqs_congr (hb : e.boot = d.boot) (hc : e.cores = d.cores) : e.saveReqs x.val q = d.saveReqs x.val q := by
  have hslot : e.slotOf = d.slotOf := by funext c k; exact Dev.slotOf_congr hc c k
  have htok : e.headTok = d.headTok := by unfold Dev.headTok Dev.core; rw [hc]
  have htag : e.qTag x.val q = d.qTag x.val q := Dev.get_impCfg hkept hq (by decide) rfl (by decide)
  have hpart : e.qPart x.val q = d.qPart x.val q := Dev.get_impCfg hkept hq (by decide) rfl (by decide)
  unfold Dev.saveReqs Dev.saveArea
  rw [Dev.qBase_congr hkept hq (by decide) (by decide) rfl (by decide), Dev.targetCores_congr hkept hq hb, hslot, htok, htag, hpart]

end

/-! ### HOLD (R191, R192) -/

theorem Dev.queue_congr {d e : Dev} (h : e.queues = d.queues) (k : Nat) : e.queue k = d.queue k := by unfold Dev.queue; rw [h]

/-- The queue on HOLD, its runs that have not begun withdrawn. -/
def Dev.onHold (d : Dev) (x q : Nat) : Dev := (d.setQState x q 2).withdraw x q

theorem Dev.holdQueue_of_plain (d : Dev) (x q : Nat) : d.holdQueue x q false = (d.onHold x q).testHeld x q := by
  unfold Dev.holdQueue Dev.onHold
  dsimp only
  rw [if_neg Bool.false_ne_true]

theorem Dev.onHold_spec (d : Dev) (x : Die) {q : Nat} (hq : q < 64) :
    d.OnlyJobs (d.onHold x.val q) ∧ Safety.wordsKept d (d.onHold x.val q) [(.imp x, 0x12C, q)] ∧ (d.onHold x.val q).qState x.val q = 2 ∧
      (d.onHold x.val q).qBegun x.val q = d.qBegun x.val q ∧
      (d.onHold x.val q).get (pImp x.val) fIMP_QSTAT_ERR q = d.get (pImp x.val) fIMP_QSTAT_ERR q ∧
      (d.onHold x.val q).queue (queueKey x.val q) = { d.queue (queueKey x.val q) with
        runs := (d.queue (queueKey x.val q)).runs.filter (fun r => r.stage == .begun || r.stage == .ended) } := by
  have hregs : (d.onHold x.val q).regs = (d.setQState x.val q 2).regs := Dev.regs_withdraw _ _ _
  refine ⟨(Dev.onlyJobs_set _ _ _ _ _).trans (Dev.onlyJobs_withdraw _ _ _), ?_, ?_, ?_, ?_, ?_⟩
  · exact Safety.wordsKept_trans (wordsKept_setQState 2 (Safety.wordsKept_refl _ _) (List.mem_singleton_self _) hq)
      (Safety.wordsKept_of_regs _ hregs)
  · rw [Dev.qState_congr hregs, Dev.qState_setQState _ _ _ (by decide)]
  · rw [Dev.qBegun_congr hregs, Dev.qBegun_setQState]
  · rw [Dev.get_congr hregs, Dev.err_setQState]
  · rw [Dev.onHold, Dev.queue_withdraw]
    rfl

theorem stage_of_mem_onHold {d : Dev} {x : Die} {q : Nat} (hq : q < 64) {r : Run} (h : r ∈ ((d.onHold x.val q).queue (queueKey x.val q)).runs) :
    r ∈ (d.queue (queueKey x.val q)).runs ∧ (r.stage = .begun ∨ r.stage = .ended) := by
  obtain ⟨-, -, -, -, -, hqueue⟩ := d.onHold_spec x hq
  rw [hqueue] at h
  obtain ⟨hmem, hst⟩ := List.mem_filter.mp h
  exact ⟨hmem, by simpa using hst⟩

/-- The queue on an urgent HOLD, begun runs withdrawn as well. -/
def Dev.onUrgentHold (d : Dev) (x q : Nat) : Dev := (d.onHold x q).withdrawBegun x q 1024

theorem Dev.holdQueue_of_urgent (d : Dev) (x q : Nat) : d.holdQueue x q true = (d.onUrgentHold x q).testHeld x q := by
  unfold Dev.holdQueue Dev.onUrgentHold Dev.onHold
  dsimp only
  rw [if_pos rfl]

theorem Dev.lessBegun_onUrgentHold (d : Dev) (x : Die) {q : Nat} (hq : q < 64) : (d.onHold x.val q).LessBegun x q (d.onUrgentHold x.val q) :=
  (d.onHold x.val q).lessBegun_withdrawBegun x hq 1024

section
variable {d : Dev} {x : Die} {q : Nat} (hq : q < 64)
include hq

/-- Runs that are over or have made an outbound write stay, where every run has a position of its own. -/
theorem mem_onUrgentHold (hpos : ((d.queue (queueKey x.val q)).runs.map (fun r => r.pos)).Nodup) {r : Run}
    (hr : r ∈ (d.queue (queueKey x.val q)).runs) (hstay : r.stage = .ended ∨ r.stage = .begun ∧ r.outbound = true) :
    r ∈ ((d.onUrgentHold x.val q).queue (queueKey x.val q)).runs := by
  obtain ⟨-, -, -, -, -, hqueue⟩ := d.onHold_spec x hq
  refine Dev.mem_withdrawBegun 1024 ?_ ?_ hstay
  · rw [hqueue]; exact hpos.sublist (List.filter_sublist.map _)
  · rw [hqueue]
    refine List.mem_filter.mpr ⟨hr, ?_⟩
    rcases hstay with h | ⟨h, -⟩ <;> rw [h] <;> decide

/-- No begun run before RP that has made no outbound write is left. -/
theorem lastBegun_onUrgentHold (hlen : (d.queue (queueKey x.val q)).runs.length ≤ 1024)
    (hcore : ∀ r ∈ (d.queue (queueKey x.val q)).runs, r.stage = .begun → r.core ≠ none) :
    (d.onUrgentHold x.val q).lastBegun x.val q = none := by
  obtain ⟨-, -, -, -, -, hqueue⟩ := d.onHold_spec x hq
  refine Dev.lastBegun_withdrawBegun 1024 ?_ fun r hr => hcore r (stage_of_mem_onHold hq hr).1
  rw [hqueue]
  exact Nat.le_trans (List.length_filter_le _ _) hlen

end

theorem outbound_of_lastBegun {d : Dev} {x q : Nat} (h : d.lastBegun x q = none) {r : Run} (hr : r ∈ (d.queue (queueKey x q)).runs)
    (hpos : r.pos = d.lastPos x q) (hst : r.stage = .begun) : r.outbound = true := by
  have hno := List.find?_eq_none.mp h r hr
  rw [hpos, hst, beq_self_eq_true] at hno
  simpa using hno

section
variable {d : Dev} {x q : Nat} (host : List Byte) (ans : Answer) (hsel : d.get (pImp x) fIMP_QSEL_Q 0 = q)
include hsel

/-- HOLD, urgent or not, of a queue that runs. -/
theorem qCmd_hold (hst : d.qState x q = 1) : qCmd d x 0x04 host ans = (d.qErr x q 0).holdQueue x q false ∧
    qCmd d x 0x0C host ans = (d.qErr x q 0).holdQueue x q true := by
  subst hsel
  exact ⟨if_pos hst, if_pos hst⟩

/-- UNHOLD of a queue that is HOLDING or HELD. -/
theorem qCmd_unhold (hst : d.qState x q = 2 ∨ d.qState x q = 3) : qCmd d x 0x10 host ans =
    (((d.qErr x q 0).setQState x q 1).modQueue (queueKey x q) (fun y => { y with after := 0 })).heldByQreq x q := by
  subst hsel
  exact if_pos hst

/-- PREEMPT and DISABLE, urgent or not, of a queue that runs, is HOLDING or HELD. -/
theorem qCmd_end (hst : d.qState x q = 1 ∨ d.qState x q = 2 ∨ d.qState x q = 3) :
    qCmd d x 0x20 host ans = (d.qErr x q 0).endQueue x q 1 false ∧ qCmd d x 0x28 host ans = (d.qErr x q 0).endQueue x q 1 true ∧
    qCmd d x 0x40 host ans = (d.qErr x q 0).endQueue x q 2 false ∧ qCmd d x 0x48 host ans = (d.qErr x q 0).endQueue x q 2 true := by
  subst hsel
  exact ⟨if_pos hst, if_pos hst, if_pos hst, if_pos hst⟩

end

section
variable {via : Via} {x : Die} {q : Nat} {s : State} (hw : s.dev.writable via (pImp x.val) = true)
  (hsel : s.dev.get (.imp x) fIMP_QSEL_Q 0 = q)
include hw hsel

/-- HOLD of a running queue withdraws the runs that have not begun. -/
theorem hold_spec (hst : s.dev.qState x.val q = 1) (hafter : (s.dev.queue (queueKey x.val q)).after = 0) :
    ∃ d, exec (.hold via x) s = .next { s with dev := d } ∧
      d.qState x.val q = (if s.dev.qBegun x.val q = 0 then 3 else 2) ∧ d.get (.imp x) fIMP_QSTAT_ERR q = 0 ∧
      (d.queue (queueKey x.val q)).runs =
        (s.dev.queue (queueKey x.val q)).runs.filter (fun r => r.stage == .begun || r.stage == .ended) ∧
      d = { s.dev with regs := d.regs, cores := d.cores, queues := d.queues, reqs := d.reqs } ∧
      Safety.wordsKept s.dev d [(.imp x, 0x12C, q)] := by
  have hq := lt_of_qsel hsel
  have hcode := s.dev.err_qErr x.val q (v := 0) (by decide)
  have hfirst : Safety.wordsKept s.dev (s.dev.qErr x.val q 0) [(.imp x, 0x12C, q)] :=
    wordsKept_qErr 0 (Safety.wordsKept_refl _ _) (List.mem_singleton_self _) hq
  obtain ⟨hjobs, hkept, hon, hbegun, herr, hqueue⟩ := (s.dev.qErr x.val q 0).onHold_spec x hq
  obtain ⟨tjobs, tkept, tst, tbegun, terr, tqueues⟩ := Dev.testHeld_spec hq hon (by rw [hqueue]; exact hafter)
  refine ⟨((s.dev.qErr x.val q 0).onHold x.val q).testHeld x.val q, ?_, ?_, ?_, ?_,
    ((Dev.onlyJobs_set _ _ _ _ _).trans hjobs).trans tjobs, Safety.wordsKept_trans (Safety.wordsKept_trans hfirst hkept) tkept⟩
  · rw [← Dev.holdQueue_of_plain, ← (qCmd_hold [] .ok ((pImp_val x).symm ▸ hsel) hst).1]
    exact qCmdVia_of_writable hw 0x04 [] .ok
  · rw [tst, tbegun, hbegun, Dev.qBegun_qErr]
  · rw [← pImp_val x, terr, herr, hcode]
  · rw [Dev.queue_congr tqueues, hqueue]
    rfl

/-- An urgent HOLD also withdraws begun runs, the last before RP first, up to one that has made an outbound write. -/
theorem holdUrgent_spec (hst : s.dev.qState x.val q = 1) (hafter : (s.dev.queue (queueKey x.val q)).after = 0) :
    ∃ d, exec (.holdUrgent via x) s = .next { s with dev := d } ∧
      d.qState x.val q = (if d.qBegun x.val q = 0 then 3 else 2) ∧ d.get (.imp x) fIMP_QSTAT_ERR q = 0 ∧
      (∀ r ∈ (d.queue (queueKey x.val q)).runs, r ∈ (s.dev.queue (queueKey x.val q)).runs ∧ (r.stage = .begun ∨ r.stage = .ended)) ∧
      (((s.dev.queue (queueKey x.val q)).runs.map (fun r => r.pos)).Nodup → (s.dev.queue (queueKey x.val q)).runs.length ≤ 1024 →
        (∀ r ∈ (s.dev.queue (queueKey x.val q)).runs, r.stage = .begun → r.core ≠ none) →
        (∀ r ∈ (s.dev.queue (queueKey x.val q)).runs, (r.stage = .ended ∨ r.stage = .begun ∧ r.outbound = true) →
          r ∈ (d.queue (queueKey x.val q)).runs) ∧
        ∀ r ∈ (d.queue (queueKey x.val q)).runs, r.pos = (d.qRp x.val q + 2 ^ 32 - 1) % 2 ^ 32 → r.stage = .begun →
          r.outbound = true) ∧
      d = { s.dev with regs := d.regs, cores := d.cores, queues := d.queues, reqs := d.reqs } ∧
      Safety.wordsKept s.dev d [(.imp x, 0x12C, q), (.imp x, 0x124, q)] := by
  have hq := lt_of_qsel hsel
  have hcode := s.dev.err_qErr x.val q (v := 0) (by decide)
  have hfirst : Safety.wordsKept s.dev (s.dev.qErr x.val q 0) [(.imp x, 0x12C, q)] :=
    wordsKept_qErr 0 (Safety.wordsKept_refl _ _) (List.mem_singleton_self _) hq
  obtain ⟨hjobs, hkept, hon, -, herr, hqueue⟩ := (s.dev.qErr x.val q 0).onHold_spec x hq
  obtain ⟨wjobs, wkept, wst, werr, wafter, wruns⟩ := (s.dev.qErr x.val q 0).lessBegun_onUrgentHold x hq
  obtain ⟨tjobs, tkept, tst, -, terr, tqueues⟩ := Dev.testHeld_spec hq (wst.trans hon) (by rw [wafter, hqueue]; exact hafter)
  have hmono : ∀ y ∈ [(Page.imp x, 0x12C, q)], y ∈ [(Page.imp x, 0x12C, q), (Page.imp x, 0x124, q)] := fun y hy => by
    rw [List.mem_singleton.mp hy]; exact List.mem_cons_self
  refine ⟨((s.dev.qErr x.val q 0).onUrgentHold x.val q).testHeld x.val q, ?_, tst, ?_, fun r hr => ?_,
    fun hnodup hlen hcore => ⟨fun r hr hstay => ?_, fun r hr hpos hbegun => ?_⟩,
    (((Dev.onlyJobs_set _ _ _ _ _).trans hjobs).trans wjobs).trans tjobs, ?_⟩
  · rw [← Dev.holdQueue_of_urgent, ← (qCmd_hold [] .ok ((pImp_val x).symm ▸ hsel) hst).2]
    exact qCmdVia_of_writable hw 0x0C [] .ok
  · rw [← pImp_val x, terr, werr, herr, hcode]
  · rw [Dev.queue_congr tqueues] at hr
    exact stage_of_mem_onHold (d := s.dev.qErr x.val q 0) hq (wruns r hr)
  · rw [Dev.queue_congr tqueues]
    exact mem_onUrgentHold (d := s.dev.qErr x.val q 0) hq hnodup hr hstay
  · have hrp : (((s.dev.qErr x.val q 0).onUrgentHold x.val q).testHeld x.val q).qRp x.val q =
        ((s.dev.qErr x.val q 0).onUrgentHold x.val q).qRp x.val q := Dev.get_impCfg tkept hq (by decide) rfl (by decide)
    rw [Dev.queue_congr tqueues] at hr
    rw [hrp] at hpos
    exact outbound_of_lastBegun (lastBegun_onUrgentHold (d := s.dev.qErr x.val q 0) hq hlen hcore) hr hpos hbegun
  · exact Safety.wordsKept_trans (Safety.wordsKept_mono (Safety.wordsKept_trans hfirst hkept) hmono)
      (Safety.wordsKept_trans wkept (Safety.wordsKept_mono tkept hmono))

/-- UNHOLD runs the queue again, or holds it again while the page's QREQ is 1. -/
theorem unhold_spec (hst : s.dev.qState x.val q = 2 ∨ s.dev.qState x.val q = 3) :
    ∃ d, exec (.unhold via x) s =
        .next { s with dev := if s.dev.on (pImp x.val) fBLK_CTL_QREQ 0 then d.holdQueue x.val q true else d } ∧ d.qState x.val q = 1 ∧
      d.get (.imp x) fIMP_QSTAT_ERR q = 0 ∧ (d.queue (queueKey x.val q)).after = 0 ∧
      (d.queue (queueKey x.val q)).runs = (s.dev.queue (queueKey x.val q)).runs ∧
      d = { s.dev with regs := d.regs, queues := d.queues } ∧ Safety.wordsKept s.dev d [(.imp x, 0x12C, q)] := by
  have hq := lt_of_qsel hsel
  have hend := Dev.modQueue_regs ((s.dev.qErr x.val q 0).setQState x.val q 1) (queueKey x.val q) (fun y => { y with after := 0 })
  have hqueue := Dev.queue_modQueue_same ((s.dev.qErr x.val q 0).setQState x.val q 1) (queueKey x.val q) (fun y => { y with after := 0 })
  have hrun := (Dev.qState_congr hend x.val q).trans (Dev.qState_setQState _ _ _ (by decide))
  have hkept : Safety.wordsKept s.dev ((s.dev.qErr x.val q 0).setQState x.val q 1) [(.imp x, 0x12C, q)] :=
    wordsKept_setQState 1 (wordsKept_qErr 0 (Safety.wordsKept_refl _ _) (List.mem_singleton_self _) hq) (List.mem_singleton_self _) hq
  have hjobs : s.dev.OnlyJobs ((s.dev.qErr x.val q 0).setQState x.val q 1) := (Dev.onlyJobs_set _ _ _ _ _).trans (Dev.onlyJobs_set _ _ _ _ _)
  refine ⟨_, ?_, hrun, ?_, congrArg Queue.after hqueue, by rw [hqueue]; rfl,
    (hjobs.trans (Dev.onlyJobs_modQueue _ _ _)).regs_queues rfl rfl, Safety.wordsKept_trans hkept (Safety.wordsKept_of_regs _ hend)⟩
  · rw [← Dev.heldByQreq_of_run (Safety.wordsKept_trans hkept (Safety.wordsKept_of_regs _ hend)) hrun,
      ← qCmd_unhold [] .ok ((pImp_val x).symm ▸ hsel) hst]
    exact qCmdVia_of_writable hw 0x10 [] .ok
  · rw [Dev.get_congr hend, ← pImp_val x, Dev.err_setQState, Dev.err_qErr _ _ _ (by decide)]

end

/-! ### DISABLE and PREEMPT (R193, R194, R289) -/

/-- The queue once it has been told what follows HELD. -/
def Dev.ending (d : Dev) (x q after : Nat) : Dev := (d.qErr x q 0).modQueue (queueKey x q) (fun y => { y with after := after })

theorem Dev.ending_spec (d : Dev) (x : Die) {q : Nat} (after : Nat) (hq : q < 64) :
    d.OnlyJobs (d.ending x.val q after) ∧ Safety.wordsKept d (d.ending x.val q after) [(.imp x, 0x12C, q)] ∧
      (d.ending x.val q after).qState x.val q = d.qState x.val q ∧ (d.ending x.val q after).qBegun x.val q = d.qBegun x.val q ∧
      (d.ending x.val q after).get (pImp x.val) fIMP_QSTAT_ERR q = 0 ∧
      (d.ending x.val q after).queue (queueKey x.val q) = { d.queue (queueKey x.val q) with after := after } := by
  have hend : (d.ending x.val q after).regs = (d.qErr x.val q 0).regs := Dev.modQueue_regs _ _ _
  refine ⟨(Dev.onlyJobs_set _ _ _ _ _).trans (Dev.onlyJobs_modQueue _ _ _), ?_, ?_, ?_, ?_, Dev.queue_modQueue_same _ _ _⟩
  · exact Safety.wordsKept_trans (wordsKept_qErr 0 (Safety.wordsKept_refl _ _) (List.mem_singleton_self _) hq)
      (Safety.wordsKept_of_regs _ hend)
  · rw [Dev.qState_congr hend, Dev.qState_qErr]
  · rw [Dev.qBegun_congr hend, Dev.qBegun_qErr]
  · rw [Dev.get_congr hend, Dev.err_qErr _ _ _ (by decide)]

theorem Dev.endQueue_of_held {d : Dev} {x : Die} {q : Nat} (after : Nat) (urgent : Bool) (hq : q < 64) (h : d.qState x.val q = 3) :
    (d.qErr x.val q 0).endQueue x.val q after urgent = (d.ending x.val q after).afterHeld x.val q := by
  obtain ⟨-, -, hsame, -⟩ := d.ending_spec x after hq
  exact if_pos (hsame.trans h)

theorem Dev.endQueue_of_on {d : Dev} {x : Die} {q : Nat} (after : Nat) (urgent : Bool) (hq : q < 64)
    (h : d.qState x.val q = 1 ∨ d.qState x.val q = 2) :
    (d.qErr x.val q 0).endQueue x.val q after urgent = (d.ending x.val q after).holdQueue x.val q urgent := by
  obtain ⟨-, -, hsame, -⟩ := d.ending_spec x after hq
  exact if_neg fun h3 => by have := hsame.symm.trans h3; omega

section
variable {via : Via} {x : Die} {q : Nat} {s : State} (hw : s.dev.writable via (pImp x.val) = true)
  (hsel : s.dev.get (.imp x) fIMP_QSEL_Q 0 = q)
include hw hsel

theorem exec_disable (hst : s.dev.qState x.val q = 1 ∨ s.dev.qState x.val q = 2 ∨ s.dev.qState x.val q = 3) (urgent : Bool) :
    exec (if urgent then .disableUrgent via x else .disable via x) s =
      .next { s with dev := (s.dev.qErr x.val q 0).endQueue x.val q 2 urgent } := by
  obtain ⟨-, -, hplain, hurgent⟩ := qCmd_end [] .ok ((pImp_val x).symm ▸ hsel) hst
  cases urgent with
  | false => rw [← hplain]; exact qCmdVia_of_writable hw 0x40 [] .ok
  | true => rw [← hurgent]; exact qCmdVia_of_writable hw 0x48 [] .ok

theorem exec_preempt (hst : s.dev.qState x.val q = 1 ∨ s.dev.qState x.val q = 2 ∨ s.dev.qState x.val q = 3) (urgent : Bool) :
    exec (if urgent then .preemptUrgent via x else .preempt via x) s =
      .next { s with dev := (s.dev.qErr x.val q 0).endQueue x.val q 1 urgent } := by
  obtain ⟨hplain, hurgent, -, -⟩ := qCmd_end [] .ok ((pImp_val x).symm ▸ hsel) hst
  cases urgent with
  | false => rw [← hplain]; exact qCmdVia_of_writable hw 0x20 [] .ok
  | true => rw [← hurgent]; exact qCmdVia_of_writable hw 0x28 [] .ok

/-- DISABLE and PREEMPT of a queue that runs or is HOLDING hold it, and what follows HELD is noted. -/
theorem exec_disable_on (hst : s.dev.qState x.val q = 1 ∨ s.dev.qState x.val q = 2) (urgent : Bool) :
    exec (if urgent then .disableUrgent via x else .disable via x) s =
      .next { s with dev := (s.dev.ending x.val q 2).holdQueue x.val q urgent } := by
  rw [← Dev.endQueue_of_on 2 urgent (lt_of_qsel hsel) hst]
  exact exec_disable hw hsel (by omega) urgent

theorem exec_preempt_on (hst : s.dev.qState x.val q = 1 ∨ s.dev.qState x.val q = 2) (urgent : Bool) :
    exec (if urgent then .preemptUrgent via x else .preempt via x) s =
      .next { s with dev := (s.dev.ending x.val q 1).holdQueue x.val q urgent } := by
  rw [← Dev.endQueue_of_on 1 urgent (lt_of_qsel hsel) hst]
  exact exec_preempt hw hsel (by omega) urgent

/-- DISABLE of a HELD queue releases every slot and switches it off. -/
theorem disable_held (hst : s.dev.qState x.val q = 3) (urgent : Bool) :
    ∃ d, exec (if urgent then .disableUrgent via x else .disable via x) s = .next { s with dev := d.ledger x.val } ∧
      d.qState x.val q = 0 ∧ d.get (.imp x) fIMP_QSTAT_SAVED q = 0 ∧ d.get (.imp x) fIMP_QSTAT_ERR q = 0 ∧
      (∀ c, c.die = x → d.slotOf c q = none) ∧
      d = { s.dev with regs := d.regs, cores := d.cores, queues := d.queues } ∧ Safety.wordsKept s.dev d [(.imp x, 0x12C, q)] := by
  have hq := lt_of_qsel hsel
  obtain ⟨hjobs, hkept, -, -, herr, hqueue⟩ := s.dev.ending_spec x 2 hq
  have hreqs : (s.dev.ending x.val q 2).reqs = s.dev.reqs := rfl
  obtain ⟨hoff, hsaved, hcode, hslots, ojobs, oreqs, okept⟩ := (s.dev.ending x.val q 2).switchedOff_spec x (saved := 0) hq (by decide)
  refine ⟨_, ?_, hoff, hsaved, ?_, hslots, (hjobs.trans ojobs).regs_cores_queues (oreqs.trans hreqs), Safety.wordsKept_trans hkept okept⟩
  · rw [exec_disable hw hsel (.inr (.inr hst)) urgent, Dev.endQueue_of_held 2 urgent hq hst,
      Dev.afterHeld_of_disable (congrArg Queue.after hqueue)]
  · rw [← pImp_val x, hcode, herr]

/-- PREEMPT of a HELD queue writes its save area in the state SAVING. -/
theorem preempt_held (hst : s.dev.qState x.val q = 3) (urgent : Bool) :
    ∃ d, exec (if urgent then .preemptUrgent via x else .preempt via x) s = .next { s with dev := d } ∧ Safety.memoryKept s.dev d ∧
      ∃ e, e.qState x.val q = 4 ∧ e.get (.imp x) fIMP_QSTAT_ERR q = 0 ∧
        e = { s.dev with regs := e.regs, queues := e.queues } ∧ Safety.wordsKept s.dev e [(.imp x, 0x12C, q)] ∧
        d = e.issueAll (s.dev.saveReqs x.val q) := by
  have hq := lt_of_qsel hsel
  obtain ⟨hjobs, hkept, -, -, herr, hqueue⟩ := s.dev.ending_spec x 1 hq
  have hcores : (s.dev.ending x.val q 1).cores = s.dev.cores := rfl
  have hreqs : (s.dev.ending x.val q 1).reqs = s.dev.reqs := rfl
  have hsave := Dev.saveReqs_congr hkept hq rfl hcores
  have hexec := exec_preempt hw hsel (.inr (.inr hst)) urgent
  rw [Dev.endQueue_of_held 1 urgent hq hst, Dev.afterHeld_of_preempt (congrArg Queue.after hqueue), hsave] at hexec
  refine ⟨_, hexec, Safety.memoryKept_of_mem_eq (Dev.issueAll_mem _ _), _, Dev.qState_setQState _ _ _ (by decide), ?_,
    (hjobs.trans (Dev.onlyJobs_set _ _ _ _ _)).regs_queues hcores hreqs, wordsKept_setQState 4 hkept (List.mem_singleton_self _) hq, rfl⟩
  rw [← pImp_val x, Dev.err_setQState, herr]

omit hw in
/-- A queue with begun runs waits in HOLDING for what follows. -/
theorem ending_waits (hbegun : s.dev.qBegun x.val q ≠ 0) (after : Nat) :
    ((s.dev.ending x.val q after).holdQueue x.val q false).qState x.val q = 2 ∧
      (((s.dev.ending x.val q after).holdQueue x.val q false).queue (queueKey x.val q)).after = after ∧
      (∀ r ∈ (((s.dev.ending x.val q after).holdQueue x.val q false).queue (queueKey x.val q)).runs, r.stage = .begun ∨ r.stage = .ended) ∧
      s.dev.OnlyJobs ((s.dev.ending x.val q after).holdQueue x.val q false) ∧
      Safety.wordsKept s.dev ((s.dev.ending x.val q after).holdQueue x.val q false) [(.imp x, 0x12C, q)] := by
  have hq := lt_of_qsel hsel
  obtain ⟨hjobs, hkept, -, hcount, -, hqueue⟩ := s.dev.ending_spec x after hq
  obtain ⟨ojobs, okept, ost, ocount, -, oqueue⟩ := (s.dev.ending x.val q after).onHold_spec x hq
  rw [Dev.holdQueue_of_plain, Dev.testHeld_of_begun (by rw [ocount, hcount]; exact hbegun)]
  refine ⟨ost, by rw [oqueue, hqueue], fun r hr => ?_, hjobs.trans ojobs, Safety.wordsKept_trans hkept okept⟩
  exact (stage_of_mem_onHold hq hr).2

end

theorem execSaveAreaDone_of_saved {k : QId} {s : State} (hst : s.dev.qState k.die.val k.q.val = 4)
    (hdone : ∀ r ∈ s.dev.reqs, r.cli ≠ .save k.die.val k.q.val) :
    exec (.saveAreaDone k) s = .next { s with dev := (s.dev.switchedOff k.die.val k.q.val 1).ledger k.die.val } := by
  show execSaveAreaDone k s = _
  have hnone : s.dev.reqs.any (fun r => decide (r.cli = .save k.die.val k.q.val)) = false :=
    List.any_eq_false.mpr fun r hr => by simpa using hdone r hr
  rw [execSaveAreaDone, onDev_eq]
  dsimp only
  rw [if_pos ⟨hst, hnone⟩]
  rfl

/-- Settles O16: `hold_spec`, `holdUrgent_spec` and `unhold_spec`; `disable_held`, `preempt_held`, `ending_waits` and
`Dev.switchedOff_spec`. -/
theorem queuesHeldAndEnded : Obligations.QueuesHeldAndEnded := by
  unfold Obligations.QueuesHeldAndEnded
  refine ⟨fun via x q s hw hsel => ⟨fun hst hafter => ⟨hold_spec hw hsel hst hafter, holdUrgent_spec hw hsel hst hafter⟩,
    fun hst => unhold_spec hw hsel hst⟩, fun via x q s urgent hw hsel => ⟨fun hst => ?held, fun hst hbegun => ?waits, fun hst => ?urgent,
      fun k hst hdone => ?saved⟩⟩
  case held => exact ⟨disable_held hw hsel hst urgent, preempt_held hw hsel hst urgent⟩
  case waits =>
    exact ⟨⟨_, exec_disable_on hw hsel hst false, ending_waits hsel hbegun 2⟩, ⟨_, exec_preempt_on hw hsel hst false, ending_waits hsel hbegun 1⟩⟩
  case urgent =>
    have hq := lt_of_qsel hsel
    obtain ⟨hjobs, hkept, -, -, herr, hqueue⟩ := s.dev.ending_spec x 2 hq
    obtain ⟨-, -, -, -, -, hqueue'⟩ := s.dev.ending_spec x 1 hq
    exact ⟨s.dev.ending x.val q 2, s.dev.ending x.val q 1, exec_disable_on hw hsel hst true, exec_preempt_on hw hsel hst true,
      pImp_val x ▸ herr, hqueue, hjobs.regs_queues rfl rfl, hkept, rfl, hqueue', rfl⟩
  case saved =>
    obtain ⟨hoff, hsaved, -, hslots, hjobs, hreqs, hkept⟩ := s.dev.switchedOff_spec k.die (saved := 1) k.q.isLt (by decide)
    exact ⟨_, execSaveAreaDone_of_saved hst hdone, hoff, hsaved, hslots, hjobs.regs_cores_queues hreqs, hkept⟩

end Sys2Proof.Machine

/-! ## Controllers issue requests, and reads return (O34; R221, R258 to R260, R266, R268, R269, R271, R272, R281, R282) -/

namespace Sys2Proof.Machine

/-! ### Failed tries of a request (R272) -/

/-- CAPAR for each failed try of a request, and LINK of its stack where the first try and all four retries have failed. -/
def Dev.triesFailed (d : Dev) (q : Quad) (n : Fin 40) (er : Fin 6) : Dev :=
  if er.val = 5 then ((List.range 4).foldl (fun d i => d.raise (.mc q n) 4 (i + 1)) d).raise (pStk (5 * q.val + n.val / 8)) 1 (n.val % 8)
  else (List.range er.val).foldl (fun d i => d.raise (.mc q n) 4 (i + 1)) d

theorem Dev.foldl_capar_eq (d : Dev) (q : Quad) (n : Fin 40) (er : Fin 6) :
    ((List.range (min er.val 4)).foldl (fun d i => d.raise (.mc q n) 4 (i + 1)) d).raiseIf (er.val == 5) (pStk (5 * q.val + n.val / 8)) 1
      (n.val % 8) = d.triesFailed q n er := by
  unfold Dev.raiseIf Dev.triesFailed
  by_cases h : er.val = 5
  · rw [if_pos (by simp [h]), if_pos h, h]; rfl
  · rw [if_neg (by simp [h]), if_neg h, Nat.min_eq_left (by omega)]

theorem Dev.mem_triesFailed (d : Dev) (q : Quad) (n : Fin 40) (er : Fin 6) : (d.triesFailed q n er).mem = d.mem := by
  have hcapar : ∀ (l : List Nat) (d : Dev), (l.foldl (fun d i => d.raise (.mc q n) 4 (i + 1)) d).mem = d.mem := fun l d =>
    Dev.mem_foldl _ _ _ fun d _ => Dev.raise_mem d _ _ _
  unfold Dev.triesFailed
  split
  · rw [Dev.raise_mem, hcapar]
  · rw [hcapar]

/-! ### A channel issues (R268, R269, R281) -/

theorem McChan.queues_not_isEmpty {c : McChan} (h : c.reads ≠ [] ∨ c.writes ≠ []) :
    ¬(c.reads.isEmpty = true ∧ c.writes.isEmpty = true) := by
  rw [List.isEmpty_iff, List.isEmpty_iff]; exact fun hnil => h.elim (· hnil.1) (· hnil.2)

/-- The channel once the write `w` has left its queue. -/
def McChan.wrote (c : McChan) (now : Nat) (w : McWrite) : McChan :=
  ({ c.openRow now w.line with
    writes := dropFirst (fun x => x == w) c.writes
    batch := c.batch - 1
    owed := c.owed || c.batch == 1 } : McChan).idleRefresh now

/-- The channel once the read of line `l` has been issued, or given up. -/
def McChan.asked (c : McChan) (now l : Nat) (lost : Bool) : McChan :=
  ({ c.openRow now l with
    reads := dropFirst (fun x => x == l) c.reads
    inflight := c.inflight ++ [(l, lost)]
    owed := false } : McChan).idleRefresh now

/-- The first write in the order of service, of those that are the oldest on their line and whose bank is ready, is stored in the stack,
unless it is given up. -/
def Dev.issueWrite (d : Dev) (q : Quad) (n : Fin 40) (c : McChan) (er : Fin 6) : Dev :=
  match firstLeast (fun w => svcKey w.svc false)
      (c.writeQ.filter (fun w => c.bankReady (d.now (mcClk q.val)) w.line && firstOfLine c.writes w)) with
  | none => d
  | some w =>
    let e := (d.setMc (mcKey q.val n.val) (c.wrote (d.now (mcClk q.val)) w)).triesFailed q n er
    if er.val = 5 then e else e.storeUnder w.line w.tag w.data w.psn

/-- The first read in the order of service, of those whose bank is ready, is in flight. -/
def Dev.issueRead (d : Dev) (q : Quad) (n : Fin 40) (c : McChan) (er : Fin 6) : Dev :=
  match firstLeast d.lineKeyOrd (c.readQ.filter (c.bankReady (d.now (mcClk q.val)))) with
  | none => d
  | some l => (d.setMc (mcKey q.val n.val) (c.asked (d.now (mcClk q.val)) l (decide (er.val = 5)))).triesFailed q n er

section

variable {d : Dev} {q : Quad} {n : Fin 40} {c : McChan} (er : Fin 6)

theorem Dev.issueWrite_of_none (h : c.writeQ.filter (fun w => c.bankReady (d.now (mcClk q.val)) w.line && firstOfLine c.writes w) = []) :
    d.issueWrite q n c er = d := by
  rw [Dev.issueWrite, h]; rfl

theorem Dev.issueWrite_of_some {w : McWrite} (h : firstLeast (fun w => svcKey w.svc false)
      (c.writeQ.filter (fun w => c.bankReady (d.now (mcClk q.val)) w.line && firstOfLine c.writes w)) = some w) :
    d.issueWrite q n c er =
      if er.val = 5 then (d.setMc (mcKey q.val n.val) (c.wrote (d.now (mcClk q.val)) w)).triesFailed q n er
      else ((d.setMc (mcKey q.val n.val) (c.wrote (d.now (mcClk q.val)) w)).triesFailed q n er).storeUnder w.line w.tag w.data w.psn := by
  rw [Dev.issueWrite, h]

theorem Dev.issueRead_of_none (h : c.readQ.filter (c.bankReady (d.now (mcClk q.val))) = []) : d.issueRead q n c er = d := by
  rw [Dev.issueRead, h]; rfl

theorem Dev.issueRead_of_some {l : Nat} (h : firstLeast d.lineKeyOrd (c.readQ.filter (c.bankReady (d.now (mcClk q.val)))) = some l) :
    d.issueRead q n c er =
      (d.setMc (mcKey q.val n.val) (c.asked (d.now (mcClk q.val)) l (decide (er.val = 5)))).triesFailed q n er := by
  rw [Dev.issueRead, h]

end

section

variable {q : Quad} {n : Fin 40} {s : State}

theorem execMcIssue_of_dead (h2 : s.dev.stkState (5 * q.val + n.val / 8) ≠ 2) (h3 : s.dev.stkState (5 * q.val + n.val / 8) ≠ 3)
    (er : Fin 6) : execMcIssue q n er s = .next s := by
  rw [execMcIssue, onDev_eq]
  dsimp only
  rw [if_pos ⟨h2, h3⟩]

variable {c : McChan} (hstk : s.dev.stkState (5 * q.val + n.val / 8) = 2 ∨ s.dev.stkState (5 * q.val + n.val / 8) = 3)
  (hc : c = (s.dev.mc (mcKey q.val n.val)).direct (s.dev.get (.mc q n) fMC_CFG_WHI 0))
include hstk hc

theorem execMcIssue_of_empty (hr : c.reads = []) (hw : c.writes = []) (er : Fin 6) : execMcIssue q n er s =
    .next { s with dev := s.dev.setMc (mcKey q.val n.val) ((s.dev.mc (mcKey q.val n.val)).idleRefresh (s.dev.now (mcClk q.val))) } := by
  rw [execMcIssue, onDev_eq]
  dsimp only
  rw [← hc, if_neg (by omega), if_pos (by rw [hr, hw]; decide)]

/-- A channel with requests queued serves its writes or its reads. -/
theorem execMcIssue_of_queued (hne : c.reads ≠ [] ∨ c.writes ≠ []) (er : Fin 6) : execMcIssue q n er s =
    .next { s with dev := if c.writing = true then s.dev.issueWrite q n c er else s.dev.issueRead q n c er } := by
  rw [execMcIssue, onDev_eq]
  dsimp only
  simp only [Dev.foldl_capar_eq, beq_iff_eq]
  rw [← hc, if_neg (by omega), if_neg (McChan.queues_not_isEmpty hne)]
  rfl

end

/-! ### What a read of a line meets (R258 to R261, R221) -/

/-- A read of the line meets no error of the stack: the line is poisoned already, a newer write of it waits, or it cannot be read. -/
def Dev.unmet (d : Dev) (l : Nat) : Bool :=
  Set.has d.poisoned l || (d.queuedWrite l).isSome || (d.keyTag l).isNone || d.stkDead (lineStack l)

theorem Dev.unmet_eq_true {d : Dev} {l : Nat}
    (h : Set.has d.poisoned l = true ∨ d.queuedWrite l ≠ none ∨ d.keyTag l = none ∨ d.stkDead (lineStack l) = true) :
    d.unmet l = true := by
  unfold Dev.unmet
  obtain h | h | h | h := h
  · rw [h]; rfl
  · rw [Option.isSome_iff_ne_none.mpr h]; simp
  · rw [h]; simp
  · rw [h]; simp

section

variable {d : Dev} {l : Nat} (ue : Dev → Dev)

theorem Dev.readEcc_clean : d.readEcc l .clean ue = d := by unfold Dev.readEcc; split <;> rfl

theorem Dev.readEcc_of_unmet (h : d.unmet l = true) (ecc : Ecc) : d.readEcc l ecc ue = d := if_pos h

variable (hp : Set.has d.poisoned l = false) (hq : d.queuedWrite l = none) (hk : (d.keyTag l).isSome = true)
  (hs : d.stkDead (lineStack l) = false)
include hp hq hk hs

theorem Dev.unmet_eq_false : d.unmet l = false := by
  obtain ⟨tag, htag⟩ := Option.isSome_iff_exists.mp hk
  unfold Dev.unmet
  rw [hp, hq, htag, hs]; rfl

theorem Dev.readEcc_corrected (sy : Fin 72) : d.readEcc l (.corrected sy) ue = d.countCe l sy.val :=
  if_neg (by rw [← Dev.unmet, Dev.unmet_eq_false hp hq hk hs]; decide)

theorem Dev.readEcc_uncorrectable : d.readEcc l .uncorrectable ue = ue d :=
  if_neg (by rw [← Dev.unmet, Dev.unmet_eq_false hp hq hk hs]; decide)

theorem Dev.readEcc_beyond : d.readEcc l .beyond ue = d.beyondEcc l ue :=
  if_neg (by rw [← Dev.unmet, Dev.unmet_eq_false hp hq hk hs]; decide)

end

/-! ### Uncorrectable lines (R221, R260, R261) -/

section

variable {d : Dev} {l : Nat}

theorem Dev.mirrorOf_of_srAt (h : d.srAt (128 * l) = none) : d.mirrorOf l = none := by unfold Dev.mirrorOf; rw [h]

/-- Outside the stereo regions no copy repairs a line. -/
theorem Dev.stereoUe_of_srAt (h : d.srAt (128 * l) = none) (mir : Ecc) : d.stereoUe l mir = (d, false) := by
  unfold Dev.stereoUe; rw [Dev.mirrorOf_of_srAt h, h]

/-- A good other copy repairs the line. -/
theorem Dev.stereoUe_of_mirror {q e m : Nat} (h : d.mirrorOf l = some (q, e, m)) (hgood : (d.dramRead m).2.1 = false) :
    d.stereoUe l .clean =
      ((((d.dramRead m).2.2.storeLine l (d.dramRead m).1 false).bump (pQctl q) fQCTL_SR_STAT_REPAIRS e 1).raise (pQctl q) 5 (srSynd e l),
        true) := by
  unfold Dev.stereoUe
  rw [h]
  dsimp only
  rw [Dev.readEcc_clean, hgood]
  rfl

theorem Dev.demandUe_of_srAt (h : d.srAt (128 * l) = none) (mir : Ecc) :
    d.demandUe l mir = (d.poisonLine l 2).raise (lineMc l) 1 (lineBank l * 2048) := by
  unfold Dev.demandUe; rw [Dev.stereoUe_of_srAt h]; rfl

theorem Dev.demandUe_of_mirror {q e m : Nat} (h : d.mirrorOf l = some (q, e, m)) (hgood : (d.dramRead m).2.1 = false) :
    d.demandUe l .clean =
      (((d.dramRead m).2.2.storeLine l (d.dramRead m).1 false).bump (pQctl q) fQCTL_SR_STAT_REPAIRS e 1).raise (pQctl q) 5
        (srSynd e l) := by
  unfold Dev.demandUe; rw [Dev.stereoUe_of_mirror h hgood]; rfl

theorem Dev.scrubUe_of_srAt (h : d.srAt (128 * l) = none) (mir : Ecc) :
    d.scrubUe l mir = (d.poisonLine l 3).raise (lineMc l) 2 (lineBank l * 2048) := by
  unfold Dev.scrubUe; rw [Dev.stereoUe_of_srAt h]; rfl

end

/-- Poisoning a line changes registers and the set of poisoned lines. -/
theorem Dev.poisonLine_eq (d : Dev) (l kind : Nat) :
    d.poisonLine l kind = { d with regs := (d.poisonLine l kind).regs, poisoned := Set.add d.poisoned l } := rfl

theorem Dev.poisoned_poisonLine (d : Dev) (l kind : Nat) : Set.has (d.poisonLine l kind).poisoned l = true := by
  rw [Dev.poisonLine_eq, Set.has_add_same]

theorem Dev.queuedWrite_congr {d e : Dev} (h : e.mcs = d.mcs) (l : Nat) : e.queuedWrite l = d.queuedWrite l := by
  unfold Dev.queuedWrite Dev.mc; rw [h]

/-- A poisoned line reads as poison, unless a newer write of it waits. -/
theorem Dev.dramRead_of_poisoned {d : Dev} {l : Nat} (hp : Set.has d.poisoned l = true) (hq : d.queuedWrite l = none) :
    (d.dramRead l).2.1 = true := by
  unfold Dev.dramRead
  rw [hq]
  split
  · rfl
  · split
    · rfl
    · exact hp

/-- A line that a demand read has found uncorrectable reads as poison from then on. -/
theorem Dev.dramRead_poisonLine_raise {d : Dev} {l : Nat} (hq : d.queuedWrite l = none) (kind src synd : Nat) :
    (((d.poisonLine l kind).raise (lineMc l) src synd).dramRead l).2.1 = true ∧
      Set.has ((d.poisonLine l kind).raise (lineMc l) src synd).poisoned l = true := by
  have hpoison : Set.has ((d.poisonLine l kind).raise (lineMc l) src synd).poisoned l = true := by
    rw [Dev.raise_poisoned, Dev.poisoned_poisonLine]
  refine ⟨Dev.dramRead_of_poisoned hpoison ?_, hpoison⟩
  rw [Dev.queuedWrite_congr (Dev.raise_mcs _ _ _ _), Dev.poisonLine_eq]
  exact hq

/-! ### A read returns to its home (R272, R282) -/

section

variable {q : Quad} {n : Fin 40} {s : State} {l : Nat} {lost : Bool} {rest : List (Nat × Bool)} {f : Dev}
  (hin : (s.dev.mc (mcKey q.val n.val)).inflight = (l, lost) :: rest)
  (hf : f = (s.dev.setMc (mcKey q.val n.val) { s.dev.mc (mcKey q.val n.val) with inflight := rest }).replyLevel l)
include hin hf

theorem execMcReadReturn_of_lost (hl : lost = true) (ecc mir : Ecc) :
    execMcReadReturn q n ecc s mir = .next { s with dev := f.memReturn l (poisonBytes l) true } := by
  rw [execMcReadReturn, onDev_eq]
  dsimp only
  rw [hin]
  dsimp only
  rw [if_pos hl, ← hf]

theorem execMcReadReturn_of_read (hl : lost = false) (ecc mir : Ecc) {e : Dev} (he : e = f.readEcc l ecc (fun d => d.demandUe l mir)) :
    execMcReadReturn q n ecc s mir = .next { s with dev := (e.dramRead l).2.2.memReturn l (e.dramRead l).1 (e.dramRead l).2.1 } := by
  rw [execMcReadReturn, onDev_eq]
  dsimp only
  rw [hin]
  dsimp only
  rw [if_neg (by rw [hl]; decide), ← hf, ← he]

end

/-! ### The obligation -/

/-- Settles O34: `execMcIssue_of_queued` with what `Dev.issueWrite` and `Dev.issueRead` do, and `execMcReadReturn_of_read` with what
`Dev.readEcc` meets. -/
theorem controllersIssueAndReturn : Obligations.ControllersIssueAndReturn := by
  unfold Obligations.ControllersIssueAndReturn
  refine ⟨fun q n s k now t c err hk hnow ht hc herr => ?issue, fun q n s k l lost rest f mir hk hin hf => ?returns⟩
  case issue =>
    subst hk hnow ht
    have htries : ∀ d er, err d er = d.triesFailed q n er := herr
    refine ⟨fun h2 h3 er => execMcIssue_of_dead h2 h3 er, fun hstk er => ⟨fun hr hw => execMcIssue_of_empty hstk hc hr hw er,
      fun hne => ⟨fun hwr ws hws => ⟨fun hnil => ?_, fun w hw f hf => ?_⟩,
        fun hwr ls hls => ⟨fun hnil => ?_, fun l hl f hf => ?_⟩⟩⟩⟩
    all_goals have hexec := execMcIssue_of_queued hstk hc hne er
    · rw [if_pos hwr, Dev.issueWrite_of_none er (hws ▸ hnil)] at hexec
      exact hexec
    · rw [if_pos hwr, Dev.issueWrite_of_some er (hws ▸ hw)] at hexec
      rw [htries, hf]
      refine ⟨fun hlt => hexec.trans ?_, fun hlost => ⟨hexec.trans ?_, Dev.mem_triesFailed _ _ _ _⟩⟩
      · rw [if_neg (by omega)]; rfl
      · rw [if_pos hlost]; rfl
    · rw [if_neg (by rw [hwr]; decide), Dev.issueRead_of_none er (hls ▸ hnil)] at hexec
      exact hexec
    · rw [if_neg (by rw [hwr]; decide), Dev.issueRead_of_some er (hls ▸ hl)] at hexec
      rw [htries, hf]
      exact ⟨hexec, Dev.mem_triesFailed _ _ _ _⟩
  case returns =>
    subst hk
    refine ⟨fun ecc hl => execMcReadReturn_of_lost hin hf hl ecc mir, fun hl ecc =>
      ⟨_, f.readEcc l ecc (fun d => d.demandUe l mir), execMcReadReturn_of_read hin hf hl ecc mir rfl, rfl, ?_, ?_, ?_⟩⟩
    · rintro rfl; exact Dev.readEcc_clean _
    · exact fun h => Dev.readEcc_of_unmet _ (Dev.unmet_eq_true h) ecc
    · intro hp hq hk hs
      refine ⟨?_, ?_, ?_, ?_⟩
      · rintro sy rfl; exact Dev.readEcc_corrected _ hp hq hk hs sy
      · rintro rfl hsr
        rw [Dev.readEcc_uncorrectable _ hp hq hk hs, Dev.demandUe_of_srAt hsr]
        exact ⟨rfl, Dev.dramRead_poisonLine_raise hq _ _ _⟩
      · rintro rfl rfl sq se m hm hgood
        rw [Dev.readEcc_uncorrectable _ hp hq hk hs, Dev.demandUe_of_mirror hm hgood]
      · rintro rfl; exact Dev.readEcc_beyond _ hp hq hk hs

end Sys2Proof.Machine

/-! ## Stacks are scrubbed and refreshed (O35; R261, R266, R267) -/

namespace Sys2Proof.Machine

/-! ### One bit for each channel -/

/-- The bits of a number made by adding those of a list that a test holds of. -/
theorem testBit_foldl_or (p : Nat → Prop) [DecidablePred p] (is : List Nat) (a j : Nat) :
    (is.foldl (fun a i => if p i then a ||| 2 ^ i else a) a).testBit j = (a.testBit j || decide (j ∈ is ∧ p j)) := by
  induction is generalizing a with
  | nil => simp
  | cons i is ih =>
    rw [List.foldl_cons, ih]
    by_cases hij : j = i
    · subst hij
      by_cases hp : p j <;> simp [hp, Nat.testBit_or]
    · by_cases hp : p i <;> simp [hp, hij, Nat.testBit_or, Nat.testBit_two_pow_of_ne (Ne.symm hij)]

/-- A set bit is taken away, and no other. -/
theorem testBit_sub_two_pow {n i : Nat} (h : n.testBit i = true) (j : Nat) :
    (n - 2 ^ i).testBit j = (decide (j ≠ i) && n.testBit j) := by
  induction i generalizing n j with
  | zero =>
    have hodd : n % 2 = 1 := by simpa [Nat.testBit_zero] using h
    cases j with
    | zero => simp [Nat.testBit_zero]; omega
    | succ j => rw [Nat.testBit_add_one, Nat.testBit_add_one, show (n - 2 ^ 0) / 2 = n / 2 by omega]; simp
  | succ i ih =>
    rw [Nat.testBit_add_one] at h
    have hpow : 2 ^ (i + 1) = 2 * 2 ^ i := by rw [Nat.pow_succ, Nat.mul_comm]
    have hle := Nat.ge_two_pow_of_testBit h
    cases j with
    | zero => simp only [Nat.testBit_zero, hpow]; simp; omega
    | succ j =>
      rw [Nat.testBit_add_one, Nat.testBit_add_one, show (n - 2 ^ (i + 1)) / 2 = n / 2 - 2 ^ i by omega, ih h]
      simp

/-! ### A scrub of one line of each channel (R261) -/

/-- The channels whose line of the scrub a waiting write has overtaken. -/
def Dev.scrubOvertaken (d : Dev) (t i : Nat) : Nat :=
  (List.range 8).foldl (fun a ch => if (d.queuedWrite (scrubLine t ch i)).isSome then a ||| 2 ^ ch else a) 0

theorem Dev.testBit_scrubOvertaken (d : Dev) (t i : Nat) {ch : Nat} (h : ch < 8) :
    (d.scrubOvertaken t i).testBit ch = (d.queuedWrite (scrubLine t ch i)).isSome := by
  unfold Dev.scrubOvertaken
  rw [testBit_foldl_or (fun ch => (d.queuedWrite (scrubLine t ch i)).isSome = true)]
  simp [h]

/-- What the scrub does with a line its read of which has returned; `late`: a write has overtaken the read. -/
def Dev.scrubMet (d : Dev) (l : Nat) (late : Bool) (ecc mir : Ecc) : Dev :=
  match ecc with
  | .clean => d
  | .corrected sy => d.countCe l sy.val
  | .uncorrectable => if late then d else d.scrubUe l mir
  | .beyond => if late then d else d.beyondEcc l (fun d => d.scrubUe l mir)

theorem Dev.scrubMet_of_overtaken (d : Dev) (l : Nat) {ecc : Ecc} (h : ecc = .uncorrectable ∨ ecc = .beyond) (mir : Ecc) :
    d.scrubMet l true ecc mir = d := by
  obtain rfl | rfl := h <;> rfl

/-- A line that the scrub has found uncorrectable outside the stereo regions is poisoned. -/
theorem Dev.poisoned_scrubUe {d : Dev} {l : Nat} (h : d.srAt (128 * l) = none) (mir : Ecc) :
    Set.has (d.scrubUe l mir).poisoned l = true := by
  rw [Dev.scrubUe_of_srAt h, Dev.raise_poisoned, Dev.poisoned_poisonLine]

section

variable {t : Stack} {s : State} {x : StackSt} (hx : x = s.dev.stk t.val)
include hx

theorem execPatrolScrub_of_due (hon : s.dev.on (pStk t.val) fSTK_SCRUB_EN 0 = true) (hidle : x.scrubbing = 0)
    (hst : s.dev.stkState t.val = 2) : execPatrolScrub t s =
      .next { s with dev := s.dev.setStk t.val { x with scrubbing := 255, overtaken := s.dev.scrubOvertaken t.val x.scrubAt } } := by
  rw [execPatrolScrub, onDev_eq]
  dsimp only
  rw [← hx, if_neg (by rw [hon, hidle, hst]; decide)]
  rfl

theorem execPatrolScrub_of_not_due
    (h : s.dev.on (pStk t.val) fSTK_SCRUB_EN 0 = false ∨ x.scrubbing ≠ 0 ∨ s.dev.stkState t.val ≠ 2) : execPatrolScrub t s = .next s := by
  rw [execPatrolScrub, onDev_eq]
  dsimp only
  rw [← hx, if_pos]
  obtain h | h | h := h <;> simp [h]

theorem execScrubReadDone_of_not_out {ch : Fin 8} (h : x.scrubbing.testBit ch.val = false) (ecc mir : Ecc) :
    execScrubReadDone t ch ecc s mir = .next s := by
  rw [execScrubReadDone, onDev_eq]
  dsimp only
  rw [← hx, if_pos (by rw [h]; rfl)]

variable {ch : Fin 8} {l : Nat} {f : Dev} (hout : x.scrubbing.testBit ch.val = true) (hl : l = scrubLine t.val ch.val x.scrubAt)
  (hf : f = s.dev.setStk t.val { x with
    scrubbing := x.scrubbing - 2 ^ ch.val
    scrubAt := if x.scrubbing = 2 ^ ch.val then (x.scrubAt + 1) % chLines else x.scrubAt })

omit hx in
include hout hf in
/-- The channel's bit clears, and no other. -/
theorem testBit_scrubbing_of_returned (i : Nat) :
    (f.stk t.val).scrubbing.testBit i = (decide (i ≠ ch.val) && x.scrubbing.testBit i) := by
  rw [hf, Dev.stk_setStk_same]
  exact testBit_sub_two_pow hout i

include hout hl hf

/-- A scrub read returns: its channel's bit clears, the last moves the scrub on, and a line not poisoned already is dealt with. -/
theorem execScrubReadDone_of_out (ecc mir : Ecc) : execScrubReadDone t ch ecc s mir =
    .next { s with dev := if Set.has s.dev.poisoned l = true then f else f.scrubMet l (x.overtaken.testBit ch.val) ecc mir } := by
  have hlast : x.scrubbing - 2 ^ ch.val = 0 ↔ x.scrubbing = 2 ^ ch.val := by
    have := Nat.ge_two_pow_of_testBit hout
    omega
  rw [execScrubReadDone, onDev_eq]
  simp only [← hx, ← hl, hlast]
  rw [if_neg (by rw [hout]; decide), ← hf, hf, Dev.setStk_poisoned]
  rfl

end

/-! ### Refresh (R266) -/

/-- The channel owes one more refresh. -/
def McChan.owing (c : McChan) : McChan := { c with postponed := c.postponed + 1 }

/-- The refresh that is due begins at once. -/
theorem McChan.startRefresh_owing (c : McChan) (now : Nat) : c.owing.startRefresh now =
    { c with refresh := some (c.nextBank, now + Config.refreshCycles), nextBank := (c.nextBank + 1) % 32 } := rfl

theorem McChan.idleRefresh_owing_of_free {c : McChan} {now : Nat} (hr : c.reads = []) (hw : c.writes = [])
    (hfree : ∀ b till, c.refresh = some (b, till) → till ≤ now) : c.owing.idleRefresh now = c.owing.startRefresh now := by
  unfold McChan.idleRefresh
  refine if_pos ⟨List.isEmpty_iff.mpr hr, List.isEmpty_iff.mpr hw, Nat.succ_pos _, ?_⟩
  split
  · next b till h => exact decide_eq_true (hfree b till h)
  · rfl

theorem McChan.idleRefresh_owing_of_busy {c : McChan} {now b till : Nat} (h : c.refresh = some (b, till)) (hlt : now < till) :
    c.owing.idleRefresh now = c.owing := by
  unfold McChan.idleRefresh
  rw [show c.owing.refresh = some (b, till) from h]
  refine if_neg fun ⟨_, _, _, hfree⟩ => ?_
  have := of_decide_eq_true hfree
  omega

section

variable {q : Quad} {n : Fin 40} {s : State} {c : McChan}

theorem execRefreshDue_of_not_ready (h : s.dev.stkState (5 * q.val + n.val / 8) ≠ 2) : execRefreshDue q n s = .next s := by
  rw [execRefreshDue, onDev_eq]
  dsimp only
  rw [if_pos h]

variable (hc : c = s.dev.mc (mcKey q.val n.val)) (hst : s.dev.stkState (5 * q.val + n.val / 8) = 2)
include hc hst

theorem execRefreshDue_of_empty (hr : c.reads = []) (hw : c.writes = []) : execRefreshDue q n s = .next { s with
      dev := s.dev.setMc (mcKey q.val n.val) (c.owing.idleRefresh (s.dev.now (mcClk q.val))) } := by
  rw [execRefreshDue, onDev_eq]
  dsimp only
  rw [← hc, if_neg (by rw [hst]; decide), if_pos (by rw [hr, hw]; decide)]
  rfl

theorem execRefreshDue_of_queued (hne : c.reads ≠ [] ∨ c.writes ≠ []) : execRefreshDue q n s = .next { s with
      dev := s.dev.setMc (mcKey q.val n.val) (if c.postponed < s.dev.get (.mc q n) fMC_CFG_REFPOST 0 then c.owing
        else c.owing.startRefresh (s.dev.now (mcClk q.val))) } := by
  rw [execRefreshDue, onDev_eq]
  dsimp only
  rw [← hc, if_neg (by rw [hst]; decide), if_neg (McChan.queues_not_isEmpty hne), ← apply_ite (s.dev.setMc (mcKey q.val n.val))]
  rfl

end

/-! ### The obligation -/

/-- Settles O35: `execPatrolScrub_of_due` and `execScrubReadDone_of_out` for the scrub, with `Dev.scrubMet` for what it does with a line;
`execRefreshDue_of_empty` and `execRefreshDue_of_queued` for a refresh. -/
theorem stacksScrubbedAndRefreshed : Obligations.StacksScrubbedAndRefreshed := by
  unfold Obligations.StacksScrubbedAndRefreshed
  refine ⟨fun t s x mir hx => ?scrub, fun q n t s k now c begun hk hc hnow hbegun => ?refresh⟩
  case scrub =>
    refine ⟨fun hon hidle hst => ⟨_, s.dev.scrubOvertaken t.val x.scrubAt, execPatrolScrub_of_due hx hon hidle hst, rfl,
        fun ch hch => s.dev.testBit_scrubOvertaken _ _ hch⟩,
      fun h => execPatrolScrub_of_not_due hx h, fun ch ecc h => execScrubReadDone_of_not_out hx h ecc mir, fun ch l f hout hl hf => ?_⟩
    have hexec : ∀ ecc, exec (.scrubReadDone t ch ecc mir) s = _ := fun ecc => execScrubReadDone_of_out hx hout hl hf ecc mir
    have hbits := testBit_scrubbing_of_returned hout hf
    refine ⟨⟨by rw [hbits]; simp, fun i hi => by rw [hbits]; simp [hi]⟩, fun hp ecc => ?_, fun hp => ?_⟩
    · rw [hexec, if_pos hp]
    · simp only [hexec, if_neg (show ¬Set.has s.dev.poisoned l = true by rw [hp]; decide)]
      refine ⟨rfl, fun _ => rfl, fun ecc hover h => ?_, fun hover => ?_⟩
      · rw [hover, Dev.scrubMet_of_overtaken _ _ h]
      · rw [hover]
        exact ⟨rfl, rfl, fun hsr => ⟨Dev.scrubUe_of_srAt hsr mir, Dev.poisoned_scrubUe hsr mir⟩⟩
  case refresh =>
    subst hk hnow
    have hstart := hbegun.trans (c.startRefresh_owing (s.dev.now (mcClk q.val))).symm
    refine ⟨execRefreshDue_of_not_ready, fun hst hr hw => ⟨fun hfree => ?_, fun b till h hlt => ?_⟩, fun hst hne => ?_, rfl, rfl⟩
    · rw [hstart, ← McChan.idleRefresh_owing_of_free hr hw hfree]
      exact execRefreshDue_of_empty hc hst hr hw
    · rw [← McChan.owing, ← McChan.idleRefresh_owing_of_busy h hlt]
      exact execRefreshDue_of_empty hc hst hr hw
    · rw [hstart]
      exact execRefreshDue_of_queued hc hst hne

end Sys2Proof.Machine

/-! ## Stacks train, and home units are zeroed (O36; R264, R271, R272) -/

namespace Sys2Proof.Machine

/-! ### The eight channels of a stack -/

/-- The key of channel `ch` of a stack. -/
def stackChan (t ch : Nat) : Nat := mcKey (t / 5) (8 * (t % 5) + ch)

theorem stackChan_inj {t i j : Nat} (h : stackChan t i = stackChan t j) : i = j := by unfold stackChan mcKey at h; omega

/-- Beside the registers, only the channels differ. -/
def Dev.OnlyChans (d e : Dev) : Prop := e = { d with regs := e.regs, mcs := e.mcs }

theorem Dev.OnlyChans.trans {d e f : Dev} (h : d.OnlyChans e) (h' : e.OnlyChans f) : d.OnlyChans f := by
  unfold Dev.OnlyChans at h h' ⊢
  rw [h', h]

theorem Dev.onlyChans_set (d : Dev) (p : Page) (f : FieldDef) (i v : Nat) : d.OnlyChans (d.set p f i v) := rfl

/-- Changes every channel of a stack. -/
def Dev.modChans (d : Dev) (t : Nat) (g : McChan → McChan) : Dev :=
  (List.range 8).foldl (fun d ch => d.setMc (stackChan t ch) (g (d.mc (stackChan t ch)))) d

section

variable (t : Nat) (g : McChan → McChan)

theorem Dev.foldl_setMc_eq (is : List Nat) (d : Dev) :
    is.foldl (fun d ch => d.setMc (stackChan t ch) (g (d.mc (stackChan t ch)))) d =
      { d with mcs := (is.foldl (fun d ch => d.setMc (stackChan t ch) (g (d.mc (stackChan t ch)))) d).mcs } := by
  induction is generalizing d with
  | nil => rfl
  | cons ch is ih => rw [List.foldl_cons, ih]; rfl

theorem Dev.mc_foldl_setMc_ne {is : List Nat} {j : Nat} (h : ∀ ch ∈ is, j ≠ stackChan t ch) (d : Dev) :
    (is.foldl (fun d ch => d.setMc (stackChan t ch) (g (d.mc (stackChan t ch)))) d).mc j = d.mc j := by
  induction is generalizing d with
  | nil => rfl
  | cons ch is ih =>
    rw [List.foldl_cons, ih (fun i hi => h i (List.mem_cons_of_mem _ hi)), Dev.mc_setMc_ne _ _ _ (h ch List.mem_cons_self)]

theorem Dev.mc_foldl_setMc {is : List Nat} (hnd : is.Nodup) {ch : Nat} (h : ch ∈ is) (d : Dev) :
    (is.foldl (fun d ch => d.setMc (stackChan t ch) (g (d.mc (stackChan t ch)))) d).mc (stackChan t ch) = g (d.mc (stackChan t ch)) := by
  induction is generalizing d with
  | nil => cases h
  | cons i is ih =>
    obtain ⟨hi, hnd⟩ := List.nodup_cons.mp hnd
    rw [List.foldl_cons]
    by_cases heq : ch = i
    · subst heq
      rw [Dev.mc_foldl_setMc_ne t g (fun j hj e => hi (by rw [stackChan_inj e]; exact hj)), Dev.mc_setMc_same]
    · rw [ih hnd ((List.mem_cons.mp h).resolve_left heq), Dev.mc_setMc_ne _ _ _ (fun e => heq (stackChan_inj e))]

variable (d : Dev)

theorem Dev.modChans_eq : d.modChans t g = { d with mcs := (d.modChans t g).mcs } := Dev.foldl_setMc_eq t g _ d

theorem Dev.onlyChans_modChans : d.OnlyChans (d.modChans t g) := by rw [Dev.OnlyChans, Dev.modChans_eq]

theorem Dev.regs_modChans : (d.modChans t g).regs = d.regs := by rw [Dev.modChans_eq]

theorem Dev.mc_modChans {ch : Nat} (h : ch < 8) : (d.modChans t g).mc (stackChan t ch) = g (d.mc (stackChan t ch)) :=
  Dev.mc_foldl_setMc t g List.nodup_range (List.mem_range.mpr h) d

theorem Dev.mc_modChans_ne {j : Nat} (h : ∀ ch, ch < 8 → j ≠ stackChan t ch) : (d.modChans t g).mc j = d.mc j :=
  Dev.mc_foldl_setMc_ne t g (fun ch hch => h ch (List.mem_range.mp hch)) d

theorem Dev.stkState_modChans (u : Nat) : (d.modChans t g).stkState u = d.stkState u := Dev.get_congr (Dev.regs_modChans t g d) _ _ _

end

/-! ### The status word of a stack -/

section

variable (d : Dev) (t : Nat)

theorem Dev.stkState_setState {v : Nat} (h : v < 8) : (d.set (pStk t) fSTK_STAT_STATE 0 v).stkState t = v :=
  (Dev.get_set _ _ _ _ _ (by decide) (by decide)).trans (Nat.mod_eq_of_lt h)

theorem Dev.stkState_setZbusy (v : Nat) : (d.set (pStk t) fSTK_STAT_ZBUSY 0 v).stkState t = d.stkState t :=
  Dev.get_set_apart _ _ _ _ _ _ rfl (by decide) (by decide) (by decide) (by decide)

theorem wordsKept_setStkStat {d e : Dev} {t : Nat} {fld : FieldDef} (v : Nat) (h : Safety.wordsKept d e [(pStk t, 0x104, 0)])
    (hoff : fld.off = 0x104) : Safety.wordsKept d (e.set (pStk t) fld 0 v) [(pStk t, 0x104, 0)] :=
  Safety.wordsKept_set _ _ _ _ h (by rw [hoff]; exact List.mem_singleton.mpr rfl) (by rw [hoff]) (by rw [hoff]; decide) (by decide)

/-- A stack takes a state, and its channels change. -/
theorem Dev.setState_modChans_spec {v : Nat} (hv : v < 8) (g : McChan → McChan) {e : Dev}
    (he : e = (d.set (pStk t) fSTK_STAT_STATE 0 v).modChans t g) :
    d.OnlyChans e ∧ Safety.wordsKept d e [(pStk t, 0x104, 0)] ∧ e.stkState t = v ∧
      (∀ ch, ch < 8 → e.mc (stackChan t ch) = g (d.mc (stackChan t ch))) ∧
      ∀ j, (∀ ch, ch < 8 → j ≠ stackChan t ch) → e.mc j = d.mc j := by
  subst he
  refine ⟨(Dev.onlyChans_set _ _ _ _ _).trans (Dev.onlyChans_modChans _ _ _), ?_, ?_, fun ch hch => Dev.mc_modChans _ _ _ hch,
    fun j hj => Dev.mc_modChans_ne _ _ _ hj⟩
  · exact Safety.wordsKept_trans (wordsKept_setStkStat v (Safety.wordsKept_refl d _) rfl)
      (Safety.wordsKept_of_regs _ (Dev.regs_modChans _ _ _))
  · rw [Dev.stkState_modChans, Dev.stkState_setState d t hv]

/-- A command is refused: ILL is set, and nothing else changes. -/
theorem Dev.stkRefused_spec {e : Dev} (he : e = d.set (pStk t) fSTK_STAT_ILL 0 1) :
    e = { d with regs := e.regs } ∧ Safety.wordsKept d e [(pStk t, 0x104, 0)] ∧ e.stkState t = d.stkState t ∧
      e.on (pStk t) fSTK_STAT_ILL 0 = true ∧ e.on (pStk t) fSTK_STAT_ZBUSY 0 = d.on (pStk t) fSTK_STAT_ZBUSY 0 := by
  subst he
  refine ⟨rfl, wordsKept_setStkStat 1 (Safety.wordsKept_refl d _) rfl, ?_, Dev.on_set_one _ _ _ _ (by decide) (by decide), ?_⟩
  · exact Dev.get_set_apart _ _ _ _ _ _ rfl (by decide) (by decide) (by decide) (by decide)
  · exact congrArg (· == 1) (Dev.get_set_apart _ _ _ _ _ _ rfl (by decide) (by decide) (by decide) (by decide))

end

/-! ### TRAIN and RETRAIN are written (R271) -/

/-- Every postponed refresh has been issued. -/
def McChan.caughtUp (c : McChan) : McChan := { c with nextBank := (c.nextBank + c.postponed) % 32, postponed := 0 }

theorem stkCmd_train (d : Dev) (t : Nat) :
    stkCmd d t 1 = if d.stkState t = 0 then d.set (pStk t) fSTK_STAT_STATE 0 1 else d.set (pStk t) fSTK_STAT_ILL 0 1 := rfl

theorem stkCmd_retrain (d : Dev) (t : Nat) : stkCmd d t 2 =
    if d.stkState t = 2 ∧ d.on (pStk t) fSTK_STAT_ZBUSY 0 = false then (d.set (pStk t) fSTK_STAT_STATE 0 3).modChans t McChan.caughtUp
    else d.set (pStk t) fSTK_STAT_ILL 0 1 := rfl

theorem stkCmd_train_spec (d : Dev) (t : Nat) {e : Dev} (he : e = stkCmd d t 1) :
    e = { d with regs := e.regs } ∧ Safety.wordsKept d e [(pStk t, 0x104, 0)] ∧ (d.stkState t = 0 → e.stkState t = 1) ∧
      (d.stkState t ≠ 0 → e.stkState t = d.stkState t ∧ e.on (pStk t) fSTK_STAT_ILL 0 = true) := by
  rw [stkCmd_train] at he
  by_cases h : d.stkState t = 0
  · rw [if_pos h] at he
    subst he
    exact ⟨rfl, wordsKept_setStkStat 1 (Safety.wordsKept_refl d _) rfl, fun _ => Dev.stkState_setState d t (by decide),
      fun hn => absurd h hn⟩
  · rw [if_neg h] at he
    obtain ⟨heq, hkept, hstate, hill, -⟩ := d.stkRefused_spec t he
    exact ⟨heq, hkept, fun h0 => absurd h0 h, fun _ => ⟨hstate, hill⟩⟩

theorem stkCmd_retrain_spec (d : Dev) (t : Nat) {e : Dev} (he : e = stkCmd d t 2) :
    d.OnlyChans e ∧ Safety.wordsKept d e [(pStk t, 0x104, 0)] ∧
      (d.stkState t = 2 → d.on (pStk t) fSTK_STAT_ZBUSY 0 = false → e.stkState t = 3 ∧
        (∀ ch, ch < 8 → e.mc (stackChan t ch) = (d.mc (stackChan t ch)).caughtUp) ∧
        ∀ j, (∀ ch, ch < 8 → j ≠ stackChan t ch) → e.mc j = d.mc j) ∧
      ((d.stkState t ≠ 2 ∨ d.on (pStk t) fSTK_STAT_ZBUSY 0 = true) →
        e.stkState t = d.stkState t ∧ e.on (pStk t) fSTK_STAT_ILL 0 = true ∧ e.mcs = d.mcs) := by
  rw [stkCmd_retrain] at he
  by_cases h : d.stkState t = 2 ∧ d.on (pStk t) fSTK_STAT_ZBUSY 0 = false
  · rw [if_pos h] at he
    obtain ⟨honly, hkept, hstate, hchan, hother⟩ := d.setState_modChans_spec t (by decide) McChan.caughtUp he
    refine ⟨honly, hkept, fun _ _ => ⟨hstate, hchan, hother⟩, fun hn => ?_⟩
    rw [h.1, h.2] at hn
    exact absurd hn (by decide)
  · rw [if_neg h] at he
    obtain ⟨heq, hkept, hstate, hill, -⟩ := d.stkRefused_spec t he
    exact ⟨by rw [heq]; rfl, hkept, fun h2 hz => absurd ⟨h2, hz⟩ h, fun _ => ⟨hstate, hill, by rw [heq]⟩⟩

section

variable {via : Via} {t : Stack} {s : State} (hw : s.dev.writable via (pStk t.val) = true)
include hw

theorem execStkTrain_of_writable : execStkTrain via t s = .next { s with dev := stkCmd s.dev t.val 1 } := by
  rw [execStkTrain, onDev_eq, Dev.viaWrite_of_writable _ _ _ _ hw]

theorem execRetrain_of_writable : execRetrain via t s = .next { s with dev := stkCmd s.dev t.val 2 } := by
  rw [execRetrain, onDev_eq, Dev.viaWrite_of_writable _ _ _ _ hw]

theorem execZerou_of_writable : execZerou via t s = .next { s with dev := stkCmd s.dev t.val 4 } := by
  rw [execZerou, onDev_eq, Dev.viaWrite_of_writable _ _ _ _ hw]

end

/-! ### Training ends (R271, R272) -/

/-- What waited at the home is queued, behind what was queued already. -/
def McChan.released (c : McChan) : McChan :=
  { c with reads := c.reads ++ c.waitR, writes := c.writes ++ c.waitW, waitR := [], waitW := [] }

/-- Every bank has been refreshed and closed. -/
def McChan.reopened (c : McChan) : McChan := { c with rows := [], nextBank := 0, refresh := none }

/-- A controller has completed what it had. -/
def McChan.Empty (c : McChan) : Prop := c.reads = [] ∧ c.writes = [] ∧ c.inflight = []

/-- The controllers of the stack have completed what they had (Table 10.3, step 3). -/
def Dev.chansEmpty (d : Dev) (t : Nat) : Bool :=
  (List.range 8).all fun ch =>
    (d.mc (stackChan t ch)).reads.isEmpty && (d.mc (stackChan t ch)).writes.isEmpty && (d.mc (stackChan t ch)).inflight.isEmpty

theorem Dev.chansEmpty_iff (d : Dev) (t : Nat) : d.chansEmpty t = true ↔ ∀ ch, ch < 8 → (d.mc (stackChan t ch)).Empty := by
  simp only [Dev.chansEmpty, McChan.Empty, List.all_eq_true, List.mem_range, Bool.and_eq_true, List.isEmpty_iff, and_assoc]

theorem McChan.released_reopened {c : McChan} (h : c.Empty) : c.reopened.released =
    { c with rows := [], nextBank := 0, refresh := none, reads := c.waitR, writes := c.waitW, waitR := [], waitW := [] } := by
  obtain ⟨hr, hw, -⟩ := h
  unfold McChan.released McChan.reopened
  rw [hr, hw]; rfl

/-- The stack is READY, and what waited for it is queued. -/
def Dev.trainedStack (d : Dev) (t : Nat) : Dev := (d.set (pStk t) fSTK_STAT_STATE 0 2).modChans t McChan.released

theorem Dev.trainedStack_spec (d : Dev) (t : Nat) {e : Dev} (he : e = d.trainedStack t) :
    d.OnlyChans e ∧ Safety.wordsKept d e [(pStk t, 0x104, 0)] ∧ e.stkState t = 2 ∧
      (∀ ch, ch < 8 → e.mc (stackChan t ch) = (d.mc (stackChan t ch)).released) ∧
      ∀ j, (∀ ch, ch < 8 → j ≠ stackChan t ch) → e.mc j = d.mc j := d.setState_modChans_spec t (by decide) McChan.released he

theorem Dev.trainFail_memoryKept (d : Dev) (t mask : Nat) : Safety.memoryKept d (d.trainFail t mask) :=
  Safety.memoryKept_of_mem_eq (by unfold Dev.trainFail; rw [Dev.failWaiting_mem, Dev.raise_mem, Dev.set_mem])

section

variable {t : Stack} {mask : Byte} {s : State}

theorem execStkTrainDone_of_not_training (h : s.dev.stkState t.val ≠ 1) (ok : Bool) : execStkTrainDone t ok mask s = .next s := by
  rw [execStkTrainDone, onDev_eq, if_pos h]

theorem execStkTrainDone_of_training (h : s.dev.stkState t.val = 1) (ok : Bool) : execStkTrainDone t ok mask s =
    .next { s with dev := if ok = true then s.dev.trainedStack t.val else s.dev.trainFail t.val mask.toNat } := by
  rw [execStkTrainDone, onDev_eq, if_neg (by rw [h]; decide)]
  rfl

/-- RETRAIN_DONE by what it makes of the stack's channels. -/
theorem execRetrainDone_eq (ok : Bool) : execRetrainDone t ok mask s = .next { s with
    dev := if s.dev.stkState t.val ≠ 3 ∨ s.dev.chansEmpty t.val = false then s.dev
      else if ok = true then (s.dev.modChans t.val McChan.reopened).trainedStack t.val
      else (s.dev.modChans t.val McChan.reopened).trainFail t.val mask.toNat } := rfl

theorem execRetrainDone_of_not_retraining (h : s.dev.stkState t.val ≠ 3) (ok : Bool) : execRetrainDone t ok mask s = .next s := by
  rw [execRetrainDone_eq, if_pos (.inl h)]

theorem execRetrainDone_of_busy (h : ∃ ch, ch < 8 ∧ ¬(s.dev.mc (stackChan t.val ch)).Empty) (ok : Bool) :
    execRetrainDone t ok mask s = .next s := by
  obtain ⟨ch, hch, hbusy⟩ := h
  have hne : s.dev.chansEmpty t.val = false := Bool.eq_false_iff.mpr fun h => hbusy ((Dev.chansEmpty_iff _ _).mp h ch hch)
  rw [execRetrainDone_eq, if_pos (.inr hne)]

theorem execRetrainDone_of_retraining (h : s.dev.stkState t.val = 3) (hempty : ∀ ch, ch < 8 → (s.dev.mc (stackChan t.val ch)).Empty)
    (ok : Bool) : execRetrainDone t ok mask s = .next { s with
      dev := if ok = true then (s.dev.modChans t.val McChan.reopened).trainedStack t.val
        else (s.dev.modChans t.val McChan.reopened).trainFail t.val mask.toNat } := by
  rw [execRetrainDone_eq, if_neg (by rw [h, (Dev.chansEmpty_iff _ _).mpr hempty]; decide)]

end

/-! ### A home unit is zeroed (R264) -/

/-- ZEROU of the unit `u` of the B-die is refused: a buffer or a stereo region reaches the unit, or the stack is not READY or is busy. -/
def Dev.zeroRefused (d : Dev) (t u : Nat) : Bool :=
  (List.range 64).any (fun e => rbState d (t / 5) e != 0 &&
    overlaps (128 * unitLine (t / 5) u, 2 ^ 30) (rbBase d (t / 5) e, 384 * rbBlocks d (t / 5) e)) ||
  (List.range 2).any (fun e => d.srState (t / 5) e != 0 &&
    (srRanges d (t / 5) e).any (overlaps (128 * unitLine (t / 5) u, 2 ^ 30))) ||
  d.stkState t != 2 || d.on (pStk t) fSTK_STAT_ZBUSY 0

theorem Dev.zeroRefused_eq_false_iff (d : Dev) (t u : Nat) : d.zeroRefused t u = false ↔
    (∀ e, e < 64 → rbState d (t / 5) e = 0 ∨
      overlaps (128 * unitLine (t / 5) u, 2 ^ 30) (rbBase d (t / 5) e, 384 * rbBlocks d (t / 5) e) = false) ∧
    (∀ e, e < 2 → d.srState (t / 5) e = 0 ∨ (srRanges d (t / 5) e).any (overlaps (128 * unitLine (t / 5) u, 2 ^ 30)) = false) ∧
    d.stkState t = 2 ∧ d.on (pStk t) fSTK_STAT_ZBUSY 0 = false := by
  unfold Dev.zeroRefused
  rw [Bool.or_eq_false_iff, Bool.or_eq_false_iff, Bool.or_eq_false_iff, List.any_eq_false, List.any_eq_false]
  simp only [List.mem_range, Bool.not_eq_true, Bool.and_eq_false_iff, bne_eq_false_iff_eq, and_assoc]

/-- The stack with ZEROU of the unit `u` in progress. -/
def Dev.zeroing (d : Dev) (t u : Nat) : Dev :=
  (d.set (pStk t) fSTK_STAT_ZBUSY 0 1).setStk t { d.stk t with zunit := u }

theorem stkCmd_zerou (d : Dev) (t : Nat) {u : Nat} (hu : u = 72 * (t % 5) + d.get (pStk t) fSTK_ZUNIT_UNIT 0) : stkCmd d t 4 =
    if d.zeroRefused t u = true then d.set (pStk t) fSTK_STAT_ILL 0 1
    else (d.zeroing t u).flushRange false (unitLine (t / 5) u) unitLines := by
  subst hu; rfl

theorem Dev.zeroing_spec (d : Dev) (t u : Nat) {e : Dev} (he : e = d.zeroing t u) :
    e = ({ d with regs := e.regs } : Dev).setStk t { d.stk t with zunit := u } ∧ Safety.wordsKept d e [(pStk t, 0x104, 0)] ∧
      e.on (pStk t) fSTK_STAT_ZBUSY 0 = true ∧ e.stkState t = d.stkState t := by
  subst he
  exact ⟨rfl, wordsKept_setStkStat 1 (Safety.wordsKept_refl d _) rfl, Dev.on_set_one d _ _ _ (by decide) (by decide),
    Dev.stkState_setZbusy d t 1⟩

/-- Of a zeroed range, the bytes of the lines whose key is loaded read 0, and no other byte changes. -/
theorem Dev.read_zeroLines (d : Dev) (lo n a : Nat) : Memory.read (d.zeroLines lo n).mem a =
    if lo ≤ a / 128 ∧ a / 128 < lo + n ∧ (d.keyTag (a / 128)).isSome = true then 0 else Memory.read d.mem a := by
  have hzero : d.zeroedLine lo n (a / 128) = true ↔ lo ≤ a / 128 ∧ a / 128 < lo + n ∧ (d.keyTag (a / 128)).isSome = true := by
    rw [Dev.zeroedLine, Bool.and_eq_true, decide_eq_true_eq, and_assoc]
  rw [Dev.zeroLines_eq, Memory.read, NMap.get_dropIf]
  simp only [hzero]
  rfl

theorem Dev.wordsKept_zeroLines {d : Dev} {lo n : Nat} (h : ∀ l, lo ≤ l → l < lo + n → (d.keyTag l).isSome = true)
    (w : List (Page × Nat × Nat)) : Safety.wordsKept d (d.zeroLines lo n) w :=
  Safety.wordsKept_of_regs w (by rw [Dev.zeroLines_of_loaded h])

theorem Dev.zbusy_cleared (d : Dev) (t : Nat) : (d.set (pStk t) fSTK_STAT_ZBUSY 0 0).on (pStk t) fSTK_STAT_ZBUSY 0 = false := by
  unfold Dev.on
  rw [Dev.get_set _ _ _ _ _ (by decide) (by decide)]
  rfl

section

variable {t : Stack} {s : State} {lo : Nat} (hlo : lo = unitLine (t.val / 5) (s.dev.stk t.val).zunit)
include hlo

theorem execZerouDone_of_not_idle
    (h : s.dev.on (pStk t.val) fSTK_STAT_ZBUSY 0 = false ∨ s.dev.rangeIdle lo unitLines = false ∨ s.dev.stkWaits t.val = true) :
    execZerouDone t s = .next s := by
  rw [execZerouDone, onDev_eq]
  dsimp only
  rw [← hlo, if_pos]
  obtain h | h | h := h <;> simp [h]

theorem execZerouDone_of_idle (hbusy : s.dev.on (pStk t.val) fSTK_STAT_ZBUSY 0 = true) (hidle : s.dev.rangeIdle lo unitLines = true)
    (hwait : s.dev.stkWaits t.val = false) : execZerouDone t s = .next { s with
      dev := ((s.dev.flushRange false lo unitLines).zeroLines lo unitLines).set (pStk t.val) fSTK_STAT_ZBUSY 0 0 } := by
  rw [execZerouDone, onDev_eq]
  dsimp only
  rw [← hlo, if_neg (by rw [hbusy, hidle, hwait]; decide)]

end

/-! ### The obligation -/

/-- Settles O36: `stkCmd_train_spec`, `stkCmd_retrain_spec` and `Dev.trainedStack_spec` for the training of a stack, `stkCmd_zerou` and
`Dev.read_zeroLines` for the zeroing of a unit. -/
theorem stacksTrainAndUnitsZeroed : Obligations.StacksTrainAndUnitsZeroed := by
  unfold Obligations.StacksTrainAndUnitsZeroed
  refine ⟨fun via t mask s p key hp hkey => ?train, fun via t s p q u hp hq hu => ?zero⟩
  case train =>
    subst hp
    obtain rfl : key = stackChan t.val := funext hkey
    refine ⟨fun hw => ⟨⟨_, execStkTrain_of_writable hw, stkCmd_train_spec s.dev t.val rfl⟩,
        ⟨_, execRetrain_of_writable hw, stkCmd_retrain_spec s.dev t.val rfl⟩⟩,
      fun h => ?trained, execStkTrainDone_of_not_training, fun h => ?failed, fun hbusy => ?busy, fun h hempty => ?retrained,
      fun h hempty => ?refailed, execRetrainDone_of_not_retraining⟩
    case trained =>
      obtain ⟨heq, hkept, hstate, hchan, hother⟩ := s.dev.trainedStack_spec t.val rfl
      exact ⟨_, execStkTrainDone_of_training h true, heq, hkept, hstate, fun ch c hch hc => hc ▸ hchan ch hch, hother⟩
    case failed =>
      exact ⟨_, s.dev.set (pStk t.val) fSTK_STAT_STATE 0 4, execStkTrainDone_of_training h false, s.dev.trainFail_memoryKept _ _, rfl,
        wordsKept_setStkStat 4 (Safety.wordsKept_refl _ _) rfl, Dev.stkState_setState _ _ (by decide), rfl⟩
    case busy =>
      obtain ⟨ch, hch, hne⟩ := hbusy
      refine execRetrainDone_of_busy ⟨ch, hch, fun ⟨hr, hw, hin⟩ => ?_⟩
      exact hne.elim (· hr) (·.elim (· hw) (· hin))
    case retrained =>
      obtain ⟨heq, hkept, hstate, hchan, hother⟩ := (s.dev.modChans t.val McChan.reopened).trainedStack_spec t.val rfl
      refine ⟨_, execRetrainDone_of_retraining h hempty true, (Dev.onlyChans_modChans _ _ _).trans heq, ?_, hstate,
        fun ch c hch hc => ?_, fun j hj => ?_⟩
      · exact Safety.wordsKept_trans (Safety.wordsKept_of_regs _ (Dev.regs_modChans _ _ _)) hkept
      · subst hc
        exact (hchan ch hch).trans (by rw [Dev.mc_modChans _ _ _ hch, McChan.released_reopened (hempty ch hch)])
      · exact (hother j hj).trans (Dev.mc_modChans_ne _ _ _ hj)
    case refailed =>
      refine ⟨_, (s.dev.modChans t.val McChan.reopened).set (pStk t.val) fSTK_STAT_STATE 0 4,
        execRetrainDone_of_retraining h hempty false, fun a => ?_,
        (Dev.onlyChans_modChans _ _ _).trans (Dev.onlyChans_set _ _ _ _ _), Dev.stkState_setState _ _ (by decide), rfl⟩
      rw [if_neg (by decide), Dev.trainFail_memoryKept _ t.val mask.toNat a, Dev.modChans_eq]
  case zero =>
    subst hp hq
    refine ⟨fun hw ok hok => ⟨fun h => ?started, fun h => ?refused⟩,
      fun lo hlo => ⟨execZerouDone_of_not_idle hlo, fun hbusy hidle hwait => ?done⟩⟩
    case started =>
      have hexec := execZerou_of_writable hw
      rw [stkCmd_zerou _ _ hu, (Dev.zeroRefused_eq_false_iff _ _ _).mpr (hok.mp h), if_neg (by decide)] at hexec
      obtain ⟨heq, hkept, hz, hstate⟩ := s.dev.zeroing_spec t.val u rfl
      obtain ⟨-, -, hready, -⟩ := hok.mp h
      exact ⟨_, _, hexec, Safety.memoryKept_of_mem_eq (Dev.flushRange_mem _ _ _ _), heq, hkept, hz, hstate.trans hready, rfl⟩
    case refused =>
      have hrefused : s.dev.zeroRefused t.val u = true :=
        Bool.not_eq_false _ ▸ fun hf => h (hok.mpr ((Dev.zeroRefused_eq_false_iff _ _ _).mp hf))
      have hexec := execZerou_of_writable hw
      rw [stkCmd_zerou _ _ hu, hrefused, if_pos rfl] at hexec
      obtain ⟨heq, hkept, -, hill, hz⟩ := s.dev.stkRefused_spec t.val rfl
      exact ⟨_, hexec, heq, hkept, hill, hz⟩
    case done =>
      refine ⟨_, _, execZerouDone_of_idle hlo hbusy hidle hwait, rfl, fun hkeys => ?_, Dev.zbusy_cleared _ _, fun a => ?_⟩
      · exact wordsKept_setStkStat 0 (Dev.wordsKept_zeroLines hkeys _) rfl
      · rw [Dev.set_mem, Dev.read_zeroLines, Dev.flushRange_mem]

end Sys2Proof.Machine
